-- ==== Sys2Proof/Word.lean ====
section
/-!
DEFINITION. The engine's words: a register and a core's data word are 32 bits (R12, R94), a memory cell is a byte.
-/
namespace Sys2Proof

/-- A register's or a core's 32-bit word (R12, R94). -/
abbrev Word := BitVec 32

/-- One byte of fabric memory, of flash or of a frame. -/
abbrev Byte := BitVec 8

/-- A Boolean as the bit 0 or 1. -/
abbrev bit (b : Bool) : Nat := if b then 1 else 0

end Sys2Proof
end

