-- ==== Sys2Proof/Machine/Blocks.lean ====
section
/-!
DEFINITION. What each block of the engine holds beside its registers, as plain data, with its value in RESET; and the data that
commands carry.
-/
namespace Sys2Proof

/-- The route a register write arrives by, as the journal numbers it (R352, R367): 0 PCIe, 1 TWT, 2 in-band, 3 MGP,
4 twin link; the boot engine's writes (R382) are not journalled. (DESIGN CHOICE, log entry 62.) -/
inductive Route where
  | pcie | twt | inband | mgp | twin | boot
  deriving DecidableEq, Repr

/-- One Rapid transaction of a locked sequence (R334, R337): its address and, for a write, the bytes and their enables. -/
inductive Beat where
  | read (addr : BitVec 40) (len : Nat)
  | write (addr : BitVec 40) (bytes : List (Option Byte))
  deriving DecidableEq, Repr

/-- What a port receives (R194): an ordinary or express frame; a frame reassembled from mPackets; a reassembly error; a verify
or a respond mPacket. -/
inductive RxKind where
  | frame | mpacket | smdErr | verify | respond
  deriving DecidableEq, Repr

end Sys2Proof

namespace Sys2Proof.Machine

/-- Sparse data by number: (key, value) pairs, keys strictly rising, no entry equal to what an unlisted key reads as. -/
abbrev Sparse (w : Nat) := List (Nat × BitVec w)

/-! ## System, straps and fuses -/

/-- The engine states of R35. -/
inductive EngState where
  | reset | load | check | prepare | runUnlocked | runLocked | standby | safe
  deriving DecidableEq, Repr

/-- The straps of R372, as sampled at the last reset release. -/
structure Straps where
  bootFlash : Bool
  twtAddr : Fin 4
  ctrlPort : Fin 8
  twinRole : Bool
  deriving DecidableEq, Repr

/-- The fuses: the variant's index (R2), the die step and grade (R6, R7), and whether the key-hash fuse (R378) and the
in-band key fuse (R360) are programmed. -/
structure Fuses where
  variant : Fin 12
  stepMajor : Fin 16
  stepMinor : Fin 16
  gradeInd : Bool
  keyHash : Bool
  ibKey : Bool
  deriving DecidableEq, Repr

/-- The states of the TAP controller (R448: IEEE 1149.1). -/
inductive TapState where
  | testLogicReset | runTestIdle
  | selectDr | captureDr | shiftDr | exit1Dr | pauseDr | exit2Dr | updateDr
  | selectIr | captureIr | shiftIr | exit1Ir | pauseIr | exit2Ir | updateIr
  deriving DecidableEq, Repr

/-- The TAP's instructions (R448). -/
inductive TapInstr where
  | bypass | idcode | samplePreload | extest
  deriving DecidableEq, Repr

/-- The test pins and the TAP (R448): TEST_EN, TRST_N, the controller, its instruction, the bits of the register that shifts, the one
nearest TDO first, and what the boundary-scan register last took at Update-DR. -/
structure TapS where
  testEn : Bool
  trstN : Bool
  state : TapState
  ir : TapInstr
  shift : List Bool
  cells : List Bool
  deriving DecidableEq, Repr

/-- What falls due at a boundary counted from the acceptance of a write (R464). -/
inductive Action where
  | coreRestart (c : Fin 16)
  | pwmClear (ch : Nat)
  | phaseStep (d : Int)
  | kilnAlign
  | standbyEnter
  | safeRelease
  | twinYield
  deriving DecidableEq, Repr

/-- The system block (R35, R46): the state, engine time, the time since power-on, what is due at coming boundaries.
`et` and `up` count cycles of the Kiln VCO (1/1,966,080,000 s); `up` is not moved by a time set.
`bnd` counts the period boundaries passed. `dataPlane`: it runs; `idle`: engine time has been set and stands before the next
boundary of its grid (R42); `tempSeen`: a temperature has been measured (R454); `stbyEntry`: entry into STANDBY is under way
(R385). -/
structure SysS where
  state : EngState
  et : Nat
  up : Nat
  bnd : Nat
  dataPlane : Bool
  idle : Bool
  tempSeen : Bool
  stbyEntry : Bool
  straps : Straps
  fuses : Fuses
  sched : List (Nat × Action)
  deriving DecidableEq, Repr

/-! ## The boot engine and the flash (chapter 16) -/

/-- A section of the image's table (R376). -/
structure Section where
  kind : Nat
  offset : Nat
  size : Nat
  target : Nat
  scrc : Nat
  deriving DecidableEq, Repr

/-- The boot engine (R374 to R383, R387): the slots still to try in this start, the one under way first (false A, true B);
the slot a software reset forces first (R380); the sections still to apply, from that slot; the start checks have run in this PREPARE (R383); this PREPARE follows a wake (R386);
the MGP firmware's place in the flash; the flash operation under way (op, address, status); the flash's size. -/
structure BootS where
  cand : List Bool
  slot : Bool
  forced : Nat
  sections : List Section
  checked : Bool
  waking : Bool
  mgpFirmware : List (Nat × Nat)
  flOp : Option (Nat × Nat × Word)
  flashSize : Nat
  deriving DecidableEq, Repr

/-! ## The fault queue, the watchdogs and the MGP (chapter 17) -/

/-- A fault as it is raised in a command: class, source block, code, detail (R391, R413). -/
structure Raised where
  cls : Nat
  blk : Nat
  code : Nat
  detail : Nat
  deriving DecidableEq, Repr

/-- An unread record of the queue (R391, R394): the slot it stands in and the time since power-on of its raising. -/
structure FaultRec where
  cls : Nat
  blk : Nat
  code : Nat
  detail : Nat
  count : Nat
  stale : Bool
  pnl : Nat
  wt : Nat
  slot : Nat
  up : Nat
  deriving DecidableEq, Repr

/-- The fault block: the unread records, oldest first; the faults raised in the command under way; the class-3 faults
raised since the last boundary; the safe reaction; the watchdogs, with the last start of the host's (R404, R405); the MGP mailbox (R408 to R412). -/
structure FltS where
  queue : List FaultRec
  raised : List Raised
  c3 : List (Nat × Nat)
  safeRamp : Bool
  wdogRun : Bool
  wdogUp : Nat
  mgpRun : Bool
  mgpExpiry : List Nat
  mgpTag : Nat
  mbOut : List (List Word)
  mbHeld : List (List Word)
  clockAttr : List (Nat × Word × Word)
  memHi : Word
  deriving DecidableEq, Repr

/-! ## Host interface (chapter 15) -/

/-- A fixed commit: its seq, its target PN, the content it applies, the period at whose boundary it was fixed (R364). -/
structure Fixed where
  seq : Nat
  target : Nat
  content : List (Nat × Word)
  at_ : Nat
  deriving DecidableEq, Repr

/-- A commit group's open commit (seq and target PN) and fixed commit (R364), with a held one that was merged into it (R37). -/
structure CommitGroup where
  openC : Option (Nat × Nat)
  fixed : Option Fixed
  merged : Option Fixed
  deriving DecidableEq, Repr

/-- Where an in-band answer goes: the requester's MAC address and tag, IP version and address, the address it had asked, its UDP port. -/
structure IbPeer where
  mac : Nat
  tag : Option (Nat × Nat)
  v6 : Bool
  ip : Nat
  me : Nat
  udp : Nat
  deriving DecidableEq, Repr

/-- An answer of the in-band decoder that waits to be sent (R361). -/
structure IbAnswer where
  port : Nat
  peer : IbPeer
  op : Nat
  ctr : Nat
  rid : Nat
  entries : List (Nat × Word)
  deriving DecidableEq, Repr

/-- The host interface: commits, journal (newest first, at most 1,024), in-band replay window, interrupt levels, and
the two-wire target's status bits. -/
structure HifS where
  groups : Vector CommitGroup 32
  journal : List (List Word)
  jUp : List Nat
  jseq : Nat
  ibHigh : Option Nat
  ibSeen : List Nat
  answers : List IbAnswer
  twtRefused : Bool
  twtPec : Bool
  deriving DecidableEq, Repr

/-- The interrupt lines: the source levels last seen, the MSI-X pending bits, HOST_INT_N driven low (R370). -/
structure IrqS where
  prev : Word
  pba : Word
  low : Bool
  rearm : Word
  deriving DecidableEq, Repr

/-! ## The Stoteter cores (chapters 4 and 5) -/

/-- An accumulator (R94, R108). -/
structure Acc where
  acc : BitVec 80
  wc : Int
  lost : Bool
  deriving DecidableEq, Repr

/-- The accumulator at zero. -/
def Acc.zero : Acc := ⟨0, 0, false⟩

/-- One register bank of a core (R94). -/
structure Bank where
  d : Vector Word 32
  a : Vector Acc 8
  p : Vector Word 16
  m : Vector Word 16
  cb : Vector Word 8
  cl : Vector Word 8
  lcnt : Vector Word 3
  ltop : Vector (BitVec 16) 3
  lend : Vector (BitVec 16) 3
  lsp : Fin 4
  sr : Word
  lr : BitVec 16
  deriving DecidableEq, Repr

/-- Every register of a bank zero (R93). -/
def Bank.zero : Bank where
  d := Vector.replicate 32 0
  a := Vector.replicate 8 Acc.zero
  p := Vector.replicate 16 0
  m := Vector.replicate 16 0
  cb := Vector.replicate 8 0
  cl := Vector.replicate 8 0
  lcnt := Vector.replicate 3 0
  ltop := Vector.replicate 3 0
  lend := Vector.replicate 3 0
  lsp := 0
  sr := 0
  lr := 0

/-- What an instruction writes: a data register, a control register by its number of R96, an accumulator (`fwd`: by an
instruction whose result an accumulating instruction may take early, R104), the four flags, or sticky bits of SR. -/
inductive CWrite where
  | d (n : Fin 32) (v : Word)
  | ctl (cr : Nat) (v : Word)
  | acc (n : Fin 8) (v : Acc) (fwd : Bool)
  | flags (z n c v : Bool)
  | sticky (mask : Word)
  deriving DecidableEq, Repr

/-- A result on its way (R103): cycles to go and the bank it goes to. -/
structure InFlight where
  left : Nat
  bank1 : Bool
  w : CWrite
  deriving DecidableEq, Repr

/-- The unit classes of R102; TAPM is a MAC instruction that also takes both load/store places. -/
inductive UnitClass where
  | alu | ls | mac | tapm | fp | ctl
  deriving DecidableEq, Repr

/-- What a word of a group does to the flow of control. -/
inductive CtlEff where
  | none
  | jump (t : Word) (pops link : Bool)
  | notTaken
  | rte1
  | rte2
  | loop (cnt : Word) (lend : Word)
  | brk
  | idle
  | fence
  deriving DecidableEq, Repr

/-- All that one word of a group does, computed from the registers as they stand when the group issues: its unit class,
the registers it writes (as keys), whether it writes the flags or branches, the faults it meets, its results with their
latencies, the local ranges it loads, the local bytes it stores, its effect on the flow, and the MAC lanes it uses. -/
structure WordEff where
  cls : UnitClass
  dests : List Nat
  flagW : Bool := false
  branching : Bool := false
  illegal : Bool := false
  access : Bool := false
  loopOvf : Bool := false
  twoCycle : Bool := false
  writes : List (Nat × CWrite) := []
  loads : List (Nat × Nat) := []
  stores : List (Nat × List Byte) := []
  ctl : CtlEff := .none
  lanes : Nat := 0
  deriving DecidableEq, Repr

/-- Whether a core is stopped, runs, is idle (R127), halted (R124) or stopped by a fault. -/
inductive CoreRun where
  | stopped | running | idle | halted | faulted
  deriving DecidableEq, Repr

/-- Where a group in a delay slot returns to (R105): the target of a taken branch, or a return from an event. -/
inductive SlotTo where
  | fall
  | goto (t : Word)
  | rte1
  | rte2
  deriving DecidableEq, Repr

/-- What the tagger accounts for the group issued last (R436). -/
structure TagAcct where
  pc : Nat
  level : Nat
  pnl : Nat
  cyc : Nat
  fetch : Nat
  second : Nat
  fence : Nat
  entry : Nat
  stalled : Nat
  idle : Nat
  words : Nat
  classes : Nat
  exec : Nat
  deriving DecidableEq, Repr

/-- A Stoteter core. `pc` is the address of the next group: PC is its bits [15:0], and an address of 2^16 or more lies outside program
memory (R94, R99). `haltCmd`: a halt written to CORE_CTRL has not had its effect. -/
structure Core where
  run : CoreRun
  level : Fin 3
  l1from : Fin 3
  bank0 : Bank
  bank1 : Bank
  pc : Word
  cr : Word
  epc1 : Word
  epc2 : Word
  esr2 : Word
  vbase : Word
  cyc : Nat
  flight : List InFlight
  group : List (Vector WordEff 4)
  slot : Option SlotTo
  stLeft : Nat
  bell : Bool
  slice : Bool
  evDebug : Bool
  evMbox : Bool
  evDma : Bool
  haltReq : Bool
  haltCmd : Bool
  stepping : Bool
  wasIdle : Bool
  overruns : Nat
  l1peak : Nat
  sinceBell : Option Nat
  accFence : Nat
  accEntry : Nat
  accStall : Nat
  accIdle : Nat
  acct : TagAcct
  lfsr : BitVec 16
  tagLeft : Nat
  deriving DecidableEq, Repr

/-- No group issued yet. -/
def TagAcct.zero : TagAcct := ⟨0, 0, 0, 0, 0, 0, 0, 0, 0, 0, 0, 0, 0⟩

/-- A stopped core. -/
def Core.off : Core where
  run := .stopped
  level := 0
  l1from := 0
  bank0 := Bank.zero
  bank1 := Bank.zero
  pc := 0
  cr := 0
  epc1 := 0
  epc2 := 0
  esr2 := 0
  vbase := 0
  cyc := 0
  flight := []
  group := []
  slot := none
  stLeft := 0
  bell := false
  slice := false
  evDebug := false
  evMbox := false
  evDma := false
  haltReq := false
  haltCmd := false
  stepping := false
  wasIdle := false
  overruns := 0
  l1peak := 0
  sinceBell := none
  accFence := 0
  accEntry := 0
  accStall := 0
  accIdle := 0
  acct := TagAcct.zero
  lfsr := 0
  tagLeft := 0

/-- A DMA transfer that the engine has taken (R142): its descriptor's local address, fields, the boundary count at
which it was taken, the beats its budget has still to grant, whether it has been reported late (R144). -/
structure DmaX where
  desc : Nat
  addr : Nat
  toFabric : Bool
  irq : Bool
  len : Nat
  tun : Nat
  bnd : Nat
  left : Nat
  late : Bool
  deriving DecidableEq, Repr

/-- How Mash presents a core's returns (R134 to R136): as taken, fading out at sample i, held at zero, waiting for the
first sealed pass after a restart, fading in at sample i. -/
inductive RetFade where
  | full
  | out (i : Nat)
  | zero
  | wait
  | rise (i : Nat)
  deriving DecidableEq, Repr

/-- What the engine holds of a core's channels: overrun history, header and parameter bookkeeping, returns, DMA rings. -/
structure CoreIo where
  lastOvr : Option Nat
  ovrNow : Bool
  taken : List (List Int)
  cur : List (List Int)
  fade : RetFade
  written : List Nat
  copying : List Nat
  hdr : Option Bool
  postponed : Bool
  rtHead : Nat
  beHead : Nat
  rt : List DmaX
  be : List DmaX
  deriving DecidableEq, Repr

/-- Nothing under way. -/
def CoreIo.zero : CoreIo where
  lastOvr := none
  ovrNow := false
  taken := []
  cur := []
  fade := .full
  written := []
  copying := []
  hdr := none
  postponed := false
  rtHead := 0
  beHead := 0
  rt := []
  be := []

/-! ## Fabric, Sieve and the power arbiter (chapter 14) -/

/-- A standing error of a 64-bit word of Larder or Tun, or of a 64-byte granule of Cask (R407, R319). -/
structure Upset where
  word : Nat
  hard : Bool
  deriving DecidableEq, Repr

/-- What a PCIe atomic of BAR2 does with the word it reads (R356). -/
inductive Atomic where
  | fetchAdd (v : BitVec 64)
  | swap (v : BitVec 64)
  | cas (cmp v : BitVec 64)
  deriving DecidableEq, Repr

/-- What waits for a budget or an allowance (R342, R346): a beat of the host bridge (R355) or of the MGP, an atomic of BAR2
(R356), or a locked sequence, with the point at which its lock is broken (R338). -/
inductive Wait where
  | beat (act : Nat) (b : Beat)
  | atomic (addr : Nat) (wide : Bool) (op : Atomic) (broken : Bool)
  | seq (mgp : Bool) (bs : List Beat) (cut : Option Nat)
  deriving DecidableEq, Repr

/-- Where a record goes: the timestamp log (R248), the tag ring, from the tagger of a core (R435), the dump ring (R438). -/
inductive RingSink where
  | log
  | tag (c : Fin 16)
  | dump
  deriving DecidableEq, Repr

/-- What follows the last beat of a piece of ring work: receive ring q has a frame, or a ring a record, that was captured at `up`; the descriptor
under way of transmit ring q has its status. -/
inductive RingEnd where
  | rx (q : Fin 4) (up : Nat)
  | tx (q : Fin 4)
  | record (k : RingSink) (up : Nat)
  deriving DecidableEq, Repr

/-- Work of the ring engines that waits for a budget or an allowance (R342, R346): a frame of port p for receive ring q, with its bytes, word 2 of
its descriptor but for len and short_buf, the words 3 to 5, its capture; the descriptor of transmit ring q to be fetched; its frame, of which
some bytes are fetched; a record; beats that are left to be written. -/
inductive RingWork where
  | rx (q : Fin 4) (p : Nat) (b : List Byte) (w2 : Nat) (tail : List Byte) (up : Nat)
  | tx (q : Fin 4)
  | fetch (q : Fin 4) (d got : List Byte) (left : List Beat)
  | record (k : RingSink) (bs : List Byte) (up : Nat)
  | write (left : List Beat) (fin : RingEnd)
  deriving DecidableEq, Repr

/-- The fabric: beats granted this period by 4 · activity + class, slack drawn by class, demotions already reported this period, the
time since power-on of each target's last lock grant, what waits of the host bridge and the MGP, of the dump engine and the taggers
(activity 38) and of the local-port rings and the timestamp log (39), the arbiter's start and requests. -/
structure FabS where
  used : List (Nat × Nat)
  slack : List (Nat × Nat)
  demoted : List Nat
  lockAt : List (Nat × Nat)
  waiting : List Wait
  dumpWork : List RingWork
  ringWork : List RingWork
  start : Nat
  req : BitVec 21
  warn : Bool
  upsets : List Upset
  deriving DecidableEq, Repr

/-! ## Performance counters (chapter 19) -/

/-- A snapshot that has not been written (R437, R439), with the time since power-on of its boundary (R56). -/
structure Snapshot where
  seq : Nat
  pn : Nat
  wt : Nat
  flags : Nat
  interval : Nat
  counters : List Word
  bw : List Word
  up : Nat
  deriving DecidableEq, Repr

/-- The counter block: running byte counts of the monitors (none: waiting for an aligned boundary), the latched odd
counters, the snapshot buffer, the records in the rings with the time of their making, what the next record reports. -/
structure PerfS where
  bw : List (Option Nat)
  latch : List (Nat × Word)
  snap : Option Snapshot
  dumpRing : Nat × Nat
  tagRing : Nat × Nat
  dumpUp : List (Nat × Nat)
  missed : Nat
  setSeen : Bool
  stopSeen : Bool
  deriving DecidableEq, Repr

/-! ## Cask (chapter 13) -/

/-- A granule that a capture channel collects (R324): the channel, the index of its first sample, the words collected so
far, whether it has been found late (R330). -/
structure CapGranule where
  ch : Nat
  x0 : Int
  words : List (Option Word)
  late : Bool
  deriving DecidableEq, Repr

/-- A granule that a playback channel fetches (R325): the channel, the index of its first sample, its Cask offset, the
words as they stood when the fetch reads them, whether the fetch has completed. -/
structure PlayGranule where
  ch : Nat
  x0 : Int
  off : Nat
  words : List Word
  done : Bool
  deriving DecidableEq, Repr

/-- Cask: the refresh multiplier in force of each channel in quarters (R315), the next physical granule each channel's
scrubber reads (R321), the times of the last corrections (R319), real-time traffic admitted (R328), an uncorrectable
error met by a real-time read (R301, R320), self-refresh, the zero fill of R317 done, CASK_ECC_ADDR_HI as latched, and the granules of capture and playback under way. -/
structure CaskS where
  mult : Vector Nat 2
  scrubAt : Vector Nat 2
  corrUp : Vector (List Nat) 2
  rt : Bool
  rtErr : Bool
  selfRefresh : Bool
  filled : Vector Bool 2
  eccHi : Word
  cap : List CapGranule
  play : List PlayGranule
  deriving DecidableEq, Repr

/-- Cask in RESET. -/
def CaskS.reset : CaskS where
  mult := Vector.replicate 2 4
  scrubAt := Vector.replicate 2 0
  corrUp := Vector.replicate 2 []
  rt := false
  rtErr := false
  selfRefresh := false
  filled := Vector.replicate 2 false
  eccHi := 0
  cap := []
  play := []

/-! ## Mash and Whisk (chapter 3) -/

/-- A ramp of R78: from s0 to s1 over T samples, linear in dB when db; t0 is the sample count of its sample 0. -/
structure Ramp where
  s0 : Int
  s1 : Int
  T : Nat
  db : Bool
  t0 : Nat
  deriving DecidableEq, Repr

/-- A path as an entry's committed words give it: source, destination, signed gain, ramp time, law, fade law. -/
structure XpRoute where
  src : Nat
  dst : Nat
  g : Int
  T : Nat
  db : Bool
  lin : Bool
  deriving DecidableEq, Repr

/-- A crosspoint entry that is enabled or still ramping: its committed route in force (none: disabled), the path it
carries, the ramp of its signed gain, the fade-in of a route change (start, time, linear), the route a dip waits to take,
whether it fades in after a dip, and the slot that holds its old path. -/
structure XpEnt where
  e : Nat
  cur : Option XpRoute
  src : Nat
  dst : Nat
  r : Ramp
  fin : Option (Nat × Nat × Bool)
  pend : Option XpRoute
  dipIn : Bool
  slot : Option Nat
  deriving DecidableEq, Repr

/-- A transition slot in use (R79): its number, the entry it serves, the old path, its signed gain and its fade. -/
structure XpSlot where
  slot : Nat
  e : Nat
  src : Nat
  dst : Nat
  g : Int
  T : Nat
  lin : Bool
  t0 : Nat
  deriving DecidableEq, Repr

/-- A destination's trim and mute ramps and the factors of the three reactions of R75 (none: not acting). -/
structure DstW where
  d : Nat
  trim : Ramp
  mute : Ramp
  eng : Option Ramp
  safe : Option Ramp
  prot : Option Ramp
  deriving DecidableEq, Repr

/-- A conditioning unit (R69 to R72): the state of its filters, the bits it last took, its output weights at sample 0 of
the crossfade, the selection it goes to, the crossfade's start. -/
structure CondU where
  src : Nat
  x1 : Int
  y1 : Int
  h1 : Int
  h2 : Int
  g1 : Int
  g2 : Int
  err : Int
  bits : Nat
  w0 : Int × Int × Int
  sel : Nat
  t0 : Nat
  deriving DecidableEq, Repr

/-- A delayed destination (R85 to R90): its region in samples, the position p in 2^-16 sample, the target, the crossfade
under way (target, start and time), the target held meanwhile, the delay words last taken. -/
structure DlyU where
  d : Nat
  base : Nat
  len : Nat
  p : Int
  tgt : Int
  xf : Option (Int × Nat × Nat)
  held : Option Int
  raw : Word
  deriving DecidableEq, Repr

/-- Mash: whether it runs; the sample count at sample 0 of the pass; how far the pass is (0 none, 1 started, 2 past the
send point, 3 past the return point); crosspoints, slots, destinations, conditioning, delays; the delay pool by sample; the
sources of the pass; the sends formed; the returns of the pass and of the one before; the destination samples of the pass
that has ended, those presented in this period, those presented in the one before. -/
structure MashS where
  run : Bool
  base : Nat
  phase : Nat
  ents : List XpEnt
  slots : List XpSlot
  dsts : List DstW
  conds : List CondU
  dlys : List DlyU
  pool : Sparse 32
  src : List (Nat × List Int)
  sends : List (Nat × List Int)
  rets : List (Nat × List Int)
  prevRets : List (Nat × List Int)
  out : List (Nat × List Int)
  pres : List (Nat × List Int)
  prev : List (Nat × List Int)
  deriving DecidableEq, Repr

/-- Mash stopped. -/
def MashS.reset : MashS where
  run := false
  base := 0
  phase := 0
  ents := []
  slots := []
  dsts := []
  conds := []
  dlys := []
  pool := []
  src := []
  sends := []
  rets := []
  prevRets := []
  out := []
  pres := []
  prev := []

/-! ## Local I/O (chapter 6) -/

/-- A frame: for each port of the group, the 32-bit slots with the word aligned to the top. -/
abbrev TdmFrame := List (List Word)

/-- A frame as a group drives it: none is high impedance (R154). -/
abbrev TdmOut := List (List (Option Word))

/-- What a group's balls carry in a frame (R152): TDM_FS in each bit-clock cycle from the frame start, none where it comes from
outside; the bit-clock cycles before the MSB of slot 0; whether data changes on the rising edge of TDM_BCLK; the bits of each port from the
MSB of slot 0 on; and how far the frame start lags its grid instant, in VCO cycles (R277). -/
structure TdmWire where
  fs : List Bool
  lead : Nat
  rise : Bool
  bits : List (List (Option Bool))
  lag : Nat
  deriving DecidableEq, Repr

/-- The clocks that a master group drives (R155, R156), as fractions of integers in Hz. -/
structure TdmClk where
  bclk : Nat × Nat
  fs : Nat × Nat
  mclk : Option (Nat × Nat)
  deriving DecidableEq, Repr

/-- A TDM group: running; its master clocks driven; frames taken in this period; the elastic buffer's input and output
frames, and whether it fills (R157); the last frame received and the last taken; frame starts arrive; consecutive framing errors and good
frames (R158); samples since clk_ok fell or returned (none: no fade under way), and the level in 64ths that the fade to zero began at. -/
structure XioGrp where
  run : Bool
  clk : Bool
  cnt : Nat
  inq : List TdmFrame
  outq : List TdmOut
  filling : Bool
  recv : TdmFrame
  last : TdmFrame
  alive : Bool
  errs : Nat
  good : Nat
  loss : Option Nat
  rise : Option Nat
  lvl : Nat
  deriving DecidableEq, Repr

/-- A group that is stopped. -/
def XioGrp.off : XioGrp := ⟨false, false, 0, [], [], false, [], [], false, 0, 0, none, none, 0⟩

/-- A rate bridge that runs: locked, output samples since it locked or unlocked, the level in 1024ths at which it unlocked; its input
samples, the latest first, and how many of them came since it unlocked. -/
structure BridgeU where
  b : Nat
  locked : Bool
  n : Nat
  lvl : Nat
  hist : List Int
  late : Nat
  deriving DecidableEq, Repr

/-- Local I/O. -/
structure XioS where
  grp : Vector XioGrp 4
  bridges : List BridgeU
  deriving DecidableEq, Repr

/-- Local I/O in RESET. -/
def XioS.reset : XioS := ⟨Vector.replicate 4 XioGrp.off, []⟩

/-! ## Streams (chapter 9) -/

/-- A slot of the jitter store (R228): the source channel, the period of its tag, the samples with their valid bits. -/
structure StoreSlot where
  src : Nat
  m : Nat
  v : List (Option Word)
  deriving DecidableEq, Repr

/-- Sequence recovery of an ingress context (R230, R231): the candidate generations by path with their counts; hist; the
rogue run; periods without an accepted frame; a frame accepted in this period. -/
structure InCtx where
  i : Nat
  takeAny : Bool
  hist : Word
  rogue : Nat
  candA : Nat × Nat
  candB : Nat × Nat
  idle : Nat
  got : Bool
  deriving DecidableEq, Repr

/-- A channel's substitution (R232, R233): the value before the run, the missing samples of the run, samples accepted since
the run (32: none), the last presented value. -/
structure ChSub where
  ch : Nat
  v : Int
  miss : Nat
  acc : Nat
  last : Int
  deriving DecidableEq, Repr

/-- The stream engine: running; the ingress contexts in force; the substitution of their channels; the jitter store; the
egress contexts that have taken a generation since reset; the AES67 packets under way (context, RTP sequence number, the samples so
far) (R235). -/
structure SxeS where
  run : Bool
  ins : List InCtx
  chs : List ChSub
  store : List StoreSlot
  gens : List Nat
  pack : List (Nat × Nat × List (List Int))
  deriving DecidableEq, Repr

/-- The stream engine in RESET. -/
def SxeS.reset : SxeS := ⟨false, [], [], [], [], []⟩

/-! ## Modulators (chapter 7) -/

/-- What a modulator's bridge does: all gates at 0; freewheel-low; a carrier cycle whose demand is not known yet, before its legs rise; a
carrier cycle of L CLK_PWM cycles with the legs' high times (R171); freewheel-low until the carrier cycle ends (R179). -/
inductive PwmDrive where
  | off
  | freewheel
  | begin
  | pulse (L hA hB : Nat)
  | cut
  deriving DecidableEq, Repr

/-- The levels of PWM_AHc, PWM_ALc, PWM_BHc and PWM_BLc (R169). -/
structure PwmGates where
  ah : Bool
  al : Bool
  bh : Bool
  bl : Bool
  deriving DecidableEq, Repr

/-- A demand that waits for the samples of the period after next: the cycle's length, the sample and the position within it at its
centre, the start gain, the limiter gain and the rail scale it started with (R172, R173). -/
structure PwmLate where
  L : Nat
  n : Nat
  f : Nat
  sg : Nat
  lg : Nat
  ff : Nat
  deriving DecidableEq, Repr

/-- A modulator channel: the carrier cycle's number (none: the next cycle takes it from engine time, R466), the carrier cycles
elapsed, the period in which the cycle started and the first cycle of each of the last periods, by cycles elapsed; the bridge, the time
since power-on at which the cycle started, the times at which the legs last fell (R169), a demand that waits; the shaper's errors
(R172); the start gain at the ramp's start and the cycles since; pk (R176); the time at which the boot count started (R177); the trips
of the window as cycles elapsed and whether this cycle has tripped (R179, R180); a latch-off that waits for its agreement (R185), a
latch-off reaction due at the next boundary, the boundary of the last one; a retry that waits for its run conditions; the boundary
at which the retry window started, or that it waits for run (R184); a retry has succeeded since the last latch-off, with the whole
periods of run since, in run at the last boundary (R181); in twin mode the trips of both twins by (period, index in it) that wait for
their agreement, and the agreed ones by cycles elapsed, newest first (R185). -/
structure PwmCh where
  j : Option Nat
  elapsed : Nat
  per : Nat
  firsts : List (Nat × Nat)
  drive : PwmDrive
  cycUp : Nat
  fell : Nat × Nat
  late : Option PwmLate
  errs : List Int
  sg0 : Nat
  k : Nat
  pk : Nat
  bootUp : Nat
  trips : List Nat
  tripped : Bool
  latchWait : Bool
  protDue : Bool
  latchBnd : Nat
  retryDue : Bool
  winBnd : Nat
  winWait : Bool
  won : Bool
  runP : Nat
  wasRun : Bool
  union : List (Nat × Nat)
  window : List Nat
  deriving DecidableEq, Repr

/-- A channel in off. -/
def PwmCh.reset : PwmCh where
  j := none
  elapsed := 0
  per := 0
  firsts := []
  drive := .off
  cycUp := 0
  fell := (0, 0)
  late := none
  errs := [0, 0, 0, 0, 0]
  sg0 := 0
  k := 0
  pk := 0
  bootUp := 0
  trips := []
  tripped := false
  latchWait := false
  protDue := false
  latchBnd := 0
  retryDue := false
  winBnd := 0
  winWait := false
  won := false
  runP := 0
  wasRun := false
  union := []
  window := []

/-- The modulators. -/
abbrev PwmS := Vector PwmCh 24

/-! ## Messages of the twin link (R285, R291, R293, R304, R305) -/

/-- A record of a mirror frame (R291): the channel, the kind (0 samples, 1 trips), PNL of the period, the valid mask or the number
of carrier cycles, the samples or the trip bits. -/
structure MirRec where
  id : Nat
  kind : Nat
  pnl : Word
  mask : Word
  words : List Word
  deriving DecidableEq, Repr

/-- What an agreement frame carries (R293). -/
structure Agree where
  count : Nat
  digest : BitVec 64
  flagged : Bool
  state : Fin 7
  role : Bool
  leader : Bool
  faultRec : Bool
  c3 : Bool
  variant : BitVec 16
  gen : Word
  hcrc : Word
  sel : Fin 16
  jseq : Nat
  deriving DecidableEq, Repr

/-- The name of an item of the transfer set (R304): Mash's sample count against the grid; a 64-byte line of fabric memory; a
register; a commit group; a core; a core's channels; a crosspoint, slot, destination, conditioning unit or delay of Mash; a sample of
the delay pool; an ingress context or stream channel; an egress context; a modulator channel. (DESIGN CHOICE, log entry 41.) -/
inductive XferKey where
  | base
  | mem (addr : Nat)
  | reg (addr : Nat)
  | group (g : Nat)
  | core (c : Nat)
  | cio (c : Nat)
  | ent (e : Nat)
  | slot (k : Nat)
  | dst (d : Nat)
  | cond (i : Nat)
  | dly (d : Nat)
  | pool (i : Nat)
  | ctx (i : Nat)
  | chan (ch : Nat)
  | eg (i : Nat)
  | pwm (c : Nat)
  | field (addr lo w : Nat)
  deriving DecidableEq, Repr

/-- An item's contents. -/
inductive XferVal where
  | base (d : Int)
  | mem (b : List Byte)
  | reg (cur sh : Word)
  | group (seq : Nat) (g : CommitGroup)
  | core (k : Core)
  | cio (k : CoreIo)
  | ent (x : Option XpEnt)
  | slot (x : Option XpSlot)
  | dst (x : Option DstW)
  | cond (x : Option CondU)
  | dly (x : Option DlyU)
  | pool (w : Word)
  | ctx (x : Option InCtx)
  | chan (x : Option ChSub)
  | eg (gen : Nat) (taken : Bool) (pack : Option (Nat × List (List Int)))
  | pwm (x : PwmCh)
  | field (v : Nat)
  deriving DecidableEq, Repr

/-- A transfer-control message (R303, R305): the re-join request; the start boundary named; items of a batch that the active twin
has written since its capture; the pass under way with the items left in it; the transfer is complete. (DESIGN CHOICE, log entry 42.) -/
inductive XferCtrl where
  | request
  | start (r : Nat)
  | written (q : Nat) (keys : List XferKey)
  | progress (pass left : Nat)
  | done
  deriving DecidableEq, Repr

/-- The payload of a twin-link frame by its kind (R285). -/
inductive TwinMsg where
  | agreement (a : Agree)
  | mirror (l : List MirRec)
  | control (jseq addr : Nat) (data : Word) (target : Nat)
  | transfer (l : List (XferKey × XferVal))
  | xferCtrl (m : XferCtrl)
  | ack
  deriving DecidableEq, Repr

/-- A frame that arrives on the twin link: its bytes before the payload, from the destination address to the end of R285's header; how many
payload bytes follow; whether the FCS is right. -/
structure TwinFrame where
  head : List Byte
  plen : Nat
  fcsOk : Bool
  deriving DecidableEq, Repr

/-- A frame of kinds 0x02 to 0x05 as sent: its lseq, the PN it concerns, what it says, its payload, the time since power-on at which it was last sent (R286). -/
structure TwinSent where
  lseq : Nat
  pn : Nat
  msg : TwinMsg
  payload : List Byte
  up : Nat
  deriving DecidableEq, Repr

/-! ## Ethernet (chapter 8) -/

/-- Where a queued frame comes from, and what its transmission stamps or completes: forwarded, with its ingress timestamp, its
ingress port and what a transparent clock adds beside the residence time (none: it corrects nothing); a transmit ring; a stream frame with its context, path B or A, and
presentation period; a PTP message of the engine; a frame of the twin link; anything else of the engine. -/
inductive FrameSrc where
  | fwd (rx : Int) (port : Nat) (tc : Option Int)
  | ring (q : Nat)
  | stream (ctx : Nat) (pathB : Bool) (pn : Nat)
  | sync (d : Nat)
  | delayReq (d : Nat)
  | pdelayReq
  | pdelayResp (rx : Int)
  | twin (m : TwinMsg)
  | own
  deriving DecidableEq, Repr

/-- A frame whose staging is not in the queue buffer; one that the engine originates. -/
def FrameSrc.staged : FrameSrc → Bool | .stream .. => true | _ => false
def FrameSrc.origin : FrameSrc → Bool | .fwd .. => false | .ring _ => false | _ => true
def FrameSrc.ofTwin : FrameSrc → Bool | .twin _ => true | _ => false

/-- A frame in a queue: from the destination address to the last byte before the FCS; whether it ends with a stomped FCS. -/
structure QFrame where
  bytes : List Byte
  src : FrameSrc
  stomp : Bool
  deriving DecidableEq, Repr

/-- A frame in transmission or preempted: its class; the instant at which the part under way began, in 2^-16 ns of engine time; the bytes
sent before that part (R195). -/
structure TxNow where
  k : Nat
  f : QFrame
  start : Nat
  past : Nat
  deriving DecidableEq, Repr

/-- A gate list: its cycle in periods, its entries as (gates, interval). -/
structure Gcl where
  cyc : Nat
  ents : List (Nat × Nat)
  deriving DecidableEq, Repr

/-- A port: its queues TC0 to TC7; the transmission under way with its class; a preempted one; the gate list in force (none:
every gate open), the entry in force, the list that waits for its boundary (R198); the storm buckets in bytes (R205);
verification attempts (R194). -/
structure EthPort where
  queues : Vector (List QFrame) 8
  tx : Option TxNow
  held : Option TxNow
  gate : Option Gcl
  gidx : Nat
  nextG : Option (Nat × Option Gcl)
  storm : List Nat
  tries : Nat
  deriving DecidableEq, Repr

/-- A port in RESET. (DESIGN CHOICE, log entry 33.) -/
def EthPort.reset : EthPort := ⟨Vector.replicate 8 [], none, none, none, 0, none, [0, 0, 0], 0⟩

/-- An entry of the forwarding table (R202): slot, address, VID, port, static. -/
structure FdbEnt where
  slot : Nat
  mac : Nat
  vid : Nat
  port : Nat
  fixed : Bool
  deriving DecidableEq, Repr

/-- A descriptor ring's engine side: copies of the transmit descriptor's frames not yet sent, its error; the filled
descriptors with the time of their filling. -/
structure RingS where
  busy : Bool
  left : Nat
  err : Nat
  ups : List (Nat × Nat)
  deriving DecidableEq, Repr

/-- Ethernet ports, bridge and local rings; the filled records of the timestamp log with their times, and its base and length as
taken (R248). -/
structure EthS where
  port : Vector EthPort 8
  fdb : List FdbEnt
  ring : Vector RingS 4
  logUps : List (Nat × Nat)
  logAt : Nat × Nat
  deriving DecidableEq, Repr

/-- Ethernet in RESET. -/
def EthS.reset : EthS :=
  ⟨Vector.replicate 8 EthPort.reset, [], Vector.replicate 4 ⟨false, 0, 0, []⟩, [], (0, 0)⟩

/-! ## Network time (chapter 10) -/

/-- A received Sync: sequenceId, source, time sent, corrections, time of arrival; in 2^-16 ns. -/
structure SyncRx where
  seq : Nat
  src : Nat
  t1 : Int
  c1 : Int
  t2 : Int
  deriving DecidableEq, Repr

/-- A received Delay_Req that waits for its Delay_Resp (R250): port, sequenceId, the requesting identity, its correction, its time
of arrival. -/
structure AskRx where
  port : Nat
  seq : Nat
  src : Nat
  corr : Int
  t4 : Int
  deriving DecidableEq, Repr

/-- A domain's servo (R253): mpd, the last accepted e, rej, the last complete Sync, the two-step Syncs that wait; the
Delay_Reqs to answer; the last Delay_Req as sequenceId, its egress time and the Sync before it; sequence numbers of Syncs by port and Delay_Reqs sent; the Syncs
sent that wait for their Follow_Up (port, sequenceId, egress time); the parent as taken; rate_ratio's last Sync; the time since
power-on of the last accepted sample; the last accepted samples, the latest first, as the engine time of t2 and the domain's time against the
LO, with the movement of engine time that the latter counts (R264), and one that Kiln has not measured yet; the high word latched by a read
of LO. -/
structure PtpDom where
  mpd : Int
  eLast : Int
  rej : Nat
  sync : Option SyncRx
  wait : List SyncRx
  asks : List AskRx
  dreq : Option (Nat × Int × Option SyncRx)
  dreqSeq : Nat
  syncSeq : List (Nat × Nat)
  fu : List (Nat × Nat × Int)
  parent : Nat × Nat
  rate : Option (Int × Int)
  accUp : Nat
  hist : List (Int × Int)
  moved : Int
  fresh : Bool
  ofsHi : Word
  deriving DecidableEq, Repr

/-- A domain in RESET. -/
def PtpDom.reset : PtpDom := ⟨0, 0, 0, none, [], [], none, 0, [], [], (0, 0), none, 0, [], 0, false, 0⟩

/-- A port's link delay measurement (R252): the sequence number, the request under way with its egress time; a two-step
response's receipt time and corrections; the last measurements; losses in a row. -/
structure PtpPort where
  seq : Nat
  req : Option (Nat × Int)
  resp : Option (Int × Int × Int)
  lds : List Int
  losses : Nat
  deriving DecidableEq, Repr

/-- Network time: the domains, the ports; the first take done (R256), a set requested for a domain (R256, R257). -/
structure PtpS where
  dom : Vector PtpDom 2
  port : Vector PtpPort 8
  taken : Bool
  want : Option Nat
  deriving DecidableEq, Repr

/-- Network time in RESET. -/
def PtpS.reset : PtpS := ⟨Vector.replicate 2 PtpDom.reset, Vector.replicate 8 ⟨0, none, none, [], 0⟩, false, none⟩

/-! ## Two-wire controllers (chapter 18) -/

/-- How a transaction ends on the bus, as the outside makes it (R418 to R421): every byte acknowledged; the address not
acknowledged; the n-th byte that the controller sends after it, from 1, not acknowledged; arbitration lost after n bytes. -/
inductive TwcEnd where
  | acked
  | nackAddr
  | nackData (n : Nat)
  | lost (n : Nat)
  deriving DecidableEq, Repr

/-- What the bus does in a transaction: SCL reads low at idle (R419); the bus clear that runs first while stuck is 1 succeeds
(R422); the end; the bytes that targets send, a block's count first and a PEC last. -/
structure TwcBus where
  sclLow : Bool
  clear : Bool
  ending : TwcEnd
  rx : List Byte
  deriving DecidableEq, Repr

/-- The host transaction that a write of go = 1 started: TWC_CMD, TWC_XFER and the transmit buffer as they stood (R16, R424). -/
structure TwcCmd where
  kind : Nat
  addr : Nat
  code : Nat
  wlen : Nat
  rlen : Nat
  pec : Bool
  tx : List Byte
  started : Bool
  speed : Nat
  deriving DecidableEq, Repr

/-- SCL as a controller makes it: its low time and its high time, the latter from SCL seen high, in CLK_SLOW cycles (R415, R417). -/
structure SclTime where
  low : Nat
  high : Nat
  deriving DecidableEq, Repr

/-- A controller: the sequencer's queue (R425); the transaction that stretching has ended waits for SCL (R419); the host's last
transaction. -/
structure TwcU where
  queue : List Nat
  sclWait : Bool
  cmd : TwcCmd
  deriving DecidableEq, Repr

/-! ## Kiln (chapter 11) -/

/-- A reference's measured values (R264, R265): its offset f in ppb; the time within accept in ms; its last phase error in ns. -/
structure KilnRef where
  f : Int
  t : Nat
  ph : Int
  deriving DecidableEq, Repr

/-- Kiln: the references; the choice that waits for the boundary (R267); a lock declared (R273), an expiry of holdover (R272)
or a return to freerun (R275) that waits for it; the amount and age of the pending slew as it stood (R274), in 2^-16 ns; the loop term as it
stood, its age and what it moves to (R274), in 2^-16 ppb; the loop's output since acquire was left, in locked (R272), as VCO cycles and ppb, the latest
first, with the time up to which it is kept; since when the condition of R273 has held; the entry into holdover; a
time-set request with the boundaries it has passed (R275); a set with no reference selected has been carried out, and when the last set
was; the lag of the output edge grid in VCO cycles (R277); the pulses of PERIOD_OUT and PPS_OUT that lag, as times since power-on; an edge of each
output and of the word clocks that a re-alignment omits (R278); the step that is written (R276); the high word of the pending slew latched by a read. -/
structure KilnS where
  ref : Vector KilnRef 14
  next : Nat × Nat
  lockDue : Bool
  expired : Bool
  freeDue : Bool
  pend : Int
  pendUp : Nat
  loop : Int
  loopUp : Nat
  goal : Int
  segs : List (Nat × Int)
  segUp : Nat
  okUp : Option Nat
  hoUp : Nat
  req : Option Nat
  setAlone : Bool
  setUp : Nat
  lag : Nat
  pouts : List Nat
  ppss : List Nat
  poutSkip : Bool
  ppsSkip : Bool
  wckSkip : Bool
  stepLo : Word
  pendHi : Word
  deriving DecidableEq, Repr

/-- Kiln in RESET. -/
def KilnS.reset : KilnS where
  ref := Vector.replicate 14 ⟨0, 0, 0⟩
  next := (15, 15)
  lockDue := false
  expired := false
  freeDue := false
  pend := 0
  pendUp := 0
  loop := 0
  loopUp := 0
  goal := 0
  segs := []
  segUp := 0
  okUp := none
  hoUp := 0
  req := none
  setAlone := false
  setUp := 0
  lag := 0
  pouts := []
  ppss := []
  poutSkip := false
  ppsSkip := false
  wckSkip := false
  stepLo := 0
  pendHi := 0

/-! ## Twin operation (chapter 12) -/

/-- A digest of the other twin: the pass, the digest, its flag, a fault on record, in check when it was sent. -/
structure PeerDig where
  pass : Nat
  digest : BitVec 64
  flagged : Bool
  faultRec : Bool
  check : Bool
  deriving DecidableEq, Repr

/-- A forwarded write that waits for its acknowledgement (R297). -/
structure Fwd where
  jseq : Nat
  p : Nat
  deriving DecidableEq, Repr

/-- What the transfer set lies in, as it stood at a boundary at this engine time: against it a re-joiner tells what it has written (R305). -/
structure XferCopy where
  et : Nat
  regs : Sparse 32
  shadow : Sparse 32
  mem : Sparse 8
  cores : Vector Core 16
  cio : Vector CoreIo 16
  hif : HifS
  mash : MashS
  sxe : SxeS
  pwm : PwmS
  deriving DecidableEq, Repr

/-- The twin engine. Link: lseq of the last frame sent and of the last received in order, a reception not yet acknowledged, the frames not
acknowledged (R286).
Agreement: items written by the command under way (source, grid sample, word); mirror records sent and received in time by period;
the closings received (period, count); the other twin's items; its last agreement frame with the boundary it names and the boundary
count of its arrival; heartbeats missed; the periods whose agreement was incomplete; the last digest of each twin, its own with the pass, its
flag and a local fault on record (R291 to R299).
Service: boundaries for which TWIN_PEER_ACT has read low, since when, or high; the last local fault; what leaves service at the next
boundary (own, other), no frame sent; the period at whose boundary it left service by class 3, with those faults (R301); the agreed writes to LV fields that wait; forwarded writes; the last one applied; a late one
(R297). Re-join: armed by command; requested; the start boundary; a transfer or check has been left early; the attempt has failed, the
active twin has left; items still to capture and items skipped in the pass, batches captured, batches whose report is out (active);
batches received with what this twin held at their boundary, the copy that tells it (re-joiner); the transfer is complete (R303 to R307). -/
structure TwinS where
  lseq : Nat
  lack : Nat
  ackDue : Bool
  unacked : List TwinSent
  mir : List (Nat × Nat × Word)
  sent : List (Nat × Nat)
  got : List (Nat × Nat)
  closed : List (Nat × Nat)
  peerStore : List StoreSlot
  peer : Option (Agree × Nat × Nat)
  missed : Nat
  bad : List Nat
  dig : Option (Nat × BitVec 64 × Bool × Bool)
  peerDig : Option PeerDig
  lowB : Nat
  lowUp : Nat
  highB : Nat
  faultBnd : Option Nat
  yielding : Bool
  peerYields : Bool
  muted : Bool
  undo : Option (Nat × List (Nat × Nat))
  lv : List (Nat × Nat × Word)
  fwd : List Fwd
  applied : Nat
  late : Bool
  armed : Bool
  asked : Bool
  start : Option Nat
  half : Bool
  failed : Bool
  gone : Bool
  todo : List XferKey
  skipped : List XferKey
  own : List (Nat × List (XferKey × XferVal))
  waits : List Nat
  batches : List (Nat × List (XferKey × XferVal × XferVal))
  copy : Option XferCopy
  xferDone : Bool
  digHi : Word
  deriving DecidableEq, Repr

/-- The twin engine in RESET. -/
def TwinS.reset : TwinS where
  lseq := 0
  lack := 0
  ackDue := false
  unacked := []
  mir := []
  sent := []
  got := []
  closed := []
  peerStore := []
  peer := none
  missed := 0
  bad := []
  dig := none
  peerDig := none
  lowB := 0
  lowUp := 0
  highB := 0
  faultBnd := none
  yielding := false
  peerYields := false
  muted := false
  undo := none
  lv := []
  fwd := []
  applied := 0
  late := false
  armed := false
  asked := false
  start := none
  half := false
  failed := false
  gone := false
  todo := []
  skipped := []
  own := []
  waits := []
  batches := []
  copy := none
  xferDone := false
  digHi := 0

end Sys2Proof.Machine
end

