-- ==== Sys2Proof/Syntax.lean ====
section
/-!
DEFINITION. The commands the engine takes: one constructor of `Instr` for each row of spec/opcode_table.json.
A core instruction carries the core c that issues it and `last`, the complement of its word's p bit (R102): a group is
the run of instructions up to the one with last = true.
An event that the outside makes (a frame, a pulse, a line, the passing of a stated time) carries what the outside gives.
-/
namespace Sys2Proof
open Sys2Proof.Machine


/-- The commands (spec/opcode_table.json, one constructor a row). -/
inductive Instr where
  /-- RESET_N_ASSERT: R371: RESET_N reads low. -/
  | resetNAssert
  /-- POWER_ON_DETECT: R371: the power-on detector finds the core or I/O rail below its threshold. -/
  | powerOnDetect
  /-- SOFTWARE_RESET: R371: a write of data to SYS_RESET. -/
  | softwareReset (route : Route) (data : Word)
  /-- RESET_RELEASE: R372, R373: reset is released with the straps at these levels; sfdpOk: the flash has an SFDP table and offers the required mode (R374); clear0, clear1: the bus clear of each two-wire controller succeeds (R422). -/
  | resetRelease (bootFlash : Bool) (twtAddr : Fin 4) (ctrlPort : Fin 8) (twinRole : Bool) (sfdpOk : Bool) (clear0 clear1 : Bool)
  /-- LOAD_COMPLETE: R381: the boot engine ends its first read of the slot. -/
  | loadComplete
  /-- CHECK_COMPLETE: R379: the checks end; keyGood: the SHA-256 digest of the key equals the key-hash fuse, sigGood: the ECDSA signature verifies (R378). -/
  | checkComplete (keyGood sigGood : Bool)
  /-- PREPARE_SECTION: R381, R382: the next section of the second read is read and applied; crcOk: the data read gives the scrc of the table. -/
  | prepareSection (crcOk : Bool)
  /-- PERIOD_BOUNDARY: R23: the next period boundary is reached. -/
  | periodBoundary
  /-- SYS_TIME_CAPTURE: R62: a write of data to SYS_TIME_CAP. -/
  | sysTimeCapture (route : Route) (data : Word)
  /-- STANDBY_ENTER_CMD: R385: a write of data to SYS_STBY. -/
  | standbyEnterCmd (route : Route) (data : Word)
  /-- WAKE_N_EVENT: R386: WAKE_N has read low for 1 µs. -/
  | wakeNEvent
  /-- TWT_STANDBY_WAKE: R428: a two-wire address byte naming addr. -/
  | twtStandbyWake (addr : Fin 128)
  /-- STALE_MARK: R56: the ages of the queued WT-bearing entries are looked at. -/
  | staleMark
  /-- SYS_TEMP_MEASURE: R454: the die temperature is measured as temp. -/
  | sysTempMeasure (temp : BitVec 12)
  /-- PCIE_LINK_UP: R354: the PCIe link reaches L0 with this width and speed code; msixEn is the MSI-X Enable of the function. -/
  | pcieLinkUp (width gen : Fin 4) (msixEn : Bool)
  /-- REGISTER_WRITE: R15: a write of data to the register at addr; be are the byte enables of a PCIe write (R351). -/
  | registerWrite (route : Route) (addr : BitVec 25) (data : Word) (be : BitVec 4)
  /-- HIF_CTRL_WRITE: R353: a write of data to HIF_CTRL. -/
  | hifCtrlWrite (route : Route) (data : Word)
  /-- COMMIT: R362: a write of data to HIF_COMMIT(g). -/
  | commit (route : Route) (g : Fin 32) (data : Word)
  /-- COMMIT_CANCEL: R364: a write of data, with cancel, to HIF_COMMIT(g). -/
  | commitCancel (route : Route) (g : Fin 32) (data : Word)
  /-- BAR2_READ: R355: a read of len bytes at offset w of BAR2. -/
  | bar2Read (w : BitVec 24) (len : Nat)
  /-- BAR2_WRITE: R355: a write at offset w of BAR2; none is a byte not enabled. -/
  | bar2Write (w : BitVec 24) (bytes : List (Option Byte))
  /-- ATOMIC_FETCHADD: R356: FetchAdd of v at offset w of BAR2, 64 bits when wide; broken: the lock is broken before the write is granted (R338). -/
  | atomicFetchadd (w : BitVec 24) (wide broken : Bool) (v : BitVec 64)
  /-- ATOMIC_SWAP: R356: Swap. -/
  | atomicSwap (w : BitVec 24) (wide broken : Bool) (v : BitVec 64)
  /-- ATOMIC_CAS: R356: compare-and-swap of v when memory holds cmp. -/
  | atomicCas (w : BitVec 24) (wide broken : Bool) (cmp v : BitVec 64)
  /-- TWT_SET_POINTER: R357: TWT command 0x01 with the four address bytes a. -/
  | twtSetPointer (a : Word)
  /-- TWT_WRITE_BLOCK: R357, R358: TWT command 0x02 with these words and, when some, a PEC byte. -/
  | twtWriteBlock (words : List Word) (pec : Option Byte)
  /-- TWT_READ_WORD: R357: TWT command 0x03. -/
  | twtReadWord
  /-- TWT_READ_BLOCK: R357: TWT command 0x04. -/
  | twtReadBlock
  /-- TWT_READ_STATUS: R357: TWT command 0x05. -/
  | twtReadStatus
  /-- TWT_INVALID_COMMAND: R357: a TWT command with another code, or a count not allowed for the code. -/
  | twtInvalidCommand (code count : Byte)
  /-- TWT_ABANDON: R427: TWT abandons a transaction: at a misplaced START or STOP, or (shortBlock) at a block write that ends before its count of bytes. -/
  | twtAbandon (shortBlock : Bool)
  /-- TWT_SCL_TIMEOUT: R427: SCL is held low past the time-out during a transaction. -/
  | twtSclTimeout
  /-- INBAND_WRITE: R359 to R361: a frame, without its FCS, that carries an in-band datagram whose op is a write; tagOk: the AES-CMAC tag is right. -/
  | inbandWrite (port : Fin 8) (frame : List Byte) (tagOk : Bool)
  /-- INBAND_READ: R359 to R361: an in-band datagram whose op is a read. -/
  | inbandRead (port : Fin 8) (frame : List Byte) (tagOk : Bool)
  /-- INBAND_ANSWER: R361: the engine sends the oldest answer that waits, with this AES-CMAC tag. -/
  | inbandAnswer (tag : BitVec 128)
  /-- PTP_DOM_OFS_READ: R253: a read of PTP_DOM_OFS_LO(d), which latches HI. -/
  | ptpDomOfsRead (d : Fin 2)
  /-- KILN_PEND_READ: R274: a read of KILN_PEND_LO, which latches HI. -/
  | kilnPendRead
  /-- TWIN_DIG_READ: R298: a read of TWIN_DIG_LO, which latches HI. -/
  | twinDigRead
  /-- CASK_ECC_ADDR_READ: R320: a read of CASK_ECC_ADDR_LO, which latches HI. -/
  | caskEccAddrRead
  /-- FLT_MEM_ADDR_READ: R407: a read of FLT_MEM_ADDR_LO, which latches HI. -/
  | fltMemAddrRead
  /-- FLT_POP: R395: a write of data to FLT_POP. -/
  | fltPop (route : Route) (data : Word)
  /-- MGP_DRAIN_POP: R395: the MGP pops a fault record and delivers it to its mailbox. -/
  | mgpDrainPop
  /-- SAFE_RELEASE_CMD: R403: a write of data to FLT_SAFE. -/
  | safeReleaseCmd (route : Route) (data : Word)
  /-- HOST_WDOG_WRITE: R404: a write of data to FLT_WDOG. -/
  | hostWdogWrite (route : Route) (data : Word)
  /-- HOST_WDOG_KICK: R404: a write of data to FLT_WDOG_KICK. -/
  | hostWdogKick (route : Route) (data : Word)
  /-- HOST_WDOG_EXPIRY: R404: timeout ms have passed without a kick. -/
  | hostWdogExpiry
  /-- MGP_WDOG_EXPIRY: R405: 250 ms have passed without a restart of the MGP watchdog. -/
  | mgpWdogExpiry
  /-- MGP_RESTART_CMD: R405: a write of data to FLT_MGP. -/
  | mgpRestartCmd (route : Route) (data : Word)
  /-- MB_POP: R410: a write of data to MGP_MB_POP. -/
  | mbPop (route : Route) (data : Word)
  /-- MB_GO: R411: a write of data to MGP_MB_GO. -/
  | mbGo (route : Route) (data : Word)
  /-- MB_IDENTIFY: R412: the MGP takes the inbound message, an Identify request. -/
  | mbIdentify
  /-- MB_SET_CLOCK_ATTR: R412: the MGP takes the inbound message, a Set clock attributes request. -/
  | mbSetClockAttr
  /-- MB_READ_CLOCK_STATE: R412: the MGP takes the inbound message, a Read clock state request, while its BMCA holds this grandmaster. -/
  | mbReadClockState (gm : BitVec 64) (steps : BitVec 16) (cls prio : Byte)
  /-- MB_UNKNOWN_TYPE: R412: the MGP takes the inbound message, of any other type. -/
  | mbUnknownType
  /-- MB_PTP_PORT_STATE: R242, R409: the MGP writes the port states and the parent of domain d and reports them. -/
  | mbPtpPortState (d : Fin 2) (ports : Word) (parent : BitVec 64) (parentPort : BitVec 16)
  /-- MB_EEE_WAKE_TIME: R215, R409: the MGP writes the negotiated wake time of a port and reports it. -/
  | mbEeeWakeTime (port : Fin 8) (tw : BitVec 16)
  /-- RAPID_TRANSACTION: R334: activity act issues this one-beat transaction, after these errors have struck memory: fabric address, and whether uncorrectable. -/
  | rapidTransaction (act : Fin 41) (beat : Beat) (struck : List (Nat × Bool))
  /-- LOCKED_SEQUENCE: R337: the MGP or the host bridge presents a locked sequence. -/
  | lockedSequence (mgp : Bool) (beats : List Beat)
  /-- LOCK_BREAK: R338: a locked sequence is granted, and its lock is broken after 64 CLK_FAB cycles with the first `granted` of its transactions granted. -/
  | lockBreak (mgp : Bool) (granted : Nat) (beats : List Beat)
  /-- ALLOWANCE_EXPIRY: R346: k[c] sixteenths of the period have passed for consumer c. -/
  | allowanceExpiry (c : Fin 21)
  /-- PWR_WARN_ASSERT: R347: PWR_WARN_N has read low on two consecutive CLK_PER edges. -/
  | pwrWarnAssert
  /-- PWR_WARN_DEASSERT: R347: PWR_WARN_N goes high. -/
  | pwrWarnDeassert
  /-- SEND_POINT: R132: the send point S of the pass. -/
  | sendPoint
  /-- RETURN_POINT: R133: the return point Q of the pass. -/
  | returnPoint
  /-- SLICE_TIMER: R128: CYC reaches the instant of slice i of core c. -/
  | sliceTimer (c : Fin 16) (i : Fin 8)
  /-- LEVEL1_EVENT_ENTRY: R120: core c takes its pending level-1 event. -/
  | level1EventEntry (c : Fin 16)
  /-- LEVEL2_EVENT_ENTRY: R122: core c takes its pending level-2 event. -/
  | level2EventEntry (c : Fin 16)
  /-- HEADER_WRITE: R131: the engine writes the header of the next period into the Tun of core c. -/
  | headerWrite (c : Fin 16)
  /-- CORE_HALT: R124: a write of data, with halt, to CORE_CTRL(c). -/
  | coreHalt (route : Route) (c : Fin 16) (data : Word)
  /-- CORE_RESUME: R124: a write of data, with resume, to CORE_CTRL(c). -/
  | coreResume (route : Route) (c : Fin 16) (data : Word)
  /-- CORE_STEP: R124: a write of data, with step, to CORE_CTRL(c). -/
  | coreStep (route : Route) (c : Fin 16) (data : Word)
  /-- BREAKPOINT_MATCH: R124: the group that core c is about to issue is at an enabled CORE_BKPT. -/
  | breakpointMatch (c : Fin 16)
  /-- CORE_DBG_DATA_ACCESS: R95: a read (none) or a write of CORE_DBG_DATA(c). -/
  | coreDbgDataAccess (route : Route) (c : Fin 16) (wr : Option Word)
  /-- CORE_RESTART_CMD: R136: a write of data to CORE_RUN(c). -/
  | coreRestartCmd (route : Route) (c : Fin 16) (data : Word)
  /-- CORE_PWIN_WRITE: R138: a write of data to word o of the parameter window of core c. -/
  | corePwinWrite (route : Route) (c : Fin 16) (o : Fin 8192) (data : Word)
  /-- PARAM_COPY_DONE: R139: the copy of the previous swap completes in core c. -/
  | paramCopyDone (c : Fin 16)
  /-- BE_DMA_START: R145: the engine serves the descriptor at the head of the best-effort ring of core c. -/
  | beDmaStart (c : Fin 16)
  /-- DMA_TRANSFER_DONE: R144, R145: the oldest transfer under way of a ring of core c completes. -/
  | dmaTransferDone (c : Fin 16) (rt : Bool)
  /-- MBOX_IN_WRITE: R146: a write of data to CORE_MBOX_IN(c, i). -/
  | mboxInWrite (route : Route) (c : Fin 16) (i : Fin 8) (data : Word)
  /-- MBOX_IN_ACK: R146: the engine looks at inbound word 7 of core c. -/
  | mboxInAck (c : Fin 16)
  /-- MBOX_OUT_COPY: R147: the engine looks at outbound word 7 of core c. -/
  | mboxOutCopy (c : Fin 16)
  /-- ADD: R127 ADD d, a, b with the sat bit of R106. -/
  | add (c : Fin 16) (last : Bool) (sat : Bool) (d a b : Fin 32)
  /-- SUB: R127 SUB d, a, b with the sat bit of R106. -/
  | sub (c : Fin 16) (last : Bool) (sat : Bool) (d a b : Fin 32)
  /-- NEG: R127 NEG d, a with the sat bit of R106. -/
  | neg (c : Fin 16) (last : Bool) (sat : Bool) (d a : Fin 32)
  /-- ABS: R127 ABS d, a with the sat bit of R106. -/
  | abs (c : Fin 16) (last : Bool) (sat : Bool) (d a : Fin 32)
  /-- MIN: R127 MIN d, a, b. -/
  | min (c : Fin 16) (last : Bool) (d a b : Fin 32)
  /-- MAX: R127 MAX d, a, b. -/
  | max (c : Fin 16) (last : Bool) (d a b : Fin 32)
  /-- MINU: R127 MINU d, a, b. -/
  | minu (c : Fin 16) (last : Bool) (d a b : Fin 32)
  /-- MAXU: R127 MAXU d, a, b. -/
  | maxu (c : Fin 16) (last : Bool) (d a b : Fin 32)
  /-- AND: R127 AND d, a, b. -/
  | and (c : Fin 16) (last : Bool) (d a b : Fin 32)
  /-- OR: R127 OR d, a, b. -/
  | or (c : Fin 16) (last : Bool) (d a b : Fin 32)
  /-- XOR: R127 XOR d, a, b. -/
  | xor (c : Fin 16) (last : Bool) (d a b : Fin 32)
  /-- NOT: R127 NOT d, a. -/
  | not (c : Fin 16) (last : Bool) (d a : Fin 32)
  /-- LSL: R127 LSL d, a, b: shift by b[5:0]. -/
  | lsl (c : Fin 16) (last : Bool) (d a b : Fin 32)
  /-- LSR: R127 LSR d, a, b: shift by b[5:0]. -/
  | lsr (c : Fin 16) (last : Bool) (d a b : Fin 32)
  /-- ASR: R127 ASR d, a, b: shift by b[5:0]. -/
  | asr (c : Fin 16) (last : Bool) (d a b : Fin 32)
  /-- ASL: R127 ASL d, a, b with the sat bit of R106. -/
  | asl (c : Fin 16) (last : Bool) (sat : Bool) (d a b : Fin 32)
  /-- ROR: R127 ROR d, a, b. -/
  | ror (c : Fin 16) (last : Bool) (d a b : Fin 32)
  /-- CLS: R127 CLS d, a. -/
  | cls (c : Fin 16) (last : Bool) (d a : Fin 32)
  /-- CLZ: R127 CLZ d, a. -/
  | clz (c : Fin 16) (last : Bool) (d a : Fin 32)
  /-- CMP: R127 CMP a, b. -/
  | cmp (c : Fin 16) (last : Bool) (a b : Fin 32)
  /-- CMPU: R127 CMPU a, b. -/
  | cmpu (c : Fin 16) (last : Bool) (a b : Fin 32)
  /-- SEL: R127 SEL d, a, b, cond. -/
  | sel (c : Fin 16) (last : Bool) (d a b : Fin 32) (cond : Fin 16)
  /-- MOV: R127 MOV d, a. -/
  | mov (c : Fin 16) (last : Bool) (d a : Fin 32)
  /-- ADDI: R127 ADDI d, a, #s15. -/
  | addi (c : Fin 16) (last : Bool) (sat : Bool) (d a : Fin 32) (imm : BitVec 15)
  /-- ANDI: R127 ANDI d, a, #u15. -/
  | andi (c : Fin 16) (last : Bool) (d a : Fin 32) (imm : BitVec 15)
  /-- ORI: R127 ORI d, a, #u15. -/
  | ori (c : Fin 16) (last : Bool) (d a : Fin 32) (imm : BitVec 15)
  /-- XORI: R127 XORI d, a, #u15. -/
  | xori (c : Fin 16) (last : Bool) (d a : Fin 32) (imm : BitVec 15)
  /-- LSLI: R127 LSLI d, a, #u5. -/
  | lsli (c : Fin 16) (last : Bool) (d a : Fin 32) (n : Fin 32)
  /-- LSRI: R127 LSRI d, a, #u5. -/
  | lsri (c : Fin 16) (last : Bool) (d a : Fin 32) (n : Fin 32)
  /-- ASRI: R127 ASRI d, a, #u5. -/
  | asri (c : Fin 16) (last : Bool) (d a : Fin 32) (n : Fin 32)
  /-- ASLI: R127 ASLI d, a, #u5 with the sat bit of R106. -/
  | asli (c : Fin 16) (last : Bool) (sat : Bool) (d a : Fin 32) (n : Fin 32)
  /-- BFX: R127 BFX d, a, #pos, #len: len1 is len - 1, sx is imm15[11]. -/
  | bfx (c : Fin 16) (last : Bool) (d a : Fin 32) (pos len1 : Fin 32) (sx : Bool)
  /-- BFI: R127 BFI d, a, #pos, #len: len1 is len - 1. -/
  | bfi (c : Fin 16) (last : Bool) (d a : Fin 32) (pos len1 : Fin 32)
  /-- MOVI: R127 MOVI d, #s16. -/
  | movi (c : Fin 16) (last : Bool) (d : Fin 32) (imm : BitVec 16)
  /-- MOVHI: R127 MOVHI d, #u16. -/
  | movhi (c : Fin 16) (last : Bool) (d : Fin 32) (imm : BitVec 16)
  /-- CMPI: R127 CMPI a, #s15. -/
  | cmpi (c : Fin 16) (last : Bool) (a : Fin 32) (imm : BitVec 15)
  /-- MFC: R127 MFC d, cr. -/
  | mfc (c : Fin 16) (last : Bool) (d : Fin 32) (cr : Fin 256)
  /-- MTC: R127 MTC cr, d. -/
  | mtc (c : Fin 16) (last : Bool) (cr : Fin 256) (d : Fin 32)
  /-- ADDP: R127 ADDP p, #s16. -/
  | addp (c : Fin 16) (last : Bool) (p : Fin 16) (imm : BitVec 16)
  /-- LD_W: R127 LD.W d, EA; EA from Pn, Mm, mode and imm9 under R113. -/
  | ldW (c : Fin 16) (last : Bool) (d : Fin 32) (p m : Fin 16) (mode : Fin 8) (imm : BitVec 9)
  /-- LD_D: R127 LD.D d, EA; EA from Pn, Mm, mode and imm9 under R113. -/
  | ldD (c : Fin 16) (last : Bool) (d : Fin 32) (p m : Fin 16) (mode : Fin 8) (imm : BitVec 9)
  /-- LD_H: R127 LD.H d, EA; EA from Pn, Mm, mode and imm9 under R113. -/
  | ldH (c : Fin 16) (last : Bool) (d : Fin 32) (p m : Fin 16) (mode : Fin 8) (imm : BitVec 9)
  /-- LD_HS: R127 LD.HS d, EA; EA from Pn, Mm, mode and imm9 under R113. -/
  | ldHs (c : Fin 16) (last : Bool) (d : Fin 32) (p m : Fin 16) (mode : Fin 8) (imm : BitVec 9)
  /-- ST_W: R127 ST.W EA, d. -/
  | stW (c : Fin 16) (last : Bool) (d : Fin 32) (p m : Fin 16) (mode : Fin 8) (imm : BitVec 9)
  /-- ST_D: R127 ST.D EA, d. -/
  | stD (c : Fin 16) (last : Bool) (d : Fin 32) (p m : Fin 16) (mode : Fin 8) (imm : BitVec 9)
  /-- ST_H: R127 ST.H EA, d with its sat bit. -/
  | stH (c : Fin 16) (last : Bool) (sat : Bool) (d : Fin 32) (p m : Fin 16) (mode : Fin 8) (imm : BitVec 9)
  /-- LDA: R127 LDA A, EA. -/
  | lda (c : Fin 16) (last : Bool) (A : Fin 8) (p m : Fin 16) (mode : Fin 8) (imm : BitVec 9)
  /-- STA: R127 STA EA, A with the sat bit of R109. -/
  | sta (c : Fin 16) (last : Bool) (sat : Bool) (A : Fin 8) (p m : Fin 16) (mode : Fin 8) (imm : BitVec 9)
  /-- SAVA: R127 SAVA EA, A. -/
  | sava (c : Fin 16) (last : Bool) (A : Fin 8) (p m : Fin 16) (mode : Fin 8) (imm : BitVec 9)
  /-- RSTA: R127 RSTA A, EA. -/
  | rsta (c : Fin 16) (last : Bool) (A : Fin 8) (p m : Fin 16) (mode : Fin 8) (imm : BitVec 9)
  /-- MPY: R127 MPY A, x, y; lanes is the field of R125. -/
  | mpy (c : Fin 16) (last : Bool) (A : Fin 8) (x y : Fin 32) (lanes : Fin 4)
  /-- MAC: R127 MAC A, x, y; lanes is the field of R125. -/
  | mac (c : Fin 16) (last : Bool) (A : Fin 8) (x y : Fin 32) (lanes : Fin 4)
  /-- MSU: R127 MSU A, x, y; lanes is the field of R125. -/
  | msu (c : Fin 16) (last : Bool) (A : Fin 8) (x y : Fin 32) (lanes : Fin 4)
  /-- MPYSU: R127 MPYSU A, x, y; lanes is the field of R125. -/
  | mpysu (c : Fin 16) (last : Bool) (A : Fin 8) (x y : Fin 32) (lanes : Fin 4)
  /-- MACSU: R127 MACSU A, x, y; lanes is the field of R125. -/
  | macsu (c : Fin 16) (last : Bool) (A : Fin 8) (x y : Fin 32) (lanes : Fin 4)
  /-- MACUU: R127 MACUU A, x, y; lanes is the field of R125. -/
  | macuu (c : Fin 16) (last : Bool) (A : Fin 8) (x y : Fin 32) (lanes : Fin 4)
  /-- MULL: R127 MULL d, x, y. -/
  | mull (c : Fin 16) (last : Bool) (sat : Bool) (d x y : Fin 32)
  /-- CLRA: R127 CLRA A. -/
  | clra (c : Fin 16) (last : Bool) (A : Fin 8)
  /-- ADDA: R127 ADDA A, Am. -/
  | adda (c : Fin 16) (last : Bool) (A Am : Fin 8)
  /-- SUBA: R127 SUBA A, Am. -/
  | suba (c : Fin 16) (last : Bool) (A Am : Fin 8)
  /-- NEGA: R127 NEGA A. -/
  | nega (c : Fin 16) (last : Bool) (A : Fin 8)
  /-- SHA: R127 SHA A, #s: n is s as six bits, two's complement. -/
  | sha (c : Fin 16) (last : Bool) (sat : Bool) (A : Fin 8) (n : BitVec 6)
  /-- EXT: R127 EXT d, A, #k. -/
  | ext (c : Fin 16) (last : Bool) (sat : Bool) (d : Fin 32) (A : Fin 8) (k : Fin 64)
  /-- MVAL: R127 MVAL d, A. -/
  | mval (c : Fin 16) (last : Bool) (d : Fin 32) (A : Fin 8)
  /-- MVAH: R127 MVAH d, A. -/
  | mvah (c : Fin 16) (last : Bool) (d : Fin 32) (A : Fin 8)
  /-- MVAG: R127 MVAG d, A. -/
  | mvag (c : Fin 16) (last : Bool) (d : Fin 32) (A : Fin 8)
  /-- MOVA: R127 MOVA A, x. -/
  | mova (c : Fin 16) (last : Bool) (A : Fin 8) (x : Fin 32)
  /-- TAPM: R127 TAPM A, pi, pj. -/
  | tapm (c : Fin 16) (last : Bool) (A : Fin 8) (pi pj : Fin 16)
  /-- TAPM_Z: R127 TAPM.Z A, pi, pj. -/
  | tapmZ (c : Fin 16) (last : Bool) (A : Fin 8) (pi pj : Fin 16)
  /-- FADD: R127 FADD d, a, b. -/
  | fadd (c : Fin 16) (last : Bool) (two sat : Bool) (d a b : Fin 32)
  /-- FSUB: R127 FSUB d, a, b. -/
  | fsub (c : Fin 16) (last : Bool) (two sat : Bool) (d a b : Fin 32)
  /-- FMUL: R127 FMUL d, a, b. -/
  | fmul (c : Fin 16) (last : Bool) (two sat : Bool) (d a b : Fin 32)
  /-- FMA: R127 FMA d, a, b, c: e is the field c. -/
  | fma (c : Fin 16) (last : Bool) (two sat : Bool) (d a b e : Fin 32)
  /-- FMS: R127 FMS d, a, b, c: e is the field c. -/
  | fms (c : Fin 16) (last : Bool) (two sat : Bool) (d a b e : Fin 32)
  /-- FMIN: R127 FMIN d, a, b. -/
  | fmin (c : Fin 16) (last : Bool) (two sat : Bool) (d a b : Fin 32)
  /-- FMAX: R127 FMAX d, a, b. -/
  | fmax (c : Fin 16) (last : Bool) (two sat : Bool) (d a b : Fin 32)
  /-- FABS: R127 FABS d, a. -/
  | fabs (c : Fin 16) (last : Bool) (two : Bool) (d a : Fin 32)
  /-- FNEG: R127 FNEG d, a. -/
  | fneg (c : Fin 16) (last : Bool) (two : Bool) (d a : Fin 32)
  /-- FCMP: R127 FCMP a, b. -/
  | fcmp (c : Fin 16) (last : Bool) (a b : Fin 32)
  /-- FCVTQF: R127 FCVTQF d, a. -/
  | fcvtqf (c : Fin 16) (last : Bool) (two sat : Bool) (d a : Fin 32)
  /-- FCVTFQ: R127 FCVTFQ d, a. -/
  | fcvtfq (c : Fin 16) (last : Bool) (two : Bool) (d a : Fin 32)
  /-- FCVTIF: R127 FCVTIF d, a. -/
  | fcvtif (c : Fin 16) (last : Bool) (two sat : Bool) (d a : Fin 32)
  /-- FCVTFI: R127 FCVTFI d, a. -/
  | fcvtfi (c : Fin 16) (last : Bool) (two : Bool) (d a : Fin 32)
  /-- FRCP: R127 FRCP d, a. -/
  | frcp (c : Fin 16) (last : Bool) (two sat : Bool) (d a : Fin 32)
  /-- FRSQ: R127 FRSQ d, a. -/
  | frsq (c : Fin 16) (last : Bool) (two sat : Bool) (d a : Fin 32)
  /-- BR: R127 BR cond, label: off is the signed word offset off22. -/
  | br (c : Fin 16) (last : Bool) (cond : Fin 15) (off : BitVec 22)
  /-- CALL: R127 CALL label. -/
  | call (c : Fin 16) (last : Bool) (off : BitVec 22)
  /-- RET: R127 RET. -/
  | ret (c : Fin 16) (last : Bool)
  /-- BRR: R127 BRR pn. -/
  | brr (c : Fin 16) (last : Bool) (pn : Fin 16)
  /-- NOP: R127 NOP. -/
  | nop (c : Fin 16) (last : Bool)
  /-- LOOP: R127 LOOP #count, end: endw is end10. -/
  | loop (c : Fin 16) (last : Bool) (count : Fin 4096) (endw : Fin 1024)
  /-- LOOPR: R127 LOOPR dn, end. -/
  | loopr (c : Fin 16) (last : Bool) (dn : Fin 32) (endw : Fin 1024)
  /-- BRK: R127 BRK. -/
  | brk (c : Fin 16) (last : Bool)
  /-- RTE1: R127 RTE1. -/
  | rte1 (c : Fin 16) (last : Bool)
  /-- RTE2: R127 RTE2. -/
  | rte2 (c : Fin 16) (last : Bool)
  /-- IDLE: R127 IDLE. -/
  | idle (c : Fin 16) (last : Bool)
  /-- FENCE: R127 FENCE. -/
  | fence (c : Fin 16) (last : Bool)
  /-- ILLEGAL_INSTRUCTION: R102: core c fetches the group made of these words, which R102 calls illegal. -/
  | illegalInstruction (c : Fin 16) (words : List Word)
  /-- TDM_FRAME: R152: a frame of group g starts and runs to its end: for each port of the group the 32-bit slots received, words aligned to the top; the bit-clock cycles of the frame; whether the frame-start interval is nominal (R158); the frames that the engine has taken from the elastic buffer since the frame before (R157); the measured phase; the ratio fd / fs tracked (R164). -/
  | tdmFrame (g : Fin 4) (slots : List (List Word)) (bits : Nat) (onTime : Bool) (took : Nat) (phase ratio : Word)
  /-- TDM_CLOCK_LOSS: R158: no frame start of slave group g for four nominal frame periods. -/
  | tdmClockLoss (g : Fin 4)
  /-- BRIDGE_LOCK: R166: the delay error of bridge b has stayed within a quarter sample for 100 ms; the ratio fd / fs tracked. -/
  | bridgeLock (b : Fin 256) (ratio : Word)
  /-- DOMAIN_SYNTH_LOCK: R280: the conditions of lock of the synthesiser of domain d + 1 have held for 100 ms. -/
  | domainSynthLock (d : Fin 2)
  /-- DOMAIN_SYNTH_UNLOCK: R280: the synthesiser of domain d + 1 loses its reference, or leaves a quarter of a local sample. -/
  | domainSynthUnlock (d : Fin 2)
  /-- CARRIER_CYCLE: R170: a carrier cycle of channel c starts. -/
  | carrierCycle (c : Fin 24)
  /-- OCFLT_ASSERT: R179: OCFLT_Nc is asserted, after the filter. -/
  | ocfltAssert (c : Fin 24)
  /-- RAIL_CONVERSION: R174: a conversion of rail input r completes with this code. -/
  | railConversion (r : Fin 8) (code : BitVec 12)
  /-- BOOT_COMPLETE: R177: the boot count of channel c reaches boot_time. -/
  | bootComplete (c : Fin 24)
  /-- SETTLE_COMPLETE: R177: channel c has been in settle for 64 carrier cycles. -/
  | settleComplete (c : Fin 24)
  /-- STOP_COMPLETE: R178: the stop ramp and 64 cycles at q = 0 are over. -/
  | stopComplete (c : Fin 24)
  /-- RETRY_START: R181: PWM_HICCUP has passed since the boundary that applied the latch-off of channel c. -/
  | retryStart (c : Fin 24)
  /-- RETRY_WINDOW_END: R181: the retry window of channel c ends. -/
  | retryWindowEnd (c : Fin 24)
  /-- RETRY_COUNT_RESET: R181: channel c has spent 10 s in run since its last successful retry. -/
  | retryCountReset (c : Fin 24)
  /-- PWM_CLEAR_CMD: R183: a write of data to PWM_CH_CMD(c). -/
  | pwmClearCmd (route : Route) (c : Fin 24) (data : Word)
  /-- ETH_LINK_UP: R189: the link of port p has held for 10 ms; the latencies measured, in 2^-8 ns (R247). -/
  | ethLinkUp (p : Fin 8) (rxLat txLat : BitVec 16)
  /-- ETH_LINK_DOWN: R189: the link of port p fails; what holds of the PCS from then on. -/
  | ethLinkDown (p : Fin 8) (blkLock fecAlign lfault rfault : Bool)
  /-- ETH_FRAME_RECEIVE: R190: a frame is received on port p, from the destination address through the FCS; whether its FCS is good; FEC codewords corrected and uncorrectable in it; the instant at which its SFD crossed the MAC/PCS boundary, in 2^-16 ns since the period began (R211, R246). -/
  | ethFrameReceive (p : Fin 8) (frame : List Byte) (fcsOk : Bool) (kind : RxKind) (corr uncorr ts : Nat)
  /-- FDB_AGEING: R203: the dynamic entry of this slot has not been refreshed for age to 2 × age seconds. -/
  | fdbAgeing (slot : Fin 4160)
  /-- FDB_READ_SLOT: R204: a write of data, with go and op 0b000, to ETH_FDB_CMD. -/
  | fdbReadSlot (route : Route) (data : Word)
  /-- FDB_WRITE_STATIC: R204: a write of data, with go and op 0b001, to ETH_FDB_CMD. -/
  | fdbWriteStatic (route : Route) (data : Word)
  /-- FDB_DELETE: R204: a write of data, with go and op 0b010, to ETH_FDB_CMD. -/
  | fdbDelete (route : Route) (data : Word)
  /-- FDB_FLUSH_PORT: R204: a write of data, with go and op 0b011, to ETH_FDB_CMD. -/
  | fdbFlushPort (route : Route) (data : Word)
  /-- FDB_FLUSH_DYNAMIC: R204: a write of data, with go and op 0b100, to ETH_FDB_CMD. -/
  | fdbFlushDynamic (route : Route) (data : Word)
  /-- FDB_INVALID_OP: R204: a write of data, with go and another op, to ETH_FDB_CMD. -/
  | fdbInvalidOp (route : Route) (data : Word)
  /-- GATE_ENTRY_CHANGE: R196: the interval of the entry in force on port p ends. -/
  | gateEntryChange (p : Fin 8)
  /-- ETH_TX_START: R199: port p may start a transmission; its instant at the MAC/PCS boundary in 2^-16 ns since the period began (R246). -/
  | ethTxStart (p : Fin 8) (ts : Nat)
  /-- PREEMPTION: R195: a waiting express frame interrupts the preemptable transmission of port p at this instant, in 2^-16 ns since the period began. -/
  | preemption (p : Fin 8) (ts : Nat)
  /-- PREEMPT_VERIFY_TIMEOUT: R194: a verification attempt of port p times out. -/
  | preemptVerifyTimeout (p : Fin 8)
  /-- TX_RING_DESCRIPTOR: R212: the engine takes the descriptor at eidx of the host or the MGP transmit ring. -/
  | txRingDescriptor (mgp : Bool)
  /-- LPI_ENTRY: R215: all queues of port p have been empty for idle µs. -/
  | lpiEntry (p : Fin 8)
  /-- LPI_WAKE: R215: a frame is ready on port p in LPI, and tw_tx µs have passed. -/
  | lpiWake (p : Fin 8)
  /-- SYNC_TX: R250: NT is a multiple of 2^sync_log s: Sync of domain d on master port p. -/
  | syncTx (d : Fin 2) (p : Fin 8)
  /-- FOLLOW_UP_TX: R250: the Follow_Up of the oldest two-step Sync of domain d sent on port p. -/
  | followUpTx (d : Fin 2) (p : Fin 8)
  /-- DELAY_RESP_TX: R250: the answer to the oldest Delay_Req of domain d that waits. -/
  | delayRespTx (d : Fin 2)
  /-- DELAY_REQ_TX: R251: the slave port of domain d sends a Delay_Req. -/
  | delayReqTx (d : Fin 2)
  /-- PDELAY_REQ_TX: R252: port p sends a Pdelay_Req. -/
  | pdelayReqTx (p : Fin 8)
  /-- PDELAY_LOST: R252: the response to the Pdelay_Req of port p has not arrived in time. -/
  | pdelayLost (p : Fin 8)
  /-- NOFU_TIMEOUT: R251: the oldest two-step Sync of domain d that waits has waited 2^sync_log s. -/
  | nofuTimeout (d : Fin 2)
  /-- DOMAIN_VALID_TIMEOUT: R254: the last accepted sample of domain d is older than sync_to × 2^sync_log s. -/
  | domainValidTimeout (d : Fin 2)
  /-- SERVO_RESET_CMD: R255: a write of data to PTP_DOM_CMD of domain d. -/
  | servoResetCmd (route : Route) (d : Fin 2) (data : Word)
  /-- PARENT_PORT_WRITE: R255: a write of data to PTP_DOM_PARENT_PORT of domain d. -/
  | parentPortWrite (route : Route) (d : Fin 2) (data : Word)
  /-- PTP_STEP_HOLD_EXPIRY: R257: the accepted e of domain d has stayed beyond set_thr for step_hold seconds. -/
  | ptpStepHoldExpiry (d : Fin 2)
  /-- REF_MEASUREMENT: R264: reference i is measured: its offset f in ppb; the measurement interval in ms; its phase error in ns. A PTP reference's come from its servo's samples (R263). -/
  | refMeasurement (i : Fin 14) (f : BitVec 32) (dt : Nat) (ph : BitVec 32)
  /-- REF_ACTIVITY_LOSS: R264: the timeout of the activity monitor of reference i passes. -/
  | refActivityLoss (i : Fin 14)
  /-- LOCK_DECLARE: R273: the condition of lock has held for lock_hold seconds. -/
  | lockDeclare
  /-- FREERUN_RETURN: R275: lock_hold seconds have passed since a time set with no reference selected. -/
  | freerunReturn
  /-- HOLDOVER_EXPIRY: R272: holdover has lasted ho_max seconds. -/
  | holdoverExpiry
  /-- SLEW_COMPLETE: R274: the pending slew reaches 0. -/
  | slewComplete
  /-- KILN_PHASE_STEP_WRITE: R276: a write of data to KILN_PHASE_STEP_HI. -/
  | kilnPhaseStepWrite (route : Route) (data : Word)
  /-- KILN_SLEW_MAX_WRITE: R275: a write of data to KILN_SLEW_MAX. -/
  | kilnSlewMaxWrite (route : Route) (data : Word)
  /-- KILN_REF_CONFIG_WRITE: R265: a write of data to a register of reference i: k = 0 KILN_REF_CFG, 1 KILN_REF_LIM, 2 KILN_REF_HOLD; 3 KILN_FREF_NOM. -/
  | kilnRefConfigWrite (route : Route) (i : Fin 14) (k : Fin 4) (data : Word)
  /-- KILN_ALIGN_CMD: R278: a write of data to KILN_ALIGN. -/
  | kilnAlignCmd (route : Route) (data : Word)
  /-- TWIN_AGREEMENT_RX: R293: an agreement frame arrives from the other twin. -/
  | twinAgreementRx (f : TwinFrame) (a : Agree)
  /-- TWIN_MIRROR_RX: R291: a mirror frame arrives. -/
  | twinMirrorRx (f : TwinFrame) (payload : List Byte)
  /-- TWIN_CONTROL_RX: R297: a forwarded write arrives, journalled by the leader under jseq; target: the target PN of a commit. -/
  | twinControlRx (f : TwinFrame) (jseq : Word) (addr : BitVec 25) (data : Word) (target : Nat)
  /-- TWIN_TRANSFER_RX: R305: a transfer frame arrives. -/
  | twinTransferRx (f : TwinFrame) (items : List (XferKey × XferVal))
  /-- TWIN_XFER_CTRL_RX: R303, R305: a transfer-control frame arrives. -/
  | twinXferCtrlRx (f : TwinFrame) (m : XferCtrl)
  /-- TWIN_ACK_RX: R286: an acknowledgement frame arrives. -/
  | twinAckRx (f : TwinFrame)
  /-- TWIN_ACK_TX: R286: the twin acknowledges a reception that no other frame has acknowledged. -/
  | twinAckTx
  /-- TWIN_RETRANSMIT: R286: a frame has not been acknowledged within 8 µs. -/
  | twinRetransmit
  /-- REJOIN_REQUEST: R303: a twin in out that meets the conditions requests a re-join. -/
  | rejoinRequest
  /-- REJOIN_TIMEOUT: R307: rejoin_max has passed since r. -/
  | rejoinTimeout
  /-- TWIN_REJOIN_CMD: R307: a write of data, with rejoin, to TWIN_CMD. -/
  | twinRejoinCmd (route : Route) (data : Word)
  /-- TWIN_YIELD_CMD: R464: a write of data, with yield, to TWIN_CMD. -/
  | twinYieldCmd (route : Route) (data : Word)
  /-- CASK_TRAINING_DONE: R314: channel k ends its training, with every step passed or not. -/
  | caskTrainingDone (k : Fin 2) (ok : Bool)
  /-- CASK_ECC_FILL_DONE: R317: the zero fill of channel k completes. -/
  | caskEccFillDone (k : Fin 2)
  /-- CASK_REFRESH: R315: channel k issues a per-bank refresh. -/
  | caskRefresh (k : Fin 2)
  /-- CASK_TEMP_POLL: R315: the temperature status of channel k is read: the refresh multiplier it asks for, in quarters. -/
  | caskTempPoll (k : Fin 2) (quarters : Nat)
  /-- CASK_RETRAIN: R315: channel k retrains WCK and DQ timing. -/
  | caskRetrain (k : Fin 2)
  /-- CASK_ZQ_CAL: R315: channel k runs ZQ calibration. -/
  | caskZqCal (k : Fin 2)
  /-- CASK_SCRUB_READ: R321: the scrubber reads the next granule of channel k, after these errors have struck memory: fabric address, and whether uncorrectable. -/
  | caskScrubRead (k : Fin 2) (struck : List (Nat × Bool))
  /-- CAPTURE_WRITE: R324: the oldest complete granule of capture channel c is written. -/
  | captureWrite (c : Fin 256)
  /-- CAPTURE_LATE: R330: the deadline of the oldest complete granule of capture channel c passes before its write. -/
  | captureLate (c : Fin 256)
  /-- PLAYBACK_FETCH: R325: the oldest granule that playback channel c waits for is fetched, after these errors have struck memory. -/
  | playbackFetch (c : Fin 256) (struck : List (Nat × Bool))
  /-- PLAYBACK_LATE: R330: the oldest granule that playback channel c waits for is not fetched in time. -/
  | playbackLate (c : Fin 256)
  /-- TWC_SEND_BYTE: R424: controller k runs the host transaction, of kind 0x0, on a bus that behaves so. -/
  | twcSendByte (k : Fin 2) (bus : TwcBus)
  /-- TWC_RECEIVE_BYTE: R424: controller k runs the host transaction, of kind 0x1, on a bus that behaves so. -/
  | twcReceiveByte (k : Fin 2) (bus : TwcBus)
  /-- TWC_WRITE_BYTE: R424: controller k runs the host transaction, of kind 0x2, on a bus that behaves so. -/
  | twcWriteByte (k : Fin 2) (bus : TwcBus)
  /-- TWC_READ_BYTE: R424: controller k runs the host transaction, of kind 0x3, on a bus that behaves so. -/
  | twcReadByte (k : Fin 2) (bus : TwcBus)
  /-- TWC_WRITE_WORD: R424: controller k runs the host transaction, of kind 0x4, on a bus that behaves so. -/
  | twcWriteWord (k : Fin 2) (bus : TwcBus)
  /-- TWC_READ_WORD: R424: controller k runs the host transaction, of kind 0x5, on a bus that behaves so. -/
  | twcReadWord (k : Fin 2) (bus : TwcBus)
  /-- TWC_PROCESS_CALL: R424: controller k runs the host transaction, of kind 0x6, on a bus that behaves so. -/
  | twcProcessCall (k : Fin 2) (bus : TwcBus)
  /-- TWC_BLOCK_WRITE: R424: controller k runs the host transaction, of kind 0x7, on a bus that behaves so. -/
  | twcBlockWrite (k : Fin 2) (bus : TwcBus)
  /-- TWC_BLOCK_READ: R424: controller k runs the host transaction, of kind 0x8, on a bus that behaves so. -/
  | twcBlockRead (k : Fin 2) (bus : TwcBus)
  /-- TWC_I2C_WRITE: R424: controller k runs the host transaction, of kind 0x9, on a bus that behaves so. -/
  | twcI2cWrite (k : Fin 2) (bus : TwcBus)
  /-- TWC_I2C_WRITE_READ: R424: controller k runs the host transaction, of kind 0xA, on a bus that behaves so. -/
  | twcI2cWriteRead (k : Fin 2) (bus : TwcBus)
  /-- TWC_I2C_READ: R424: controller k runs the host transaction, of kind 0xB, on a bus that behaves so. -/
  | twcI2cRead (k : Fin 2) (bus : TwcBus)
  /-- TWC_REFUSED_KIND: R424: controller k refuses the host transaction. -/
  | twcRefusedKind (k : Fin 2)
  /-- STRETCH_TIMEOUT: R419: a target has held SCL of controller k low for stretch_to ms in the transaction under way. -/
  | stretchTimeout (k : Fin 2)
  /-- SCL_STUCK: R419: SCL of controller k has stayed low for a further 35 ms. -/
  | sclStuck (k : Fin 2)
  /-- BUS_ERROR: R420: controller k sees a START or STOP that it did not create in the transaction under way. -/
  | busError (k : Fin 2)
  /-- TWC_RESET_CMD: R422: a write of data to TWC_CFG(k); clear: the bus clear of a reset succeeds. -/
  | twcResetCmd (route : Route) (k : Fin 2) (data : Word) (clear : Bool)
  /-- SDA_STUCK_DETECT: R422: SDA has read low and SCL high for 1 ms at idle; clear: the bus clear succeeds. -/
  | sdaStuckDetect (k : Fin 2) (clear : Bool)
  /-- SEQ_ENTRY_RUN: R425: controller k runs the sequencer entry at the head of its queue, on a bus that behaves so. -/
  | seqEntryRun (k : Fin 2) (bus : TwcBus)
  /-- PERF_CLEAR: R432: a write of data to PERF_CTRL. -/
  | perfClear (route : Route) (data : Word)
  /-- PERF_CNT_WRITE: R432: a write of data to PERF_CNT(i). -/
  | perfCntWrite (route : Route) (i : Fin 128) (data : Word)
  /-- PERF_CNT_READ: R431: a read of PERF_CNT(i). -/
  | perfCntRead (i : Fin 128)
  /-- PERF_BW_CFG_WRITE: R434: a write of data to PERF_BW_CFG(m). -/
  | perfBwCfgWrite (route : Route) (m : Fin 28) (data : Word)
  /-- PERF_TAG_CFG_WRITE: R435: a write of data to PERF_TAG_CFG(c). -/
  | perfTagCfgWrite (route : Route) (c : Fin 16) (data : Word)
  /-- TAG_COUNTDOWN_EXPIRY: R435: the tag countdown of core c has reached 0 and the group issued is tagged. -/
  | tagCountdownExpiry (c : Fin 16)
  /-- PERF_DUMP_CTL_WRITE: R438: a write of data to PERF_DUMP_CTL. -/
  | perfDumpCtlWrite (route : Route) (data : Word)
  /-- DUMP_RECORD_WRITTEN: R438: the dump engine writes the snapshot it holds. -/
  | dumpRecordWritten
  /-- FL_READ: R387: a write of data, with go and op 0b000, to BOOT_FL_CMD. -/
  | flRead (route : Route) (data : Word)
  /-- FL_PROGRAM: R387: op 0b001. -/
  | flProgram (route : Route) (data : Word)
  /-- FL_ERASE_4K: R387: op 0b010. -/
  | flErase4k (route : Route) (data : Word)
  /-- FL_ERASE_64K: R387: op 0b011. -/
  | flErase64k (route : Route) (data : Word)
  /-- FL_READ_STATUS: R387: op 0b100; status is what the device returns. -/
  | flReadStatus (route : Route) (data : Word) (status : Word)
  /-- FL_INVALID_OP: R387: another op. -/
  | flInvalidOp (route : Route) (data : Word)
  /-- FL_OP_COMPLETE: R387: the flash device reports completion; ok: without a failure. -/
  | flOpComplete (ok : Bool)
  /-- PCIE_LINK_DOWN: R354: the PCIe link goes down. -/
  | pcieLinkDown
  /-- ETH_TX_FRAME_SENT: R210: the transmission under way on port p ends. -/
  | ethTxFrameSent (p : Fin 8)
  /-- RX_LPI_CHANGE: R215: the link partner of port p starts or stops signalling LPI. -/
  | rxLpiChange (p : Fin 8) (on : Bool)
  /-- OCFLT_DEASSERT: R179: OCFLT_Nc is no longer asserted. -/
  | ocfltDeassert (c : Fin 24)
  /-- TWIN_PEER_ACT_CHANGE: R289: TWIN_PEER_ACT goes to this level. -/
  | twinPeerActChange (level : Bool)
  deriving DecidableEq, Repr

end Sys2Proof
end

