-- ==== Sys2Proof/Decode.lean ====
section
/-!
DEFINITION. Words and commands. The table of commands gives no row any bits (every row's "fields" is empty), so no word spells a command
of the queue; the cores have instruction words of their own (R125 to R127), which are decoded and encoded here.
-/
namespace Sys2Proof

/-- The command that a word spells by the table's bits: none, for no row has bits. -/
def decodeTableWord (_nbits _w : Nat) : Option Instr := none

/-! ## The words of the Stoteter core (R125, R127) -/

/-- The field of n bits from bit lo up, as a number and as the operands of the formats. -/
def bitsAt (w : Word) (lo n : Nat) : Nat := w.toNat / 2 ^ lo % 2 ^ n
def g8 (w : Word) (lo : Nat) : Fin 8 := Fin.ofNat 8 (bitsAt w lo 3)
def g16 (w : Word) (lo : Nat) : Fin 16 := Fin.ofNat 16 (bitsAt w lo 4)
def g32 (w : Word) (lo : Nat) : Fin 32 := Fin.ofNat 32 (bitsAt w lo 5)

/-- Format R, by minor. -/
def decodeR (c : Fin 16) (l : Bool) (w : Word) : Option Instr :=
  let d := g32 w 21
  let a := g32 w 16
  let b := g32 w 11
  let sat := w.getLsbD 10
  if w.getLsbD 9 then none
  else match bitsAt w 0 5 with
  | 0x00 => some (.add c l sat d a b)
  | 0x01 => some (.sub c l sat d a b)
  | 0x02 => some (.neg c l sat d a)
  | 0x03 => some (.abs c l sat d a)
  | 0x04 => some (.min c l d a b)
  | 0x05 => some (.max c l d a b)
  | 0x06 => some (.minu c l d a b)
  | 0x07 => some (.maxu c l d a b)
  | 0x08 => some (.and c l d a b)
  | 0x09 => some (.or c l d a b)
  | 0x0A => some (.xor c l d a b)
  | 0x0B => some (.not c l d a)
  | 0x0C => some (.lsl c l d a b)
  | 0x0D => some (.lsr c l d a b)
  | 0x0E => some (.asr c l d a b)
  | 0x0F => some (.asl c l sat d a b)
  | 0x10 => some (.ror c l d a b)
  | 0x11 => some (.cls c l d a)
  | 0x12 => some (.clz c l d a)
  | 0x13 => some (.cmp c l a b)
  | 0x14 => some (.cmpu c l a b)
  | 0x15 => some (.sel c l d a b (g16 w 5))
  | 0x16 => some (.mov c l d a)
  | _ => none

/-- Format I and U, majors 0x01 to 0x08; the reserved bits of MOVI and MOVHI are 0. -/
def decodeI (c : Fin 16) (l : Bool) (w : Word) : Option Instr :=
  let d := g32 w 21
  let a := g32 w 16
  let sat := w.getLsbD 15
  let imm := BitVec.ofNat 15 (bitsAt w 0 15)
  match bitsAt w 26 5 with
  | 0x01 => some (.addi c l sat d a imm)
  | 0x02 => some (.andi c l d a imm)
  | 0x03 => some (.ori c l d a imm)
  | 0x04 => some (.xori c l d a imm)
  | 0x05 => match bitsAt w 5 2 with
    | 0 => some (.lsli c l d a (g32 w 0))
    | 1 => some (.lsri c l d a (g32 w 0))
    | 2 => some (.asri c l d a (g32 w 0))
    | _ => some (.asli c l sat d a (g32 w 0))
  | 0x06 => if w.getLsbD 10 then some (.bfi c l d a (g32 w 0) (g32 w 5)) else some (.bfx c l d a (g32 w 0) (g32 w 5) (w.getLsbD 11))
  | 0x07 =>
    let imm := BitVec.ofNat 16 (bitsAt w 0 16)
    if bitsAt w 16 4 ≠ 0 then none else if w.getLsbD 20 then some (.movhi c l d imm) else some (.movi c l d imm)
  | 0x08 => some (.cmpi c l a imm)
  | _ => none

/-- Format L, majors 0x10 to 0x17. -/
def decodeL (c : Fin 16) (l : Bool) (w : Word) : Option Instr :=
  let d := g32 w 21
  let A := g8 w 21
  let p := g16 w 17
  let m := g16 w 13
  let sat := w.getLsbD 12
  let mode := g8 w 9
  let imm := BitVec.ofNat 9 (bitsAt w 0 9)
  match bitsAt w 26 5 with
  | 0x10 => some (.ldW c l d p m mode imm)
  | 0x11 => some (.ldD c l d p m mode imm)
  | 0x12 => some (.ldH c l d p m mode imm)
  | 0x13 => some (.ldHs c l d p m mode imm)
  | 0x14 => some (.stW c l d p m mode imm)
  | 0x15 => some (.stD c l d p m mode imm)
  | 0x16 => some (.stH c l sat d p m mode imm)
  | 0x17 => match bitsAt w 24 2 with
    | 0 => some (.lda c l A p m mode imm)
    | 1 => some (.sta c l sat A p m mode imm)
    | 2 => some (.sava c l A p m mode imm)
    | _ => some (.rsta c l A p m mode imm)
  | _ => none

/-- Format M, majors 0x18 and 0x19; lanes are 0 but in the six multiplies. -/
def decodeM (c : Fin 16) (l : Bool) (w : Word) : Option Instr :=
  let A := g8 w 23
  let x := g32 w 18
  let y := g32 w 13
  let sat := w.getLsbD 12
  let lanes := Fin.ofNat 4 (bitsAt w 10 2)
  let one := fun (i : Instr) => if lanes = 0 then some i else none
  match bitsAt w 26 5, bitsAt w 6 4 with
  | 0x18, 0 => some (.mpy c l A x y lanes)
  | 0x18, 1 => some (.mac c l A x y lanes)
  | 0x18, 2 => some (.msu c l A x y lanes)
  | 0x18, 3 => some (.mpysu c l A x y lanes)
  | 0x18, 4 => some (.macsu c l A x y lanes)
  | 0x18, 5 => some (.macuu c l A x y lanes)
  | 0x18, 6 => one (.mull c l sat (g32 w 0) x y)
  | 0x19, 0 => one (.clra c l A)
  | 0x19, 1 => one (.adda c l A (g8 w 13))
  | 0x19, 2 => one (.suba c l A (g8 w 13))
  | 0x19, 3 => one (.nega c l A)
  | 0x19, 4 => one (.sha c l sat A (BitVec.ofNat 6 (bitsAt w 0 6)))
  | 0x19, 5 => one (.ext c l sat x A (Fin.ofNat 64 (bitsAt w 0 6)))
  | 0x19, 6 => one (.mval c l x A)
  | 0x19, 7 => one (.mvah c l x A)
  | 0x19, 8 => one (.mvag c l x A)
  | 0x19, 9 => one (.mova c l A x)
  | _, _ => none

/-- Format F, by sub. -/
def decodeF (c : Fin 16) (l : Bool) (w : Word) : Option Instr :=
  let d := g32 w 21
  let a := g32 w 16
  let b := g32 w 11
  let e := g32 w 6
  let sat := w.getLsbD 5
  let two := w.getLsbD 4
  match bitsAt w 0 4 with
  | 0 => some (.fadd c l two sat d a b)
  | 1 => some (.fsub c l two sat d a b)
  | 2 => some (.fmul c l two sat d a b)
  | 3 => some (.fma c l two sat d a b e)
  | 4 => some (.fms c l two sat d a b e)
  | 5 => some (.fmin c l two sat d a b)
  | 6 => some (.fmax c l two sat d a b)
  | 7 => some (.fabs c l two d a)
  | 8 => some (.fneg c l two d a)
  | 9 => some (.fcmp c l a b)
  | 10 => some (.fcvtqf c l two sat d a)
  | 11 => some (.fcvtfq c l two d a)
  | 12 => some (.fcvtif c l two sat d a)
  | 13 => some (.fcvtfi c l two d a)
  | 14 => some (.frcp c l two sat d a)
  | 15 => some (.frsq c l two sat d a)
  | _ => none

/-- Format X, by sub; its reserved bits are 0. -/
def decodeX (c : Fin 16) (l : Bool) (w : Word) : Option Instr :=
  let bare := fun (i : Instr) => if bitsAt w 0 22 = 0 then some i else none
  let endw := Fin.ofNat 1024 (bitsAt w 12 10)
  match bitsAt w 22 4 with
  | 0 => bare (.nop c l)
  | 1 => bare (.ret c l)
  | 2 => if bitsAt w 0 18 = 0 then some (.brr c l (g16 w 18)) else none
  | 3 => some (.loop c l (Fin.ofNat 4096 (bitsAt w 0 12)) endw)
  | 4 => if bitsAt w 0 7 = 0 then some (.loopr c l (g32 w 7) endw) else none
  | 5 => bare (.brk c l)
  | 6 => bare (.rte1 c l)
  | 7 => bare (.rte2 c l)
  | 8 => bare (.idle c l)
  | 9 => bare (.fence c l)
  | _ => none

/-- The instruction that a word of core c spells (R125, R127); none where its major or minor is reserved, or a field marked r, or lanes
that have to be 0, are not 0 (R102). -/
def decodeCoreWord (c : Fin 16) (w : Word) : Option Instr :=
  let l := !w.getLsbD 31
  match bitsAt w 26 5 with
  | 0x00 => decodeR c l w
  | 0x01 | 0x02 | 0x03 | 0x04 | 0x05 | 0x06 | 0x07 | 0x08 => decodeI c l w
  | 0x09 =>
    let cr := Fin.ofNat 256 (bitsAt w 13 8)
    if bitsAt w 0 12 ≠ 0 then none else if w.getLsbD 12 then some (.mtc c l cr (g32 w 21)) else some (.mfc c l (g32 w 21) cr)
  | 0x0A => if bitsAt w 16 6 = 0 then some (.addp c l (g16 w 22) (BitVec.ofNat 16 (bitsAt w 0 16))) else none
  | 0x10 | 0x11 | 0x12 | 0x13 | 0x14 | 0x15 | 0x16 | 0x17 => decodeL c l w
  | 0x18 | 0x19 => decodeM c l w
  | 0x1A =>
    if bitsAt w 0 13 ≠ 0 then none
    else if w.getLsbD 14 then some (.tapmZ c l (g8 w 23) (g16 w 19) (g16 w 15)) else some (.tapm c l (g8 w 23) (g16 w 19) (g16 w 15))
  | 0x1C => decodeF c l w
  | 0x1E =>
    let off := BitVec.ofNat 22 (bitsAt w 0 22)
    if bitsAt w 22 4 = 15 then some (.call c l off) else some (.br c l (Fin.ofNat 15 (bitsAt w 22 4)) off)
  | 0x1F => decodeX c l w
  | _ => none

/-! ## The encoder -/

/-- A word: p, the major, bits [25:0]. -/
def coreWord (l : Bool) (major rest : Nat) : Option Word := some (BitVec.ofNat 32 ((!l).toNat * 2 ^ 31 + major * 2 ^ 26 + rest))

/-- The formats R, I, L, M and F. -/
def wordR (l : Bool) (minor : Nat) (sat : Bool) (d a b : Fin 32) (cond : Fin 16) : Option Word :=
  coreWord l 0 (d.val * 2 ^ 21 + a.val * 2 ^ 16 + b.val * 2 ^ 11 + sat.toNat * 2 ^ 10 + cond.val * 2 ^ 5 + minor)
def wordI (l : Bool) (major : Nat) (sat : Bool) (d a : Fin 32) (imm : Nat) : Option Word :=
  coreWord l major (d.val * 2 ^ 21 + a.val * 2 ^ 16 + sat.toNat * 2 ^ 15 + imm)
def wordL (l : Bool) (major reg : Nat) (p m : Fin 16) (sat : Bool) (mode : Fin 8) (imm : BitVec 9) : Option Word :=
  coreWord l major (reg * 2 ^ 21 + p.val * 2 ^ 17 + m.val * 2 ^ 13 + sat.toNat * 2 ^ 12 + mode.val * 2 ^ 9 + imm.toNat)
def wordM (l : Bool) (major sub : Nat) (A : Fin 8) (x y : Fin 32) (sat : Bool) (lanes : Fin 4) (aux : Nat) : Option Word :=
  coreWord l major (A.val * 2 ^ 23 + x.val * 2 ^ 18 + y.val * 2 ^ 13 + sat.toNat * 2 ^ 12 + lanes.val * 2 ^ 10 + sub * 2 ^ 6 + aux)
def wordF (l : Bool) (sub : Nat) (two sat : Bool) (d a b e : Fin 32) : Option Word :=
  coreWord l 0x1C (d.val * 2 ^ 21 + a.val * 2 ^ 16 + b.val * 2 ^ 11 + e.val * 2 ^ 6 + sat.toNat * 2 ^ 5 + two.toNat * 2 ^ 4 + sub)

/-- The word of a core instruction, with 0 in every bit that it does not use; none for another command. -/
def encodeCoreWord : Instr → Option Word
  | .add _ l sat d a b => wordR l 0x00 sat d a b 0
  | .sub _ l sat d a b => wordR l 0x01 sat d a b 0
  | .neg _ l sat d a => wordR l 0x02 sat d a 0 0
  | .abs _ l sat d a => wordR l 0x03 sat d a 0 0
  | .min _ l d a b => wordR l 0x04 false d a b 0
  | .max _ l d a b => wordR l 0x05 false d a b 0
  | .minu _ l d a b => wordR l 0x06 false d a b 0
  | .maxu _ l d a b => wordR l 0x07 false d a b 0
  | .and _ l d a b => wordR l 0x08 false d a b 0
  | .or _ l d a b => wordR l 0x09 false d a b 0
  | .xor _ l d a b => wordR l 0x0A false d a b 0
  | .not _ l d a => wordR l 0x0B false d a 0 0
  | .lsl _ l d a b => wordR l 0x0C false d a b 0
  | .lsr _ l d a b => wordR l 0x0D false d a b 0
  | .asr _ l d a b => wordR l 0x0E false d a b 0
  | .asl _ l sat d a b => wordR l 0x0F sat d a b 0
  | .ror _ l d a b => wordR l 0x10 false d a b 0
  | .cls _ l d a => wordR l 0x11 false d a 0 0
  | .clz _ l d a => wordR l 0x12 false d a 0 0
  | .cmp _ l a b => wordR l 0x13 false 0 a b 0
  | .cmpu _ l a b => wordR l 0x14 false 0 a b 0
  | .sel _ l d a b cond => wordR l 0x15 false d a b cond
  | .mov _ l d a => wordR l 0x16 false d a 0 0
  | .addi _ l sat d a imm => wordI l 0x01 sat d a imm.toNat
  | .andi _ l d a imm => wordI l 0x02 false d a imm.toNat
  | .ori _ l d a imm => wordI l 0x03 false d a imm.toNat
  | .xori _ l d a imm => wordI l 0x04 false d a imm.toNat
  | .lsli _ l d a n => wordI l 0x05 false d a (0 + n.val)
  | .lsri _ l d a n => wordI l 0x05 false d a (32 + n.val)
  | .asri _ l d a n => wordI l 0x05 false d a (64 + n.val)
  | .asli _ l sat d a n => wordI l 0x05 sat d a (96 + n.val)
  | .bfx _ l d a pos len1 sx => wordI l 0x06 false d a (pos.val + len1.val * 2 ^ 5 + sx.toNat * 2 ^ 11)
  | .bfi _ l d a pos len1 => wordI l 0x06 false d a (pos.val + len1.val * 2 ^ 5 + 2 ^ 10)
  | .movi _ l d imm => coreWord l 0x07 (d.val * 2 ^ 21 + imm.toNat)
  | .movhi _ l d imm => coreWord l 0x07 (d.val * 2 ^ 21 + 2 ^ 20 + imm.toNat)
  | .cmpi _ l a imm => wordI l 0x08 false 0 a imm.toNat
  | .mfc _ l d cr => coreWord l 0x09 (d.val * 2 ^ 21 + cr.val * 2 ^ 13)
  | .mtc _ l cr d => coreWord l 0x09 (d.val * 2 ^ 21 + cr.val * 2 ^ 13 + 2 ^ 12)
  | .addp _ l p imm => coreWord l 0x0A (p.val * 2 ^ 22 + imm.toNat)
  | .ldW _ l d p m mode imm => wordL l 0x10 d.val p m false mode imm
  | .ldD _ l d p m mode imm => wordL l 0x11 d.val p m false mode imm
  | .ldH _ l d p m mode imm => wordL l 0x12 d.val p m false mode imm
  | .ldHs _ l d p m mode imm => wordL l 0x13 d.val p m false mode imm
  | .stW _ l d p m mode imm => wordL l 0x14 d.val p m false mode imm
  | .stD _ l d p m mode imm => wordL l 0x15 d.val p m false mode imm
  | .stH _ l sat d p m mode imm => wordL l 0x16 d.val p m sat mode imm
  | .lda _ l A p m mode imm => wordL l 0x17 (0 + A.val) p m false mode imm
  | .sta _ l sat A p m mode imm => wordL l 0x17 (8 + A.val) p m sat mode imm
  | .sava _ l A p m mode imm => wordL l 0x17 (16 + A.val) p m false mode imm
  | .rsta _ l A p m mode imm => wordL l 0x17 (24 + A.val) p m false mode imm
  | .mpy _ l A x y lanes => wordM l 0x18 0 A x y false lanes 0
  | .mac _ l A x y lanes => wordM l 0x18 1 A x y false lanes 0
  | .msu _ l A x y lanes => wordM l 0x18 2 A x y false lanes 0
  | .mpysu _ l A x y lanes => wordM l 0x18 3 A x y false lanes 0
  | .macsu _ l A x y lanes => wordM l 0x18 4 A x y false lanes 0
  | .macuu _ l A x y lanes => wordM l 0x18 5 A x y false lanes 0
  | .mull _ l sat d x y => wordM l 0x18 6 0 x y sat 0 d.val
  | .clra _ l A => wordM l 0x19 0 A 0 0 false 0 0
  | .adda _ l A Am => wordM l 0x19 1 A 0 (Fin.ofNat 32 Am.val) false 0 0
  | .suba _ l A Am => wordM l 0x19 2 A 0 (Fin.ofNat 32 Am.val) false 0 0
  | .nega _ l A => wordM l 0x19 3 A 0 0 false 0 0
  | .sha _ l sat A n => wordM l 0x19 4 A 0 0 sat 0 n.toNat
  | .ext _ l sat d A k => wordM l 0x19 5 A d 0 sat 0 k.val
  | .mval _ l d A => wordM l 0x19 6 A d 0 false 0 0
  | .mvah _ l d A => wordM l 0x19 7 A d 0 false 0 0
  | .mvag _ l d A => wordM l 0x19 8 A d 0 false 0 0
  | .mova _ l A x => wordM l 0x19 9 A x 0 false 0 0
  | .tapm _ l A pi pj => coreWord l 0x1A (A.val * 2 ^ 23 + pi.val * 2 ^ 19 + pj.val * 2 ^ 15)
  | .tapmZ _ l A pi pj => coreWord l 0x1A (A.val * 2 ^ 23 + pi.val * 2 ^ 19 + pj.val * 2 ^ 15 + 2 ^ 14)
  | .fadd _ l two sat d a b => wordF l 0 two sat d a b 0
  | .fsub _ l two sat d a b => wordF l 1 two sat d a b 0
  | .fmul _ l two sat d a b => wordF l 2 two sat d a b 0
  | .fma _ l two sat d a b e => wordF l 3 two sat d a b e
  | .fms _ l two sat d a b e => wordF l 4 two sat d a b e
  | .fmin _ l two sat d a b => wordF l 5 two sat d a b 0
  | .fmax _ l two sat d a b => wordF l 6 two sat d a b 0
  | .fabs _ l two d a => wordF l 7 two false d a 0 0
  | .fneg _ l two d a => wordF l 8 two false d a 0 0
  | .fcmp _ l a b => wordF l 9 false false 0 a b 0
  | .fcvtqf _ l two sat d a => wordF l 10 two sat d a 0 0
  | .fcvtfq _ l two d a => wordF l 11 two false d a 0 0
  | .fcvtif _ l two sat d a => wordF l 12 two sat d a 0 0
  | .fcvtfi _ l two d a => wordF l 13 two false d a 0 0
  | .frcp _ l two sat d a => wordF l 14 two sat d a 0 0
  | .frsq _ l two sat d a => wordF l 15 two sat d a 0 0
  | .br _ l cond off => coreWord l 0x1E (cond.val * 2 ^ 22 + off.toNat)
  | .call _ l off => coreWord l 0x1E (15 * 2 ^ 22 + off.toNat)
  | .nop _ l => coreWord l 0x1F 0
  | .ret _ l => coreWord l 0x1F (1 * 2 ^ 22)
  | .brr _ l pn => coreWord l 0x1F (2 * 2 ^ 22 + pn.val * 2 ^ 18)
  | .loop _ l count endw => coreWord l 0x1F (3 * 2 ^ 22 + endw.val * 2 ^ 12 + count.val)
  | .loopr _ l dn endw => coreWord l 0x1F (4 * 2 ^ 22 + endw.val * 2 ^ 12 + dn.val * 2 ^ 7)
  | .brk _ l => coreWord l 0x1F (5 * 2 ^ 22)
  | .rte1 _ l => coreWord l 0x1F (6 * 2 ^ 22)
  | .rte2 _ l => coreWord l 0x1F (7 * 2 ^ 22)
  | .idle _ l => coreWord l 0x1F (8 * 2 ^ 22)
  | .fence _ l => coreWord l 0x1F (9 * 2 ^ 22)
  | _ => none

end Sys2Proof
end

