-- ==== Sys2Proof/Config.lean ====
section
/-!
DEFINITION. What an implementation fixes and the spec leaves open: each is a constant with no body, so that nothing
proved of the model can rest on its value. A free value is taken as `Config.<name> <counter> …`, where the counter is
the plain State field `free`, read and advanced by the step (DESIGN CHOICE, log entry 2).
-/
namespace Sys2Proof.Config

/-- A free word: the value the engine delivers where the spec states that a value results but not which. -/
opaque freeWord : Nat → BitVec 32

/-- A free byte of the same kind. -/
opaque freeByte : Nat → BitVec 8

/-- A free natural number of the same kind, for a count or a measured time the spec does not state. -/
opaque freeNat : Nat → Nat

/-- A free integer of the same kind, for a signed measurement the spec does not state. -/
opaque freeInt : Nat → Int

/-- The MGP firmware's version that an Identify reply carries (R412); the spec does not give it. -/
opaque mgpVersion : BitVec 32

/-- The frequency, in 2^-16 ppb, that Kiln's loop asks for (R270), which gives its bandwidth and its peaking and not its coefficients: from a
counter, the bandwidth and measured offset of the reference that sets the rate, the bandwidth and phase error of the one that steers the
phase, and the frequency it stands at. -/
opaque kilnLoop : Nat → Nat → Int → Option (Nat × Int) → Int → Int

/-- The payload of a twin-link frame whose layout the spec does not give (R285): from its kind and a counter. -/
opaque twinPayload : Nat → Nat → List (BitVec 8)

/-- The coefficient, in 2^-30, by which a rate bridge weighs an input sample (R165), which gives the response and not the coefficients: from
the ratio tracked, the output instant's place between two input samples, and the tap. -/
opaque bridgeTap : BitVec 32 → BitVec 32 → Nat → Int

/-- The TAP instruction, modulo 4, that a code shifted in names (R448), which gives no codes: from the code and a counter. -/
opaque tapCode : List Bool → Nat → Nat

/-- What the TAP's instruction register and its boundary-scan register capture (R448), which gives neither their lengths nor their order. -/
opaque tapPins : Nat → List Bool

end Sys2Proof.Config
end

