-- ==== Sys2Proof/Machine/Regs.lean ====
section
/-!
DEFINITION. The register map: every register the chapters of spec/ tabulate, with its offset in the engine control
address space, its commit group, and each field's place, type (R15) and reset value (R13).
A register that comes in copies has one (stride, count) pair a dimension.
A reset value that the tables give as "fuse", "strap" or "kept" stands as 0 here: State.reset and the read of the
register supply it (SYS_IDENT, SYS_FUSE, SYS_STRAP, SYS_RESET_CAUSE).
`R.<register>.<field>` is the place of a field, `R.<register>.reg` the register's address; both take the copy's index.
-/
namespace Sys2Proof.Machine

/-- The eight field types of R15. -/
inductive FieldKind where
  | sh | lv | st | rw | ro | w1c | wo | sc
  deriving DecidableEq, Repr

/-- One field of a register table: its name, lowest bit, width, type and reset value. -/
structure FieldDesc where
  name : String
  lo : Nat
  w : Nat
  kind : FieldKind
  reset : Nat
  deriving DecidableEq, Repr

/-- The commit group of a register (R12): none, a fixed number, or 16 + c for a register of core c. -/
inductive Group where
  | none
  | num (n : Nat)
  | perCore
  deriving DecidableEq, Repr

/-- One row of the register map. -/
structure RegDesc where
  name : String
  base : Nat
  dims : List (Nat × Nat)
  group : Group
  fields : List FieldDesc
  deriving DecidableEq, Repr

/-- The place of a field: the register's address, the field's lowest bit and its width. -/
structure Loc where
  addr : Nat
  lo : Nat
  w : Nat
  deriving DecidableEq, Repr

/-- Registers of spec/00_scope.md. -/
def regsScope0 : List RegDesc := [
  ⟨"SYS_IDENT", 0, [], .none, [⟨"variant", 0, 16, .ro, 0⟩, ⟨"step_minor", 16, 4, .ro, 0⟩, ⟨"step_major", 20, 4, .ro, 0⟩]⟩,
  ⟨"SYS_FUSE", 4, [], .none, [⟨"core_count", 0, 5, .ro, 0⟩, ⟨"eth_ports", 5, 4, .ro, 0⟩, ⟨"tdm_ports", 9, 6, .ro, 0⟩, ⟨"pwm_channels", 15, 5, .ro, 0⟩, ⟨"cask_channels", 20, 2, .ro, 0⟩, ⟨"twin_capable", 22, 1, .ro, 0⟩, ⟨"sign_enforce", 23, 1, .ro, 0⟩, ⟨"grade_ind", 24, 1, .ro, 0⟩, ⟨"pkg_1156", 25, 1, .ro, 0⟩]⟩]

/-- Registers of spec/02_period_and_time.md. -/
def regsPeriodAndTime0 : List RegDesc := [
  ⟨"SYS_GRID", 0x100, [], .none, [⟨"fs_sel", 0, 2, .st, 1⟩, ⟨"n_log2", 4, 3, .st, 2⟩, ⟨"d_in", 8, 6, .st, 1⟩, ⟨"latency", 16, 6, .ro, 3⟩]⟩,
  ⟨"SYS_TIME_CAP", 0x104, [], .none, [⟨"capture", 0, 1, .sc, 0⟩, ⟨"unlocked", 1, 1, .ro, 0⟩, ⟨"time_set", 2, 1, .w1c, 0⟩, ⟨"time_sets", 8, 8, .ro, 0⟩]⟩,
  ⟨"SYS_CAP_SEC_LO", 0x108, [], .none, [⟨"sec_lo", 0, 32, .ro, 0⟩]⟩,
  ⟨"SYS_CAP_SEC_HI", 0x10C, [], .none, [⟨"sec_hi", 0, 16, .ro, 0⟩]⟩,
  ⟨"SYS_CAP_NS", 0x110, [], .none, [⟨"ns", 0, 30, .ro, 0⟩]⟩,
  ⟨"SYS_CAP_FRAC", 0x114, [], .none, [⟨"frac", 0, 16, .ro, 0⟩]⟩,
  ⟨"SYS_CAP_PN_LO", 0x118, [], .none, [⟨"pn_lo", 0, 32, .ro, 0⟩]⟩,
  ⟨"SYS_CAP_PN_HI", 0x11C, [], .none, [⟨"pn_hi", 0, 32, .ro, 0⟩]⟩,
  ⟨"SYS_CAP_OFS", 0x120, [], .none, [⟨"ofs", 0, 19, .ro, 0⟩]⟩,
  ⟨"SYS_POUT", 0x124, [], .none, [⟨"enable", 0, 1, .rw, 0⟩, ⟨"polarity", 1, 1, .rw, 0⟩, ⟨"div_log2", 4, 4, .rw, 0⟩, ⟨"width", 8, 8, .rw, 4⟩]⟩]

/-- Registers of spec/03_mash.md. -/
def regsMash0 : List RegDesc := [
  ⟨"MASH_STAT", 0x100000, [], .none, [⟨"running", 0, 1, .ro, 0⟩, ⟨"over_cap", 1, 1, .ro, 0⟩, ⟨"clip_any", 2, 1, .ro, 0⟩, ⟨"rejects", 3, 1, .w1c, 0⟩, ⟨"slots_busy", 16, 11, .ro, 0⟩]⟩,
  ⟨"MASH_XP_SPLIT", 0x100004, [], .none, [⟨"split1", 0, 15, .st, 0⟩, ⟨"split2", 16, 15, .st, 0x4000⟩]⟩,
  ⟨"MASH_PHASE", 0x100008, [], .none, [⟨"ph1_end", 0, 16, .st, 0x200⟩, ⟨"ph3_start", 16, 16, .st, 0x600⟩]⟩,
  ⟨"MASH_COST", 0x10000C, [], .none, [⟨"mac_per_sample", 0, 18, .ro, 0⟩]⟩,
  ⟨"MASH_DIPS", 0x100010, [], .none, [⟨"dips", 0, 32, .ro, 0⟩]⟩,
  ⟨"MASH_XFADES", 0x100014, [], .none, [⟨"xfades", 0, 32, .ro, 0⟩]⟩,
  ⟨"MASH_XSLOT_PEAK", 0x100018, [], .none, [⟨"slots_peak", 0, 11, .ro, 0⟩]⟩,
  ⟨"MASH_CTRL", 0x10001C, [], .none, [⟨"dly_hold", 0, 1, .lv, 0⟩]⟩,
  ⟨"MASH_CLIP", 0x104000, [(4, 225)], .none, [⟨"clip", 0, 32, .w1c, 0⟩]⟩,
  ⟨"MASH_SRC", 0x108000, [(4, 7168)], .num 10, [⟨"dc_en", 0, 1, .sh, 0⟩, ⟨"hp_en", 1, 1, .sh, 0⟩, ⟨"hp_corner", 2, 7, .sh, 0⟩, ⟨"cond_alloc", 9, 1, .st, 0⟩, ⟨"cond_live", 10, 1, .ro, 0⟩]⟩,
  ⟨"MASH_DST_GAIN", 0x110000, [(0x10, 7192)], .num 9, [⟨"trim", 0, 24, .sh, 0x100000⟩, ⟨"mute", 24, 1, .sh, 0⟩, ⟨"law", 25, 1, .sh, 0⟩, ⟨"dly_xfade", 26, 1, .st, 0⟩]⟩,
  ⟨"MASH_DST_CTL", 0x110004, [(0x10, 7192)], .num 9, [⟨"ramp_time", 0, 16, .sh, 0x1E0⟩, ⟨"glide_rate", 16, 16, .sh, 0x148⟩]⟩,
  ⟨"MASH_DST_DLY", 0x110008, [(0x10, 7192)], .none, [⟨"delay_int", 0, 21, .lv, 0⟩, ⟨"delay_frac", 21, 10, .lv, 0⟩]⟩,
  ⟨"MASH_DST_POOL", 0x11000C, [(0x10, 7192)], .none, [⟨"pool_base", 0, 15, .st, 0⟩, ⟨"frac_en", 15, 1, .st, 0⟩, ⟨"pool_len", 16, 16, .st, 0⟩]⟩,
  ⟨"MASH_XP_W0", 0x200000, [(0x10, 16384)], .num 8, [⟨"src", 0, 13, .sh, 0⟩, ⟨"dst", 16, 13, .sh, 0⟩, ⟨"enable", 29, 1, .sh, 0⟩, ⟨"polarity", 30, 1, .sh, 0⟩, ⟨"law", 31, 1, .sh, 0⟩]⟩,
  ⟨"MASH_XP_W1", 0x200004, [(0x10, 16384)], .num 8, [⟨"gain", 0, 24, .sh, 0⟩]⟩,
  ⟨"MASH_XP_W2", 0x200008, [(0x10, 16384)], .num 8, [⟨"ramp_time", 0, 16, .sh, 0⟩, ⟨"xf_lin", 16, 1, .sh, 0⟩]⟩,
  ⟨"MASH_XP_W3", 0x20000C, [(0x10, 16384)], .none, [⟨"phase", 0, 2, .ro, 0⟩, ⟨"slot", 2, 10, .ro, 0⟩, ⟨"dipped", 12, 1, .ro, 0⟩, ⟨"rejected", 13, 1, .ro, 0⟩]⟩]

/-- Registers of spec/04_stoteter_core.md. -/
def regsStoteterCore0 : List RegDesc := [
  ⟨"CORE_CTRL", 0x300000, [(0x10000, 16)], .none, [⟨"enable", 0, 1, .st, 0⟩, ⟨"halt", 1, 1, .sc, 0⟩, ⟨"resume", 2, 1, .sc, 0⟩, ⟨"step", 3, 1, .sc, 0⟩]⟩,
  ⟨"CORE_STAT", 0x300004, [(0x10000, 16)], .none, [⟨"state", 0, 3, .ro, 0⟩, ⟨"bank", 3, 1, .ro, 0⟩, ⟨"lsp", 4, 2, .ro, 0⟩, ⟨"overruns", 8, 8, .ro, 0⟩, ⟨"l1_peak", 16, 16, .ro, 0⟩]⟩,
  ⟨"CORE_CFG", 0x300008, [(0x10000, 16)], .none, [⟨"vbase", 0, 8, .st, 0⟩, ⟨"rnd", 8, 2, .st, 0⟩, ⟨"ftz", 10, 1, .st, 1⟩]⟩,
  ⟨"CORE_EVT", 0x30000C, [(0x10000, 16)], .none, [⟨"illegal", 0, 1, .w1c, 0⟩, ⟨"access", 1, 1, .w1c, 0⟩, ⟨"loop_ovf", 2, 1, .w1c, 0⟩, ⟨"dbl_fault", 3, 1, .w1c, 0⟩, ⟨"overrun", 4, 1, .w1c, 0⟩, ⟨"slice_ovr", 5, 1, .w1c, 0⟩, ⟨"debug", 6, 1, .w1c, 0⟩]⟩,
  ⟨"CORE_FAULT_PC", 0x300010, [(0x10000, 16)], .none, [⟨"pc", 0, 16, .ro, 0⟩, ⟨"cause", 16, 2, .ro, 0⟩]⟩,
  ⟨"CORE_PC", 0x300014, [(0x10000, 16)], .none, [⟨"pc", 0, 16, .ro, 0⟩]⟩,
  ⟨"CORE_BKPT", 0x300020, [(0x10000, 16), (4, 4)], .none, [⟨"en", 0, 1, .rw, 0⟩, ⟨"addr", 2, 14, .rw, 0⟩]⟩,
  ⟨"CORE_DBG_SEL", 0x300030, [(0x10000, 16)], .none, [⟨"num", 0, 8, .rw, 0⟩, ⟨"bank", 8, 1, .rw, 0⟩, ⟨"halt_en", 9, 1, .rw, 0⟩]⟩,
  ⟨"CORE_DBG_DATA", 0x300034, [(0x10000, 16)], .none, [⟨"data", 0, 32, .rw, 0⟩]⟩]

/-- Registers of spec/05_core_programs.md. -/
def regsCorePrograms0 : List RegDesc := [
  ⟨"CORE_SEND", 0x300100, [(0x10000, 16)], .none, [⟨"base", 0, 11, .st, 0⟩, ⟨"count", 16, 8, .st, 0⟩]⟩,
  ⟨"CORE_RET", 0x300104, [(0x10000, 16)], .none, [⟨"base", 0, 11, .st, 0⟩, ⟨"count", 16, 8, .st, 0⟩]⟩,
  ⟨"CORE_AREA", 0x300108, [(0x10000, 16)], .none, [⟨"base", 0, 11, .st, 0⟩]⟩,
  ⟨"CORE_PARAM", 0x30010C, [(0x10000, 16)], .none, [⟨"base", 0, 11, .st, 0⟩, ⟨"len", 16, 10, .st, 0⟩]⟩,
  ⟨"CORE_PSTAT", 0x300110, [(0x10000, 16)], .none, [⟨"active", 0, 1, .ro, 0⟩, ⟨"copy_busy", 1, 1, .ro, 0⟩, ⟨"postponed", 2, 1, .w1c, 0⟩, ⟨"swaps", 16, 16, .ro, 0⟩]⟩,
  ⟨"CORE_SLICE", 0x300120, [(0x10000, 16), (4, 8)], .none, [⟨"at", 0, 16, .st, 0⟩, ⟨"en", 16, 1, .st, 0⟩]⟩,
  ⟨"CORE_DMA_STAT", 0x300148, [(0x10000, 16)], .none, [⟨"rt_taken", 0, 8, .ro, 0⟩, ⟨"late", 8, 1, .w1c, 0⟩, ⟨"err", 9, 1, .w1c, 0⟩, ⟨"be_done", 16, 16, .ro, 0⟩]⟩,
  ⟨"CORE_RUN", 0x300150, [(0x10000, 16)], .none, [⟨"restart", 0, 1, .sc, 0⟩]⟩,
  ⟨"CORE_RSTAT", 0x300154, [(0x10000, 16)], .none, [⟨"misses", 0, 16, .ro, 0⟩, ⟨"last_taken", 16, 1, .ro, 0⟩, ⟨"muted", 17, 1, .ro, 0⟩]⟩,
  ⟨"CORE_MBOX_IN", 0x300180, [(0x10000, 16), (4, 8)], .none, [⟨"word", 0, 32, .wo, 0⟩]⟩,
  ⟨"CORE_MBOX_OUT", 0x3001A0, [(0x10000, 16), (4, 8)], .none, [⟨"word", 0, 32, .ro, 0⟩]⟩,
  ⟨"CORE_MBOX_STAT", 0x3001C0, [(0x10000, 16)], .none, [⟨"in_pend", 0, 1, .ro, 0⟩, ⟨"in_ovr", 1, 1, .w1c, 0⟩, ⟨"out_full", 2, 1, .w1c, 0⟩]⟩,
  ⟨"CORE_PWIN", 0x308000, [(0x10000, 16), (4, 8192)], .perCore, [⟨"word", 0, 32, .sh, 0⟩]⟩,
  ⟨"CORE_DMA_RT", 0x300140, [(0x10000, 16)], .none, [⟨"base", 0, 11, .st, 0⟩, ⟨"len", 16, 7, .st, 0⟩]⟩,
  ⟨"CORE_DMA_BE", 0x300144, [(0x10000, 16)], .none, [⟨"base", 0, 11, .st, 0⟩, ⟨"len", 16, 7, .st, 0⟩]⟩]

/-- Registers of spec/06_local_io.md. -/
def regsLocalIo0 : List RegDesc := [
  ⟨"XIO_GRP_CFG", 0x400000, [(0x10, 4)], .none, [⟨"master", 0, 1, .st, 1⟩, ⟨"domain", 1, 2, .st, 0⟩, ⟨"slots_m1", 3, 5, .st, 1⟩, ⟨"slot_width", 8, 2, .st, 2⟩, ⟨"fs_mode", 10, 2, .st, 0⟩, ⟨"fs_delay", 12, 1, .st, 0⟩, ⟨"fs_pol", 13, 1, .st, 0⟩, ⟨"bclk_pol", 14, 1, .st, 0⟩, ⟨"mclk_en", 15, 1, .st, 0⟩, ⟨"mclk_early", 16, 1, .st, 0⟩]⟩,
  ⟨"XIO_GRP_STAT", 0x400004, [(0x10, 4)], .none, [⟨"running", 0, 1, .ro, 0⟩, ⟨"clk_ok", 1, 1, .ro, 0⟩, ⟨"frame_err", 2, 1, .w1c, 0⟩, ⟨"fill", 3, 3, .ro, 0⟩, ⟨"slips", 16, 16, .ro, 0⟩]⟩,
  ⟨"XIO_GRP_PHASE", 0x400008, [(0x10, 4)], .none, [⟨"phase", 0, 32, .ro, 0⟩]⟩,
  ⟨"XIO_PORT", 0x400100, [(4, 32)], .none, [⟨"win", 0, 2, .st, 1⟩, ⟨"wout", 2, 2, .st, 1⟩, ⟨"in_en", 4, 1, .st, 0⟩, ⟨"out_en", 5, 1, .st, 0⟩, ⟨"out_hiz", 6, 1, .st, 0⟩]⟩,
  ⟨"XIO_DOM", 0x400200, [(4, 2)], .none, [⟨"src", 0, 2, .st, 0⟩, ⟨"grp", 2, 2, .st, 0⟩, ⟨"rate", 4, 3, .st, 2⟩, ⟨"pull", 7, 1, .st, 0⟩, ⟨"locked", 8, 1, .ro, 0⟩]⟩,
  ⟨"XIO_BR_CFG", 0x402000, [(0x10, 256)], .none, [⟨"en", 0, 1, .st, 0⟩, ⟨"dir", 1, 1, .st, 0⟩, ⟨"slot", 2, 5, .st, 0⟩, ⟨"port", 7, 5, .st, 0⟩, ⟨"gd_target", 16, 8, .st, 0⟩]⟩,
  ⟨"XIO_BR_STAT", 0x402004, [(0x10, 256)], .none, [⟨"locked", 0, 1, .ro, 0⟩, ⟨"unlocked_evt", 1, 1, .w1c, 0⟩, ⟨"unlocks", 16, 16, .ro, 0⟩]⟩,
  ⟨"XIO_BR_GD", 0x402008, [(0x10, 256)], .none, [⟨"gd", 0, 32, .ro, 0⟩]⟩,
  ⟨"XIO_BR_RATIO", 0x40200C, [(0x10, 256)], .none, [⟨"ratio", 0, 32, .ro, 0⟩]⟩,
  ⟨"XIO_IMAP", 0x401000, [(4, 512)], .none, [⟨"slot", 0, 5, .st, 0⟩, ⟨"port", 5, 5, .st, 0⟩, ⟨"en", 15, 1, .st, 0⟩, ⟨"valid", 16, 1, .ro, 0⟩]⟩,
  ⟨"XIO_OMAP", 0x401800, [(4, 512)], .none, [⟨"slot", 0, 5, .st, 0⟩, ⟨"port", 5, 5, .st, 0⟩, ⟨"en", 15, 1, .st, 0⟩, ⟨"valid", 16, 1, .ro, 0⟩]⟩]

/-- Registers of spec/07_power_stage.md. -/
def regsPowerStage0 : List RegDesc := [
  ⟨"PWM_CFG", 0x480000, [], .none, [⟨"boot_time", 0, 8, .st, 0xA⟩, ⟨"ramp_ms", 8, 8, .st, 0xA⟩, ⟨"min_pulse", 16, 5, .st, 8⟩, ⟨"ss_en", 21, 1, .st, 0⟩]⟩,
  ⟨"PWM_HICCUP", 0x480004, [], .none, [⟨"hiccup", 0, 16, .st, 0x1F4⟩]⟩,
  ⟨"PWM_STAT", 0x480008, [], .none, [⟨"switching", 0, 24, .ro, 0⟩]⟩,
  ⟨"PWM_LATCHED", 0x48000C, [], .none, [⟨"latched", 0, 24, .ro, 0⟩]⟩,
  ⟨"PWM_CH_CFG", 0x480100, [(0x10, 24)], .none, [⟨"en", 0, 1, .st, 0⟩, ⟨"dead", 1, 4, .st, 4⟩, ⟨"phase", 5, 4, .st, 0⟩, ⟨"deglitch", 9, 3, .st, 1⟩]⟩,
  ⟨"PWM_CH_STAT", 0x480104, [(0x10, 24)], .none, [⟨"state", 0, 3, .ro, 0⟩, ⟨"retry", 3, 1, .ro, 0⟩, ⟨"ocf", 4, 1, .ro, 0⟩, ⟨"trip_evt", 5, 1, .w1c, 0⟩, ⟨"clip", 6, 1, .w1c, 0⟩, ⟨"latch_evt", 7, 1, .w1c, 0⟩, ⟨"retries", 8, 3, .ro, 0⟩, ⟨"trips", 16, 16, .ro, 0⟩]⟩,
  ⟨"PWM_CH_CMD", 0x480108, [(0x10, 24)], .none, [⟨"clear", 0, 1, .sc, 0⟩]⟩,
  ⟨"PWM_CH_GAIN", 0x48010C, [(0x10, 24)], .none, [⟨"lim_gain", 0, 17, .ro, 0x10000⟩]⟩,
  ⟨"PWM_RAIL_CFG", 0x480400, [(0x10, 8)], .none, [⟨"rail_nom", 0, 12, .st, 0⟩, ⟨"sag_thr", 16, 12, .st, 0⟩]⟩,
  ⟨"PWM_RAIL_LIM", 0x480404, [(0x10, 8)], .none, [⟨"attack", 0, 7, .st, 0xA⟩, ⟨"release", 8, 8, .st, 0xA⟩, ⟨"lim_head", 16, 8, .st, 0xF3⟩]⟩,
  ⟨"PWM_RAIL_MIN", 0x480408, [(0x10, 8)], .none, [⟨"rail_min", 0, 12, .st, 0⟩]⟩,
  ⟨"PWM_RAIL_STAT", 0x48040C, [(0x10, 8)], .none, [⟨"v", 0, 12, .ro, 0⟩, ⟨"low", 12, 1, .ro, 0⟩, ⟨"sag", 13, 1, .ro, 0⟩, ⟨"low_evt", 14, 1, .w1c, 0⟩]⟩]

/-- Registers of spec/08_ethernet_ports.md. -/
def regsEthernetPorts0 : List RegDesc := [
  ⟨"ETH_PCFG", 0x40000, [(0x2000, 8)], .none, [⟨"en", 0, 1, .st, 0⟩, ⟨"speed", 1, 1, .st, 0⟩, ⟨"fec", 2, 1, .st, 0⟩, ⟨"bridge", 3, 1, .st, 0⟩, ⟨"learn", 4, 1, .st, 0⟩, ⟨"cut", 5, 1, .st, 0⟩, ⟨"wake_en", 6, 1, .st, 0⟩, ⟨"bcast", 7, 1, .st, 1⟩, ⟨"pvid", 8, 12, .st, 1⟩, ⟨"ingress_filter", 20, 1, .st, 1⟩]⟩,
  ⟨"ETH_MAXLEN", 0x40004, [(0x2000, 8)], .none, [⟨"maxlen", 0, 14, .st, 0x2400⟩]⟩,
  ⟨"ETH_PSTAT", 0x40008, [(0x2000, 8)], .none, [⟨"link", 0, 1, .ro, 0⟩, ⟨"blk_lock", 1, 1, .ro, 0⟩, ⟨"fec_align", 2, 1, .ro, 0⟩, ⟨"rx_lpi", 3, 1, .ro, 0⟩, ⟨"tx_lpi", 4, 1, .ro, 0⟩, ⟨"pre_state", 5, 2, .ro, 0⟩, ⟨"link_evt", 7, 1, .w1c, 0⟩, ⟨"lfault", 8, 1, .ro, 0⟩, ⟨"rfault", 9, 1, .ro, 0⟩]⟩,
  ⟨"ETH_PCP_MAP", 0x4000C, [(0x2000, 8)], .none, [⟨"map", 0, 24, .st, 0xFAC681⟩, ⟨"pcp_def", 24, 3, .st, 0⟩]⟩,
  ⟨"ETH_PREEMPT", 0x40018, [(0x2000, 8)], .none, [⟨"en", 0, 1, .st, 0⟩, ⟨"verify_dis", 1, 1, .st, 0⟩, ⟨"frag", 2, 2, .st, 0⟩, ⟨"express", 8, 8, .st, 0xE0⟩, ⟨"verify_time", 16, 8, .st, 0xA⟩]⟩,
  ⟨"ETH_EEE", 0x4001C, [(0x2000, 8)], .none, [⟨"en", 0, 1, .st, 0⟩, ⟨"tw_tx", 1, 7, .rw, 0⟩, ⟨"idle", 8, 16, .st, 0x64⟩]⟩,
  ⟨"ETH_STORM", 0x40020, [(0x2000, 8), (4, 3)], .none, [⟨"rate", 0, 16, .rw, 0xFFFF⟩, ⟨"burst", 16, 16, .rw, 0x400⟩]⟩,
  ⟨"ETH_GCTL", 0x40030, [(0x2000, 8)], .num 4, [⟨"en", 0, 1, .sh, 0⟩, ⟨"cycle_m1", 1, 6, .sh, 0⟩, ⟨"len_m1", 8, 6, .sh, 0⟩, ⟨"list_err", 16, 1, .w1c, 0⟩]⟩,
  ⟨"ETH_GCL", 0x40100, [(0x2000, 8), (4, 64)], .num 4, [⟨"gates", 0, 8, .sh, 0xFF⟩, ⟨"interval", 8, 24, .sh, 0⟩]⟩,
  ⟨"ETH_DAHASH", 0x40400, [(0x2000, 8), (4, 16)], .none, [⟨"bins", 0, 32, .rw, 0⟩]⟩,
  ⟨"ETH_BR_CFG", 0x50000, [], .none, [⟨"age", 0, 16, .rw, 0x12C⟩, ⟨"seed", 16, 16, .st, 0⟩]⟩,
  ⟨"ETH_BR_STAT", 0x50004, [], .none, [⟨"fdb_used", 0, 13, .ro, 0⟩, ⟨"cam_used", 16, 7, .ro, 0⟩, ⟨"learn_full", 24, 1, .w1c, 0⟩]⟩,
  ⟨"ETH_FDB_CMD", 0x50008, [], .none, [⟨"index", 0, 13, .rw, 0⟩, ⟨"op", 13, 3, .rw, 0⟩, ⟨"go", 16, 1, .sc, 0⟩, ⟨"err", 17, 1, .ro, 0⟩, ⟨"valid", 18, 1, .ro, 0⟩, ⟨"static", 19, 1, .ro, 0⟩]⟩,
  ⟨"ETH_BR_LEARN_FAIL", 0x50014, [], .none, [⟨"fails", 0, 32, .ro, 0⟩]⟩,
  ⟨"ETH_WAKE_STAT", 0x50018, [], .none, [⟨"filter", 0, 4, .ro, 0⟩, ⟨"port", 4, 3, .ro, 0⟩, ⟨"woke", 7, 1, .w1c, 0⟩]⟩,
  ⟨"ETH_WAKE_MASK", 0x50800, [(0x20, 16), (4, 4)], .none, [⟨"mask", 0, 32, .rw, 0⟩]⟩,
  ⟨"ETH_WAKE_CHK", 0x50810, [(0x20, 16)], .none, [⟨"chk", 0, 16, .rw, 0⟩, ⟨"ports", 16, 8, .rw, 0⟩, ⟨"en", 24, 1, .rw, 0⟩]⟩,
  ⟨"ETH_VLAN0", 0x54000, [], .num 5, [⟨"member", 0, 8, .sh, 0⟩, ⟨"untag", 8, 8, .sh, 0⟩]⟩,
  ⟨"ETH_VLAN1", 0x54004, [], .num 5, [⟨"member", 0, 8, .sh, 0xFF⟩, ⟨"untag", 8, 8, .sh, 0xFF⟩]⟩,
  ⟨"ETH_VLANn", 0x54008, [(4, 4094)], .num 5, [⟨"member", 0, 8, .sh, 0⟩, ⟨"untag", 8, 8, .sh, 0⟩]⟩,
  ⟨"ETH_BR_STR_W0", 0x58000, [(0x10, 1024)], .num 5, [⟨"da_lo", 0, 32, .sh, 0⟩]⟩,
  ⟨"ETH_BR_STR_W1", 0x58004, [(0x10, 1024)], .num 5, [⟨"da_hi", 0, 16, .sh, 0⟩, ⟨"vid", 16, 12, .sh, 0⟩, ⟨"en", 28, 1, .sh, 0⟩]⟩,
  ⟨"ETH_BR_STR_W2", 0x58008, [(0x10, 1024)], .num 5, [⟨"ports", 0, 9, .sh, 0⟩, ⟨"tc", 9, 3, .sh, 5⟩, ⟨"max_len", 16, 14, .sh, 0⟩]⟩,
  ⟨"ETH_MAC_LO", 0x40010, [(0x2000, 8)], .none, [⟨"mac", 0, 32, .st, 0⟩]⟩]

/-- Registers of spec/08_ethernet_ports.md. -/
def regsEthernetPorts1 : List RegDesc := [
  ⟨"ETH_MAC_HI", 0x40014, [(0x2000, 8)], .none, [⟨"mac", 0, 16, .st, 0⟩]⟩,
  ⟨"ETH_DAF_LO", 0x40200, [(0x2000, 8), (8, 64)], .none, [⟨"mac", 0, 32, .rw, 0⟩]⟩,
  ⟨"ETH_DAF_HI", 0x40204, [(0x2000, 8), (8, 64)], .none, [⟨"mac", 0, 16, .rw, 0⟩, ⟨"en", 16, 1, .rw, 0⟩]⟩,
  ⟨"ETH_RX_FRAMES", 0x41000, [(0x2000, 8)], .none, [⟨"count", 0, 32, .ro, 0⟩]⟩,
  ⟨"ETH_RX_BYTES", 0x41004, [(0x2000, 8)], .none, [⟨"count", 0, 32, .ro, 0⟩]⟩,
  ⟨"ETH_RX_FCS_ERR", 0x41008, [(0x2000, 8)], .none, [⟨"count", 0, 32, .ro, 0⟩]⟩,
  ⟨"ETH_RX_RUNT", 0x4100C, [(0x2000, 8)], .none, [⟨"count", 0, 32, .ro, 0⟩]⟩,
  ⟨"ETH_RX_TRUNC", 0x41010, [(0x2000, 8)], .none, [⟨"count", 0, 32, .ro, 0⟩]⟩,
  ⟨"ETH_RX_CTRL", 0x41014, [(0x2000, 8)], .none, [⟨"count", 0, 32, .ro, 0⟩]⟩,
  ⟨"ETH_RX_FEC_CORR", 0x41018, [(0x2000, 8)], .none, [⟨"count", 0, 32, .ro, 0⟩]⟩,
  ⟨"ETH_RX_FEC_UNCORR", 0x4101C, [(0x2000, 8)], .none, [⟨"count", 0, 32, .ro, 0⟩]⟩,
  ⟨"ETH_RX_SMD_ERR", 0x41020, [(0x2000, 8)], .none, [⟨"count", 0, 32, .ro, 0⟩]⟩,
  ⟨"ETH_RX_VLAN_DROP", 0x41024, [(0x2000, 8)], .none, [⟨"count", 0, 32, .ro, 0⟩]⟩,
  ⟨"ETH_RX_STORM_DROP", 0x41028, [(0x2000, 8)], .none, [⟨"count", 0, 32, .ro, 0⟩]⟩,
  ⟨"ETH_TX_FRAMES", 0x41030, [(0x2000, 8)], .none, [⟨"count", 0, 32, .ro, 0⟩]⟩,
  ⟨"ETH_TX_BYTES", 0x41034, [(0x2000, 8)], .none, [⟨"count", 0, 32, .ro, 0⟩]⟩,
  ⟨"ETH_TX_TRUNC", 0x41038, [(0x2000, 8)], .none, [⟨"count", 0, 32, .ro, 0⟩]⟩,
  ⟨"ETH_TX_GATE_DROP", 0x4103C, [(0x2000, 8)], .none, [⟨"count", 0, 32, .ro, 0⟩]⟩,
  ⟨"ETH_TX_LINK_DROP", 0x41040, [(0x2000, 8)], .none, [⟨"count", 0, 32, .ro, 0⟩]⟩,
  ⟨"ETH_TX_QDROP", 0x41044, [(0x2000, 8)], .none, [⟨"count", 0, 32, .ro, 0⟩]⟩,
  ⟨"ETH_TX_PREEMPT", 0x41048, [(0x2000, 8)], .none, [⟨"count", 0, 32, .ro, 0⟩]⟩,
  ⟨"ETH_TX_CUT", 0x4104C, [(0x2000, 8)], .none, [⟨"count", 0, 32, .ro, 0⟩]⟩,
  ⟨"ETH_TX_STOMP", 0x41050, [(0x2000, 8)], .none, [⟨"count", 0, 32, .ro, 0⟩]⟩,
  ⟨"ETH_LPI_ENTRIES", 0x41054, [(0x2000, 8)], .none, [⟨"count", 0, 32, .ro, 0⟩]⟩]

/-- Registers of spec/08_ethernet_ports.md. -/
def regsEthernetPorts2 : List RegDesc := [
  ⟨"ETH_FDB_DATA0", 0x5000C, [], .none, [⟨"mac", 0, 32, .rw, 0⟩]⟩,
  ⟨"ETH_FDB_DATA1", 0x50010, [], .none, [⟨"mac", 0, 16, .rw, 0⟩, ⟨"vid", 16, 12, .rw, 0⟩, ⟨"port", 28, 3, .rw, 0⟩]⟩,
  ⟨"ETH_LQ_BASE", 0x50100, [(0x10, 4)], .none, [⟨"base", 0, 32, .st, 0⟩]⟩,
  ⟨"ETH_LQ_CFG", 0x50104, [(0x10, 4)], .none, [⟨"base_hi", 0, 8, .st, 0⟩, ⟨"len", 8, 13, .st, 0⟩]⟩,
  ⟨"ETH_LQ_IDX", 0x50108, [(0x10, 4)], .none, [⟨"eidx", 0, 12, .ro, 0⟩, ⟨"sidx", 16, 12, .rw, 0⟩]⟩,
  ⟨"ETH_LQ_DROP", 0x5010C, [(0x10, 4)], .none, [⟨"drops", 0, 32, .ro, 0⟩]⟩]

/-- Registers of spec/09_streams.md. -/
def regsStreams0 : List RegDesc := [
  ⟨"SXE_CTRL", 0x80000, [], .none, [⟨"host_unk", 0, 1, .rw, 0⟩]⟩,
  ⟨"SXE_STAT", 0x80004, [], .none, [⟨"running", 0, 1, .ro, 0⟩, ⟨"over_store", 1, 1, .ro, 0⟩, ⟨"over_stage", 2, 1, .ro, 0⟩, ⟨"rejects", 3, 1, .w1c, 0⟩]⟩,
  ⟨"SXE_RX_UNKNOWN", 0x80018, [], .none, [⟨"unknown", 0, 32, .ro, 0⟩]⟩,
  ⟨"SXE_IN_CTL", 0x90000, [(0x40, 1024)], .num 6, [⟨"en", 0, 1, .sh, 0⟩, ⟨"fmt", 1, 2, .sh, 0⟩, ⟨"subst", 3, 2, .sh, 2⟩, ⟨"sil_missing", 5, 1, .sh, 0⟩, ⟨"ssrc_chk", 6, 1, .sh, 0⟩, ⟨"ipv6", 7, 1, .sh, 0⟩, ⟨"ports", 8, 8, .sh, 0⟩, ⟨"hist_m1", 16, 5, .sh, 7⟩, ⟨"wid", 22, 2, .sh, 2⟩, ⟨"ch_m1", 24, 6, .sh, 0⟩]⟩,
  ⟨"SXE_IN_MAP", 0x90004, [(0x40, 1024)], .num 6, [⟨"ch_base", 0, 12, .sh, 0⟩, ⟨"pt", 12, 7, .sh, 0⟩]⟩,
  ⟨"SXE_IN_ID", 0x90008, [(0x40, 1024), (4, 4)], .num 6, [⟨"id", 0, 32, .sh, 0⟩]⟩,
  ⟨"SXE_IN_UDP", 0x90018, [(0x40, 1024)], .num 6, [⟨"udp_dst", 0, 16, .sh, 0⟩, ⟨"reset_p", 16, 16, .sh, 0x100⟩]⟩,
  ⟨"SXE_IN_STATE", 0xA0020, [(0x40, 1024)], .none, [⟨"synced", 0, 1, .ro, 0⟩, ⟨"sub_now", 1, 1, .ro, 0⟩, ⟨"rejected", 2, 1, .ro, 0⟩, ⟨"gen", 8, 8, .ro, 0⟩, ⟨"rseq", 16, 16, .ro, 0⟩]⟩,
  ⟨"SXE_EG_CTL", 0xB0000, [(0x40, 1024)], .num 7, [⟨"en", 0, 1, .sh, 0⟩, ⟨"fmt", 1, 2, .sh, 0⟩, ⟨"a_en", 3, 1, .sh, 0⟩, ⟨"b_en", 4, 1, .sh, 0⟩, ⟨"wid", 5, 2, .sh, 2⟩, ⟨"vlan_en", 7, 1, .sh, 1⟩, ⟨"port_a", 8, 3, .sh, 0⟩, ⟨"port_b", 11, 3, .sh, 0⟩, ⟨"pcp", 14, 3, .sh, 3⟩, ⟨"ch_m1", 17, 6, .sh, 0⟩, ⟨"spp_m1", 23, 7, .sh, 0⟩]⟩,
  ⟨"SXE_EG_MAP", 0xB0004, [(0x40, 1024)], .num 7, [⟨"ch_base", 0, 12, .sh, 0⟩, ⟨"vid", 12, 12, .sh, 1⟩, ⟨"ipv6", 24, 1, .sh, 0⟩, ⟨"pt", 25, 7, .sh, 0⟩]⟩,
  ⟨"SXE_STORE", 0x80008, [], .none, [⟨"bytes", 0, 23, .ro, 0⟩]⟩,
  ⟨"SXE_STAGE", 0x8000C, [], .none, [⟨"bytes", 0, 21, .ro, 0⟩]⟩,
  ⟨"SXE_VENDOR_LO", 0x80010, [], .none, [⟨"vendor", 0, 32, .ro, 0xC007400⟩]⟩,
  ⟨"SXE_VENDOR_HI", 0x80014, [], .none, [⟨"vendor", 0, 16, .ro, 0x7AE1⟩]⟩,
  ⟨"SXE_IN_SSRC", 0x9001C, [(0x40, 1024)], .num 6, [⟨"ssrc", 0, 32, .sh, 0⟩]⟩,
  ⟨"SXE_IN_RTPOFS", 0x90020, [(0x40, 1024)], .num 6, [⟨"rtp_ofs", 0, 32, .sh, 0⟩]⟩,
  ⟨"SXE_IN_TSOFS", 0x90024, [(0x40, 1024)], .num 6, [⟨"ts_ofs", 0, 16, .sh, 0⟩]⟩,
  ⟨"SXE_IN_ACC", 0xA0000, [(0x40, 1024)], .none, [⟨"count", 0, 32, .ro, 0⟩]⟩,
  ⟨"SXE_IN_DUP", 0xA0004, [(0x40, 1024)], .none, [⟨"count", 0, 32, .ro, 0⟩]⟩,
  ⟨"SXE_IN_LATE", 0xA0008, [(0x40, 1024)], .none, [⟨"count", 0, 32, .ro, 0⟩]⟩,
  ⟨"SXE_IN_EARLY", 0xA000C, [(0x40, 1024)], .none, [⟨"count", 0, 32, .ro, 0⟩]⟩,
  ⟨"SXE_IN_MALFORMED", 0xA0010, [(0x40, 1024)], .none, [⟨"count", 0, 32, .ro, 0⟩]⟩,
  ⟨"SXE_IN_ROGUE", 0xA0014, [(0x40, 1024)], .none, [⟨"count", 0, 32, .ro, 0⟩]⟩,
  ⟨"SXE_IN_SUBST", 0xA0018, [(0x40, 1024)], .none, [⟨"count", 0, 32, .ro, 0⟩]⟩]

/-- Registers of spec/09_streams.md. -/
def regsStreams1 : List RegDesc := [
  ⟨"SXE_IN_SILENT", 0xA001C, [(0x40, 1024)], .none, [⟨"count", 0, 32, .ro, 0⟩]⟩,
  ⟨"SXE_EG_DMAC_LO", 0xB0008, [(0x40, 1024)], .num 7, [⟨"dmac", 0, 32, .sh, 0⟩]⟩,
  ⟨"SXE_EG_DMAC_HI", 0xB000C, [(0x40, 1024)], .num 7, [⟨"dmac", 0, 16, .sh, 0⟩, ⟨"udp_dst", 16, 16, .sh, 0⟩]⟩,
  ⟨"SXE_EG_ID", 0xB0010, [(0x40, 1024), (4, 4)], .num 7, [⟨"id", 0, 32, .sh, 0⟩]⟩,
  ⟨"SXE_EG_SRC", 0xB0020, [(0x40, 1024), (4, 4)], .num 7, [⟨"addr", 0, 32, .sh, 0⟩]⟩,
  ⟨"SXE_EG_SSRC", 0xB0030, [(0x40, 1024)], .num 7, [⟨"ssrc", 0, 32, .sh, 0⟩]⟩,
  ⟨"SXE_EG_RTPOFS", 0xB0034, [(0x40, 1024)], .num 7, [⟨"rtp_ofs", 0, 32, .sh, 0⟩]⟩,
  ⟨"SXE_EG_TSOFS", 0xB0038, [(0x40, 1024)], .num 7, [⟨"ts_ofs", 0, 16, .sh, 0⟩, ⟨"udp_src", 16, 16, .sh, 0⟩]⟩,
  ⟨"SXE_EG_IP", 0xB003C, [(0x40, 1024)], .num 7, [⟨"ttl", 0, 8, .sh, 0⟩, ⟨"dscp", 8, 6, .sh, 0⟩]⟩,
  ⟨"SXE_EG_SENT_A", 0xC0000, [(0x10, 1024)], .none, [⟨"count", 0, 32, .ro, 0⟩]⟩,
  ⟨"SXE_EG_SENT_B", 0xC0004, [(0x10, 1024)], .none, [⟨"count", 0, 32, .ro, 0⟩]⟩,
  ⟨"SXE_EG_LATE", 0xC0008, [(0x10, 1024)], .none, [⟨"count", 0, 32, .ro, 0⟩]⟩,
  ⟨"SXE_EG_STATE", 0xC000C, [(0x10, 1024)], .none, [⟨"gen", 0, 8, .ro, 0⟩, ⟨"running", 8, 1, .ro, 0⟩, ⟨"rejected", 9, 1, .ro, 0⟩]⟩]

/-- Registers of spec/10_network_time.md. -/
def regsNetworkTime0 : List RegDesc := [
  ⟨"PTP_CTRL", 0x20000, [], .none, [⟨"tc_mode", 0, 2, .rw, 0⟩, ⟨"log_en", 2, 1, .rw, 0⟩, ⟨"log_other", 3, 1, .rw, 0⟩]⟩,
  ⟨"PTP_STAT", 0x20004, [], .none, [⟨"source", 0, 2, .ro, 0⟩, ⟨"set_pending", 2, 1, .ro, 0⟩, ⟨"beyond", 3, 1, .w1c, 0⟩]⟩,
  ⟨"PTP_DOM_CFG", 0x20100, [(0x100, 2)], .none, [⟨"en", 0, 1, .rw, 0⟩, ⟨"dom_num", 1, 8, .rw, 0⟩, ⟨"profile", 9, 1, .rw, 0⟩, ⟨"transport", 10, 2, .rw, 0⟩, ⟨"p2p", 12, 1, .rw, 0⟩, ⟨"one_step", 13, 1, .rw, 0⟩, ⟨"sync_log", 14, 4, .rw, 0xD⟩, ⟨"dreq_log", 18, 4, .rw, 0xD⟩, ⟨"step_en", 22, 1, .rw, 1⟩]⟩,
  ⟨"PTP_DOM_PORTS", 0x20104, [(0x100, 2)], .none, [⟨"state", 0, 24, .rw, 0⟩]⟩,
  ⟨"PTP_DOM_FILT", 0x20114, [(0x100, 2)], .none, [⟨"pd_avg", 0, 4, .rw, 4⟩, ⟨"outlier", 4, 16, .rw, 0x3E8⟩, ⟨"sync_to", 20, 4, .rw, 3⟩]⟩,
  ⟨"PTP_DOM_STEP", 0x20118, [(0x100, 2)], .none, [⟨"set_thr", 0, 24, .rw, 0x64⟩, ⟨"step_hold", 24, 8, .rw, 3⟩]⟩,
  ⟨"PTP_DOM_CMD", 0x2011C, [(0x100, 2)], .none, [⟨"reset", 0, 1, .sc, 0⟩]⟩,
  ⟨"PTP_DOM_STAT", 0x20130, [(0x100, 2)], .none, [⟨"valid", 0, 1, .ro, 0⟩, ⟨"mpd_ok", 1, 1, .ro, 0⟩, ⟨"acc", 16, 16, .ro, 0⟩]⟩,
  ⟨"PTP_DOM_AS", 0x20148, [(0x100, 2), (4, 5)], .none, [⟨"tlv", 0, 32, .rw, 0⟩]⟩,
  ⟨"PTP_PORT_CFG", 0x20800, [(0x20, 8)], .none, [⟨"pdelay_en", 0, 1, .rw, 0⟩, ⟨"pdelay_log", 1, 4, .rw, 0⟩, ⟨"pdelay_dom", 5, 8, .rw, 0⟩, ⟨"transport", 13, 2, .rw, 0⟩]⟩,
  ⟨"PTP_PORT_LDSTAT", 0x20814, [(0x20, 8)], .none, [⟨"ld_valid", 0, 1, .ro, 0⟩, ⟨"lost", 16, 16, .ro, 0⟩]⟩,
  ⟨"PTP_FOREIGN", 0x20008, [], .none, [⟨"count", 0, 32, .ro, 0⟩]⟩,
  ⟨"PTP_BAD", 0x2000C, [], .none, [⟨"count", 0, 32, .ro, 0⟩]⟩,
  ⟨"PTP_TC_DROP", 0x20010, [], .none, [⟨"count", 0, 32, .ro, 0⟩]⟩,
  ⟨"PTP_CLOCK_ID_LO", 0x20014, [], .none, [⟨"id", 0, 32, .rw, 0⟩]⟩,
  ⟨"PTP_CLOCK_ID_HI", 0x20018, [], .none, [⟨"id", 0, 32, .rw, 0⟩]⟩,
  ⟨"PTP_LOG_BASE", 0x20020, [], .none, [⟨"base", 0, 32, .rw, 0⟩]⟩,
  ⟨"PTP_LOG_CFG", 0x20024, [], .none, [⟨"base_hi", 0, 8, .rw, 0⟩, ⟨"len", 8, 13, .rw, 0⟩]⟩,
  ⟨"PTP_LOG_IDX", 0x20028, [], .none, [⟨"eidx", 0, 12, .ro, 0⟩, ⟨"sidx", 16, 12, .rw, 0⟩]⟩,
  ⟨"PTP_LOG_DROP", 0x2002C, [], .none, [⟨"drops", 0, 32, .ro, 0⟩]⟩,
  ⟨"PTP_DOM_PARENT_LO", 0x20108, [(0x100, 2)], .none, [⟨"id", 0, 32, .rw, 0⟩]⟩,
  ⟨"PTP_DOM_PARENT_HI", 0x2010C, [(0x100, 2)], .none, [⟨"id", 0, 32, .rw, 0⟩]⟩,
  ⟨"PTP_DOM_PARENT_PORT", 0x20110, [(0x100, 2)], .none, [⟨"port", 0, 16, .rw, 0⟩]⟩,
  ⟨"PTP_DOM_OFS_LO", 0x20120, [(0x100, 2)], .none, [⟨"e", 0, 32, .ro, 0⟩]⟩]

/-- Registers of spec/10_network_time.md. -/
def regsNetworkTime1 : List RegDesc := [
  ⟨"PTP_DOM_OFS_HI", 0x20124, [(0x100, 2)], .none, [⟨"e", 0, 32, .ro, 0⟩]⟩,
  ⟨"PTP_DOM_MPD", 0x20128, [(0x100, 2)], .none, [⟨"mpd", 0, 32, .ro, 0⟩]⟩,
  ⟨"PTP_DOM_RATIO", 0x2012C, [(0x100, 2)], .none, [⟨"ratio", 0, 32, .ro, 0⟩]⟩,
  ⟨"PTP_DOM_OUTLIER", 0x20134, [(0x100, 2)], .none, [⟨"count", 0, 32, .ro, 0⟩]⟩,
  ⟨"PTP_DOM_NOFU", 0x20138, [(0x100, 2)], .none, [⟨"count", 0, 32, .ro, 0⟩]⟩,
  ⟨"PTP_DOM_NOTPARENT", 0x2013C, [(0x100, 2)], .none, [⟨"count", 0, 32, .ro, 0⟩]⟩,
  ⟨"PTP_DOM_SYNC_TX", 0x20140, [(0x100, 2)], .none, [⟨"count", 0, 32, .ro, 0⟩]⟩,
  ⟨"PTP_PORT_FIX", 0x20804, [(0x20, 8)], .none, [⟨"rx_fix", 0, 16, .rw, 0⟩, ⟨"tx_fix", 16, 16, .rw, 0⟩]⟩,
  ⟨"PTP_PORT_ASYM", 0x20808, [(0x20, 8)], .none, [⟨"asym", 0, 32, .rw, 0⟩]⟩,
  ⟨"PTP_PORT_LAT", 0x2080C, [(0x20, 8)], .none, [⟨"rx", 0, 16, .ro, 0⟩, ⟨"tx", 16, 16, .ro, 0⟩]⟩,
  ⟨"PTP_PORT_LD", 0x20810, [(0x20, 8)], .none, [⟨"ld", 0, 32, .ro, 0⟩]⟩]

/-- Registers of spec/11_kiln.md. -/
def regsKiln0 : List RegDesc := [
  ⟨"KILN_CFG", 0x10000, [], .none, [⟨"hybrid", 0, 1, .rw, 0⟩, ⟨"free_ok", 1, 1, .rw, 0⟩]⟩,
  ⟨"KILN_STAT", 0x10004, [], .none, [⟨"state", 0, 2, .ro, 0⟩, ⟨"lock", 2, 1, .ro, 0⟩, ⟨"sel", 3, 4, .ro, 0xF⟩, ⟨"fsel", 7, 4, .ro, 0xF⟩, ⟨"phase_hold", 11, 1, .ro, 0⟩, ⟨"dispute", 12, 1, .ro, 0⟩, ⟨"wander", 13, 1, .ro, 0⟩, ⟨"slewing", 14, 1, .ro, 0⟩]⟩,
  ⟨"KILN_EVT", 0x10008, [], .none, [⟨"switch", 0, 1, .w1c, 0⟩, ⟨"ho_evt", 1, 1, .w1c, 0⟩, ⟨"lock_lost", 2, 1, .w1c, 0⟩, ⟨"wander_evt", 3, 1, .w1c, 0⟩, ⟨"dispute_evt", 4, 1, .w1c, 0⟩, ⟨"pend_sat", 5, 1, .w1c, 0⟩, ⟨"align_done", 6, 1, .w1c, 0⟩]⟩,
  ⟨"KILN_SWITCHES", 0x1000C, [], .none, [⟨"switches", 0, 32, .ro, 0⟩]⟩,
  ⟨"KILN_SLEW_MAX", 0x10010, [], .none, [⟨"slew", 0, 16, .rw, 0x64⟩]⟩,
  ⟨"KILN_DRIFT_MAX", 0x10014, [], .none, [⟨"drift", 0, 16, .rw, 0x14⟩]⟩,
  ⟨"KILN_HOLDOVER", 0x10020, [], .none, [⟨"ho_avg", 0, 10, .rw, 0x3C⟩, ⟨"ho_max", 16, 16, .rw, 0⟩]⟩,
  ⟨"KILN_LOCK", 0x10024, [], .none, [⟨"lock_win", 0, 16, .rw, 0x64⟩, ⟨"lock_hold", 16, 8, .rw, 2⟩]⟩,
  ⟨"KILN_FREF_NOM", 0x10028, [], .none, [⟨"nom", 0, 27, .rw, 0x989680⟩]⟩,
  ⟨"KILN_BW0", 0x10030, [], .none, [⟨"bw", 0, 14, .rw, 0xA⟩]⟩,
  ⟨"KILN_BW1", 0x10034, [], .none, [⟨"bw", 0, 14, .rw, 0x3E8⟩]⟩,
  ⟨"KILN_BW2", 0x10038, [], .none, [⟨"bw", 0, 14, .rw, 0x7D0⟩]⟩,
  ⟨"KILN_BW3", 0x1003C, [], .none, [⟨"bw", 0, 14, .rw, 0x3E8⟩]⟩,
  ⟨"KILN_BW4", 0x10040, [], .none, [⟨"bw", 0, 14, .rw, 5⟩]⟩,
  ⟨"KILN_ALIGN", 0x10058, [], .none, [⟨"go", 0, 1, .sc, 0⟩]⟩,
  ⟨"KILN_ALIGN_ERR", 0x1005C, [], .none, [⟨"lag", 0, 30, .ro, 0⟩]⟩,
  ⟨"KILN_WCK_OUT", 0x10070, [(4, 2)], .none, [⟨"en", 0, 1, .rw, 0⟩, ⟨"dom", 1, 2, .rw, 0⟩, ⟨"pol", 3, 1, .rw, 0⟩]⟩,
  ⟨"KILN_PPS_OUT", 0x10078, [], .none, [⟨"en", 0, 1, .rw, 0⟩, ⟨"pol", 1, 1, .rw, 0⟩, ⟨"width", 8, 8, .rw, 0x64⟩]⟩,
  ⟨"KILN_DOM", 0x10080, [(4, 2)], .none, [⟨"bw", 0, 14, .rw, 0x7D0⟩]⟩,
  ⟨"KILN_REF_CFG", 0x10100, [(0x10, 14)], .none, [⟨"en", 0, 1, .rw, 0⟩, ⟨"rank", 1, 4, .rw, 0⟩, ⟨"pol", 5, 1, .rw, 0⟩, ⟨"rate", 6, 3, .rw, 4⟩]⟩,
  ⟨"KILN_REF_LIM", 0x10104, [(0x10, 14)], .none, [⟨"accept", 0, 14, .rw, 0x1F4⟩, ⟨"reject", 16, 14, .rw, 0x3E8⟩]⟩,
  ⟨"KILN_REF_HOLD", 0x10108, [(0x10, 14)], .none, [⟨"hold", 0, 13, .rw, 0x64⟩]⟩,
  ⟨"KILN_REF_STAT", 0x1010C, [(0x10, 14)], .none, [⟨"qual", 0, 2, .ro, 0⟩, ⟨"active", 2, 1, .ro, 0⟩, ⟨"disq_evt", 3, 1, .w1c, 0⟩]⟩,
  ⟨"KILN_REF_FREQ", 0x10200, [(4, 14)], .none, [⟨"f", 0, 32, .ro, 0⟩]⟩]

/-- Registers of spec/11_kiln.md. -/
def regsKiln1 : List RegDesc := [
  ⟨"KILN_WANDER", 0x10018, [], .none, [⟨"limit", 0, 14, .rw, 0xA⟩]⟩,
  ⟨"KILN_XCHECK", 0x1001C, [], .none, [⟨"limit", 0, 14, .rw, 0x14⟩]⟩,
  ⟨"KILN_PHASE_STEP_LO", 0x10048, [], .none, [⟨"step", 0, 32, .wo, 0⟩]⟩,
  ⟨"KILN_PHASE_STEP_HI", 0x1004C, [], .none, [⟨"step", 0, 16, .wo, 0⟩]⟩,
  ⟨"KILN_PEND_LO", 0x10050, [], .none, [⟨"pend", 0, 32, .ro, 0⟩]⟩,
  ⟨"KILN_PEND_HI", 0x10054, [], .none, [⟨"pend", 0, 32, .ro, 0⟩]⟩,
  ⟨"KILN_PHERR", 0x10060, [], .none, [⟨"value", 0, 32, .ro, 0⟩]⟩,
  ⟨"KILN_FREQ", 0x10064, [], .none, [⟨"value", 0, 32, .ro, 0⟩]⟩,
  ⟨"KILN_HO_FREQ", 0x10068, [], .none, [⟨"value", 0, 32, .ro, 0⟩]⟩]

/-- Registers of spec/12_twin_operation.md. -/
def regsTwinOperation0 : List RegDesc := [
  ⟨"TWIN_CFG", 0x600000, [], .none, [⟨"twin_en", 0, 1, .st, 0⟩, ⟨"auto_rejoin", 1, 1, .rw, 1⟩, ⟨"alone_wait", 8, 8, .rw, 0x14⟩, ⟨"rejoin_max", 16, 16, .rw, 0x7D0⟩]⟩,
  ⟨"TWIN_STAT", 0x600004, [], .none, [⟨"role", 0, 1, .ro, 0⟩, ⟨"state", 1, 3, .ro, 0⟩, ⟨"leader", 4, 1, .ro, 0⟩, ⟨"link", 5, 1, .ro, 0⟩, ⟨"peer_act", 6, 1, .ro, 0⟩, ⟨"act", 7, 1, .ro, 0⟩, ⟨"match_run", 8, 7, .ro, 0⟩, ⟨"attempts", 16, 2, .ro, 0⟩]⟩,
  ⟨"TWIN_PEER", 0x600008, [], .none, [⟨"state", 0, 3, .ro, 0⟩, ⟨"role", 3, 1, .ro, 0⟩, ⟨"same_variant", 4, 1, .ro, 0⟩, ⟨"same_image", 5, 1, .ro, 0⟩, ⟨"same_domain", 6, 1, .ro, 0⟩, ⟨"fault_rec", 7, 1, .ro, 0⟩]⟩,
  ⟨"TWIN_EVT", 0x60000C, [], .none, [⟨"lost", 0, 1, .w1c, 0⟩, ⟨"mismatch", 1, 1, .w1c, 0⟩, ⟨"yielded", 2, 1, .w1c, 0⟩, ⟨"synced", 3, 1, .w1c, 0⟩, ⟨"rejoin_fail", 4, 1, .w1c, 0⟩, ⟨"conflict", 5, 1, .w1c, 0⟩, ⟨"ctrl_late", 6, 1, .w1c, 0⟩]⟩,
  ⟨"TWIN_CMD", 0x600010, [], .none, [⟨"rejoin", 0, 1, .sc, 0⟩, ⟨"yield", 1, 1, .sc, 0⟩, ⟨"which", 2, 1, .rw, 0⟩]⟩,
  ⟨"TWIN_XFER", 0x600014, [], .none, [⟨"pass", 0, 2, .ro, 0⟩, ⟨"items_left", 2, 30, .ro, 0⟩]⟩,
  ⟨"TWIN_JACK", 0x600018, [], .none, [⟨"seq", 0, 32, .ro, 0⟩]⟩,
  ⟨"TWIN_MM_PNL", 0x60001C, [], .none, [⟨"pnl", 0, 32, .ro, 0⟩]⟩,
  ⟨"TWIN_DIG_LO", 0x600020, [], .none, [⟨"digest", 0, 32, .ro, 0⟩]⟩,
  ⟨"TWIN_DIG_HI", 0x600024, [], .none, [⟨"digest", 0, 32, .ro, 0⟩]⟩,
  ⟨"TWIN_LOSSES", 0x600100, [], .none, [⟨"count", 0, 32, .ro, 0⟩]⟩,
  ⟨"TWIN_MISMATCHES", 0x600104, [], .none, [⟨"count", 0, 32, .ro, 0⟩]⟩,
  ⟨"TWIN_YIELDS", 0x600108, [], .none, [⟨"count", 0, 32, .ro, 0⟩]⟩,
  ⟨"TWIN_REJOINS", 0x60010C, [], .none, [⟨"count", 0, 32, .ro, 0⟩]⟩,
  ⟨"TWIN_REJOIN_FAILS", 0x600110, [], .none, [⟨"count", 0, 32, .ro, 0⟩]⟩,
  ⟨"TWIN_MIRROR_LATE", 0x600114, [], .none, [⟨"count", 0, 32, .ro, 0⟩]⟩,
  ⟨"TWIN_INCOMPLETE", 0x600118, [], .none, [⟨"count", 0, 32, .ro, 0⟩]⟩,
  ⟨"TWIN_RETX", 0x60011C, [], .none, [⟨"count", 0, 32, .ro, 0⟩]⟩,
  ⟨"TWIN_NONLEAD_DROP", 0x600120, [], .none, [⟨"count", 0, 32, .ro, 0⟩]⟩,
  ⟨"TWIN_RX_BAD", 0x600124, [], .none, [⟨"count", 0, 32, .ro, 0⟩]⟩]

/-- Registers of spec/13_cask.md. -/
def regsCask0 : List RegDesc := [
  ⟨"CASK_CFG", 0x500000, [], .none, [⟨"speed", 0, 2, .st, 3⟩, ⟨"density", 2, 2, .st, 0⟩, ⟨"ecc_en", 4, 1, .st, 0⟩, ⟨"en0", 5, 1, .st, 0⟩, ⟨"en1", 6, 1, .st, 0⟩, ⟨"seed", 16, 16, .st, 0⟩]⟩,
  ⟨"CASK_STAT", 0x500004, [], .none, [⟨"ready", 0, 2, .ro, 0⟩, ⟨"train_fail", 2, 2, .ro, 0⟩, ⟨"over_rt", 4, 1, .ro, 0⟩, ⟨"rejects", 5, 1, .w1c, 0⟩, ⟨"hot", 6, 1, .ro, 0⟩]⟩,
  ⟨"CASK_SIZE", 0x500008, [], .none, [⟨"mib", 0, 16, .ro, 0⟩]⟩,
  ⟨"CASK_SCRUB", 0x50000C, [], .none, [⟨"scrub_h", 0, 8, .rw, 0x18⟩, ⟨"passes", 16, 16, .ro, 0⟩]⟩,
  ⟨"CASK_RT_DECL", 0x500010, [(4, 2)], .none, [⟨"rt_decl", 0, 16, .st, 0⟩]⟩,
  ⟨"CASK_RT_NEED", 0x500018, [(4, 2)], .none, [⟨"need", 0, 16, .ro, 0⟩, ⟨"cap", 16, 16, .ro, 0⟩]⟩,
  ⟨"CASK_CAP", 0x501000, [(4, 256)], .none, [⟨"line", 0, 12, .st, 0⟩, ⟨"en", 12, 1, .st, 0⟩, ⟨"rejected", 13, 1, .ro, 0⟩]⟩,
  ⟨"CASK_PLAY", 0x502000, [(8, 256)], .none, [⟨"line", 0, 12, .st, 0⟩, ⟨"en", 12, 1, .st, 0⟩, ⟨"rejected", 13, 1, .ro, 0⟩]⟩,
  ⟨"CASK_PLAY_DLY", 0x502004, [(8, 256)], .none, [⟨"d", 0, 25, .st, 0⟩]⟩,
  ⟨"CASK_LINE_W0", 0x510000, [(0x10, 4096)], .none, [⟨"base", 0, 28, .st, 0⟩, ⟨"en", 28, 1, .st, 0⟩, ⟨"rt", 29, 1, .st, 0⟩, ⟨"writer", 30, 2, .st, 0⟩]⟩,
  ⟨"CASK_LINE_W1", 0x510004, [(0x10, 4096)], .none, [⟨"len", 0, 25, .st, 0⟩]⟩,
  ⟨"CASK_LINE_W2", 0x510008, [(0x10, 4096)], .none, [⟨"rejected", 0, 1, .ro, 0⟩, ⟨"chan", 1, 1, .ro, 0⟩]⟩,
  ⟨"CASK_ECC_CORR", 0x500020, [(4, 2)], .none, [⟨"count", 0, 32, .ro, 0⟩]⟩,
  ⟨"CASK_ECC_UNCORR", 0x500028, [(4, 2)], .none, [⟨"count", 0, 32, .ro, 0⟩]⟩,
  ⟨"CASK_LATE", 0x500030, [(4, 2)], .none, [⟨"count", 0, 32, .ro, 0⟩]⟩,
  ⟨"CASK_ECC_ADDR_LO", 0x500038, [], .none, [⟨"addr", 0, 32, .ro, 0⟩]⟩,
  ⟨"CASK_ECC_ADDR_HI", 0x50003C, [], .none, [⟨"addr", 0, 2, .ro, 0⟩, ⟨"valid", 31, 1, .ro, 0⟩]⟩]

/-- Registers of spec/14_fabric_and_budgets.md. -/
def regsFabricAndBudgets0 : List RegDesc := [
  ⟨"FAB_STAT", 0x580000, [], .none, [⟨"tags", 0, 9, .ro, 0⟩, ⟨"tags_peak", 16, 9, .ro, 0⟩]⟩,
  ⟨"FAB_DECERR_INFO", 0x580004, [], .none, [⟨"master", 0, 5, .ro, 0⟩, ⟨"write", 5, 1, .ro, 0⟩, ⟨"valid", 6, 1, .w1c, 0⟩, ⟨"count", 16, 16, .ro, 0⟩]⟩,
  ⟨"FAB_LOCK_STAT", 0x580010, [], .none, [⟨"master", 0, 5, .ro, 0⟩, ⟨"target", 5, 5, .ro, 0⟩, ⟨"broken_evt", 10, 1, .w1c, 0⟩, ⟨"refused_evt", 11, 1, .w1c, 0⟩, ⟨"breaks", 16, 16, .ro, 0⟩]⟩,
  ⟨"FAB_SV_SLACK", 0x584000, [(4, 3)], .none, [⟨"slack", 0, 24, .st, 0⟩]⟩,
  ⟨"FAB_SV_SLACK_USED", 0x584010, [(4, 3)], .none, [⟨"used", 0, 24, .ro, 0⟩]⟩,
  ⟨"FAB_SV_BUD", 0x584100, [(0x10, 41), (4, 3)], .none, [⟨"budget", 0, 24, .st, 0xFFFFFF⟩]⟩,
  ⟨"FAB_SV_USED", 0x584400, [(0x10, 41), (4, 3)], .none, [⟨"used", 0, 24, .ro, 0⟩]⟩,
  ⟨"PWRA_STAT", 0x588008, [], .none, [⟨"pool", 0, 13, .ro, 0⟩, ⟨"warn", 13, 1, .ro, 0⟩, ⟨"warn_evt", 14, 1, .w1c, 0⟩, ⟨"over_rt", 15, 1, .ro, 0⟩, ⟨"warns", 16, 16, .ro, 0⟩]⟩,
  ⟨"PWRA_CONS", 0x588100, [(4, 21)], .none, [⟨"cost", 0, 13, .st, 0⟩, ⟨"floor", 13, 5, .st, 0⟩]⟩,
  ⟨"PWRA_GRANT", 0x588200, [(4, 21)], .none, [⟨"grant", 0, 13, .ro, 0⟩, ⟨"allow", 13, 5, .ro, 0x10⟩, ⟨"stalled", 18, 1, .ro, 0⟩]⟩,
  ⟨"FAB_DECERR_ADDR_LO", 0x580008, [], .none, [⟨"addr", 0, 32, .ro, 0⟩]⟩,
  ⟨"FAB_DECERR_ADDR_HI", 0x58000C, [], .none, [⟨"addr", 0, 8, .ro, 0⟩]⟩,
  ⟨"FAB_SV_DREW", 0x584020, [(4, 2)], .none, [⟨"flags", 0, 32, .w1c, 0⟩]⟩,
  ⟨"FAB_SV_DEMOTED", 0x584028, [(4, 2)], .none, [⟨"flags", 0, 32, .w1c, 0⟩]⟩,
  ⟨"FAB_SV_STALLED", 0x584030, [(4, 2)], .none, [⟨"flags", 0, 32, .w1c, 0⟩]⟩,
  ⟨"PWRA_BUDGET", 0x588000, [], .none, [⟨"credits", 0, 13, .st, 0xFA0⟩]⟩,
  ⟨"PWRA_RT", 0x588004, [], .none, [⟨"credits", 0, 13, .st, 0⟩]⟩]

/-- Registers of spec/15_control_plane.md. -/
def regsControlPlane0 : List RegDesc := [
  ⟨"SYS_CFG_REJECT", 0x200, [], .none, [⟨"addr", 0, 25, .ro, 0⟩, ⟨"route", 25, 3, .ro, 0⟩, ⟨"valid", 31, 1, .w1c, 0⟩]⟩,
  ⟨"SYS_CFG_REJECT_CNT", 0x204, [], .none, [⟨"count", 0, 32, .ro, 0⟩]⟩,
  ⟨"HIF_CTRL", 0x840000, [], .none, [⟨"pcie_en", 0, 1, .rw, 1⟩, ⟨"twt_en", 1, 1, .rw, 1⟩, ⟨"ib_en", 2, 1, .rw, 1⟩]⟩,
  ⟨"HIF_STAT", 0x840004, [], .none, [⟨"pcie_up", 0, 1, .ro, 0⟩, ⟨"width", 1, 2, .ro, 0⟩, ⟨"gen", 3, 2, .ro, 0⟩, ⟨"msix_en", 5, 1, .ro, 0⟩, ⟨"bad_access", 6, 1, .w1c, 0⟩, ⟨"atomic_broken", 7, 1, .w1c, 0⟩]⟩,
  ⟨"HIF_WIN_BASE", 0x840008, [], .none, [⟨"base", 0, 20, .rw, 0x200⟩]⟩,
  ⟨"HIF_INT_EN", 0x840010, [], .none, [⟨"en", 0, 32, .rw, 0⟩]⟩,
  ⟨"HIF_INT_SRC", 0x840014, [], .none, [⟨"src", 0, 32, .ro, 0⟩]⟩,
  ⟨"HIF_IB_CFG", 0x840020, [], .none, [⟨"ports", 0, 8, .rw, 0⟩, ⟨"udp_port", 8, 16, .rw, 0x1E6A⟩, ⟨"fresh", 24, 8, .rw, 0xA⟩]⟩,
  ⟨"HIF_IB_STAT", 0x840024, [], .none, [⟨"key_ok", 0, 1, .ro, 0⟩]⟩,
  ⟨"HIF_IB_CNT", 0x840028, [(4, 5)], .none, [⟨"count", 0, 32, .ro, 0⟩]⟩,
  ⟨"HIF_COMMIT_DONE", 0x840040, [], .none, [⟨"done", 0, 32, .w1c, 0⟩]⟩,
  ⟨"HIF_COMMIT_TGT", 0x840100, [(0x10, 32)], .none, [⟨"pnl", 0, 32, .rw, 0⟩]⟩,
  ⟨"HIF_COMMIT", 0x840104, [(0x10, 32)], .none, [⟨"expect", 0, 16, .wo, 0⟩, ⟨"chk", 16, 1, .wo, 0⟩, ⟨"next", 17, 1, .wo, 0⟩, ⟨"cancel", 18, 1, .wo, 0⟩]⟩,
  ⟨"HIF_COMMIT_STAT", 0x840108, [(0x10, 32)], .none, [⟨"seq", 0, 16, .ro, 0⟩, ⟨"open", 16, 1, .ro, 0⟩, ⟨"fixed", 17, 1, .ro, 0⟩, ⟨"refused", 18, 1, .w1c, 0⟩, ⟨"late", 19, 1, .w1c, 0⟩, ⟨"superseded", 24, 8, .ro, 0⟩]⟩,
  ⟨"HIF_COMMIT_APPL", 0x84010C, [(0x10, 32)], .none, [⟨"applied_pnl", 0, 32, .ro, 0⟩]⟩,
  ⟨"HIF_COMMIT_APPL_SEQ", 0x840300, [(4, 32)], .none, [⟨"applied_seq", 0, 16, .ro, 0⟩]⟩,
  ⟨"HIF_JRNL_SEQ", 0x840400, [], .none, [⟨"next", 0, 32, .ro, 0⟩]⟩,
  ⟨"HIF_JRNL", 0x848000, [(0x20, 1024), (4, 8)], .none, [⟨"word", 0, 32, .ro, 0⟩]⟩,
  ⟨"MSIX_TABLE", 0x844000, [(4, 128)], .none, [⟨"word", 0, 32, .rw, 0⟩]⟩,
  ⟨"MSIX_PBA", 0x845000, [], .none, [⟨"pend", 0, 32, .ro, 0⟩]⟩]

/-- Registers of spec/16_start_and_image.md. -/
def regsStartAndImage0 : List RegDesc := [
  ⟨"SYS_STATE", 0x10, [], .none, [⟨"state", 0, 3, .ro, 1⟩, ⟨"changed", 3, 1, .w1c, 0⟩, ⟨"image", 4, 1, .ro, 0⟩, ⟨"slot", 5, 1, .ro, 0⟩]⟩,
  ⟨"SYS_STRAP", 0x14, [], .none, [⟨"boot_flash", 0, 1, .ro, 0⟩, ⟨"twt_addr", 1, 2, .ro, 0⟩, ⟨"ctrl_port", 3, 3, .ro, 0⟩, ⟨"twin_role", 6, 1, .ro, 0⟩]⟩,
  ⟨"SYS_RESET", 0x18, [], .none, [⟨"slot", 0, 2, .wo, 0⟩, ⟨"key", 16, 16, .wo, 0⟩]⟩,
  ⟨"SYS_RESET_CAUSE", 0x1C, [], .none, [⟨"cause", 0, 3, .ro, 0⟩]⟩,
  ⟨"SYS_STBY", 0x20, [], .none, [⟨"enter", 0, 1, .sc, 0⟩]⟩,
  ⟨"SYS_WAKE", 0x24, [], .none, [⟨"source", 0, 2, .ro, 0⟩, ⟨"woke", 2, 1, .w1c, 0⟩]⟩,
  ⟨"SYS_MUTE", 0x28, [], .none, [⟨"ramp", 0, 8, .rw, 0xA⟩]⟩,
  ⟨"BOOT_STAT", 0x800000, [], .none, [⟨"res_a", 0, 3, .ro, 0⟩, ⟨"res_b", 3, 3, .ro, 0⟩, ⟨"slow_flash", 6, 1, .ro, 0⟩, ⟨"reload_crc", 7, 1, .ro, 0⟩]⟩,
  ⟨"BOOT_FL_CMD", 0x800010, [], .none, [⟨"op", 0, 3, .rw, 0⟩, ⟨"go", 3, 1, .sc, 0⟩, ⟨"err", 4, 1, .ro, 0⟩]⟩,
  ⟨"BOOT_FL_ADDR", 0x800014, [], .none, [⟨"addr", 0, 28, .rw, 0⟩]⟩,
  ⟨"BOOT_FL_BUF", 0x800100, [(4, 64)], .none, [⟨"data", 0, 32, .rw, 0⟩]⟩,
  ⟨"BOOT_IMG_GEN", 0x800004, [], .none, [⟨"value", 0, 32, .ro, 0⟩]⟩,
  ⟨"BOOT_IMG_HCRC", 0x800008, [], .none, [⟨"value", 0, 32, .ro, 0⟩]⟩]

/-- Registers of spec/17_faults.md. -/
def regsFaults0 : List RegDesc := [
  ⟨"FLT_STAT", 0x680000, [], .none, [⟨"unread", 0, 7, .ro, 0⟩, ⟨"unread_c3", 8, 7, .ro, 0⟩, ⟨"safe_ramp", 15, 1, .ro, 0⟩]⟩,
  ⟨"FLT_POP", 0x680004, [], .none, [⟨"pop", 0, 1, .sc, 0⟩, ⟨"c3_first", 1, 1, .rw, 0⟩, ⟨"rd_valid", 2, 1, .ro, 0⟩]⟩,
  ⟨"FLT_CFG", 0x680008, [], .none, [⟨"mgp_drain", 0, 1, .rw, 1⟩]⟩,
  ⟨"FLT_RD", 0x680010, [(4, 4)], .none, [⟨"word", 0, 32, .ro, 0⟩]⟩,
  ⟨"FLT_LOST", 0x680020, [(4, 3)], .none, [⟨"lost", 0, 32, .ro, 0⟩]⟩,
  ⟨"FLT_SAFE", 0x680030, [], .none, [⟨"ramp", 0, 8, .rw, 0xA⟩, ⟨"release", 8, 1, .sc, 0⟩, ⟨"release_err", 9, 1, .w1c, 0⟩, ⟨"cause_blk", 16, 5, .ro, 0⟩, ⟨"cause_code", 24, 8, .ro, 0⟩]⟩,
  ⟨"FLT_WDOG", 0x680040, [], .none, [⟨"timeout", 0, 16, .rw, 0⟩, ⟨"action", 16, 2, .rw, 0⟩, ⟨"expired", 18, 1, .w1c, 0⟩]⟩,
  ⟨"FLT_WDOG_KICK", 0x680044, [], .none, [⟨"key", 0, 16, .wo, 0⟩]⟩,
  ⟨"FLT_MGP", 0x680048, [], .none, [⟨"running", 0, 1, .ro, 0⟩, ⟨"restart", 1, 1, .sc, 0⟩, ⟨"restarts", 8, 8, .ro, 0⟩]⟩,
  ⟨"MGP_MB_STAT", 0x880000, [], .none, [⟨"out_count", 0, 5, .ro, 0⟩, ⟨"in_busy", 8, 1, .ro, 0⟩, ⟨"in_ovr", 9, 1, .w1c, 0⟩, ⟨"in_refused", 10, 1, .w1c, 0⟩, ⟨"mgp_up", 11, 1, .ro, 0⟩, ⟨"out_drop", 16, 16, .ro, 0⟩]⟩,
  ⟨"MGP_MB_POP", 0x880004, [], .none, [⟨"pop", 0, 1, .sc, 0⟩]⟩,
  ⟨"MGP_MB_GO", 0x880008, [], .none, [⟨"go", 0, 1, .sc, 0⟩]⟩,
  ⟨"MGP_MB_OUT", 0x880100, [(4, 8)], .none, [⟨"word", 0, 32, .ro, 0⟩]⟩,
  ⟨"MGP_MB_IN", 0x880200, [(4, 8)], .none, [⟨"word", 0, 32, .rw, 0⟩]⟩,
  ⟨"FLT_MEM_ADDR_LO", 0x680050, [], .none, [⟨"addr", 0, 32, .ro, 0⟩]⟩,
  ⟨"FLT_MEM_ADDR_HI", 0x680054, [], .none, [⟨"addr", 0, 8, .ro, 0⟩, ⟨"valid", 31, 1, .ro, 0⟩]⟩]

/-- Registers of spec/18_two_wire.md. -/
def regsTwoWire0 : List RegDesc := [
  ⟨"TWC_CFG", 0x700000, [(0x4000, 2)], .none, [⟨"en", 0, 1, .rw, 0⟩, ⟨"speed", 1, 2, .rw, 0⟩, ⟨"seq_en", 3, 1, .rw, 0⟩, ⟨"reset", 4, 1, .sc, 0⟩, ⟨"stretch_to", 8, 8, .rw, 0x19⟩]⟩,
  ⟨"TWC_STAT", 0x700004, [(0x4000, 2)], .none, [⟨"busy", 0, 1, .ro, 0⟩, ⟨"bus_busy", 1, 1, .ro, 0⟩, ⟨"host_done", 2, 1, .w1c, 0⟩, ⟨"bus_err", 3, 1, .w1c, 0⟩, ⟨"arb_lost", 4, 1, .w1c, 0⟩, ⟨"timeout", 5, 1, .w1c, 0⟩, ⟨"sda_stuck", 6, 1, .w1c, 0⟩, ⟨"stuck", 7, 1, .ro, 0⟩, ⟨"scl_stuck", 8, 1, .w1c, 0⟩, ⟨"clears", 16, 16, .ro, 0⟩]⟩,
  ⟨"TWC_CMD", 0x700008, [(0x4000, 2)], .none, [⟨"go", 0, 1, .sc, 0⟩, ⟨"kind", 1, 4, .rw, 0⟩, ⟨"pec", 5, 1, .rw, 0⟩, ⟨"addr", 6, 7, .rw, 0⟩, ⟨"code", 16, 8, .rw, 0⟩]⟩,
  ⟨"TWC_XFER", 0x70000C, [(0x4000, 2)], .none, [⟨"wlen", 0, 6, .rw, 0⟩, ⟨"rlen", 8, 6, .rw, 0⟩]⟩,
  ⟨"TWC_RES", 0x700010, [(0x4000, 2)], .none, [⟨"status", 0, 4, .ro, 0⟩, ⟨"rcount", 8, 6, .ro, 0⟩]⟩,
  ⟨"TWC_SKIPS", 0x700014, [(0x4000, 2)], .none, [⟨"skips", 0, 32, .ro, 0⟩]⟩,
  ⟨"TWC_ALARM", 0x700040, [(0x4000, 2), (4, 8)], .none, [⟨"alarm", 0, 32, .w1c, 0⟩]⟩,
  ⟨"TWC_SEQ_W0", 0x701000, [(0x4000, 2), (0x10, 256)], .none, [⟨"en", 0, 1, .rw, 0⟩, ⟨"kind", 1, 4, .rw, 0⟩, ⟨"pec", 5, 1, .rw, 0⟩, ⟨"addr", 6, 7, .rw, 0⟩, ⟨"code", 16, 8, .rw, 0⟩]⟩,
  ⟨"TWC_SEQ_W1", 0x701004, [(0x4000, 2), (0x10, 256)], .none, [⟨"ivl_log2", 0, 5, .rw, 0⟩, ⟨"phase", 6, 24, .rw, 0⟩, ⟨"sgn", 30, 1, .rw, 0⟩, ⟨"lim_en", 31, 1, .rw, 0⟩]⟩,
  ⟨"TWC_SEQ_W2", 0x701008, [(0x4000, 2), (0x10, 256)], .none, [⟨"lo", 0, 16, .rw, 0⟩, ⟨"hi", 16, 16, .rw, 0⟩]⟩,
  ⟨"TWC_SEQ_W3", 0x70100C, [(0x4000, 2), (0x10, 256)], .none, [⟨"value", 0, 16, .ro, 0⟩, ⟨"status", 16, 4, .ro, 0⟩, ⟨"alarm", 20, 1, .ro, 0⟩, ⟨"runs", 24, 8, .ro, 0⟩]⟩,
  ⟨"TWT_STAT", 0x708000, [], .none, [⟨"addr", 0, 7, .ro, 0⟩, ⟨"wake_nack", 8, 1, .w1c, 0⟩, ⟨"last_cause", 9, 3, .ro, 0⟩]⟩,
  ⟨"TWT_ERR", 0x708004, [], .none, [⟨"count", 0, 32, .ro, 0⟩]⟩,
  ⟨"TWT_PTR", 0x708008, [], .none, [⟨"ptr", 0, 25, .ro, 0⟩]⟩,
  ⟨"TWC_TXBUF", 0x700100, [(0x4000, 2), (4, 8)], .none, [⟨"data", 0, 32, .rw, 0⟩]⟩,
  ⟨"TWC_RXBUF", 0x700120, [(0x4000, 2), (4, 8)], .none, [⟨"data", 0, 32, .ro, 0⟩]⟩]

/-- Registers of spec/19_counters.md. -/
def regsCounters0 : List RegDesc := [
  ⟨"PERF_CTRL", 0x780000, [], .none, [⟨"run", 0, 1, .rw, 0⟩, ⟨"clear", 1, 1, .sc, 0⟩]⟩,
  ⟨"PERF_EVSEL", 0x780100, [(4, 128)], .none, [⟨"event", 0, 9, .rw, 0⟩, ⟨"thr_en", 9, 1, .rw, 0⟩, ⟨"chain", 10, 1, .rw, 0⟩, ⟨"thr", 16, 16, .rw, 0⟩]⟩,
  ⟨"PERF_CNT", 0x780400, [(4, 128)], .none, [⟨"count", 0, 32, .rw, 0⟩]⟩,
  ⟨"PERF_OVF", 0x780600, [(4, 4)], .none, [⟨"ovf", 0, 32, .w1c, 0⟩]⟩,
  ⟨"PERF_BW_CFG", 0x780800, [(0x10, 28)], .none, [⟨"win", 0, 13, .rw, 0⟩]⟩,
  ⟨"PERF_TAG_CFG", 0x780A00, [(4, 16)], .none, [⟨"en", 0, 1, .rw, 0⟩, ⟨"k", 1, 4, .rw, 8⟩, ⟨"seed", 16, 16, .rw, 0⟩]⟩,
  ⟨"PERF_DUMP_CTL", 0x780B00, [], .none, [⟨"en", 0, 1, .rw, 0⟩, ⟨"interval", 16, 16, .rw, 1⟩]⟩,
  ⟨"PERF_DUMP_STAT", 0x780B14, [], .none, [⟨"new_rec", 0, 1, .w1c, 0⟩, ⟨"cfg_err", 1, 1, .w1c, 0⟩, ⟨"pending", 2, 1, .ro, 0⟩, ⟨"missed", 16, 16, .ro, 0⟩]⟩,
  ⟨"PERF_DUMP_SEQ", 0x780B18, [], .none, [⟨"seq", 0, 32, .ro, 0⟩]⟩,
  ⟨"PERF_BW_LAST", 0x780804, [(0x10, 28)], .none, [⟨"units", 0, 32, .ro, 0⟩]⟩,
  ⟨"PERF_BW_PEAK", 0x780808, [(0x10, 28)], .none, [⟨"units", 0, 32, .ro, 0⟩]⟩,
  ⟨"PERF_TAG_BASE", 0x780A40, [], .none, [⟨"base", 0, 32, .rw, 0⟩]⟩,
  ⟨"PERF_TAG_CFG_RING", 0x780A44, [], .none, [⟨"base_hi", 0, 8, .rw, 0⟩, ⟨"len", 8, 13, .rw, 0⟩]⟩,
  ⟨"PERF_TAG_IDX", 0x780A48, [], .none, [⟨"eidx", 0, 12, .ro, 0⟩, ⟨"sidx", 16, 12, .rw, 0⟩]⟩,
  ⟨"PERF_TAG_DROP", 0x780A4C, [], .none, [⟨"drops", 0, 32, .ro, 0⟩]⟩,
  ⟨"PERF_DUMP_BASE", 0x780B04, [], .none, [⟨"base", 0, 32, .rw, 0⟩]⟩,
  ⟨"PERF_DUMP_CFG", 0x780B08, [], .none, [⟨"base_hi", 0, 8, .rw, 0⟩, ⟨"len", 8, 13, .rw, 0⟩]⟩,
  ⟨"PERF_DUMP_IDX", 0x780B0C, [], .none, [⟨"eidx", 0, 12, .ro, 0⟩, ⟨"sidx", 16, 12, .rw, 0⟩]⟩,
  ⟨"PERF_DUMP_DROP", 0x780B10, [], .none, [⟨"drops", 0, 32, .ro, 0⟩]⟩]

/-- Registers of spec/20_package_and_electrical.md. -/
def regsPackageAndElectrical0 : List RegDesc := [
  ⟨"SYS_TEMP", 0x300, [], .none, [⟨"temp", 0, 12, .ro, 0⟩, ⟨"peak", 16, 12, .ro, 0⟩]⟩]

/-- The register map in pieces, each with the lowest and highest address it reaches. -/
def regPieces : List (Nat × Nat × List RegDesc) := [
  (0, 4, regsScope0),
  (0x100, 0x124, regsPeriodAndTime0),
  (0x100000, 0x23FFFC, regsMash0),
  (0x300000, 0x3F0034, regsStoteterCore0),
  (0x300100, 0x3FFFFC, regsCorePrograms0),
  (0x400000, 0x402FFC, regsLocalIo0),
  (0x480000, 0x48047C, regsPowerStage0),
  (0x40000, 0x5BFF8, regsEthernetPorts0),
  (0x40014, 0x4F054, regsEthernetPorts1),
  (0x5000C, 0x5013C, regsEthernetPorts2),
  (0x80000, 0xBFFC4, regsStreams0),
  (0xA001C, 0xC3FFC, regsStreams1),
  (0x20000, 0x208F4, regsNetworkTime0),
  (0x20124, 0x208F0, regsNetworkTime1),
  (0x10000, 0x10234, regsKiln0),
  (0x10018, 0x10068, regsKiln1),
  (0x600000, 0x600124, regsTwinOperation0),
  (0x500000, 0x51FFF8, regsCask0),
  (0x580000, 0x588250, regsFabricAndBudgets0),
  (0x200, 0x84FFFC, regsControlPlane0),
  (0x10, 0x8001FC, regsStartAndImage0),
  (0x680000, 0x88021C, regsFaults0),
  (0x700000, 0x708008, regsTwoWire0),
  (0x780000, 0x780B18, regsCounters0),
  (0x300, 0x300, regsPackageAndElectrical0)]

namespace R

abbrev SYS_IDENT.reg : Nat := 0
abbrev SYS_IDENT.variant : Loc := ⟨0, 0, 16⟩
abbrev SYS_IDENT.step_minor : Loc := ⟨0, 16, 4⟩
abbrev SYS_IDENT.step_major : Loc := ⟨0, 20, 4⟩
abbrev SYS_FUSE.reg : Nat := 4
abbrev SYS_FUSE.core_count : Loc := ⟨4, 0, 5⟩
abbrev SYS_FUSE.eth_ports : Loc := ⟨4, 5, 4⟩
abbrev SYS_FUSE.tdm_ports : Loc := ⟨4, 9, 6⟩
abbrev SYS_FUSE.pwm_channels : Loc := ⟨4, 15, 5⟩
abbrev SYS_FUSE.cask_channels : Loc := ⟨4, 20, 2⟩
abbrev SYS_FUSE.twin_capable : Loc := ⟨4, 22, 1⟩
abbrev SYS_FUSE.sign_enforce : Loc := ⟨4, 23, 1⟩
abbrev SYS_FUSE.grade_ind : Loc := ⟨4, 24, 1⟩
abbrev SYS_FUSE.pkg_1156 : Loc := ⟨4, 25, 1⟩
abbrev SYS_GRID.reg : Nat := 0x100
abbrev SYS_GRID.fs_sel : Loc := ⟨0x100, 0, 2⟩
abbrev SYS_GRID.n_log2 : Loc := ⟨0x100, 4, 3⟩
abbrev SYS_GRID.d_in : Loc := ⟨0x100, 8, 6⟩
abbrev SYS_GRID.latency : Loc := ⟨0x100, 16, 6⟩
abbrev SYS_TIME_CAP.reg : Nat := 0x104
abbrev SYS_TIME_CAP.capture : Loc := ⟨0x104, 0, 1⟩
abbrev SYS_TIME_CAP.unlocked : Loc := ⟨0x104, 1, 1⟩
abbrev SYS_TIME_CAP.time_set : Loc := ⟨0x104, 2, 1⟩
abbrev SYS_TIME_CAP.time_sets : Loc := ⟨0x104, 8, 8⟩
abbrev SYS_CAP_SEC_LO.reg : Nat := 0x108
abbrev SYS_CAP_SEC_LO.sec_lo : Loc := ⟨0x108, 0, 32⟩
abbrev SYS_CAP_SEC_HI.reg : Nat := 0x10C
abbrev SYS_CAP_SEC_HI.sec_hi : Loc := ⟨0x10C, 0, 16⟩
abbrev SYS_CAP_NS.reg : Nat := 0x110
abbrev SYS_CAP_NS.ns : Loc := ⟨0x110, 0, 30⟩
abbrev SYS_CAP_FRAC.reg : Nat := 0x114
abbrev SYS_CAP_FRAC.frac : Loc := ⟨0x114, 0, 16⟩
abbrev SYS_CAP_PN_LO.reg : Nat := 0x118
abbrev SYS_CAP_PN_LO.pn_lo : Loc := ⟨0x118, 0, 32⟩
abbrev SYS_CAP_PN_HI.reg : Nat := 0x11C
abbrev SYS_CAP_PN_HI.pn_hi : Loc := ⟨0x11C, 0, 32⟩
abbrev SYS_CAP_OFS.reg : Nat := 0x120
abbrev SYS_CAP_OFS.ofs : Loc := ⟨0x120, 0, 19⟩
abbrev SYS_POUT.reg : Nat := 0x124
abbrev SYS_POUT.enable : Loc := ⟨0x124, 0, 1⟩
abbrev SYS_POUT.polarity : Loc := ⟨0x124, 1, 1⟩
abbrev SYS_POUT.div_log2 : Loc := ⟨0x124, 4, 4⟩
abbrev SYS_POUT.width : Loc := ⟨0x124, 8, 8⟩
abbrev MASH_STAT.reg : Nat := 0x100000
abbrev MASH_STAT.running : Loc := ⟨0x100000, 0, 1⟩
abbrev MASH_STAT.over_cap : Loc := ⟨0x100000, 1, 1⟩
abbrev MASH_STAT.clip_any : Loc := ⟨0x100000, 2, 1⟩
abbrev MASH_STAT.rejects : Loc := ⟨0x100000, 3, 1⟩
abbrev MASH_STAT.slots_busy : Loc := ⟨0x100000, 16, 11⟩
abbrev MASH_XP_SPLIT.reg : Nat := 0x100004
abbrev MASH_XP_SPLIT.split1 : Loc := ⟨0x100004, 0, 15⟩
abbrev MASH_XP_SPLIT.split2 : Loc := ⟨0x100004, 16, 15⟩
abbrev MASH_PHASE.reg : Nat := 0x100008
abbrev MASH_PHASE.ph1_end : Loc := ⟨0x100008, 0, 16⟩
abbrev MASH_PHASE.ph3_start : Loc := ⟨0x100008, 16, 16⟩
abbrev MASH_COST.reg : Nat := 0x10000C
abbrev MASH_COST.mac_per_sample : Loc := ⟨0x10000C, 0, 18⟩
abbrev MASH_DIPS.reg : Nat := 0x100010
abbrev MASH_DIPS.dips : Loc := ⟨0x100010, 0, 32⟩
abbrev MASH_XFADES.reg : Nat := 0x100014
abbrev MASH_XFADES.xfades : Loc := ⟨0x100014, 0, 32⟩
abbrev MASH_XSLOT_PEAK.reg : Nat := 0x100018
abbrev MASH_XSLOT_PEAK.slots_peak : Loc := ⟨0x100018, 0, 11⟩
abbrev MASH_CTRL.reg : Nat := 0x10001C
abbrev MASH_CTRL.dly_hold : Loc := ⟨0x10001C, 0, 1⟩
abbrev MASH_CLIP.reg (i : Nat) : Nat := 0x104000 + 4 * i
abbrev MASH_CLIP.clip (i : Nat) : Loc := ⟨0x104000 + 4 * i, 0, 32⟩
abbrev MASH_SRC.reg (i : Nat) : Nat := 0x108000 + 4 * i
abbrev MASH_SRC.dc_en (i : Nat) : Loc := ⟨0x108000 + 4 * i, 0, 1⟩
abbrev MASH_SRC.hp_en (i : Nat) : Loc := ⟨0x108000 + 4 * i, 1, 1⟩
abbrev MASH_SRC.hp_corner (i : Nat) : Loc := ⟨0x108000 + 4 * i, 2, 7⟩
abbrev MASH_SRC.cond_alloc (i : Nat) : Loc := ⟨0x108000 + 4 * i, 9, 1⟩
abbrev MASH_SRC.cond_live (i : Nat) : Loc := ⟨0x108000 + 4 * i, 10, 1⟩
abbrev MASH_DST_GAIN.reg (i : Nat) : Nat := 0x110000 + 0x10 * i
abbrev MASH_DST_GAIN.trim (i : Nat) : Loc := ⟨0x110000 + 0x10 * i, 0, 24⟩
abbrev MASH_DST_GAIN.mute (i : Nat) : Loc := ⟨0x110000 + 0x10 * i, 24, 1⟩
abbrev MASH_DST_GAIN.law (i : Nat) : Loc := ⟨0x110000 + 0x10 * i, 25, 1⟩
abbrev MASH_DST_GAIN.dly_xfade (i : Nat) : Loc := ⟨0x110000 + 0x10 * i, 26, 1⟩
abbrev MASH_DST_CTL.reg (i : Nat) : Nat := 0x110004 + 0x10 * i
abbrev MASH_DST_CTL.ramp_time (i : Nat) : Loc := ⟨0x110004 + 0x10 * i, 0, 16⟩
abbrev MASH_DST_CTL.glide_rate (i : Nat) : Loc := ⟨0x110004 + 0x10 * i, 16, 16⟩
abbrev MASH_DST_DLY.reg (i : Nat) : Nat := 0x110008 + 0x10 * i
abbrev MASH_DST_DLY.delay_int (i : Nat) : Loc := ⟨0x110008 + 0x10 * i, 0, 21⟩
abbrev MASH_DST_DLY.delay_frac (i : Nat) : Loc := ⟨0x110008 + 0x10 * i, 21, 10⟩
abbrev MASH_DST_POOL.reg (i : Nat) : Nat := 0x11000C + 0x10 * i
abbrev MASH_DST_POOL.pool_base (i : Nat) : Loc := ⟨0x11000C + 0x10 * i, 0, 15⟩
abbrev MASH_DST_POOL.frac_en (i : Nat) : Loc := ⟨0x11000C + 0x10 * i, 15, 1⟩
abbrev MASH_DST_POOL.pool_len (i : Nat) : Loc := ⟨0x11000C + 0x10 * i, 16, 16⟩
abbrev MASH_XP_W0.reg (i : Nat) : Nat := 0x200000 + 0x10 * i
abbrev MASH_XP_W0.src (i : Nat) : Loc := ⟨0x200000 + 0x10 * i, 0, 13⟩
abbrev MASH_XP_W0.dst (i : Nat) : Loc := ⟨0x200000 + 0x10 * i, 16, 13⟩
abbrev MASH_XP_W0.enable (i : Nat) : Loc := ⟨0x200000 + 0x10 * i, 29, 1⟩
abbrev MASH_XP_W0.polarity (i : Nat) : Loc := ⟨0x200000 + 0x10 * i, 30, 1⟩
abbrev MASH_XP_W0.law (i : Nat) : Loc := ⟨0x200000 + 0x10 * i, 31, 1⟩
abbrev MASH_XP_W1.reg (i : Nat) : Nat := 0x200004 + 0x10 * i
abbrev MASH_XP_W1.gain (i : Nat) : Loc := ⟨0x200004 + 0x10 * i, 0, 24⟩
abbrev MASH_XP_W2.reg (i : Nat) : Nat := 0x200008 + 0x10 * i
abbrev MASH_XP_W2.ramp_time (i : Nat) : Loc := ⟨0x200008 + 0x10 * i, 0, 16⟩
abbrev MASH_XP_W2.xf_lin (i : Nat) : Loc := ⟨0x200008 + 0x10 * i, 16, 1⟩
abbrev MASH_XP_W3.reg (i : Nat) : Nat := 0x20000C + 0x10 * i
abbrev MASH_XP_W3.phase (i : Nat) : Loc := ⟨0x20000C + 0x10 * i, 0, 2⟩
abbrev MASH_XP_W3.slot (i : Nat) : Loc := ⟨0x20000C + 0x10 * i, 2, 10⟩
abbrev MASH_XP_W3.dipped (i : Nat) : Loc := ⟨0x20000C + 0x10 * i, 12, 1⟩
abbrev MASH_XP_W3.rejected (i : Nat) : Loc := ⟨0x20000C + 0x10 * i, 13, 1⟩
abbrev CORE_CTRL.reg (i : Nat) : Nat := 0x300000 + 0x10000 * i
abbrev CORE_CTRL.enable (i : Nat) : Loc := ⟨0x300000 + 0x10000 * i, 0, 1⟩
abbrev CORE_CTRL.halt (i : Nat) : Loc := ⟨0x300000 + 0x10000 * i, 1, 1⟩
abbrev CORE_CTRL.resume (i : Nat) : Loc := ⟨0x300000 + 0x10000 * i, 2, 1⟩
abbrev CORE_CTRL.step (i : Nat) : Loc := ⟨0x300000 + 0x10000 * i, 3, 1⟩
abbrev CORE_STAT.reg (i : Nat) : Nat := 0x300004 + 0x10000 * i
abbrev CORE_STAT.state (i : Nat) : Loc := ⟨0x300004 + 0x10000 * i, 0, 3⟩
abbrev CORE_STAT.bank (i : Nat) : Loc := ⟨0x300004 + 0x10000 * i, 3, 1⟩
abbrev CORE_STAT.lsp (i : Nat) : Loc := ⟨0x300004 + 0x10000 * i, 4, 2⟩
abbrev CORE_STAT.overruns (i : Nat) : Loc := ⟨0x300004 + 0x10000 * i, 8, 8⟩
abbrev CORE_STAT.l1_peak (i : Nat) : Loc := ⟨0x300004 + 0x10000 * i, 16, 16⟩
abbrev CORE_CFG.reg (i : Nat) : Nat := 0x300008 + 0x10000 * i
abbrev CORE_CFG.vbase (i : Nat) : Loc := ⟨0x300008 + 0x10000 * i, 0, 8⟩
abbrev CORE_CFG.rnd (i : Nat) : Loc := ⟨0x300008 + 0x10000 * i, 8, 2⟩
abbrev CORE_CFG.ftz (i : Nat) : Loc := ⟨0x300008 + 0x10000 * i, 10, 1⟩
abbrev CORE_EVT.reg (i : Nat) : Nat := 0x30000C + 0x10000 * i
abbrev CORE_EVT.illegal (i : Nat) : Loc := ⟨0x30000C + 0x10000 * i, 0, 1⟩
abbrev CORE_EVT.access (i : Nat) : Loc := ⟨0x30000C + 0x10000 * i, 1, 1⟩
abbrev CORE_EVT.loop_ovf (i : Nat) : Loc := ⟨0x30000C + 0x10000 * i, 2, 1⟩
abbrev CORE_EVT.dbl_fault (i : Nat) : Loc := ⟨0x30000C + 0x10000 * i, 3, 1⟩
abbrev CORE_EVT.overrun (i : Nat) : Loc := ⟨0x30000C + 0x10000 * i, 4, 1⟩
abbrev CORE_EVT.slice_ovr (i : Nat) : Loc := ⟨0x30000C + 0x10000 * i, 5, 1⟩
abbrev CORE_EVT.debug (i : Nat) : Loc := ⟨0x30000C + 0x10000 * i, 6, 1⟩
abbrev CORE_FAULT_PC.reg (i : Nat) : Nat := 0x300010 + 0x10000 * i
abbrev CORE_FAULT_PC.pc (i : Nat) : Loc := ⟨0x300010 + 0x10000 * i, 0, 16⟩
abbrev CORE_FAULT_PC.cause (i : Nat) : Loc := ⟨0x300010 + 0x10000 * i, 16, 2⟩
abbrev CORE_PC.reg (i : Nat) : Nat := 0x300014 + 0x10000 * i
abbrev CORE_PC.pc (i : Nat) : Loc := ⟨0x300014 + 0x10000 * i, 0, 16⟩
abbrev CORE_BKPT.reg (i j : Nat) : Nat := 0x300020 + 0x10000 * i + 4 * j
abbrev CORE_BKPT.en (i j : Nat) : Loc := ⟨0x300020 + 0x10000 * i + 4 * j, 0, 1⟩
abbrev CORE_BKPT.addr (i j : Nat) : Loc := ⟨0x300020 + 0x10000 * i + 4 * j, 2, 14⟩
abbrev CORE_DBG_SEL.reg (i : Nat) : Nat := 0x300030 + 0x10000 * i
abbrev CORE_DBG_SEL.num (i : Nat) : Loc := ⟨0x300030 + 0x10000 * i, 0, 8⟩
abbrev CORE_DBG_SEL.bank (i : Nat) : Loc := ⟨0x300030 + 0x10000 * i, 8, 1⟩
abbrev CORE_DBG_SEL.halt_en (i : Nat) : Loc := ⟨0x300030 + 0x10000 * i, 9, 1⟩
abbrev CORE_DBG_DATA.reg (i : Nat) : Nat := 0x300034 + 0x10000 * i
abbrev CORE_DBG_DATA.data (i : Nat) : Loc := ⟨0x300034 + 0x10000 * i, 0, 32⟩
abbrev CORE_SEND.reg (i : Nat) : Nat := 0x300100 + 0x10000 * i
abbrev CORE_SEND.base (i : Nat) : Loc := ⟨0x300100 + 0x10000 * i, 0, 11⟩
abbrev CORE_SEND.count (i : Nat) : Loc := ⟨0x300100 + 0x10000 * i, 16, 8⟩
abbrev CORE_RET.reg (i : Nat) : Nat := 0x300104 + 0x10000 * i
abbrev CORE_RET.base (i : Nat) : Loc := ⟨0x300104 + 0x10000 * i, 0, 11⟩
abbrev CORE_RET.count (i : Nat) : Loc := ⟨0x300104 + 0x10000 * i, 16, 8⟩
abbrev CORE_AREA.reg (i : Nat) : Nat := 0x300108 + 0x10000 * i
abbrev CORE_AREA.base (i : Nat) : Loc := ⟨0x300108 + 0x10000 * i, 0, 11⟩
abbrev CORE_PARAM.reg (i : Nat) : Nat := 0x30010C + 0x10000 * i
abbrev CORE_PARAM.base (i : Nat) : Loc := ⟨0x30010C + 0x10000 * i, 0, 11⟩
abbrev CORE_PARAM.len (i : Nat) : Loc := ⟨0x30010C + 0x10000 * i, 16, 10⟩
abbrev CORE_PSTAT.reg (i : Nat) : Nat := 0x300110 + 0x10000 * i
abbrev CORE_PSTAT.active (i : Nat) : Loc := ⟨0x300110 + 0x10000 * i, 0, 1⟩
abbrev CORE_PSTAT.copy_busy (i : Nat) : Loc := ⟨0x300110 + 0x10000 * i, 1, 1⟩
abbrev CORE_PSTAT.postponed (i : Nat) : Loc := ⟨0x300110 + 0x10000 * i, 2, 1⟩
abbrev CORE_PSTAT.swaps (i : Nat) : Loc := ⟨0x300110 + 0x10000 * i, 16, 16⟩
abbrev CORE_SLICE.reg (i j : Nat) : Nat := 0x300120 + 0x10000 * i + 4 * j
abbrev CORE_SLICE.at_ (i j : Nat) : Loc := ⟨0x300120 + 0x10000 * i + 4 * j, 0, 16⟩
abbrev CORE_SLICE.en (i j : Nat) : Loc := ⟨0x300120 + 0x10000 * i + 4 * j, 16, 1⟩
abbrev CORE_DMA_STAT.reg (i : Nat) : Nat := 0x300148 + 0x10000 * i
abbrev CORE_DMA_STAT.rt_taken (i : Nat) : Loc := ⟨0x300148 + 0x10000 * i, 0, 8⟩
abbrev CORE_DMA_STAT.late (i : Nat) : Loc := ⟨0x300148 + 0x10000 * i, 8, 1⟩
abbrev CORE_DMA_STAT.err (i : Nat) : Loc := ⟨0x300148 + 0x10000 * i, 9, 1⟩
abbrev CORE_DMA_STAT.be_done (i : Nat) : Loc := ⟨0x300148 + 0x10000 * i, 16, 16⟩
abbrev CORE_RUN.reg (i : Nat) : Nat := 0x300150 + 0x10000 * i
abbrev CORE_RUN.restart (i : Nat) : Loc := ⟨0x300150 + 0x10000 * i, 0, 1⟩
abbrev CORE_RSTAT.reg (i : Nat) : Nat := 0x300154 + 0x10000 * i
abbrev CORE_RSTAT.misses (i : Nat) : Loc := ⟨0x300154 + 0x10000 * i, 0, 16⟩
abbrev CORE_RSTAT.last_taken (i : Nat) : Loc := ⟨0x300154 + 0x10000 * i, 16, 1⟩
abbrev CORE_RSTAT.muted (i : Nat) : Loc := ⟨0x300154 + 0x10000 * i, 17, 1⟩
abbrev CORE_MBOX_IN.reg (i j : Nat) : Nat := 0x300180 + 0x10000 * i + 4 * j
abbrev CORE_MBOX_IN.word (i j : Nat) : Loc := ⟨0x300180 + 0x10000 * i + 4 * j, 0, 32⟩
abbrev CORE_MBOX_OUT.reg (i j : Nat) : Nat := 0x3001A0 + 0x10000 * i + 4 * j
abbrev CORE_MBOX_OUT.word (i j : Nat) : Loc := ⟨0x3001A0 + 0x10000 * i + 4 * j, 0, 32⟩
abbrev CORE_MBOX_STAT.reg (i : Nat) : Nat := 0x3001C0 + 0x10000 * i
abbrev CORE_MBOX_STAT.in_pend (i : Nat) : Loc := ⟨0x3001C0 + 0x10000 * i, 0, 1⟩
abbrev CORE_MBOX_STAT.in_ovr (i : Nat) : Loc := ⟨0x3001C0 + 0x10000 * i, 1, 1⟩
abbrev CORE_MBOX_STAT.out_full (i : Nat) : Loc := ⟨0x3001C0 + 0x10000 * i, 2, 1⟩
abbrev CORE_PWIN.reg (i j : Nat) : Nat := 0x308000 + 0x10000 * i + 4 * j
abbrev CORE_PWIN.word (i j : Nat) : Loc := ⟨0x308000 + 0x10000 * i + 4 * j, 0, 32⟩
abbrev XIO_GRP_CFG.reg (i : Nat) : Nat := 0x400000 + 0x10 * i
abbrev XIO_GRP_CFG.master (i : Nat) : Loc := ⟨0x400000 + 0x10 * i, 0, 1⟩
abbrev XIO_GRP_CFG.domain (i : Nat) : Loc := ⟨0x400000 + 0x10 * i, 1, 2⟩
abbrev XIO_GRP_CFG.slots_m1 (i : Nat) : Loc := ⟨0x400000 + 0x10 * i, 3, 5⟩
abbrev XIO_GRP_CFG.slot_width (i : Nat) : Loc := ⟨0x400000 + 0x10 * i, 8, 2⟩
abbrev XIO_GRP_CFG.fs_mode (i : Nat) : Loc := ⟨0x400000 + 0x10 * i, 10, 2⟩
abbrev XIO_GRP_CFG.fs_delay (i : Nat) : Loc := ⟨0x400000 + 0x10 * i, 12, 1⟩
abbrev XIO_GRP_CFG.fs_pol (i : Nat) : Loc := ⟨0x400000 + 0x10 * i, 13, 1⟩
abbrev XIO_GRP_CFG.bclk_pol (i : Nat) : Loc := ⟨0x400000 + 0x10 * i, 14, 1⟩
abbrev XIO_GRP_CFG.mclk_en (i : Nat) : Loc := ⟨0x400000 + 0x10 * i, 15, 1⟩
abbrev XIO_GRP_CFG.mclk_early (i : Nat) : Loc := ⟨0x400000 + 0x10 * i, 16, 1⟩
abbrev XIO_GRP_STAT.reg (i : Nat) : Nat := 0x400004 + 0x10 * i
abbrev XIO_GRP_STAT.running (i : Nat) : Loc := ⟨0x400004 + 0x10 * i, 0, 1⟩
abbrev XIO_GRP_STAT.clk_ok (i : Nat) : Loc := ⟨0x400004 + 0x10 * i, 1, 1⟩
abbrev XIO_GRP_STAT.frame_err (i : Nat) : Loc := ⟨0x400004 + 0x10 * i, 2, 1⟩
abbrev XIO_GRP_STAT.fill (i : Nat) : Loc := ⟨0x400004 + 0x10 * i, 3, 3⟩
abbrev XIO_GRP_STAT.slips (i : Nat) : Loc := ⟨0x400004 + 0x10 * i, 16, 16⟩
abbrev XIO_GRP_PHASE.reg (i : Nat) : Nat := 0x400008 + 0x10 * i
abbrev XIO_GRP_PHASE.phase (i : Nat) : Loc := ⟨0x400008 + 0x10 * i, 0, 32⟩
abbrev XIO_PORT.reg (i : Nat) : Nat := 0x400100 + 4 * i
abbrev XIO_PORT.win (i : Nat) : Loc := ⟨0x400100 + 4 * i, 0, 2⟩
abbrev XIO_PORT.wout (i : Nat) : Loc := ⟨0x400100 + 4 * i, 2, 2⟩
abbrev XIO_PORT.in_en (i : Nat) : Loc := ⟨0x400100 + 4 * i, 4, 1⟩
abbrev XIO_PORT.out_en (i : Nat) : Loc := ⟨0x400100 + 4 * i, 5, 1⟩
abbrev XIO_PORT.out_hiz (i : Nat) : Loc := ⟨0x400100 + 4 * i, 6, 1⟩
abbrev XIO_DOM.reg (i : Nat) : Nat := 0x400200 + 4 * i
abbrev XIO_DOM.src (i : Nat) : Loc := ⟨0x400200 + 4 * i, 0, 2⟩
abbrev XIO_DOM.grp (i : Nat) : Loc := ⟨0x400200 + 4 * i, 2, 2⟩
abbrev XIO_DOM.rate (i : Nat) : Loc := ⟨0x400200 + 4 * i, 4, 3⟩
abbrev XIO_DOM.pull (i : Nat) : Loc := ⟨0x400200 + 4 * i, 7, 1⟩
abbrev XIO_DOM.locked (i : Nat) : Loc := ⟨0x400200 + 4 * i, 8, 1⟩
abbrev XIO_BR_CFG.reg (i : Nat) : Nat := 0x402000 + 0x10 * i
abbrev XIO_BR_CFG.en (i : Nat) : Loc := ⟨0x402000 + 0x10 * i, 0, 1⟩
abbrev XIO_BR_CFG.dir (i : Nat) : Loc := ⟨0x402000 + 0x10 * i, 1, 1⟩
abbrev XIO_BR_CFG.slot (i : Nat) : Loc := ⟨0x402000 + 0x10 * i, 2, 5⟩
abbrev XIO_BR_CFG.port (i : Nat) : Loc := ⟨0x402000 + 0x10 * i, 7, 5⟩
abbrev XIO_BR_CFG.gd_target (i : Nat) : Loc := ⟨0x402000 + 0x10 * i, 16, 8⟩
abbrev XIO_BR_STAT.reg (i : Nat) : Nat := 0x402004 + 0x10 * i
abbrev XIO_BR_STAT.locked (i : Nat) : Loc := ⟨0x402004 + 0x10 * i, 0, 1⟩
abbrev XIO_BR_STAT.unlocked_evt (i : Nat) : Loc := ⟨0x402004 + 0x10 * i, 1, 1⟩
abbrev XIO_BR_STAT.unlocks (i : Nat) : Loc := ⟨0x402004 + 0x10 * i, 16, 16⟩
abbrev XIO_BR_GD.reg (i : Nat) : Nat := 0x402008 + 0x10 * i
abbrev XIO_BR_GD.gd (i : Nat) : Loc := ⟨0x402008 + 0x10 * i, 0, 32⟩
abbrev XIO_BR_RATIO.reg (i : Nat) : Nat := 0x40200C + 0x10 * i
abbrev XIO_BR_RATIO.ratio (i : Nat) : Loc := ⟨0x40200C + 0x10 * i, 0, 32⟩
abbrev PWM_CFG.reg : Nat := 0x480000
abbrev PWM_CFG.boot_time : Loc := ⟨0x480000, 0, 8⟩
abbrev PWM_CFG.ramp_ms : Loc := ⟨0x480000, 8, 8⟩
abbrev PWM_CFG.min_pulse : Loc := ⟨0x480000, 16, 5⟩
abbrev PWM_CFG.ss_en : Loc := ⟨0x480000, 21, 1⟩
abbrev PWM_HICCUP.reg : Nat := 0x480004
abbrev PWM_HICCUP.hiccup : Loc := ⟨0x480004, 0, 16⟩
abbrev PWM_STAT.reg : Nat := 0x480008
abbrev PWM_STAT.switching : Loc := ⟨0x480008, 0, 24⟩
abbrev PWM_LATCHED.reg : Nat := 0x48000C
abbrev PWM_LATCHED.latched : Loc := ⟨0x48000C, 0, 24⟩
abbrev PWM_CH_CFG.reg (i : Nat) : Nat := 0x480100 + 0x10 * i
abbrev PWM_CH_CFG.en (i : Nat) : Loc := ⟨0x480100 + 0x10 * i, 0, 1⟩
abbrev PWM_CH_CFG.dead (i : Nat) : Loc := ⟨0x480100 + 0x10 * i, 1, 4⟩
abbrev PWM_CH_CFG.phase (i : Nat) : Loc := ⟨0x480100 + 0x10 * i, 5, 4⟩
abbrev PWM_CH_CFG.deglitch (i : Nat) : Loc := ⟨0x480100 + 0x10 * i, 9, 3⟩
abbrev PWM_CH_STAT.reg (i : Nat) : Nat := 0x480104 + 0x10 * i
abbrev PWM_CH_STAT.state (i : Nat) : Loc := ⟨0x480104 + 0x10 * i, 0, 3⟩
abbrev PWM_CH_STAT.retry (i : Nat) : Loc := ⟨0x480104 + 0x10 * i, 3, 1⟩
abbrev PWM_CH_STAT.ocf (i : Nat) : Loc := ⟨0x480104 + 0x10 * i, 4, 1⟩
abbrev PWM_CH_STAT.trip_evt (i : Nat) : Loc := ⟨0x480104 + 0x10 * i, 5, 1⟩
abbrev PWM_CH_STAT.clip (i : Nat) : Loc := ⟨0x480104 + 0x10 * i, 6, 1⟩
abbrev PWM_CH_STAT.latch_evt (i : Nat) : Loc := ⟨0x480104 + 0x10 * i, 7, 1⟩
abbrev PWM_CH_STAT.retries (i : Nat) : Loc := ⟨0x480104 + 0x10 * i, 8, 3⟩
abbrev PWM_CH_STAT.trips (i : Nat) : Loc := ⟨0x480104 + 0x10 * i, 16, 16⟩
abbrev PWM_CH_CMD.reg (i : Nat) : Nat := 0x480108 + 0x10 * i
abbrev PWM_CH_CMD.clear (i : Nat) : Loc := ⟨0x480108 + 0x10 * i, 0, 1⟩
abbrev PWM_CH_GAIN.reg (i : Nat) : Nat := 0x48010C + 0x10 * i
abbrev PWM_CH_GAIN.lim_gain (i : Nat) : Loc := ⟨0x48010C + 0x10 * i, 0, 17⟩
abbrev PWM_RAIL_CFG.reg (i : Nat) : Nat := 0x480400 + 0x10 * i
abbrev PWM_RAIL_CFG.rail_nom (i : Nat) : Loc := ⟨0x480400 + 0x10 * i, 0, 12⟩
abbrev PWM_RAIL_CFG.sag_thr (i : Nat) : Loc := ⟨0x480400 + 0x10 * i, 16, 12⟩
abbrev PWM_RAIL_LIM.reg (i : Nat) : Nat := 0x480404 + 0x10 * i
abbrev PWM_RAIL_LIM.attack (i : Nat) : Loc := ⟨0x480404 + 0x10 * i, 0, 7⟩
abbrev PWM_RAIL_LIM.release (i : Nat) : Loc := ⟨0x480404 + 0x10 * i, 8, 8⟩
abbrev PWM_RAIL_LIM.lim_head (i : Nat) : Loc := ⟨0x480404 + 0x10 * i, 16, 8⟩
abbrev PWM_RAIL_MIN.reg (i : Nat) : Nat := 0x480408 + 0x10 * i
abbrev PWM_RAIL_MIN.rail_min (i : Nat) : Loc := ⟨0x480408 + 0x10 * i, 0, 12⟩
abbrev PWM_RAIL_STAT.reg (i : Nat) : Nat := 0x48040C + 0x10 * i
abbrev PWM_RAIL_STAT.v (i : Nat) : Loc := ⟨0x48040C + 0x10 * i, 0, 12⟩
abbrev PWM_RAIL_STAT.low (i : Nat) : Loc := ⟨0x48040C + 0x10 * i, 12, 1⟩
abbrev PWM_RAIL_STAT.sag (i : Nat) : Loc := ⟨0x48040C + 0x10 * i, 13, 1⟩
abbrev PWM_RAIL_STAT.low_evt (i : Nat) : Loc := ⟨0x48040C + 0x10 * i, 14, 1⟩
abbrev ETH_PCFG.reg (i : Nat) : Nat := 0x40000 + 0x2000 * i
abbrev ETH_PCFG.en (i : Nat) : Loc := ⟨0x40000 + 0x2000 * i, 0, 1⟩
abbrev ETH_PCFG.speed (i : Nat) : Loc := ⟨0x40000 + 0x2000 * i, 1, 1⟩
abbrev ETH_PCFG.fec (i : Nat) : Loc := ⟨0x40000 + 0x2000 * i, 2, 1⟩
abbrev ETH_PCFG.bridge (i : Nat) : Loc := ⟨0x40000 + 0x2000 * i, 3, 1⟩
abbrev ETH_PCFG.learn (i : Nat) : Loc := ⟨0x40000 + 0x2000 * i, 4, 1⟩
abbrev ETH_PCFG.cut (i : Nat) : Loc := ⟨0x40000 + 0x2000 * i, 5, 1⟩
abbrev ETH_PCFG.wake_en (i : Nat) : Loc := ⟨0x40000 + 0x2000 * i, 6, 1⟩
abbrev ETH_PCFG.bcast (i : Nat) : Loc := ⟨0x40000 + 0x2000 * i, 7, 1⟩
abbrev ETH_PCFG.pvid (i : Nat) : Loc := ⟨0x40000 + 0x2000 * i, 8, 12⟩
abbrev ETH_PCFG.ingress_filter (i : Nat) : Loc := ⟨0x40000 + 0x2000 * i, 20, 1⟩
abbrev ETH_MAXLEN.reg (i : Nat) : Nat := 0x40004 + 0x2000 * i
abbrev ETH_MAXLEN.maxlen (i : Nat) : Loc := ⟨0x40004 + 0x2000 * i, 0, 14⟩
abbrev ETH_PSTAT.reg (i : Nat) : Nat := 0x40008 + 0x2000 * i
abbrev ETH_PSTAT.link (i : Nat) : Loc := ⟨0x40008 + 0x2000 * i, 0, 1⟩
abbrev ETH_PSTAT.blk_lock (i : Nat) : Loc := ⟨0x40008 + 0x2000 * i, 1, 1⟩
abbrev ETH_PSTAT.fec_align (i : Nat) : Loc := ⟨0x40008 + 0x2000 * i, 2, 1⟩
abbrev ETH_PSTAT.rx_lpi (i : Nat) : Loc := ⟨0x40008 + 0x2000 * i, 3, 1⟩
abbrev ETH_PSTAT.tx_lpi (i : Nat) : Loc := ⟨0x40008 + 0x2000 * i, 4, 1⟩
abbrev ETH_PSTAT.pre_state (i : Nat) : Loc := ⟨0x40008 + 0x2000 * i, 5, 2⟩
abbrev ETH_PSTAT.link_evt (i : Nat) : Loc := ⟨0x40008 + 0x2000 * i, 7, 1⟩
abbrev ETH_PSTAT.lfault (i : Nat) : Loc := ⟨0x40008 + 0x2000 * i, 8, 1⟩
abbrev ETH_PSTAT.rfault (i : Nat) : Loc := ⟨0x40008 + 0x2000 * i, 9, 1⟩
abbrev ETH_PCP_MAP.reg (i : Nat) : Nat := 0x4000C + 0x2000 * i
abbrev ETH_PCP_MAP.map (i : Nat) : Loc := ⟨0x4000C + 0x2000 * i, 0, 24⟩
abbrev ETH_PCP_MAP.pcp_def (i : Nat) : Loc := ⟨0x4000C + 0x2000 * i, 24, 3⟩
abbrev ETH_PREEMPT.reg (i : Nat) : Nat := 0x40018 + 0x2000 * i
abbrev ETH_PREEMPT.en (i : Nat) : Loc := ⟨0x40018 + 0x2000 * i, 0, 1⟩
abbrev ETH_PREEMPT.verify_dis (i : Nat) : Loc := ⟨0x40018 + 0x2000 * i, 1, 1⟩
abbrev ETH_PREEMPT.frag (i : Nat) : Loc := ⟨0x40018 + 0x2000 * i, 2, 2⟩
abbrev ETH_PREEMPT.express (i : Nat) : Loc := ⟨0x40018 + 0x2000 * i, 8, 8⟩
abbrev ETH_PREEMPT.verify_time (i : Nat) : Loc := ⟨0x40018 + 0x2000 * i, 16, 8⟩
abbrev ETH_EEE.reg (i : Nat) : Nat := 0x4001C + 0x2000 * i
abbrev ETH_EEE.en (i : Nat) : Loc := ⟨0x4001C + 0x2000 * i, 0, 1⟩
abbrev ETH_EEE.tw_tx (i : Nat) : Loc := ⟨0x4001C + 0x2000 * i, 1, 7⟩
abbrev ETH_EEE.idle (i : Nat) : Loc := ⟨0x4001C + 0x2000 * i, 8, 16⟩
abbrev ETH_STORM.reg (i j : Nat) : Nat := 0x40020 + 0x2000 * i + 4 * j
abbrev ETH_STORM.rate (i j : Nat) : Loc := ⟨0x40020 + 0x2000 * i + 4 * j, 0, 16⟩
abbrev ETH_STORM.burst (i j : Nat) : Loc := ⟨0x40020 + 0x2000 * i + 4 * j, 16, 16⟩
abbrev ETH_GCTL.reg (i : Nat) : Nat := 0x40030 + 0x2000 * i
abbrev ETH_GCTL.en (i : Nat) : Loc := ⟨0x40030 + 0x2000 * i, 0, 1⟩
abbrev ETH_GCTL.cycle_m1 (i : Nat) : Loc := ⟨0x40030 + 0x2000 * i, 1, 6⟩
abbrev ETH_GCTL.len_m1 (i : Nat) : Loc := ⟨0x40030 + 0x2000 * i, 8, 6⟩
abbrev ETH_GCTL.list_err (i : Nat) : Loc := ⟨0x40030 + 0x2000 * i, 16, 1⟩
abbrev ETH_GCL.reg (i j : Nat) : Nat := 0x40100 + 0x2000 * i + 4 * j
abbrev ETH_GCL.gates (i j : Nat) : Loc := ⟨0x40100 + 0x2000 * i + 4 * j, 0, 8⟩
abbrev ETH_GCL.interval (i j : Nat) : Loc := ⟨0x40100 + 0x2000 * i + 4 * j, 8, 24⟩
abbrev ETH_DAHASH.reg (i j : Nat) : Nat := 0x40400 + 0x2000 * i + 4 * j
abbrev ETH_DAHASH.bins (i j : Nat) : Loc := ⟨0x40400 + 0x2000 * i + 4 * j, 0, 32⟩
abbrev ETH_BR_CFG.reg : Nat := 0x50000
abbrev ETH_BR_CFG.age : Loc := ⟨0x50000, 0, 16⟩
abbrev ETH_BR_CFG.seed : Loc := ⟨0x50000, 16, 16⟩
abbrev ETH_BR_STAT.reg : Nat := 0x50004
abbrev ETH_BR_STAT.fdb_used : Loc := ⟨0x50004, 0, 13⟩
abbrev ETH_BR_STAT.cam_used : Loc := ⟨0x50004, 16, 7⟩
abbrev ETH_BR_STAT.learn_full : Loc := ⟨0x50004, 24, 1⟩
abbrev ETH_FDB_CMD.reg : Nat := 0x50008
abbrev ETH_FDB_CMD.index : Loc := ⟨0x50008, 0, 13⟩
abbrev ETH_FDB_CMD.op : Loc := ⟨0x50008, 13, 3⟩
abbrev ETH_FDB_CMD.go : Loc := ⟨0x50008, 16, 1⟩
abbrev ETH_FDB_CMD.err : Loc := ⟨0x50008, 17, 1⟩
abbrev ETH_FDB_CMD.valid : Loc := ⟨0x50008, 18, 1⟩
abbrev ETH_FDB_CMD.static_ : Loc := ⟨0x50008, 19, 1⟩
abbrev ETH_BR_LEARN_FAIL.reg : Nat := 0x50014
abbrev ETH_BR_LEARN_FAIL.fails : Loc := ⟨0x50014, 0, 32⟩
abbrev ETH_WAKE_STAT.reg : Nat := 0x50018
abbrev ETH_WAKE_STAT.filter : Loc := ⟨0x50018, 0, 4⟩
abbrev ETH_WAKE_STAT.port : Loc := ⟨0x50018, 4, 3⟩
abbrev ETH_WAKE_STAT.woke : Loc := ⟨0x50018, 7, 1⟩
abbrev ETH_WAKE_MASK.reg (i j : Nat) : Nat := 0x50800 + 0x20 * i + 4 * j
abbrev ETH_WAKE_MASK.mask (i j : Nat) : Loc := ⟨0x50800 + 0x20 * i + 4 * j, 0, 32⟩
abbrev ETH_WAKE_CHK.reg (i : Nat) : Nat := 0x50810 + 0x20 * i
abbrev ETH_WAKE_CHK.chk (i : Nat) : Loc := ⟨0x50810 + 0x20 * i, 0, 16⟩
abbrev ETH_WAKE_CHK.ports (i : Nat) : Loc := ⟨0x50810 + 0x20 * i, 16, 8⟩
abbrev ETH_WAKE_CHK.en (i : Nat) : Loc := ⟨0x50810 + 0x20 * i, 24, 1⟩
abbrev ETH_VLAN0.reg : Nat := 0x54000
abbrev ETH_VLAN0.member : Loc := ⟨0x54000, 0, 8⟩
abbrev ETH_VLAN0.untag : Loc := ⟨0x54000, 8, 8⟩
abbrev ETH_VLAN1.reg : Nat := 0x54004
abbrev ETH_VLAN1.member : Loc := ⟨0x54004, 0, 8⟩
abbrev ETH_VLAN1.untag : Loc := ⟨0x54004, 8, 8⟩
abbrev ETH_VLANn.reg (i : Nat) : Nat := 0x54008 + 4 * i
abbrev ETH_VLANn.member (i : Nat) : Loc := ⟨0x54008 + 4 * i, 0, 8⟩
abbrev ETH_VLANn.untag (i : Nat) : Loc := ⟨0x54008 + 4 * i, 8, 8⟩
abbrev ETH_VLAN.reg (i : Nat) : Nat := 0x54000 + 4 * i
abbrev ETH_VLAN.member (i : Nat) : Loc := ⟨0x54000 + 4 * i, 0, 8⟩
abbrev ETH_VLAN.untag (i : Nat) : Loc := ⟨0x54000 + 4 * i, 8, 8⟩
abbrev ETH_BR_STR_W0.reg (i : Nat) : Nat := 0x58000 + 0x10 * i
abbrev ETH_BR_STR_W0.da_lo (i : Nat) : Loc := ⟨0x58000 + 0x10 * i, 0, 32⟩
abbrev ETH_BR_STR_W1.reg (i : Nat) : Nat := 0x58004 + 0x10 * i
abbrev ETH_BR_STR_W1.da_hi (i : Nat) : Loc := ⟨0x58004 + 0x10 * i, 0, 16⟩
abbrev ETH_BR_STR_W1.vid (i : Nat) : Loc := ⟨0x58004 + 0x10 * i, 16, 12⟩
abbrev ETH_BR_STR_W1.en (i : Nat) : Loc := ⟨0x58004 + 0x10 * i, 28, 1⟩
abbrev ETH_BR_STR_W2.reg (i : Nat) : Nat := 0x58008 + 0x10 * i
abbrev ETH_BR_STR_W2.ports (i : Nat) : Loc := ⟨0x58008 + 0x10 * i, 0, 9⟩
abbrev ETH_BR_STR_W2.tc (i : Nat) : Loc := ⟨0x58008 + 0x10 * i, 9, 3⟩
abbrev ETH_BR_STR_W2.max_len (i : Nat) : Loc := ⟨0x58008 + 0x10 * i, 16, 14⟩
abbrev SXE_CTRL.reg : Nat := 0x80000
abbrev SXE_CTRL.host_unk : Loc := ⟨0x80000, 0, 1⟩
abbrev SXE_STAT.reg : Nat := 0x80004
abbrev SXE_STAT.running : Loc := ⟨0x80004, 0, 1⟩
abbrev SXE_STAT.over_store : Loc := ⟨0x80004, 1, 1⟩
abbrev SXE_STAT.over_stage : Loc := ⟨0x80004, 2, 1⟩
abbrev SXE_STAT.rejects : Loc := ⟨0x80004, 3, 1⟩
abbrev SXE_RX_UNKNOWN.reg : Nat := 0x80018
abbrev SXE_RX_UNKNOWN.unknown : Loc := ⟨0x80018, 0, 32⟩
abbrev SXE_IN_CTL.reg (i : Nat) : Nat := 0x90000 + 0x40 * i
abbrev SXE_IN_CTL.en (i : Nat) : Loc := ⟨0x90000 + 0x40 * i, 0, 1⟩
abbrev SXE_IN_CTL.fmt (i : Nat) : Loc := ⟨0x90000 + 0x40 * i, 1, 2⟩
abbrev SXE_IN_CTL.subst (i : Nat) : Loc := ⟨0x90000 + 0x40 * i, 3, 2⟩
abbrev SXE_IN_CTL.sil_missing (i : Nat) : Loc := ⟨0x90000 + 0x40 * i, 5, 1⟩
abbrev SXE_IN_CTL.ssrc_chk (i : Nat) : Loc := ⟨0x90000 + 0x40 * i, 6, 1⟩
abbrev SXE_IN_CTL.ipv6 (i : Nat) : Loc := ⟨0x90000 + 0x40 * i, 7, 1⟩
abbrev SXE_IN_CTL.ports (i : Nat) : Loc := ⟨0x90000 + 0x40 * i, 8, 8⟩
abbrev SXE_IN_CTL.hist_m1 (i : Nat) : Loc := ⟨0x90000 + 0x40 * i, 16, 5⟩
abbrev SXE_IN_CTL.wid (i : Nat) : Loc := ⟨0x90000 + 0x40 * i, 22, 2⟩
abbrev SXE_IN_CTL.ch_m1 (i : Nat) : Loc := ⟨0x90000 + 0x40 * i, 24, 6⟩
abbrev SXE_IN_MAP.reg (i : Nat) : Nat := 0x90004 + 0x40 * i
abbrev SXE_IN_MAP.ch_base (i : Nat) : Loc := ⟨0x90004 + 0x40 * i, 0, 12⟩
abbrev SXE_IN_MAP.pt (i : Nat) : Loc := ⟨0x90004 + 0x40 * i, 12, 7⟩
abbrev SXE_IN_ID.reg (i j : Nat) : Nat := 0x90008 + 0x40 * i + 4 * j
abbrev SXE_IN_ID.id (i j : Nat) : Loc := ⟨0x90008 + 0x40 * i + 4 * j, 0, 32⟩
abbrev SXE_IN_UDP.reg (i : Nat) : Nat := 0x90018 + 0x40 * i
abbrev SXE_IN_UDP.udp_dst (i : Nat) : Loc := ⟨0x90018 + 0x40 * i, 0, 16⟩
abbrev SXE_IN_UDP.reset_p (i : Nat) : Loc := ⟨0x90018 + 0x40 * i, 16, 16⟩
abbrev SXE_IN_STATE.reg (i : Nat) : Nat := 0xA0020 + 0x40 * i
abbrev SXE_IN_STATE.synced (i : Nat) : Loc := ⟨0xA0020 + 0x40 * i, 0, 1⟩
abbrev SXE_IN_STATE.sub_now (i : Nat) : Loc := ⟨0xA0020 + 0x40 * i, 1, 1⟩
abbrev SXE_IN_STATE.rejected (i : Nat) : Loc := ⟨0xA0020 + 0x40 * i, 2, 1⟩
abbrev SXE_IN_STATE.gen (i : Nat) : Loc := ⟨0xA0020 + 0x40 * i, 8, 8⟩
abbrev SXE_IN_STATE.rseq (i : Nat) : Loc := ⟨0xA0020 + 0x40 * i, 16, 16⟩
abbrev SXE_EG_CTL.reg (i : Nat) : Nat := 0xB0000 + 0x40 * i
abbrev SXE_EG_CTL.en (i : Nat) : Loc := ⟨0xB0000 + 0x40 * i, 0, 1⟩
abbrev SXE_EG_CTL.fmt (i : Nat) : Loc := ⟨0xB0000 + 0x40 * i, 1, 2⟩
abbrev SXE_EG_CTL.a_en (i : Nat) : Loc := ⟨0xB0000 + 0x40 * i, 3, 1⟩
abbrev SXE_EG_CTL.b_en (i : Nat) : Loc := ⟨0xB0000 + 0x40 * i, 4, 1⟩
abbrev SXE_EG_CTL.wid (i : Nat) : Loc := ⟨0xB0000 + 0x40 * i, 5, 2⟩
abbrev SXE_EG_CTL.vlan_en (i : Nat) : Loc := ⟨0xB0000 + 0x40 * i, 7, 1⟩
abbrev SXE_EG_CTL.port_a (i : Nat) : Loc := ⟨0xB0000 + 0x40 * i, 8, 3⟩
abbrev SXE_EG_CTL.port_b (i : Nat) : Loc := ⟨0xB0000 + 0x40 * i, 11, 3⟩
abbrev SXE_EG_CTL.pcp (i : Nat) : Loc := ⟨0xB0000 + 0x40 * i, 14, 3⟩
abbrev SXE_EG_CTL.ch_m1 (i : Nat) : Loc := ⟨0xB0000 + 0x40 * i, 17, 6⟩
abbrev SXE_EG_CTL.spp_m1 (i : Nat) : Loc := ⟨0xB0000 + 0x40 * i, 23, 7⟩
abbrev SXE_EG_MAP.reg (i : Nat) : Nat := 0xB0004 + 0x40 * i
abbrev SXE_EG_MAP.ch_base (i : Nat) : Loc := ⟨0xB0004 + 0x40 * i, 0, 12⟩
abbrev SXE_EG_MAP.vid (i : Nat) : Loc := ⟨0xB0004 + 0x40 * i, 12, 12⟩
abbrev SXE_EG_MAP.ipv6 (i : Nat) : Loc := ⟨0xB0004 + 0x40 * i, 24, 1⟩
abbrev SXE_EG_MAP.pt (i : Nat) : Loc := ⟨0xB0004 + 0x40 * i, 25, 7⟩
abbrev PTP_CTRL.reg : Nat := 0x20000
abbrev PTP_CTRL.tc_mode : Loc := ⟨0x20000, 0, 2⟩
abbrev PTP_CTRL.log_en : Loc := ⟨0x20000, 2, 1⟩
abbrev PTP_CTRL.log_other : Loc := ⟨0x20000, 3, 1⟩
abbrev PTP_STAT.reg : Nat := 0x20004
abbrev PTP_STAT.source : Loc := ⟨0x20004, 0, 2⟩
abbrev PTP_STAT.set_pending : Loc := ⟨0x20004, 2, 1⟩
abbrev PTP_STAT.beyond : Loc := ⟨0x20004, 3, 1⟩
abbrev PTP_DOM_CFG.reg (i : Nat) : Nat := 0x20100 + 0x100 * i
abbrev PTP_DOM_CFG.en (i : Nat) : Loc := ⟨0x20100 + 0x100 * i, 0, 1⟩
abbrev PTP_DOM_CFG.dom_num (i : Nat) : Loc := ⟨0x20100 + 0x100 * i, 1, 8⟩
abbrev PTP_DOM_CFG.profile (i : Nat) : Loc := ⟨0x20100 + 0x100 * i, 9, 1⟩
abbrev PTP_DOM_CFG.transport (i : Nat) : Loc := ⟨0x20100 + 0x100 * i, 10, 2⟩
abbrev PTP_DOM_CFG.p2p (i : Nat) : Loc := ⟨0x20100 + 0x100 * i, 12, 1⟩
abbrev PTP_DOM_CFG.one_step (i : Nat) : Loc := ⟨0x20100 + 0x100 * i, 13, 1⟩
abbrev PTP_DOM_CFG.sync_log (i : Nat) : Loc := ⟨0x20100 + 0x100 * i, 14, 4⟩
abbrev PTP_DOM_CFG.dreq_log (i : Nat) : Loc := ⟨0x20100 + 0x100 * i, 18, 4⟩
abbrev PTP_DOM_CFG.step_en (i : Nat) : Loc := ⟨0x20100 + 0x100 * i, 22, 1⟩
abbrev PTP_DOM_PORTS.reg (i : Nat) : Nat := 0x20104 + 0x100 * i
abbrev PTP_DOM_PORTS.state (i : Nat) : Loc := ⟨0x20104 + 0x100 * i, 0, 24⟩
abbrev PTP_DOM_FILT.reg (i : Nat) : Nat := 0x20114 + 0x100 * i
abbrev PTP_DOM_FILT.pd_avg (i : Nat) : Loc := ⟨0x20114 + 0x100 * i, 0, 4⟩
abbrev PTP_DOM_FILT.outlier (i : Nat) : Loc := ⟨0x20114 + 0x100 * i, 4, 16⟩
abbrev PTP_DOM_FILT.sync_to (i : Nat) : Loc := ⟨0x20114 + 0x100 * i, 20, 4⟩
abbrev PTP_DOM_STEP.reg (i : Nat) : Nat := 0x20118 + 0x100 * i
abbrev PTP_DOM_STEP.set_thr (i : Nat) : Loc := ⟨0x20118 + 0x100 * i, 0, 24⟩
abbrev PTP_DOM_STEP.step_hold (i : Nat) : Loc := ⟨0x20118 + 0x100 * i, 24, 8⟩
abbrev PTP_DOM_CMD.reg (i : Nat) : Nat := 0x2011C + 0x100 * i
abbrev PTP_DOM_CMD.reset (i : Nat) : Loc := ⟨0x2011C + 0x100 * i, 0, 1⟩
abbrev PTP_DOM_STAT.reg (i : Nat) : Nat := 0x20130 + 0x100 * i
abbrev PTP_DOM_STAT.valid (i : Nat) : Loc := ⟨0x20130 + 0x100 * i, 0, 1⟩
abbrev PTP_DOM_STAT.mpd_ok (i : Nat) : Loc := ⟨0x20130 + 0x100 * i, 1, 1⟩
abbrev PTP_DOM_STAT.acc (i : Nat) : Loc := ⟨0x20130 + 0x100 * i, 16, 16⟩
abbrev PTP_DOM_AS.reg (i j : Nat) : Nat := 0x20148 + 0x100 * i + 4 * j
abbrev PTP_DOM_AS.tlv (i j : Nat) : Loc := ⟨0x20148 + 0x100 * i + 4 * j, 0, 32⟩
abbrev PTP_PORT_CFG.reg (i : Nat) : Nat := 0x20800 + 0x20 * i
abbrev PTP_PORT_CFG.pdelay_en (i : Nat) : Loc := ⟨0x20800 + 0x20 * i, 0, 1⟩
abbrev PTP_PORT_CFG.pdelay_log (i : Nat) : Loc := ⟨0x20800 + 0x20 * i, 1, 4⟩
abbrev PTP_PORT_CFG.pdelay_dom (i : Nat) : Loc := ⟨0x20800 + 0x20 * i, 5, 8⟩
abbrev PTP_PORT_CFG.transport (i : Nat) : Loc := ⟨0x20800 + 0x20 * i, 13, 2⟩
abbrev PTP_PORT_LDSTAT.reg (i : Nat) : Nat := 0x20814 + 0x20 * i
abbrev PTP_PORT_LDSTAT.ld_valid (i : Nat) : Loc := ⟨0x20814 + 0x20 * i, 0, 1⟩
abbrev PTP_PORT_LDSTAT.lost (i : Nat) : Loc := ⟨0x20814 + 0x20 * i, 16, 16⟩
abbrev KILN_CFG.reg : Nat := 0x10000
abbrev KILN_CFG.hybrid : Loc := ⟨0x10000, 0, 1⟩
abbrev KILN_CFG.free_ok : Loc := ⟨0x10000, 1, 1⟩
abbrev KILN_STAT.reg : Nat := 0x10004
abbrev KILN_STAT.state : Loc := ⟨0x10004, 0, 2⟩
abbrev KILN_STAT.lock : Loc := ⟨0x10004, 2, 1⟩
abbrev KILN_STAT.sel : Loc := ⟨0x10004, 3, 4⟩
abbrev KILN_STAT.fsel : Loc := ⟨0x10004, 7, 4⟩
abbrev KILN_STAT.phase_hold : Loc := ⟨0x10004, 11, 1⟩
abbrev KILN_STAT.dispute : Loc := ⟨0x10004, 12, 1⟩
abbrev KILN_STAT.wander : Loc := ⟨0x10004, 13, 1⟩
abbrev KILN_STAT.slewing : Loc := ⟨0x10004, 14, 1⟩
abbrev KILN_EVT.reg : Nat := 0x10008
abbrev KILN_EVT.switch : Loc := ⟨0x10008, 0, 1⟩
abbrev KILN_EVT.ho_evt : Loc := ⟨0x10008, 1, 1⟩
abbrev KILN_EVT.lock_lost : Loc := ⟨0x10008, 2, 1⟩
abbrev KILN_EVT.wander_evt : Loc := ⟨0x10008, 3, 1⟩
abbrev KILN_EVT.dispute_evt : Loc := ⟨0x10008, 4, 1⟩
abbrev KILN_EVT.pend_sat : Loc := ⟨0x10008, 5, 1⟩
abbrev KILN_EVT.align_done : Loc := ⟨0x10008, 6, 1⟩
abbrev KILN_SWITCHES.reg : Nat := 0x1000C
abbrev KILN_SWITCHES.switches : Loc := ⟨0x1000C, 0, 32⟩
abbrev KILN_SLEW_MAX.reg : Nat := 0x10010
abbrev KILN_SLEW_MAX.slew : Loc := ⟨0x10010, 0, 16⟩
abbrev KILN_DRIFT_MAX.reg : Nat := 0x10014
abbrev KILN_DRIFT_MAX.drift : Loc := ⟨0x10014, 0, 16⟩
abbrev KILN_HOLDOVER.reg : Nat := 0x10020
abbrev KILN_HOLDOVER.ho_avg : Loc := ⟨0x10020, 0, 10⟩
abbrev KILN_HOLDOVER.ho_max : Loc := ⟨0x10020, 16, 16⟩
abbrev KILN_LOCK.reg : Nat := 0x10024
abbrev KILN_LOCK.lock_win : Loc := ⟨0x10024, 0, 16⟩
abbrev KILN_LOCK.lock_hold : Loc := ⟨0x10024, 16, 8⟩
abbrev KILN_FREF_NOM.reg : Nat := 0x10028
abbrev KILN_FREF_NOM.nom : Loc := ⟨0x10028, 0, 27⟩
abbrev KILN_BW0.reg : Nat := 0x10030
abbrev KILN_BW0.bw : Loc := ⟨0x10030, 0, 14⟩
abbrev KILN_BW1.reg : Nat := 0x10034
abbrev KILN_BW1.bw : Loc := ⟨0x10034, 0, 14⟩
abbrev KILN_BW2.reg : Nat := 0x10038
abbrev KILN_BW2.bw : Loc := ⟨0x10038, 0, 14⟩
abbrev KILN_BW3.reg : Nat := 0x1003C
abbrev KILN_BW3.bw : Loc := ⟨0x1003C, 0, 14⟩
abbrev KILN_BW4.reg : Nat := 0x10040
abbrev KILN_BW4.bw : Loc := ⟨0x10040, 0, 14⟩
abbrev KILN_BW.reg (i : Nat) : Nat := 0x10030 + 4 * i
abbrev KILN_BW.bw (i : Nat) : Loc := ⟨0x10030 + 4 * i, 0, 14⟩
abbrev KILN_ALIGN.reg : Nat := 0x10058
abbrev KILN_ALIGN.go : Loc := ⟨0x10058, 0, 1⟩
abbrev KILN_ALIGN_ERR.reg : Nat := 0x1005C
abbrev KILN_ALIGN_ERR.lag : Loc := ⟨0x1005C, 0, 30⟩
abbrev KILN_WCK_OUT.reg (i : Nat) : Nat := 0x10070 + 4 * i
abbrev KILN_WCK_OUT.en (i : Nat) : Loc := ⟨0x10070 + 4 * i, 0, 1⟩
abbrev KILN_WCK_OUT.dom (i : Nat) : Loc := ⟨0x10070 + 4 * i, 1, 2⟩
abbrev KILN_WCK_OUT.pol (i : Nat) : Loc := ⟨0x10070 + 4 * i, 3, 1⟩
abbrev KILN_PPS_OUT.reg : Nat := 0x10078
abbrev KILN_PPS_OUT.en : Loc := ⟨0x10078, 0, 1⟩
abbrev KILN_PPS_OUT.pol : Loc := ⟨0x10078, 1, 1⟩
abbrev KILN_PPS_OUT.width : Loc := ⟨0x10078, 8, 8⟩
abbrev KILN_DOM.reg (i : Nat) : Nat := 0x10080 + 4 * i
abbrev KILN_DOM.bw (i : Nat) : Loc := ⟨0x10080 + 4 * i, 0, 14⟩
abbrev KILN_REF_CFG.reg (i : Nat) : Nat := 0x10100 + 0x10 * i
abbrev KILN_REF_CFG.en (i : Nat) : Loc := ⟨0x10100 + 0x10 * i, 0, 1⟩
abbrev KILN_REF_CFG.rank (i : Nat) : Loc := ⟨0x10100 + 0x10 * i, 1, 4⟩
abbrev KILN_REF_CFG.pol (i : Nat) : Loc := ⟨0x10100 + 0x10 * i, 5, 1⟩
abbrev KILN_REF_CFG.rate (i : Nat) : Loc := ⟨0x10100 + 0x10 * i, 6, 3⟩
abbrev KILN_REF_LIM.reg (i : Nat) : Nat := 0x10104 + 0x10 * i
abbrev KILN_REF_LIM.accept (i : Nat) : Loc := ⟨0x10104 + 0x10 * i, 0, 14⟩
abbrev KILN_REF_LIM.reject (i : Nat) : Loc := ⟨0x10104 + 0x10 * i, 16, 14⟩
abbrev KILN_REF_HOLD.reg (i : Nat) : Nat := 0x10108 + 0x10 * i
abbrev KILN_REF_HOLD.hold (i : Nat) : Loc := ⟨0x10108 + 0x10 * i, 0, 13⟩
abbrev KILN_REF_STAT.reg (i : Nat) : Nat := 0x1010C + 0x10 * i
abbrev KILN_REF_STAT.qual (i : Nat) : Loc := ⟨0x1010C + 0x10 * i, 0, 2⟩
abbrev KILN_REF_STAT.active (i : Nat) : Loc := ⟨0x1010C + 0x10 * i, 2, 1⟩
abbrev KILN_REF_STAT.disq_evt (i : Nat) : Loc := ⟨0x1010C + 0x10 * i, 3, 1⟩
abbrev KILN_REF_FREQ.reg (i : Nat) : Nat := 0x10200 + 4 * i
abbrev KILN_REF_FREQ.f (i : Nat) : Loc := ⟨0x10200 + 4 * i, 0, 32⟩
abbrev TWIN_CFG.reg : Nat := 0x600000
abbrev TWIN_CFG.twin_en : Loc := ⟨0x600000, 0, 1⟩
abbrev TWIN_CFG.auto_rejoin : Loc := ⟨0x600000, 1, 1⟩
abbrev TWIN_CFG.alone_wait : Loc := ⟨0x600000, 8, 8⟩
abbrev TWIN_CFG.rejoin_max : Loc := ⟨0x600000, 16, 16⟩
abbrev TWIN_STAT.reg : Nat := 0x600004
abbrev TWIN_STAT.role : Loc := ⟨0x600004, 0, 1⟩
abbrev TWIN_STAT.state : Loc := ⟨0x600004, 1, 3⟩
abbrev TWIN_STAT.leader : Loc := ⟨0x600004, 4, 1⟩
abbrev TWIN_STAT.link : Loc := ⟨0x600004, 5, 1⟩
abbrev TWIN_STAT.peer_act : Loc := ⟨0x600004, 6, 1⟩
abbrev TWIN_STAT.act : Loc := ⟨0x600004, 7, 1⟩
abbrev TWIN_STAT.match_run : Loc := ⟨0x600004, 8, 7⟩
abbrev TWIN_STAT.attempts : Loc := ⟨0x600004, 16, 2⟩
abbrev TWIN_PEER.reg : Nat := 0x600008
abbrev TWIN_PEER.state : Loc := ⟨0x600008, 0, 3⟩
abbrev TWIN_PEER.role : Loc := ⟨0x600008, 3, 1⟩
abbrev TWIN_PEER.same_variant : Loc := ⟨0x600008, 4, 1⟩
abbrev TWIN_PEER.same_image : Loc := ⟨0x600008, 5, 1⟩
abbrev TWIN_PEER.same_domain : Loc := ⟨0x600008, 6, 1⟩
abbrev TWIN_PEER.fault_rec : Loc := ⟨0x600008, 7, 1⟩
abbrev TWIN_EVT.reg : Nat := 0x60000C
abbrev TWIN_EVT.lost : Loc := ⟨0x60000C, 0, 1⟩
abbrev TWIN_EVT.mismatch : Loc := ⟨0x60000C, 1, 1⟩
abbrev TWIN_EVT.yielded : Loc := ⟨0x60000C, 2, 1⟩
abbrev TWIN_EVT.synced : Loc := ⟨0x60000C, 3, 1⟩
abbrev TWIN_EVT.rejoin_fail : Loc := ⟨0x60000C, 4, 1⟩
abbrev TWIN_EVT.conflict : Loc := ⟨0x60000C, 5, 1⟩
abbrev TWIN_EVT.ctrl_late : Loc := ⟨0x60000C, 6, 1⟩
abbrev TWIN_CMD.reg : Nat := 0x600010
abbrev TWIN_CMD.rejoin : Loc := ⟨0x600010, 0, 1⟩
abbrev TWIN_CMD.yield : Loc := ⟨0x600010, 1, 1⟩
abbrev TWIN_CMD.which : Loc := ⟨0x600010, 2, 1⟩
abbrev TWIN_XFER.reg : Nat := 0x600014
abbrev TWIN_XFER.pass : Loc := ⟨0x600014, 0, 2⟩
abbrev TWIN_XFER.items_left : Loc := ⟨0x600014, 2, 30⟩
abbrev CASK_CFG.reg : Nat := 0x500000
abbrev CASK_CFG.speed : Loc := ⟨0x500000, 0, 2⟩
abbrev CASK_CFG.density : Loc := ⟨0x500000, 2, 2⟩
abbrev CASK_CFG.ecc_en : Loc := ⟨0x500000, 4, 1⟩
abbrev CASK_CFG.en0 : Loc := ⟨0x500000, 5, 1⟩
abbrev CASK_CFG.en1 : Loc := ⟨0x500000, 6, 1⟩
abbrev CASK_CFG.seed : Loc := ⟨0x500000, 16, 16⟩
abbrev CASK_STAT.reg : Nat := 0x500004
abbrev CASK_STAT.ready : Loc := ⟨0x500004, 0, 2⟩
abbrev CASK_STAT.train_fail : Loc := ⟨0x500004, 2, 2⟩
abbrev CASK_STAT.over_rt : Loc := ⟨0x500004, 4, 1⟩
abbrev CASK_STAT.rejects : Loc := ⟨0x500004, 5, 1⟩
abbrev CASK_STAT.hot : Loc := ⟨0x500004, 6, 1⟩
abbrev CASK_SIZE.reg : Nat := 0x500008
abbrev CASK_SIZE.mib : Loc := ⟨0x500008, 0, 16⟩
abbrev CASK_SCRUB.reg : Nat := 0x50000C
abbrev CASK_SCRUB.scrub_h : Loc := ⟨0x50000C, 0, 8⟩
abbrev CASK_SCRUB.passes : Loc := ⟨0x50000C, 16, 16⟩
abbrev CASK_RT_DECL.reg (i : Nat) : Nat := 0x500010 + 4 * i
abbrev CASK_RT_DECL.rt_decl (i : Nat) : Loc := ⟨0x500010 + 4 * i, 0, 16⟩
abbrev CASK_RT_NEED.reg (i : Nat) : Nat := 0x500018 + 4 * i
abbrev CASK_RT_NEED.need (i : Nat) : Loc := ⟨0x500018 + 4 * i, 0, 16⟩
abbrev CASK_RT_NEED.cap (i : Nat) : Loc := ⟨0x500018 + 4 * i, 16, 16⟩
abbrev CASK_CAP.reg (i : Nat) : Nat := 0x501000 + 4 * i
abbrev CASK_CAP.line (i : Nat) : Loc := ⟨0x501000 + 4 * i, 0, 12⟩
abbrev CASK_CAP.en (i : Nat) : Loc := ⟨0x501000 + 4 * i, 12, 1⟩
abbrev CASK_CAP.rejected (i : Nat) : Loc := ⟨0x501000 + 4 * i, 13, 1⟩
abbrev CASK_PLAY.reg (i : Nat) : Nat := 0x502000 + 8 * i
abbrev CASK_PLAY.line (i : Nat) : Loc := ⟨0x502000 + 8 * i, 0, 12⟩
abbrev CASK_PLAY.en (i : Nat) : Loc := ⟨0x502000 + 8 * i, 12, 1⟩
abbrev CASK_PLAY.rejected (i : Nat) : Loc := ⟨0x502000 + 8 * i, 13, 1⟩
abbrev CASK_PLAY_DLY.reg (i : Nat) : Nat := 0x502004 + 8 * i
abbrev CASK_PLAY_DLY.d (i : Nat) : Loc := ⟨0x502004 + 8 * i, 0, 25⟩
abbrev CASK_LINE_W0.reg (i : Nat) : Nat := 0x510000 + 0x10 * i
abbrev CASK_LINE_W0.base (i : Nat) : Loc := ⟨0x510000 + 0x10 * i, 0, 28⟩
abbrev CASK_LINE_W0.en (i : Nat) : Loc := ⟨0x510000 + 0x10 * i, 28, 1⟩
abbrev CASK_LINE_W0.rt (i : Nat) : Loc := ⟨0x510000 + 0x10 * i, 29, 1⟩
abbrev CASK_LINE_W0.writer (i : Nat) : Loc := ⟨0x510000 + 0x10 * i, 30, 2⟩
abbrev CASK_LINE_W1.reg (i : Nat) : Nat := 0x510004 + 0x10 * i
abbrev CASK_LINE_W1.len (i : Nat) : Loc := ⟨0x510004 + 0x10 * i, 0, 25⟩
abbrev CASK_LINE_W2.reg (i : Nat) : Nat := 0x510008 + 0x10 * i
abbrev CASK_LINE_W2.rejected (i : Nat) : Loc := ⟨0x510008 + 0x10 * i, 0, 1⟩
abbrev CASK_LINE_W2.chan (i : Nat) : Loc := ⟨0x510008 + 0x10 * i, 1, 1⟩
abbrev FAB_STAT.reg : Nat := 0x580000
abbrev FAB_STAT.tags : Loc := ⟨0x580000, 0, 9⟩
abbrev FAB_STAT.tags_peak : Loc := ⟨0x580000, 16, 9⟩
abbrev FAB_DECERR_INFO.reg : Nat := 0x580004
abbrev FAB_DECERR_INFO.master : Loc := ⟨0x580004, 0, 5⟩
abbrev FAB_DECERR_INFO.write : Loc := ⟨0x580004, 5, 1⟩
abbrev FAB_DECERR_INFO.valid : Loc := ⟨0x580004, 6, 1⟩
abbrev FAB_DECERR_INFO.count : Loc := ⟨0x580004, 16, 16⟩
abbrev FAB_LOCK_STAT.reg : Nat := 0x580010
abbrev FAB_LOCK_STAT.master : Loc := ⟨0x580010, 0, 5⟩
abbrev FAB_LOCK_STAT.target : Loc := ⟨0x580010, 5, 5⟩
abbrev FAB_LOCK_STAT.broken_evt : Loc := ⟨0x580010, 10, 1⟩
abbrev FAB_LOCK_STAT.refused_evt : Loc := ⟨0x580010, 11, 1⟩
abbrev FAB_LOCK_STAT.breaks : Loc := ⟨0x580010, 16, 16⟩
abbrev FAB_SV_SLACK.reg (i : Nat) : Nat := 0x584000 + 4 * i
abbrev FAB_SV_SLACK.slack (i : Nat) : Loc := ⟨0x584000 + 4 * i, 0, 24⟩
abbrev FAB_SV_SLACK_USED.reg (i : Nat) : Nat := 0x584010 + 4 * i
abbrev FAB_SV_SLACK_USED.used (i : Nat) : Loc := ⟨0x584010 + 4 * i, 0, 24⟩
abbrev FAB_SV_BUD.reg (i j : Nat) : Nat := 0x584100 + 0x10 * i + 4 * j
abbrev FAB_SV_BUD.budget (i j : Nat) : Loc := ⟨0x584100 + 0x10 * i + 4 * j, 0, 24⟩
abbrev FAB_SV_USED.reg (i j : Nat) : Nat := 0x584400 + 0x10 * i + 4 * j
abbrev FAB_SV_USED.used (i j : Nat) : Loc := ⟨0x584400 + 0x10 * i + 4 * j, 0, 24⟩
abbrev PWRA_STAT.reg : Nat := 0x588008
abbrev PWRA_STAT.pool : Loc := ⟨0x588008, 0, 13⟩
abbrev PWRA_STAT.warn : Loc := ⟨0x588008, 13, 1⟩
abbrev PWRA_STAT.warn_evt : Loc := ⟨0x588008, 14, 1⟩
abbrev PWRA_STAT.over_rt : Loc := ⟨0x588008, 15, 1⟩
abbrev PWRA_STAT.warns : Loc := ⟨0x588008, 16, 16⟩
abbrev PWRA_CONS.reg (i : Nat) : Nat := 0x588100 + 4 * i
abbrev PWRA_CONS.cost (i : Nat) : Loc := ⟨0x588100 + 4 * i, 0, 13⟩
abbrev PWRA_CONS.floor (i : Nat) : Loc := ⟨0x588100 + 4 * i, 13, 5⟩
abbrev PWRA_GRANT.reg (i : Nat) : Nat := 0x588200 + 4 * i
abbrev PWRA_GRANT.grant (i : Nat) : Loc := ⟨0x588200 + 4 * i, 0, 13⟩
abbrev PWRA_GRANT.allow (i : Nat) : Loc := ⟨0x588200 + 4 * i, 13, 5⟩
abbrev PWRA_GRANT.stalled (i : Nat) : Loc := ⟨0x588200 + 4 * i, 18, 1⟩
abbrev SYS_CFG_REJECT.reg : Nat := 0x200
abbrev SYS_CFG_REJECT.addr : Loc := ⟨0x200, 0, 25⟩
abbrev SYS_CFG_REJECT.route : Loc := ⟨0x200, 25, 3⟩
abbrev SYS_CFG_REJECT.valid : Loc := ⟨0x200, 31, 1⟩
abbrev SYS_CFG_REJECT_CNT.reg : Nat := 0x204
abbrev SYS_CFG_REJECT_CNT.count : Loc := ⟨0x204, 0, 32⟩
abbrev HIF_CTRL.reg : Nat := 0x840000
abbrev HIF_CTRL.pcie_en : Loc := ⟨0x840000, 0, 1⟩
abbrev HIF_CTRL.twt_en : Loc := ⟨0x840000, 1, 1⟩
abbrev HIF_CTRL.ib_en : Loc := ⟨0x840000, 2, 1⟩
abbrev HIF_STAT.reg : Nat := 0x840004
abbrev HIF_STAT.pcie_up : Loc := ⟨0x840004, 0, 1⟩
abbrev HIF_STAT.width : Loc := ⟨0x840004, 1, 2⟩
abbrev HIF_STAT.gen : Loc := ⟨0x840004, 3, 2⟩
abbrev HIF_STAT.msix_en : Loc := ⟨0x840004, 5, 1⟩
abbrev HIF_STAT.bad_access : Loc := ⟨0x840004, 6, 1⟩
abbrev HIF_STAT.atomic_broken : Loc := ⟨0x840004, 7, 1⟩
abbrev HIF_WIN_BASE.reg : Nat := 0x840008
abbrev HIF_WIN_BASE.base : Loc := ⟨0x840008, 0, 20⟩
abbrev HIF_INT_EN.reg : Nat := 0x840010
abbrev HIF_INT_EN.en : Loc := ⟨0x840010, 0, 32⟩
abbrev HIF_INT_SRC.reg : Nat := 0x840014
abbrev HIF_INT_SRC.src : Loc := ⟨0x840014, 0, 32⟩
abbrev HIF_IB_CFG.reg : Nat := 0x840020
abbrev HIF_IB_CFG.ports : Loc := ⟨0x840020, 0, 8⟩
abbrev HIF_IB_CFG.udp_port : Loc := ⟨0x840020, 8, 16⟩
abbrev HIF_IB_CFG.fresh : Loc := ⟨0x840020, 24, 8⟩
abbrev HIF_IB_STAT.reg : Nat := 0x840024
abbrev HIF_IB_STAT.key_ok : Loc := ⟨0x840024, 0, 1⟩
abbrev HIF_IB_CNT.reg (i : Nat) : Nat := 0x840028 + 4 * i
abbrev HIF_IB_CNT.count (i : Nat) : Loc := ⟨0x840028 + 4 * i, 0, 32⟩
abbrev HIF_COMMIT_DONE.reg : Nat := 0x840040
abbrev HIF_COMMIT_DONE.done : Loc := ⟨0x840040, 0, 32⟩
abbrev HIF_COMMIT_TGT.reg (i : Nat) : Nat := 0x840100 + 0x10 * i
abbrev HIF_COMMIT_TGT.pnl (i : Nat) : Loc := ⟨0x840100 + 0x10 * i, 0, 32⟩
abbrev HIF_COMMIT.reg (i : Nat) : Nat := 0x840104 + 0x10 * i
abbrev HIF_COMMIT.expect (i : Nat) : Loc := ⟨0x840104 + 0x10 * i, 0, 16⟩
abbrev HIF_COMMIT.chk (i : Nat) : Loc := ⟨0x840104 + 0x10 * i, 16, 1⟩
abbrev HIF_COMMIT.next (i : Nat) : Loc := ⟨0x840104 + 0x10 * i, 17, 1⟩
abbrev HIF_COMMIT.cancel (i : Nat) : Loc := ⟨0x840104 + 0x10 * i, 18, 1⟩
abbrev HIF_COMMIT_STAT.reg (i : Nat) : Nat := 0x840108 + 0x10 * i
abbrev HIF_COMMIT_STAT.seq (i : Nat) : Loc := ⟨0x840108 + 0x10 * i, 0, 16⟩
abbrev HIF_COMMIT_STAT.open_ (i : Nat) : Loc := ⟨0x840108 + 0x10 * i, 16, 1⟩
abbrev HIF_COMMIT_STAT.fixed (i : Nat) : Loc := ⟨0x840108 + 0x10 * i, 17, 1⟩
abbrev HIF_COMMIT_STAT.refused (i : Nat) : Loc := ⟨0x840108 + 0x10 * i, 18, 1⟩
abbrev HIF_COMMIT_STAT.late (i : Nat) : Loc := ⟨0x840108 + 0x10 * i, 19, 1⟩
abbrev HIF_COMMIT_STAT.superseded (i : Nat) : Loc := ⟨0x840108 + 0x10 * i, 24, 8⟩
abbrev HIF_COMMIT_APPL.reg (i : Nat) : Nat := 0x84010C + 0x10 * i
abbrev HIF_COMMIT_APPL.applied_pnl (i : Nat) : Loc := ⟨0x84010C + 0x10 * i, 0, 32⟩
abbrev HIF_COMMIT_APPL_SEQ.reg (i : Nat) : Nat := 0x840300 + 4 * i
abbrev HIF_COMMIT_APPL_SEQ.applied_seq (i : Nat) : Loc := ⟨0x840300 + 4 * i, 0, 16⟩
abbrev HIF_JRNL_SEQ.reg : Nat := 0x840400
abbrev HIF_JRNL_SEQ.next : Loc := ⟨0x840400, 0, 32⟩
abbrev HIF_JRNL.reg (i j : Nat) : Nat := 0x848000 + 0x20 * i + 4 * j
abbrev HIF_JRNL.word (i j : Nat) : Loc := ⟨0x848000 + 0x20 * i + 4 * j, 0, 32⟩
abbrev SYS_STATE.reg : Nat := 0x10
abbrev SYS_STATE.state : Loc := ⟨0x10, 0, 3⟩
abbrev SYS_STATE.changed : Loc := ⟨0x10, 3, 1⟩
abbrev SYS_STATE.image : Loc := ⟨0x10, 4, 1⟩
abbrev SYS_STATE.slot : Loc := ⟨0x10, 5, 1⟩
abbrev SYS_STRAP.reg : Nat := 0x14
abbrev SYS_STRAP.boot_flash : Loc := ⟨0x14, 0, 1⟩
abbrev SYS_STRAP.twt_addr : Loc := ⟨0x14, 1, 2⟩
abbrev SYS_STRAP.ctrl_port : Loc := ⟨0x14, 3, 3⟩
abbrev SYS_STRAP.twin_role : Loc := ⟨0x14, 6, 1⟩
abbrev SYS_RESET.reg : Nat := 0x18
abbrev SYS_RESET.slot : Loc := ⟨0x18, 0, 2⟩
abbrev SYS_RESET.key : Loc := ⟨0x18, 16, 16⟩
abbrev SYS_RESET_CAUSE.reg : Nat := 0x1C
abbrev SYS_RESET_CAUSE.cause : Loc := ⟨0x1C, 0, 3⟩
abbrev SYS_STBY.reg : Nat := 0x20
abbrev SYS_STBY.enter : Loc := ⟨0x20, 0, 1⟩
abbrev SYS_WAKE.reg : Nat := 0x24
abbrev SYS_WAKE.source : Loc := ⟨0x24, 0, 2⟩
abbrev SYS_WAKE.woke : Loc := ⟨0x24, 2, 1⟩
abbrev SYS_MUTE.reg : Nat := 0x28
abbrev SYS_MUTE.ramp : Loc := ⟨0x28, 0, 8⟩
abbrev BOOT_STAT.reg : Nat := 0x800000
abbrev BOOT_STAT.res_a : Loc := ⟨0x800000, 0, 3⟩
abbrev BOOT_STAT.res_b : Loc := ⟨0x800000, 3, 3⟩
abbrev BOOT_STAT.slow_flash : Loc := ⟨0x800000, 6, 1⟩
abbrev BOOT_STAT.reload_crc : Loc := ⟨0x800000, 7, 1⟩
abbrev BOOT_FL_CMD.reg : Nat := 0x800010
abbrev BOOT_FL_CMD.op : Loc := ⟨0x800010, 0, 3⟩
abbrev BOOT_FL_CMD.go : Loc := ⟨0x800010, 3, 1⟩
abbrev BOOT_FL_CMD.err : Loc := ⟨0x800010, 4, 1⟩
abbrev BOOT_FL_ADDR.reg : Nat := 0x800014
abbrev BOOT_FL_ADDR.addr : Loc := ⟨0x800014, 0, 28⟩
abbrev BOOT_FL_BUF.reg (i : Nat) : Nat := 0x800100 + 4 * i
abbrev BOOT_FL_BUF.data (i : Nat) : Loc := ⟨0x800100 + 4 * i, 0, 32⟩
abbrev FLT_STAT.reg : Nat := 0x680000
abbrev FLT_STAT.unread : Loc := ⟨0x680000, 0, 7⟩
abbrev FLT_STAT.unread_c3 : Loc := ⟨0x680000, 8, 7⟩
abbrev FLT_STAT.safe_ramp : Loc := ⟨0x680000, 15, 1⟩
abbrev FLT_POP.reg : Nat := 0x680004
abbrev FLT_POP.pop : Loc := ⟨0x680004, 0, 1⟩
abbrev FLT_POP.c3_first : Loc := ⟨0x680004, 1, 1⟩
abbrev FLT_POP.rd_valid : Loc := ⟨0x680004, 2, 1⟩
abbrev FLT_CFG.reg : Nat := 0x680008
abbrev FLT_CFG.mgp_drain : Loc := ⟨0x680008, 0, 1⟩
abbrev FLT_RD.reg (i : Nat) : Nat := 0x680010 + 4 * i
abbrev FLT_RD.word (i : Nat) : Loc := ⟨0x680010 + 4 * i, 0, 32⟩
abbrev FLT_LOST.reg (i : Nat) : Nat := 0x680020 + 4 * i
abbrev FLT_LOST.lost (i : Nat) : Loc := ⟨0x680020 + 4 * i, 0, 32⟩
abbrev FLT_SAFE.reg : Nat := 0x680030
abbrev FLT_SAFE.ramp : Loc := ⟨0x680030, 0, 8⟩
abbrev FLT_SAFE.release : Loc := ⟨0x680030, 8, 1⟩
abbrev FLT_SAFE.release_err : Loc := ⟨0x680030, 9, 1⟩
abbrev FLT_SAFE.cause_blk : Loc := ⟨0x680030, 16, 5⟩
abbrev FLT_SAFE.cause_code : Loc := ⟨0x680030, 24, 8⟩
abbrev FLT_WDOG.reg : Nat := 0x680040
abbrev FLT_WDOG.timeout : Loc := ⟨0x680040, 0, 16⟩
abbrev FLT_WDOG.action : Loc := ⟨0x680040, 16, 2⟩
abbrev FLT_WDOG.expired : Loc := ⟨0x680040, 18, 1⟩
abbrev FLT_WDOG_KICK.reg : Nat := 0x680044
abbrev FLT_WDOG_KICK.key : Loc := ⟨0x680044, 0, 16⟩
abbrev FLT_MGP.reg : Nat := 0x680048
abbrev FLT_MGP.running : Loc := ⟨0x680048, 0, 1⟩
abbrev FLT_MGP.restart : Loc := ⟨0x680048, 1, 1⟩
abbrev FLT_MGP.restarts : Loc := ⟨0x680048, 8, 8⟩
abbrev MGP_MB_STAT.reg : Nat := 0x880000
abbrev MGP_MB_STAT.out_count : Loc := ⟨0x880000, 0, 5⟩
abbrev MGP_MB_STAT.in_busy : Loc := ⟨0x880000, 8, 1⟩
abbrev MGP_MB_STAT.in_ovr : Loc := ⟨0x880000, 9, 1⟩
abbrev MGP_MB_STAT.in_refused : Loc := ⟨0x880000, 10, 1⟩
abbrev MGP_MB_STAT.mgp_up : Loc := ⟨0x880000, 11, 1⟩
abbrev MGP_MB_STAT.out_drop : Loc := ⟨0x880000, 16, 16⟩
abbrev MGP_MB_POP.reg : Nat := 0x880004
abbrev MGP_MB_POP.pop : Loc := ⟨0x880004, 0, 1⟩
abbrev MGP_MB_GO.reg : Nat := 0x880008
abbrev MGP_MB_GO.go : Loc := ⟨0x880008, 0, 1⟩
abbrev MGP_MB_OUT.reg (i : Nat) : Nat := 0x880100 + 4 * i
abbrev MGP_MB_OUT.word (i : Nat) : Loc := ⟨0x880100 + 4 * i, 0, 32⟩
abbrev MGP_MB_IN.reg (i : Nat) : Nat := 0x880200 + 4 * i
abbrev MGP_MB_IN.word (i : Nat) : Loc := ⟨0x880200 + 4 * i, 0, 32⟩
abbrev TWC_CFG.reg (i : Nat) : Nat := 0x700000 + 0x4000 * i
abbrev TWC_CFG.en (i : Nat) : Loc := ⟨0x700000 + 0x4000 * i, 0, 1⟩
abbrev TWC_CFG.speed (i : Nat) : Loc := ⟨0x700000 + 0x4000 * i, 1, 2⟩
abbrev TWC_CFG.seq_en (i : Nat) : Loc := ⟨0x700000 + 0x4000 * i, 3, 1⟩
abbrev TWC_CFG.reset (i : Nat) : Loc := ⟨0x700000 + 0x4000 * i, 4, 1⟩
abbrev TWC_CFG.stretch_to (i : Nat) : Loc := ⟨0x700000 + 0x4000 * i, 8, 8⟩
abbrev TWC_STAT.reg (i : Nat) : Nat := 0x700004 + 0x4000 * i
abbrev TWC_STAT.busy (i : Nat) : Loc := ⟨0x700004 + 0x4000 * i, 0, 1⟩
abbrev TWC_STAT.bus_busy (i : Nat) : Loc := ⟨0x700004 + 0x4000 * i, 1, 1⟩
abbrev TWC_STAT.host_done (i : Nat) : Loc := ⟨0x700004 + 0x4000 * i, 2, 1⟩
abbrev TWC_STAT.bus_err (i : Nat) : Loc := ⟨0x700004 + 0x4000 * i, 3, 1⟩
abbrev TWC_STAT.arb_lost (i : Nat) : Loc := ⟨0x700004 + 0x4000 * i, 4, 1⟩
abbrev TWC_STAT.timeout (i : Nat) : Loc := ⟨0x700004 + 0x4000 * i, 5, 1⟩
abbrev TWC_STAT.sda_stuck (i : Nat) : Loc := ⟨0x700004 + 0x4000 * i, 6, 1⟩
abbrev TWC_STAT.stuck (i : Nat) : Loc := ⟨0x700004 + 0x4000 * i, 7, 1⟩
abbrev TWC_STAT.scl_stuck (i : Nat) : Loc := ⟨0x700004 + 0x4000 * i, 8, 1⟩
abbrev TWC_STAT.clears (i : Nat) : Loc := ⟨0x700004 + 0x4000 * i, 16, 16⟩
abbrev TWC_CMD.reg (i : Nat) : Nat := 0x700008 + 0x4000 * i
abbrev TWC_CMD.go (i : Nat) : Loc := ⟨0x700008 + 0x4000 * i, 0, 1⟩
abbrev TWC_CMD.kind (i : Nat) : Loc := ⟨0x700008 + 0x4000 * i, 1, 4⟩
abbrev TWC_CMD.pec (i : Nat) : Loc := ⟨0x700008 + 0x4000 * i, 5, 1⟩
abbrev TWC_CMD.addr (i : Nat) : Loc := ⟨0x700008 + 0x4000 * i, 6, 7⟩
abbrev TWC_CMD.code (i : Nat) : Loc := ⟨0x700008 + 0x4000 * i, 16, 8⟩
abbrev TWC_XFER.reg (i : Nat) : Nat := 0x70000C + 0x4000 * i
abbrev TWC_XFER.wlen (i : Nat) : Loc := ⟨0x70000C + 0x4000 * i, 0, 6⟩
abbrev TWC_XFER.rlen (i : Nat) : Loc := ⟨0x70000C + 0x4000 * i, 8, 6⟩
abbrev TWC_RES.reg (i : Nat) : Nat := 0x700010 + 0x4000 * i
abbrev TWC_RES.status (i : Nat) : Loc := ⟨0x700010 + 0x4000 * i, 0, 4⟩
abbrev TWC_RES.rcount (i : Nat) : Loc := ⟨0x700010 + 0x4000 * i, 8, 6⟩
abbrev TWC_SKIPS.reg (i : Nat) : Nat := 0x700014 + 0x4000 * i
abbrev TWC_SKIPS.skips (i : Nat) : Loc := ⟨0x700014 + 0x4000 * i, 0, 32⟩
abbrev TWC_ALARM.reg (i j : Nat) : Nat := 0x700040 + 0x4000 * i + 4 * j
abbrev TWC_ALARM.alarm (i j : Nat) : Loc := ⟨0x700040 + 0x4000 * i + 4 * j, 0, 32⟩
abbrev TWC_SEQ_W0.reg (i j : Nat) : Nat := 0x701000 + 0x4000 * i + 0x10 * j
abbrev TWC_SEQ_W0.en (i j : Nat) : Loc := ⟨0x701000 + 0x4000 * i + 0x10 * j, 0, 1⟩
abbrev TWC_SEQ_W0.kind (i j : Nat) : Loc := ⟨0x701000 + 0x4000 * i + 0x10 * j, 1, 4⟩
abbrev TWC_SEQ_W0.pec (i j : Nat) : Loc := ⟨0x701000 + 0x4000 * i + 0x10 * j, 5, 1⟩
abbrev TWC_SEQ_W0.addr (i j : Nat) : Loc := ⟨0x701000 + 0x4000 * i + 0x10 * j, 6, 7⟩
abbrev TWC_SEQ_W0.code (i j : Nat) : Loc := ⟨0x701000 + 0x4000 * i + 0x10 * j, 16, 8⟩
abbrev TWC_SEQ_W1.reg (i j : Nat) : Nat := 0x701004 + 0x4000 * i + 0x10 * j
abbrev TWC_SEQ_W1.ivl_log2 (i j : Nat) : Loc := ⟨0x701004 + 0x4000 * i + 0x10 * j, 0, 5⟩
abbrev TWC_SEQ_W1.phase (i j : Nat) : Loc := ⟨0x701004 + 0x4000 * i + 0x10 * j, 6, 24⟩
abbrev TWC_SEQ_W1.sgn (i j : Nat) : Loc := ⟨0x701004 + 0x4000 * i + 0x10 * j, 30, 1⟩
abbrev TWC_SEQ_W1.lim_en (i j : Nat) : Loc := ⟨0x701004 + 0x4000 * i + 0x10 * j, 31, 1⟩
abbrev TWC_SEQ_W2.reg (i j : Nat) : Nat := 0x701008 + 0x4000 * i + 0x10 * j
abbrev TWC_SEQ_W2.lo (i j : Nat) : Loc := ⟨0x701008 + 0x4000 * i + 0x10 * j, 0, 16⟩
abbrev TWC_SEQ_W2.hi (i j : Nat) : Loc := ⟨0x701008 + 0x4000 * i + 0x10 * j, 16, 16⟩
abbrev TWC_SEQ_W3.reg (i j : Nat) : Nat := 0x70100C + 0x4000 * i + 0x10 * j
abbrev TWC_SEQ_W3.value (i j : Nat) : Loc := ⟨0x70100C + 0x4000 * i + 0x10 * j, 0, 16⟩
abbrev TWC_SEQ_W3.status (i j : Nat) : Loc := ⟨0x70100C + 0x4000 * i + 0x10 * j, 16, 4⟩
abbrev TWC_SEQ_W3.alarm (i j : Nat) : Loc := ⟨0x70100C + 0x4000 * i + 0x10 * j, 20, 1⟩
abbrev TWC_SEQ_W3.runs (i j : Nat) : Loc := ⟨0x70100C + 0x4000 * i + 0x10 * j, 24, 8⟩
abbrev TWT_STAT.reg : Nat := 0x708000
abbrev TWT_STAT.addr : Loc := ⟨0x708000, 0, 7⟩
abbrev TWT_STAT.wake_nack : Loc := ⟨0x708000, 8, 1⟩
abbrev TWT_STAT.last_cause : Loc := ⟨0x708000, 9, 3⟩
abbrev TWT_ERR.reg : Nat := 0x708004
abbrev TWT_ERR.count : Loc := ⟨0x708004, 0, 32⟩
abbrev TWT_PTR.reg : Nat := 0x708008
abbrev TWT_PTR.ptr : Loc := ⟨0x708008, 0, 25⟩
abbrev PERF_CTRL.reg : Nat := 0x780000
abbrev PERF_CTRL.run : Loc := ⟨0x780000, 0, 1⟩
abbrev PERF_CTRL.clear : Loc := ⟨0x780000, 1, 1⟩
abbrev PERF_EVSEL.reg (i : Nat) : Nat := 0x780100 + 4 * i
abbrev PERF_EVSEL.event (i : Nat) : Loc := ⟨0x780100 + 4 * i, 0, 9⟩
abbrev PERF_EVSEL.thr_en (i : Nat) : Loc := ⟨0x780100 + 4 * i, 9, 1⟩
abbrev PERF_EVSEL.chain (i : Nat) : Loc := ⟨0x780100 + 4 * i, 10, 1⟩
abbrev PERF_EVSEL.thr (i : Nat) : Loc := ⟨0x780100 + 4 * i, 16, 16⟩
abbrev PERF_CNT.reg (i : Nat) : Nat := 0x780400 + 4 * i
abbrev PERF_CNT.count (i : Nat) : Loc := ⟨0x780400 + 4 * i, 0, 32⟩
abbrev PERF_OVF.reg (i : Nat) : Nat := 0x780600 + 4 * i
abbrev PERF_OVF.ovf (i : Nat) : Loc := ⟨0x780600 + 4 * i, 0, 32⟩
abbrev PERF_BW_CFG.reg (i : Nat) : Nat := 0x780800 + 0x10 * i
abbrev PERF_BW_CFG.win (i : Nat) : Loc := ⟨0x780800 + 0x10 * i, 0, 13⟩
abbrev PERF_TAG_CFG.reg (i : Nat) : Nat := 0x780A00 + 4 * i
abbrev PERF_TAG_CFG.en (i : Nat) : Loc := ⟨0x780A00 + 4 * i, 0, 1⟩
abbrev PERF_TAG_CFG.k (i : Nat) : Loc := ⟨0x780A00 + 4 * i, 1, 4⟩
abbrev PERF_TAG_CFG.seed (i : Nat) : Loc := ⟨0x780A00 + 4 * i, 16, 16⟩
abbrev PERF_DUMP_CTL.reg : Nat := 0x780B00
abbrev PERF_DUMP_CTL.en : Loc := ⟨0x780B00, 0, 1⟩
abbrev PERF_DUMP_CTL.interval : Loc := ⟨0x780B00, 16, 16⟩
abbrev PERF_DUMP_STAT.reg : Nat := 0x780B14
abbrev PERF_DUMP_STAT.new_rec : Loc := ⟨0x780B14, 0, 1⟩
abbrev PERF_DUMP_STAT.cfg_err : Loc := ⟨0x780B14, 1, 1⟩
abbrev PERF_DUMP_STAT.pending : Loc := ⟨0x780B14, 2, 1⟩
abbrev PERF_DUMP_STAT.missed : Loc := ⟨0x780B14, 16, 16⟩
abbrev PERF_DUMP_SEQ.reg : Nat := 0x780B18
abbrev PERF_DUMP_SEQ.seq : Loc := ⟨0x780B18, 0, 32⟩
abbrev SYS_TEMP.reg : Nat := 0x300
abbrev SYS_TEMP.temp : Loc := ⟨0x300, 0, 12⟩
abbrev SYS_TEMP.peak : Loc := ⟨0x300, 16, 12⟩
abbrev CORE_DMA_RT.reg (i : Nat) : Nat := 0x300140 + 0x10000 * i
abbrev CORE_DMA_RT.base (i : Nat) : Loc := ⟨0x300140 + 0x10000 * i, 0, 11⟩
abbrev CORE_DMA_RT.len (i : Nat) : Loc := ⟨0x300140 + 0x10000 * i, 16, 7⟩
abbrev CORE_DMA_BE.reg (i : Nat) : Nat := 0x300144 + 0x10000 * i
abbrev CORE_DMA_BE.base (i : Nat) : Loc := ⟨0x300144 + 0x10000 * i, 0, 11⟩
abbrev CORE_DMA_BE.len (i : Nat) : Loc := ⟨0x300144 + 0x10000 * i, 16, 7⟩
abbrev XIO_IMAP.reg (i : Nat) : Nat := 0x401000 + 4 * i
abbrev XIO_IMAP.slot (i : Nat) : Loc := ⟨0x401000 + 4 * i, 0, 5⟩
abbrev XIO_IMAP.port (i : Nat) : Loc := ⟨0x401000 + 4 * i, 5, 5⟩
abbrev XIO_IMAP.en (i : Nat) : Loc := ⟨0x401000 + 4 * i, 15, 1⟩
abbrev XIO_IMAP.valid (i : Nat) : Loc := ⟨0x401000 + 4 * i, 16, 1⟩
abbrev XIO_OMAP.reg (i : Nat) : Nat := 0x401800 + 4 * i
abbrev XIO_OMAP.slot (i : Nat) : Loc := ⟨0x401800 + 4 * i, 0, 5⟩
abbrev XIO_OMAP.port (i : Nat) : Loc := ⟨0x401800 + 4 * i, 5, 5⟩
abbrev XIO_OMAP.en (i : Nat) : Loc := ⟨0x401800 + 4 * i, 15, 1⟩
abbrev XIO_OMAP.valid (i : Nat) : Loc := ⟨0x401800 + 4 * i, 16, 1⟩
abbrev ETH_MAC_LO.reg (i : Nat) : Nat := 0x40010 + 0x2000 * i
abbrev ETH_MAC_LO.mac (i : Nat) : Loc := ⟨0x40010 + 0x2000 * i, 0, 32⟩
abbrev ETH_MAC_HI.reg (i : Nat) : Nat := 0x40014 + 0x2000 * i
abbrev ETH_MAC_HI.mac (i : Nat) : Loc := ⟨0x40014 + 0x2000 * i, 0, 16⟩
abbrev ETH_DAF_LO.reg (i j : Nat) : Nat := 0x40200 + 0x2000 * i + 8 * j
abbrev ETH_DAF_LO.mac (i j : Nat) : Loc := ⟨0x40200 + 0x2000 * i + 8 * j, 0, 32⟩
abbrev ETH_DAF_HI.reg (i j : Nat) : Nat := 0x40204 + 0x2000 * i + 8 * j
abbrev ETH_DAF_HI.mac (i j : Nat) : Loc := ⟨0x40204 + 0x2000 * i + 8 * j, 0, 16⟩
abbrev ETH_DAF_HI.en (i j : Nat) : Loc := ⟨0x40204 + 0x2000 * i + 8 * j, 16, 1⟩
abbrev ETH_RX_FRAMES.reg (i : Nat) : Nat := 0x41000 + 0x2000 * i
abbrev ETH_RX_FRAMES.count (i : Nat) : Loc := ⟨0x41000 + 0x2000 * i, 0, 32⟩
abbrev ETH_RX_BYTES.reg (i : Nat) : Nat := 0x41004 + 0x2000 * i
abbrev ETH_RX_BYTES.count (i : Nat) : Loc := ⟨0x41004 + 0x2000 * i, 0, 32⟩
abbrev ETH_RX_FCS_ERR.reg (i : Nat) : Nat := 0x41008 + 0x2000 * i
abbrev ETH_RX_FCS_ERR.count (i : Nat) : Loc := ⟨0x41008 + 0x2000 * i, 0, 32⟩
abbrev ETH_RX_RUNT.reg (i : Nat) : Nat := 0x4100C + 0x2000 * i
abbrev ETH_RX_RUNT.count (i : Nat) : Loc := ⟨0x4100C + 0x2000 * i, 0, 32⟩
abbrev ETH_RX_TRUNC.reg (i : Nat) : Nat := 0x41010 + 0x2000 * i
abbrev ETH_RX_TRUNC.count (i : Nat) : Loc := ⟨0x41010 + 0x2000 * i, 0, 32⟩
abbrev ETH_RX_CTRL.reg (i : Nat) : Nat := 0x41014 + 0x2000 * i
abbrev ETH_RX_CTRL.count (i : Nat) : Loc := ⟨0x41014 + 0x2000 * i, 0, 32⟩
abbrev ETH_RX_FEC_CORR.reg (i : Nat) : Nat := 0x41018 + 0x2000 * i
abbrev ETH_RX_FEC_CORR.count (i : Nat) : Loc := ⟨0x41018 + 0x2000 * i, 0, 32⟩
abbrev ETH_RX_FEC_UNCORR.reg (i : Nat) : Nat := 0x4101C + 0x2000 * i
abbrev ETH_RX_FEC_UNCORR.count (i : Nat) : Loc := ⟨0x4101C + 0x2000 * i, 0, 32⟩
abbrev ETH_RX_SMD_ERR.reg (i : Nat) : Nat := 0x41020 + 0x2000 * i
abbrev ETH_RX_SMD_ERR.count (i : Nat) : Loc := ⟨0x41020 + 0x2000 * i, 0, 32⟩
abbrev ETH_RX_VLAN_DROP.reg (i : Nat) : Nat := 0x41024 + 0x2000 * i
abbrev ETH_RX_VLAN_DROP.count (i : Nat) : Loc := ⟨0x41024 + 0x2000 * i, 0, 32⟩
abbrev ETH_RX_STORM_DROP.reg (i : Nat) : Nat := 0x41028 + 0x2000 * i
abbrev ETH_RX_STORM_DROP.count (i : Nat) : Loc := ⟨0x41028 + 0x2000 * i, 0, 32⟩
abbrev ETH_TX_FRAMES.reg (i : Nat) : Nat := 0x41030 + 0x2000 * i
abbrev ETH_TX_FRAMES.count (i : Nat) : Loc := ⟨0x41030 + 0x2000 * i, 0, 32⟩
abbrev ETH_TX_BYTES.reg (i : Nat) : Nat := 0x41034 + 0x2000 * i
abbrev ETH_TX_BYTES.count (i : Nat) : Loc := ⟨0x41034 + 0x2000 * i, 0, 32⟩
abbrev ETH_TX_TRUNC.reg (i : Nat) : Nat := 0x41038 + 0x2000 * i
abbrev ETH_TX_TRUNC.count (i : Nat) : Loc := ⟨0x41038 + 0x2000 * i, 0, 32⟩
abbrev ETH_TX_GATE_DROP.reg (i : Nat) : Nat := 0x4103C + 0x2000 * i
abbrev ETH_TX_GATE_DROP.count (i : Nat) : Loc := ⟨0x4103C + 0x2000 * i, 0, 32⟩
abbrev ETH_TX_LINK_DROP.reg (i : Nat) : Nat := 0x41040 + 0x2000 * i
abbrev ETH_TX_LINK_DROP.count (i : Nat) : Loc := ⟨0x41040 + 0x2000 * i, 0, 32⟩
abbrev ETH_TX_QDROP.reg (i : Nat) : Nat := 0x41044 + 0x2000 * i
abbrev ETH_TX_QDROP.count (i : Nat) : Loc := ⟨0x41044 + 0x2000 * i, 0, 32⟩
abbrev ETH_TX_PREEMPT.reg (i : Nat) : Nat := 0x41048 + 0x2000 * i
abbrev ETH_TX_PREEMPT.count (i : Nat) : Loc := ⟨0x41048 + 0x2000 * i, 0, 32⟩
abbrev ETH_TX_CUT.reg (i : Nat) : Nat := 0x4104C + 0x2000 * i
abbrev ETH_TX_CUT.count (i : Nat) : Loc := ⟨0x4104C + 0x2000 * i, 0, 32⟩
abbrev ETH_TX_STOMP.reg (i : Nat) : Nat := 0x41050 + 0x2000 * i
abbrev ETH_TX_STOMP.count (i : Nat) : Loc := ⟨0x41050 + 0x2000 * i, 0, 32⟩
abbrev ETH_LPI_ENTRIES.reg (i : Nat) : Nat := 0x41054 + 0x2000 * i
abbrev ETH_LPI_ENTRIES.count (i : Nat) : Loc := ⟨0x41054 + 0x2000 * i, 0, 32⟩
abbrev ETH_FDB_DATA0.reg : Nat := 0x5000C
abbrev ETH_FDB_DATA0.mac : Loc := ⟨0x5000C, 0, 32⟩
abbrev ETH_FDB_DATA1.reg : Nat := 0x50010
abbrev ETH_FDB_DATA1.mac : Loc := ⟨0x50010, 0, 16⟩
abbrev ETH_FDB_DATA1.vid : Loc := ⟨0x50010, 16, 12⟩
abbrev ETH_FDB_DATA1.port : Loc := ⟨0x50010, 28, 3⟩
abbrev ETH_LQ_BASE.reg (i : Nat) : Nat := 0x50100 + 0x10 * i
abbrev ETH_LQ_BASE.base (i : Nat) : Loc := ⟨0x50100 + 0x10 * i, 0, 32⟩
abbrev ETH_LQ_CFG.reg (i : Nat) : Nat := 0x50104 + 0x10 * i
abbrev ETH_LQ_CFG.base_hi (i : Nat) : Loc := ⟨0x50104 + 0x10 * i, 0, 8⟩
abbrev ETH_LQ_CFG.len (i : Nat) : Loc := ⟨0x50104 + 0x10 * i, 8, 13⟩
abbrev ETH_LQ_IDX.reg (i : Nat) : Nat := 0x50108 + 0x10 * i
abbrev ETH_LQ_IDX.eidx (i : Nat) : Loc := ⟨0x50108 + 0x10 * i, 0, 12⟩
abbrev ETH_LQ_IDX.sidx (i : Nat) : Loc := ⟨0x50108 + 0x10 * i, 16, 12⟩
abbrev ETH_LQ_DROP.reg (i : Nat) : Nat := 0x5010C + 0x10 * i
abbrev ETH_LQ_DROP.drops (i : Nat) : Loc := ⟨0x5010C + 0x10 * i, 0, 32⟩
abbrev SXE_STORE.reg : Nat := 0x80008
abbrev SXE_STORE.bytes : Loc := ⟨0x80008, 0, 23⟩
abbrev SXE_STAGE.reg : Nat := 0x8000C
abbrev SXE_STAGE.bytes : Loc := ⟨0x8000C, 0, 21⟩
abbrev SXE_VENDOR_LO.reg : Nat := 0x80010
abbrev SXE_VENDOR_LO.vendor : Loc := ⟨0x80010, 0, 32⟩
abbrev SXE_VENDOR_HI.reg : Nat := 0x80014
abbrev SXE_VENDOR_HI.vendor : Loc := ⟨0x80014, 0, 16⟩
abbrev SXE_IN_SSRC.reg (i : Nat) : Nat := 0x9001C + 0x40 * i
abbrev SXE_IN_SSRC.ssrc (i : Nat) : Loc := ⟨0x9001C + 0x40 * i, 0, 32⟩
abbrev SXE_IN_RTPOFS.reg (i : Nat) : Nat := 0x90020 + 0x40 * i
abbrev SXE_IN_RTPOFS.rtp_ofs (i : Nat) : Loc := ⟨0x90020 + 0x40 * i, 0, 32⟩
abbrev SXE_IN_TSOFS.reg (i : Nat) : Nat := 0x90024 + 0x40 * i
abbrev SXE_IN_TSOFS.ts_ofs (i : Nat) : Loc := ⟨0x90024 + 0x40 * i, 0, 16⟩
abbrev SXE_IN_ACC.reg (i : Nat) : Nat := 0xA0000 + 0x40 * i
abbrev SXE_IN_ACC.count (i : Nat) : Loc := ⟨0xA0000 + 0x40 * i, 0, 32⟩
abbrev SXE_IN_DUP.reg (i : Nat) : Nat := 0xA0004 + 0x40 * i
abbrev SXE_IN_DUP.count (i : Nat) : Loc := ⟨0xA0004 + 0x40 * i, 0, 32⟩
abbrev SXE_IN_LATE.reg (i : Nat) : Nat := 0xA0008 + 0x40 * i
abbrev SXE_IN_LATE.count (i : Nat) : Loc := ⟨0xA0008 + 0x40 * i, 0, 32⟩
abbrev SXE_IN_EARLY.reg (i : Nat) : Nat := 0xA000C + 0x40 * i
abbrev SXE_IN_EARLY.count (i : Nat) : Loc := ⟨0xA000C + 0x40 * i, 0, 32⟩
abbrev SXE_IN_MALFORMED.reg (i : Nat) : Nat := 0xA0010 + 0x40 * i
abbrev SXE_IN_MALFORMED.count (i : Nat) : Loc := ⟨0xA0010 + 0x40 * i, 0, 32⟩
abbrev SXE_IN_ROGUE.reg (i : Nat) : Nat := 0xA0014 + 0x40 * i
abbrev SXE_IN_ROGUE.count (i : Nat) : Loc := ⟨0xA0014 + 0x40 * i, 0, 32⟩
abbrev SXE_IN_SUBST.reg (i : Nat) : Nat := 0xA0018 + 0x40 * i
abbrev SXE_IN_SUBST.count (i : Nat) : Loc := ⟨0xA0018 + 0x40 * i, 0, 32⟩
abbrev SXE_IN_SILENT.reg (i : Nat) : Nat := 0xA001C + 0x40 * i
abbrev SXE_IN_SILENT.count (i : Nat) : Loc := ⟨0xA001C + 0x40 * i, 0, 32⟩
abbrev SXE_EG_DMAC_LO.reg (i : Nat) : Nat := 0xB0008 + 0x40 * i
abbrev SXE_EG_DMAC_LO.dmac (i : Nat) : Loc := ⟨0xB0008 + 0x40 * i, 0, 32⟩
abbrev SXE_EG_DMAC_HI.reg (i : Nat) : Nat := 0xB000C + 0x40 * i
abbrev SXE_EG_DMAC_HI.dmac (i : Nat) : Loc := ⟨0xB000C + 0x40 * i, 0, 16⟩
abbrev SXE_EG_DMAC_HI.udp_dst (i : Nat) : Loc := ⟨0xB000C + 0x40 * i, 16, 16⟩
abbrev SXE_EG_ID.reg (i j : Nat) : Nat := 0xB0010 + 0x40 * i + 4 * j
abbrev SXE_EG_ID.id (i j : Nat) : Loc := ⟨0xB0010 + 0x40 * i + 4 * j, 0, 32⟩
abbrev SXE_EG_SRC.reg (i j : Nat) : Nat := 0xB0020 + 0x40 * i + 4 * j
abbrev SXE_EG_SRC.addr (i j : Nat) : Loc := ⟨0xB0020 + 0x40 * i + 4 * j, 0, 32⟩
abbrev SXE_EG_SSRC.reg (i : Nat) : Nat := 0xB0030 + 0x40 * i
abbrev SXE_EG_SSRC.ssrc (i : Nat) : Loc := ⟨0xB0030 + 0x40 * i, 0, 32⟩
abbrev SXE_EG_RTPOFS.reg (i : Nat) : Nat := 0xB0034 + 0x40 * i
abbrev SXE_EG_RTPOFS.rtp_ofs (i : Nat) : Loc := ⟨0xB0034 + 0x40 * i, 0, 32⟩
abbrev SXE_EG_TSOFS.reg (i : Nat) : Nat := 0xB0038 + 0x40 * i
abbrev SXE_EG_TSOFS.ts_ofs (i : Nat) : Loc := ⟨0xB0038 + 0x40 * i, 0, 16⟩
abbrev SXE_EG_TSOFS.udp_src (i : Nat) : Loc := ⟨0xB0038 + 0x40 * i, 16, 16⟩
abbrev SXE_EG_IP.reg (i : Nat) : Nat := 0xB003C + 0x40 * i
abbrev SXE_EG_IP.ttl (i : Nat) : Loc := ⟨0xB003C + 0x40 * i, 0, 8⟩
abbrev SXE_EG_IP.dscp (i : Nat) : Loc := ⟨0xB003C + 0x40 * i, 8, 6⟩
abbrev SXE_EG_SENT_A.reg (i : Nat) : Nat := 0xC0000 + 0x10 * i
abbrev SXE_EG_SENT_A.count (i : Nat) : Loc := ⟨0xC0000 + 0x10 * i, 0, 32⟩
abbrev SXE_EG_SENT_B.reg (i : Nat) : Nat := 0xC0004 + 0x10 * i
abbrev SXE_EG_SENT_B.count (i : Nat) : Loc := ⟨0xC0004 + 0x10 * i, 0, 32⟩
abbrev SXE_EG_LATE.reg (i : Nat) : Nat := 0xC0008 + 0x10 * i
abbrev SXE_EG_LATE.count (i : Nat) : Loc := ⟨0xC0008 + 0x10 * i, 0, 32⟩
abbrev SXE_EG_STATE.reg (i : Nat) : Nat := 0xC000C + 0x10 * i
abbrev SXE_EG_STATE.gen (i : Nat) : Loc := ⟨0xC000C + 0x10 * i, 0, 8⟩
abbrev SXE_EG_STATE.running (i : Nat) : Loc := ⟨0xC000C + 0x10 * i, 8, 1⟩
abbrev SXE_EG_STATE.rejected (i : Nat) : Loc := ⟨0xC000C + 0x10 * i, 9, 1⟩
abbrev PTP_FOREIGN.reg : Nat := 0x20008
abbrev PTP_FOREIGN.count : Loc := ⟨0x20008, 0, 32⟩
abbrev PTP_BAD.reg : Nat := 0x2000C
abbrev PTP_BAD.count : Loc := ⟨0x2000C, 0, 32⟩
abbrev PTP_TC_DROP.reg : Nat := 0x20010
abbrev PTP_TC_DROP.count : Loc := ⟨0x20010, 0, 32⟩
abbrev PTP_CLOCK_ID_LO.reg : Nat := 0x20014
abbrev PTP_CLOCK_ID_LO.id : Loc := ⟨0x20014, 0, 32⟩
abbrev PTP_CLOCK_ID_HI.reg : Nat := 0x20018
abbrev PTP_CLOCK_ID_HI.id : Loc := ⟨0x20018, 0, 32⟩
abbrev PTP_LOG_BASE.reg : Nat := 0x20020
abbrev PTP_LOG_BASE.base : Loc := ⟨0x20020, 0, 32⟩
abbrev PTP_LOG_CFG.reg : Nat := 0x20024
abbrev PTP_LOG_CFG.base_hi : Loc := ⟨0x20024, 0, 8⟩
abbrev PTP_LOG_CFG.len : Loc := ⟨0x20024, 8, 13⟩
abbrev PTP_LOG_IDX.reg : Nat := 0x20028
abbrev PTP_LOG_IDX.eidx : Loc := ⟨0x20028, 0, 12⟩
abbrev PTP_LOG_IDX.sidx : Loc := ⟨0x20028, 16, 12⟩
abbrev PTP_LOG_DROP.reg : Nat := 0x2002C
abbrev PTP_LOG_DROP.drops : Loc := ⟨0x2002C, 0, 32⟩
abbrev PTP_DOM_PARENT_LO.reg (i : Nat) : Nat := 0x20108 + 0x100 * i
abbrev PTP_DOM_PARENT_LO.id (i : Nat) : Loc := ⟨0x20108 + 0x100 * i, 0, 32⟩
abbrev PTP_DOM_PARENT_HI.reg (i : Nat) : Nat := 0x2010C + 0x100 * i
abbrev PTP_DOM_PARENT_HI.id (i : Nat) : Loc := ⟨0x2010C + 0x100 * i, 0, 32⟩
abbrev PTP_DOM_PARENT_PORT.reg (i : Nat) : Nat := 0x20110 + 0x100 * i
abbrev PTP_DOM_PARENT_PORT.port (i : Nat) : Loc := ⟨0x20110 + 0x100 * i, 0, 16⟩
abbrev PTP_DOM_OFS_LO.reg (i : Nat) : Nat := 0x20120 + 0x100 * i
abbrev PTP_DOM_OFS_LO.e (i : Nat) : Loc := ⟨0x20120 + 0x100 * i, 0, 32⟩
abbrev PTP_DOM_OFS_HI.reg (i : Nat) : Nat := 0x20124 + 0x100 * i
abbrev PTP_DOM_OFS_HI.e (i : Nat) : Loc := ⟨0x20124 + 0x100 * i, 0, 32⟩
abbrev PTP_DOM_MPD.reg (i : Nat) : Nat := 0x20128 + 0x100 * i
abbrev PTP_DOM_MPD.mpd (i : Nat) : Loc := ⟨0x20128 + 0x100 * i, 0, 32⟩
abbrev PTP_DOM_RATIO.reg (i : Nat) : Nat := 0x2012C + 0x100 * i
abbrev PTP_DOM_RATIO.ratio (i : Nat) : Loc := ⟨0x2012C + 0x100 * i, 0, 32⟩
abbrev PTP_DOM_OUTLIER.reg (i : Nat) : Nat := 0x20134 + 0x100 * i
abbrev PTP_DOM_OUTLIER.count (i : Nat) : Loc := ⟨0x20134 + 0x100 * i, 0, 32⟩
abbrev PTP_DOM_NOFU.reg (i : Nat) : Nat := 0x20138 + 0x100 * i
abbrev PTP_DOM_NOFU.count (i : Nat) : Loc := ⟨0x20138 + 0x100 * i, 0, 32⟩
abbrev PTP_DOM_NOTPARENT.reg (i : Nat) : Nat := 0x2013C + 0x100 * i
abbrev PTP_DOM_NOTPARENT.count (i : Nat) : Loc := ⟨0x2013C + 0x100 * i, 0, 32⟩
abbrev PTP_DOM_SYNC_TX.reg (i : Nat) : Nat := 0x20140 + 0x100 * i
abbrev PTP_DOM_SYNC_TX.count (i : Nat) : Loc := ⟨0x20140 + 0x100 * i, 0, 32⟩
abbrev PTP_PORT_FIX.reg (i : Nat) : Nat := 0x20804 + 0x20 * i
abbrev PTP_PORT_FIX.rx_fix (i : Nat) : Loc := ⟨0x20804 + 0x20 * i, 0, 16⟩
abbrev PTP_PORT_FIX.tx_fix (i : Nat) : Loc := ⟨0x20804 + 0x20 * i, 16, 16⟩
abbrev PTP_PORT_ASYM.reg (i : Nat) : Nat := 0x20808 + 0x20 * i
abbrev PTP_PORT_ASYM.asym (i : Nat) : Loc := ⟨0x20808 + 0x20 * i, 0, 32⟩
abbrev PTP_PORT_LAT.reg (i : Nat) : Nat := 0x2080C + 0x20 * i
abbrev PTP_PORT_LAT.rx (i : Nat) : Loc := ⟨0x2080C + 0x20 * i, 0, 16⟩
abbrev PTP_PORT_LAT.tx (i : Nat) : Loc := ⟨0x2080C + 0x20 * i, 16, 16⟩
abbrev PTP_PORT_LD.reg (i : Nat) : Nat := 0x20810 + 0x20 * i
abbrev PTP_PORT_LD.ld (i : Nat) : Loc := ⟨0x20810 + 0x20 * i, 0, 32⟩
abbrev KILN_WANDER.reg : Nat := 0x10018
abbrev KILN_WANDER.limit : Loc := ⟨0x10018, 0, 14⟩
abbrev KILN_XCHECK.reg : Nat := 0x1001C
abbrev KILN_XCHECK.limit : Loc := ⟨0x1001C, 0, 14⟩
abbrev KILN_PHASE_STEP_LO.reg : Nat := 0x10048
abbrev KILN_PHASE_STEP_LO.step : Loc := ⟨0x10048, 0, 32⟩
abbrev KILN_PHASE_STEP_HI.reg : Nat := 0x1004C
abbrev KILN_PHASE_STEP_HI.step : Loc := ⟨0x1004C, 0, 16⟩
abbrev KILN_PEND_LO.reg : Nat := 0x10050
abbrev KILN_PEND_LO.pend : Loc := ⟨0x10050, 0, 32⟩
abbrev KILN_PEND_HI.reg : Nat := 0x10054
abbrev KILN_PEND_HI.pend : Loc := ⟨0x10054, 0, 32⟩
abbrev KILN_PHERR.reg : Nat := 0x10060
abbrev KILN_PHERR.value : Loc := ⟨0x10060, 0, 32⟩
abbrev KILN_FREQ.reg : Nat := 0x10064
abbrev KILN_FREQ.value : Loc := ⟨0x10064, 0, 32⟩
abbrev KILN_HO_FREQ.reg : Nat := 0x10068
abbrev KILN_HO_FREQ.value : Loc := ⟨0x10068, 0, 32⟩
abbrev TWIN_JACK.reg : Nat := 0x600018
abbrev TWIN_JACK.seq : Loc := ⟨0x600018, 0, 32⟩
abbrev TWIN_MM_PNL.reg : Nat := 0x60001C
abbrev TWIN_MM_PNL.pnl : Loc := ⟨0x60001C, 0, 32⟩
abbrev TWIN_DIG_LO.reg : Nat := 0x600020
abbrev TWIN_DIG_LO.digest : Loc := ⟨0x600020, 0, 32⟩
abbrev TWIN_DIG_HI.reg : Nat := 0x600024
abbrev TWIN_DIG_HI.digest : Loc := ⟨0x600024, 0, 32⟩
abbrev TWIN_LOSSES.reg : Nat := 0x600100
abbrev TWIN_LOSSES.count : Loc := ⟨0x600100, 0, 32⟩
abbrev TWIN_MISMATCHES.reg : Nat := 0x600104
abbrev TWIN_MISMATCHES.count : Loc := ⟨0x600104, 0, 32⟩
abbrev TWIN_YIELDS.reg : Nat := 0x600108
abbrev TWIN_YIELDS.count : Loc := ⟨0x600108, 0, 32⟩
abbrev TWIN_REJOINS.reg : Nat := 0x60010C
abbrev TWIN_REJOINS.count : Loc := ⟨0x60010C, 0, 32⟩
abbrev TWIN_REJOIN_FAILS.reg : Nat := 0x600110
abbrev TWIN_REJOIN_FAILS.count : Loc := ⟨0x600110, 0, 32⟩
abbrev TWIN_MIRROR_LATE.reg : Nat := 0x600114
abbrev TWIN_MIRROR_LATE.count : Loc := ⟨0x600114, 0, 32⟩
abbrev TWIN_INCOMPLETE.reg : Nat := 0x600118
abbrev TWIN_INCOMPLETE.count : Loc := ⟨0x600118, 0, 32⟩
abbrev TWIN_RETX.reg : Nat := 0x60011C
abbrev TWIN_RETX.count : Loc := ⟨0x60011C, 0, 32⟩
abbrev TWIN_NONLEAD_DROP.reg : Nat := 0x600120
abbrev TWIN_NONLEAD_DROP.count : Loc := ⟨0x600120, 0, 32⟩
abbrev TWIN_RX_BAD.reg : Nat := 0x600124
abbrev TWIN_RX_BAD.count : Loc := ⟨0x600124, 0, 32⟩
abbrev CASK_ECC_CORR.reg (i : Nat) : Nat := 0x500020 + 4 * i
abbrev CASK_ECC_CORR.count (i : Nat) : Loc := ⟨0x500020 + 4 * i, 0, 32⟩
abbrev CASK_ECC_UNCORR.reg (i : Nat) : Nat := 0x500028 + 4 * i
abbrev CASK_ECC_UNCORR.count (i : Nat) : Loc := ⟨0x500028 + 4 * i, 0, 32⟩
abbrev CASK_LATE.reg (i : Nat) : Nat := 0x500030 + 4 * i
abbrev CASK_LATE.count (i : Nat) : Loc := ⟨0x500030 + 4 * i, 0, 32⟩
abbrev CASK_ECC_ADDR_LO.reg : Nat := 0x500038
abbrev CASK_ECC_ADDR_LO.addr : Loc := ⟨0x500038, 0, 32⟩
abbrev CASK_ECC_ADDR_HI.reg : Nat := 0x50003C
abbrev CASK_ECC_ADDR_HI.addr : Loc := ⟨0x50003C, 0, 2⟩
abbrev CASK_ECC_ADDR_HI.valid : Loc := ⟨0x50003C, 31, 1⟩
abbrev FAB_DECERR_ADDR_LO.reg : Nat := 0x580008
abbrev FAB_DECERR_ADDR_LO.addr : Loc := ⟨0x580008, 0, 32⟩
abbrev FAB_DECERR_ADDR_HI.reg : Nat := 0x58000C
abbrev FAB_DECERR_ADDR_HI.addr : Loc := ⟨0x58000C, 0, 8⟩
abbrev FAB_SV_DREW.reg (i : Nat) : Nat := 0x584020 + 4 * i
abbrev FAB_SV_DREW.flags (i : Nat) : Loc := ⟨0x584020 + 4 * i, 0, 32⟩
abbrev FAB_SV_DEMOTED.reg (i : Nat) : Nat := 0x584028 + 4 * i
abbrev FAB_SV_DEMOTED.flags (i : Nat) : Loc := ⟨0x584028 + 4 * i, 0, 32⟩
abbrev FAB_SV_STALLED.reg (i : Nat) : Nat := 0x584030 + 4 * i
abbrev FAB_SV_STALLED.flags (i : Nat) : Loc := ⟨0x584030 + 4 * i, 0, 32⟩
abbrev PWRA_BUDGET.reg : Nat := 0x588000
abbrev PWRA_BUDGET.credits : Loc := ⟨0x588000, 0, 13⟩
abbrev PWRA_RT.reg : Nat := 0x588004
abbrev PWRA_RT.credits : Loc := ⟨0x588004, 0, 13⟩
abbrev BOOT_IMG_GEN.reg : Nat := 0x800004
abbrev BOOT_IMG_GEN.value : Loc := ⟨0x800004, 0, 32⟩
abbrev BOOT_IMG_HCRC.reg : Nat := 0x800008
abbrev BOOT_IMG_HCRC.value : Loc := ⟨0x800008, 0, 32⟩
abbrev FLT_MEM_ADDR_LO.reg : Nat := 0x680050
abbrev FLT_MEM_ADDR_LO.addr : Loc := ⟨0x680050, 0, 32⟩
abbrev FLT_MEM_ADDR_HI.reg : Nat := 0x680054
abbrev FLT_MEM_ADDR_HI.addr : Loc := ⟨0x680054, 0, 8⟩
abbrev FLT_MEM_ADDR_HI.valid : Loc := ⟨0x680054, 31, 1⟩
abbrev TWC_TXBUF.reg (i j : Nat) : Nat := 0x700100 + 0x4000 * i + 4 * j
abbrev TWC_TXBUF.data (i j : Nat) : Loc := ⟨0x700100 + 0x4000 * i + 4 * j, 0, 32⟩
abbrev TWC_RXBUF.reg (i j : Nat) : Nat := 0x700120 + 0x4000 * i + 4 * j
abbrev TWC_RXBUF.data (i j : Nat) : Loc := ⟨0x700120 + 0x4000 * i + 4 * j, 0, 32⟩
abbrev PERF_BW_LAST.reg (i : Nat) : Nat := 0x780804 + 0x10 * i
abbrev PERF_BW_LAST.units (i : Nat) : Loc := ⟨0x780804 + 0x10 * i, 0, 32⟩
abbrev PERF_BW_PEAK.reg (i : Nat) : Nat := 0x780808 + 0x10 * i
abbrev PERF_BW_PEAK.units (i : Nat) : Loc := ⟨0x780808 + 0x10 * i, 0, 32⟩
abbrev PERF_TAG_BASE.reg : Nat := 0x780A40
abbrev PERF_TAG_BASE.base : Loc := ⟨0x780A40, 0, 32⟩
abbrev PERF_TAG_CFG_RING.reg : Nat := 0x780A44
abbrev PERF_TAG_CFG_RING.base_hi : Loc := ⟨0x780A44, 0, 8⟩
abbrev PERF_TAG_CFG_RING.len : Loc := ⟨0x780A44, 8, 13⟩
abbrev PERF_TAG_IDX.reg : Nat := 0x780A48
abbrev PERF_TAG_IDX.eidx : Loc := ⟨0x780A48, 0, 12⟩
abbrev PERF_TAG_IDX.sidx : Loc := ⟨0x780A48, 16, 12⟩
abbrev PERF_TAG_DROP.reg : Nat := 0x780A4C
abbrev PERF_TAG_DROP.drops : Loc := ⟨0x780A4C, 0, 32⟩
abbrev PERF_DUMP_BASE.reg : Nat := 0x780B04
abbrev PERF_DUMP_BASE.base : Loc := ⟨0x780B04, 0, 32⟩
abbrev PERF_DUMP_CFG.reg : Nat := 0x780B08
abbrev PERF_DUMP_CFG.base_hi : Loc := ⟨0x780B08, 0, 8⟩
abbrev PERF_DUMP_CFG.len : Loc := ⟨0x780B08, 8, 13⟩
abbrev PERF_DUMP_IDX.reg : Nat := 0x780B0C
abbrev PERF_DUMP_IDX.eidx : Loc := ⟨0x780B0C, 0, 12⟩
abbrev PERF_DUMP_IDX.sidx : Loc := ⟨0x780B0C, 16, 12⟩
abbrev PERF_DUMP_DROP.reg : Nat := 0x780B10
abbrev PERF_DUMP_DROP.drops : Loc := ⟨0x780B10, 0, 32⟩
abbrev MSIX_TABLE.reg (i : Nat) : Nat := 0x844000 + 4 * i
abbrev MSIX_TABLE.word (i : Nat) : Loc := ⟨0x844000 + 4 * i, 0, 32⟩
abbrev MSIX_PBA.reg : Nat := 0x845000
abbrev MSIX_PBA.pend : Loc := ⟨0x845000, 0, 32⟩

end R

end Sys2Proof.Machine
end

