-- ==== Sys2Proof/Machine/State.lean ====
section
/-!
DEFINITION. The state of the engine, as plain data: the registers and their shadow copies, the memories, and what each
block holds beside its registers. `State.reset` is the engine while it is held in RESET.
-/
namespace Sys2Proof.Machine

/-! ## The whole state -/

/-- What the last command put out to the world: a completed read, a frame, an interrupt message, a transaction's end. -/
inductive Out where
  | word (v : Word)
  | bytes (v : List Byte)
  | abort
  | ok
  | nack
  | broken
  | discarded
  | msix (vector : Nat)
  | pulse (width : Nat) (high : Bool)
  | pps (ms : Nat) (high : Bool)
  | wck (k : Nat) (rate : Nat × Nat) (first : Option Nat) (rise : Bool)
  | refusedSt
  | eth (port : Nat) (frame : List Byte) (stomped : Bool)
  | cut (port : Nat) (frame : List Byte)
  | tdm (g : Nat) (frame : TdmOut) (wire : TdmWire)
  | tdmClk (g : Nat) (clk : Option TdmClk)
  | twin (port : Nat) (frame : List Byte) (m : TwinMsg)
  | twc (k : Nat) (scl : SclTime) (bytes : List Byte)
  | verify (port : Nat)
  | respond (port : Nat)
  deriving DecidableEq, Repr

/-- The reasons a step can stop with a fault: there is none, since the spec gives every command an effect. -/
inductive Fault where
  deriving DecidableEq, Repr

/-- The reasons a step can refuse. -/
inductive Refusal where
  /-- The command has no meaning in this model. Safe: nothing can be proved of what it does. -/
  | notModelled (mnemonic : String)
  deriving DecidableEq, Repr

/-- The engine. `regs` holds the value in force of every register that software can see and that no other field
computes; `shadow` the shadow copies of SH fields (R15); unlisted addresses read as the reset values of the register map.
`mem` is fabric memory (Tun, Larder and Cask at their fabric addresses), `flash` the flash device.
`free` counts the free values taken; it is the model's own field. `out` is what the last command put out.
`pending` is the queue of commands that wait, first in, first out; these three, and in other blocks what names no register of the
spec, are the model's own (DESIGN CHOICE, log entries 2 and 84). -/
structure State where
  sys : SysS
  tap : TapS
  regs : Sparse 32
  shadow : Sparse 32
  mem : List Host.Cell
  flash : List Host.Cell
  boot : BootS
  flt : FltS
  hif : HifS
  irq : IrqS
  cores : Vector Core 16
  cio : Vector CoreIo 16
  fab : FabS
  cask : CaskS
  mash : MashS
  xio : XioS
  pwm : PwmS
  eth : EthS
  ptp : PtpS
  sxe : SxeS
  kiln : KilnS
  twin : TwinS
  twc : Vector TwcU 2
  perf : PerfS
  free : Nat
  out : List Out
  pending : List Instr
  deriving DecidableEq, Repr

/-- The fuses of the device that State.reset describes: a commercial 7480 at die step A0 (R10; PRESUMED, log entry 3). -/
def Fuses.device : Fuses := ⟨11, 1, 0, false, false, false⟩

/-- The system block in RESET: engine time 0 (R46), state RESET. -/
def SysS.reset : SysS where
  state := .reset
  et := 0
  up := 0
  bnd := 0
  dataPlane := false
  idle := false
  tempSeen := false
  stbyEntry := false
  straps := ⟨false, 0, 0, false⟩
  fuses := Fuses.device
  sched := []

/-- The test pins as a board ties them (R447, R448): TEST_EN low, TRST_N low by its pull-down, so that the TAP is held in reset. -/
def TapS.reset : TapS := ⟨false, false, .testLogicReset, .idcode, [], []⟩

/-- The boot engine in RESET; the flash is of 256 MiB (2 Gbit, R374; DESIGN CHOICE, log entry 7). -/
def BootS.reset : BootS where
  cand := []
  slot := false
  forced := 0
  sections := []
  checked := false
  waking := false
  mgpFirmware := []
  flOp := none
  flashSize := 0x10000000

/-- The fault block in RESET: the queue empty. -/
def FltS.reset : FltS where
  queue := []
  raised := []
  c3 := []
  safeRamp := false
  wdogRun := false
  wdogUp := 0
  mgpRun := false
  mgpExpiry := []
  mgpTag := 0
  mbOut := []
  mbHeld := []
  clockAttr := []
  memHi := 0

/-- The host interface in RESET. -/
def HifS.reset : HifS where
  groups := Vector.replicate 32 ⟨none, none, none⟩
  journal := []
  jUp := []
  jseq := 0
  ibHigh := none
  ibSeen := []
  answers := []
  twtRefused := false
  twtPec := false

/-- The fabric in RESET. -/
def FabS.reset : FabS where
  used := []
  slack := []
  demoted := []
  lockAt := []
  waiting := []
  dumpWork := []
  ringWork := []
  start := 0
  req := 0
  warn := false
  upsets := []

/-- The counters in RESET. -/
def PerfS.reset : PerfS where
  bw := List.replicate 28 none
  latch := []
  snap := none
  dumpRing := (0, 0)
  tagRing := (0, 0)
  dumpUp := []
  missed := 0
  setSeen := false
  stopSeen := false

/-- The engine in RESET after power-on: every register at the reset value of its table, Larder and Tun zero (R407),
SYS_RESET_CAUSE at 0x2 (R373), nothing waiting. -/
def State.reset : State where
  sys := SysS.reset
  tap := TapS.reset
  regs := [(0x1C, 2)]
  shadow := []
  mem := []
  flash := []
  boot := BootS.reset
  flt := FltS.reset
  hif := HifS.reset
  irq := ⟨0, 0, false, 0⟩
  cores := Vector.replicate 16 Core.off
  cio := Vector.replicate 16 CoreIo.zero
  fab := FabS.reset
  cask := CaskS.reset
  mash := MashS.reset
  xio := XioS.reset
  eth := EthS.reset
  ptp := PtpS.reset
  pwm := Vector.replicate 24 PwmCh.reset
  sxe := SxeS.reset
  kiln := KilnS.reset
  twin := TwinS.reset
  twc := Vector.replicate 2 ⟨[], false, ⟨0, 0, 0, 0, 0, false, [], false, 0⟩⟩
  perf := PerfS.reset
  free := 0
  out := []
  pending := []

end Sys2Proof.Machine
end

