-- ==== Sys2Proof/Machine/Ops.lean ====
section
/-!
DEFINITION. The named operations over the state that every meaning uses: sparse data, register fields, the grid's
arithmetic, raising a fault, fabric memory with its error checks, event counting, host interrupts, and the frame every
command runs in.
-/
namespace Sys2Proof.Machine

/-! ## Sparse data -/

/-- What key k holds; an unlisted key holds dflt k. -/
def Sparse.get {w : Nat} (dflt : Nat → BitVec w) : Sparse w → Nat → BitVec w
  | [], k => dflt k
  | (a, v) :: t, k => if a = k then v else Sparse.get dflt t k

/-- The entry (k, v) put in its place among rising keys. -/
def Sparse.insert {w : Nat} (k : Nat) (v : BitVec w) : Sparse w → Sparse w
  | [] => [(k, v)]
  | (a, x) :: t =>
    if k < a then (k, v) :: (a, x) :: t
    else if a = k then (k, v) :: t
    else (a, x) :: Sparse.insert k v t

/-- Key k made to hold v; the value an unlisted key holds takes the entry away. -/
def Sparse.set {w : Nat} (dflt : Nat → BitVec w) (m : Sparse w) (k : Nat) (v : BitVec w) : Sparse w :=
  if v = dflt k then m.filter (fun p => p.1 != k) else Sparse.insert k v m

/-- Every key of m is above lo, keys rise strictly, and no entry equals what an unlisted key reads as. -/
def Sparse.wfFrom {w : Nat} (dflt : Nat → BitVec w) : Option Nat → Sparse w → Bool
  | _, [] => true
  | lo, (a, v) :: t =>
    (match lo with | none => true | some l => decide (l < a)) && decide (v ≠ dflt a) && Sparse.wfFrom dflt (some a) t

/-- The canonical form of sparse data. -/
def Sparse.wf {w : Nat} (dflt : Nat → BitVec w) (m : Sparse w) : Bool := Sparse.wfFrom dflt none m

/-- What an unlisted byte of fabric memory reads as: zero (R407; Cask without its fill, DESIGN CHOICE, log entry 6). -/
def memDflt (_ : Nat) : Byte := 0

/-- What an unlisted byte of the flash reads as: an erased byte (DESIGN CHOICE, log entry 7). -/
def flashDflt (_ : Nat) : Byte := 0xFF

/-- The canonical form of fabric memory. -/
def Memory.wf (m : List Host.Cell) : Bool := Sparse.wf (w := 8) memDflt m

/-! ## The register map -/

/-- Whether offset off is one of the copies that dims lays out (strides falling). -/
def dimsHit : List (Nat × Nat) → Nat → Bool
  | [], off => off == 0
  | (st, n) :: t, off => Nat.blt (off / st) n && dimsHit t (off % st)

/-- Whether register d has a copy at address a. -/
def RegDesc.hit (d : RegDesc) (a : Nat) : Bool := Nat.ble d.base a && dimsHit d.dims (a - d.base)

/-- The row of the register map at address a, if a register stands there. -/
def regFind (a : Nat) : Option RegDesc :=
  regPieces.findSome? fun (lo, hi, l) => if Nat.ble lo a && Nat.ble a hi then l.find? (·.hit a) else none

/-- The reset value that a register's table gives (R13). -/
def RegDesc.resetWord (d : RegDesc) : Word := BitVec.ofNat 32 (d.fields.foldl (fun x f => x + f.reset * 2 ^ f.lo) 0)

/-- What the register at a holds after reset; an address without a register reads zero (R5, R350). -/
def regReset (a : Nat) : Word := match regFind a with | some d => d.resetWord | none => 0

/-- The commit group of address a: 16 + c for a register of core c's parameter window (R138). -/
def groupOf (a : Nat) : Option Nat :=
  match regFind a with
  | none => none
  | some d => match d.group with
    | .none => none
    | .num n => some n
    | .perCore => some (16 + (a - 0x300000) / 0x10000)

/-! ## Fields of registers -/

/-- The w bits from lo up of a word, as a number. -/
def fieldGet (lo w : Nat) (x : Word) : Nat := (x.toNat / 2 ^ lo) % 2 ^ w

/-- The ones of a field. -/
def fieldMask (lo w : Nat) : Word := BitVec.ofNat 32 ((2 ^ w - 1) * 2 ^ lo)

/-- A word with the w bits from lo up made v. -/
def fieldPut (lo w : Nat) (x : Word) (v : Nat) : Word :=
  (x &&& ~~~ fieldMask lo w) ||| BitVec.ofNat 32 (v % 2 ^ w * 2 ^ lo)

/-- The word in force at a register address. -/
def State.reg (s : State) (a : Nat) : Word := Sparse.get regReset s.regs a

/-- The register at a made to hold v. -/
def State.setReg (s : State) (a : Nat) (v : Word) : State := { s with regs := Sparse.set regReset s.regs a v }

/-- The shadow copy at a register address (R15). -/
def State.shReg (s : State) (a : Nat) : Word := Sparse.get regReset s.shadow a

/-- The shadow copy at a made v. -/
def State.setShReg (s : State) (a : Nat) (v : Word) : State := { s with shadow := Sparse.set regReset s.shadow a v }

/-- A field's value in force. -/
def State.get (s : State) (l : Loc) : Nat := fieldGet l.lo l.w (s.reg l.addr)

/-- A field made v (modulo its width). -/
def State.put (s : State) (l : Loc) (v : Nat) : State := s.setReg l.addr (fieldPut l.lo l.w (s.reg l.addr) v)

/-- A field is not zero. -/
def State.flag (s : State) (l : Loc) : Bool := s.get l != 0

/-- A field made 1. -/
def State.mark (s : State) (l : Loc) : State := s.put l 1

/-- A field made 0. -/
def State.unmark (s : State) (l : Loc) : State := s.put l 0

/-- A field counted up by n, modulo its width. -/
def State.bump (s : State) (l : Loc) (n : Nat := 1) : State := s.put l (s.get l + n)

/-- A field counted up by one, saturating. -/
def State.bumpSat (s : State) (l : Loc) : State := s.put l (min (s.get l + 1) (2 ^ l.w - 1))

/-- A field read as two's complement. -/
def State.getS (s : State) (l : Loc) : Int := (BitVec.ofNat l.w (s.get l)).toInt

/-- A field whose reset value is 0, looked up without the register map. -/
def State.rawFlag (s : State) (l : Loc) : Bool :=
  match s.regs.find? (fun p => p.1 == l.addr) with
  | none => false
  | some p => fieldGet l.lo l.w p.2 != 0

/-- The instances i < n of a register table (base + stride · i) that hold another value than their reset value, rising. -/
def State.listed (s : State) (base stride n : Nat) : List Nat :=
  s.regs.filterMap fun p =>
    if Nat.ble base p.1 && Nat.blt p.1 (base + stride * n) && (p.1 - base) % stride == 0 then some ((p.1 - base) / stride)
    else none

/-! ## Numbers -/

/-- The low w bits of n as a signed number. -/
def sx (w : Nat) (n : Nat) : Int := let r := n % 2 ^ w; if r < 2 ^ (w - 1) then r else (r : Int) - 2 ^ w

/-- An integer modulo 2^w. -/
def toU (w : Nat) (i : Int) : Nat := (i % (2 ^ w : Nat)).toNat

/-- An integer cut to the signed range of w bits. -/
def satS (w : Nat) (i : Int) : Int := max (-(2 ^ (w - 1) : Nat)) (min i ((2 ^ (w - 1) : Nat) - 1))

/-- i · 2^-k rounded to nearest, ties upward. -/
def rshift (i : Int) (k : Nat) : Int := if k = 0 then i else Int.shiftRight (i + (2 ^ (k - 1) : Nat)) k

/-- Serial-number comparison of R52: a is newer than b within w bits. -/
def newer (a b w : Nat) : Bool := let d := (a + 2 ^ w - b % 2 ^ w) % 2 ^ w; d != 0 && Nat.blt d (2 ^ (w - 1))

/-- R55: low extended to the candidate nearest ref. -/
def extend32 (ref : Int) (low : Nat) : Int := ref + sx 32 (toU 32 ((low : Int) - ref))

/-- The words of a byte string, little-endian. -/
def leWord (b : List Byte) : Word := BitVec.ofNat 32 (b.foldr (fun x n => x.toNat + 256 * n) 0)

/-- The number a byte string spells, little-endian. -/
def leNat (b : List Byte) : Nat := b.foldr (fun x n => x.toNat + 256 * n) 0

/-- The number a byte string spells, big-endian. -/
def beNat (b : List Byte) : Nat := b.foldl (fun n x => x.toNat + 256 * n) 0

/-- n bytes of a number, little-endian. -/
def leBytes : Nat → Nat → List Byte
  | 0, _ => []
  | n + 1, v => BitVec.ofNat 8 v :: leBytes n (v / 256)

/-- n bytes of a number, big-endian. -/
def beBytes (n v : Nat) : List Byte := (leBytes n v).reverse

/-- A new value put under a key of an association list, at its end when the key is new. -/
def assocSet {α : Type} (k : Nat) (v : α) : List (Nat × α) → List (Nat × α)
  | [] => [(k, v)]
  | (a, x) :: t => if a = k then (k, v) :: t else (a, x) :: assocSet k v t

/-- The value under a key of an association list. -/
def assocGet {α : Type} (k : Nat) (l : List (Nat × α)) : Option α := (l.find? (fun p => p.1 == k)).map (·.2)

/-! ## The grid (chapter 2) -/

/-- fs_sel of SYS_GRID (R61). -/
def State.fsSel (s : State) : Nat := s.get R.SYS_GRID.fs_sel

/-- The system rate in Hz (R38). -/
def State.fs (s : State) : Nat := 48000 * 2 ^ s.fsSel

/-- Samples per period (R38). -/
def State.nSamp (s : State) : Nat := 2 ^ s.get R.SYS_GRID.n_log2

/-- VCO cycles per sample (R32). -/
def State.sampVco (s : State) : Nat := 40960 / 2 ^ s.fsSel

/-- VCO cycles per period. -/
def State.perVco (s : State) : Nat := s.nSamp * s.sampVco

/-- D_in (R61). -/
def State.dIn (s : State) : Nat := s.get R.SYS_GRID.d_in

/-- CLK_DSP cycles per period (R32). -/
def State.perDsp (s : State) : Nat := s.perVco / 2

/-- PN (R44). -/
def State.pn (s : State) : Nat := s.sys.et / s.perVco

/-- The start of the period under way in 2^-16 ns, rounded to nearest (R40). -/
def State.nt16 (s : State) : Nat := (s.pn * s.perVco * 3125 * 65536 + 3072) / 6144

/-- PNL (R44). -/
def State.pnl (s : State) : Nat := s.pn % 2 ^ 32

/-- NT: engine time in whole nanoseconds (R43); one VCO cycle is 3125/6144 ns. -/
def State.nt (s : State) : Nat := s.sys.et * 3125 / 6144

/-- WT (R43). -/
def State.wt (s : State) : Nat := s.nt % 2 ^ 32

/-- The 16-bit fraction of engine time, rounded to the nearest 2^-16 ns (R40, R43). -/
def State.frac (s : State) : Nat := (s.sys.et * 3125 % 6144 * 65536 + 3072) / 6144

/-- VCO cycles in one millisecond. -/
def msVco : Nat := 1966080

/-- Twin mode is on: twin-capable, enabled by the image (R283). -/
def State.twinMode (s : State) : Bool := s.rawFlag R.TWIN_CFG.twin_en

/-! ## Variant (chapter 0) -/

/-- Stoteter cores present (R2). -/
def Fuses.cores (f : Fuses) : Nat := [4, 4, 8, 8, 8, 8, 12, 12, 16, 16, 16, 16].getD f.variant.val 16

/-- Ethernet ports present (R2). -/
def Fuses.ports (f : Fuses) : Nat := [2, 2, 4, 4, 4, 4, 8, 8, 8, 8, 8, 8].getD f.variant.val 8

/-- Network channels each way at 48 and 96 kHz (R2). -/
def Fuses.channels (f : Fuses) : Nat :=
  [256, 256, 1024, 1024, 1024, 1024, 2048, 2048, 4096, 4096, 4096, 4096].getD f.variant.val 4096

/-- TDM ports present (R2). -/
def Fuses.tdm (f : Fuses) : Nat := [8, 4, 16, 8, 32, 16, 32, 16, 32, 16, 32, 32].getD f.variant.val 32

/-- Modulator channels present (R2). -/
def Fuses.pwm (f : Fuses) : Nat := [0, 8, 0, 16, 0, 24, 0, 24, 0, 24, 0, 24].getD f.variant.val 24

/-- Cask channels present (R2). -/
def Fuses.cask (f : Fuses) : Nat := [0, 0, 1, 1, 1, 1, 2, 2, 2, 2, 2, 2].getD f.variant.val 2

/-- Twin operation present (R2). -/
def Fuses.twin (f : Fuses) : Bool := Nat.ble 4 f.variant.val

/-- The 1,156-ball package (R2). -/
def Fuses.pkg1156 (f : Fuses) : Bool := Nat.ble 4 f.variant.val

/-- The four digits of the variant in BCD (R6). -/
def Fuses.digits (f : Fuses) : Nat :=
  [0x7410, 0x7412, 0x7420, 0x7422, 0x7430, 0x7434, 0x7440, 0x7444, 0x7460, 0x7464, 0x7470, 0x7480].getD f.variant.val 0

/-- SYS_IDENT (R6). -/
def Fuses.ident (f : Fuses) : Word := BitVec.ofNat 32 (f.digits + f.stepMinor.val * 2 ^ 16 + f.stepMajor.val * 2 ^ 20)

/-- SYS_FUSE (R7): sign_enforce is 1 on the 7470 alone. -/
def Fuses.word (f : Fuses) : Word := BitVec.ofNat 32
  (f.cores + f.ports * 2 ^ 5 + f.tdm * 2 ^ 9 + f.pwm * 2 ^ 15 + f.cask * 2 ^ 20 + bit f.twin * 2 ^ 22
    + bit (f.variant.val == 10) * 2 ^ 23 + bit f.gradeInd * 2 ^ 24 + bit f.pkg1156 * 2 ^ 25)

/-- Network channels populated each way at the rate in force (R3, R30). -/
def State.netCh (s : State) : Nat := if s.fsSel = 2 then s.sys.fuses.channels / 2 else s.sys.fuses.channels

/-! ## Engine state (R35) -/

/-- Whether the state is one of the two RUN states. -/
def EngState.isRun : EngState → Bool
  | .runUnlocked | .runLocked => true
  | _ => false

/-- An image is loaded (SYS_STATE.image, R383). -/
def State.image (s : State) : Bool := s.rawFlag R.SYS_STATE.image

/-- The code of SYS_STATE.state. -/
def EngState.code : EngState → Nat
  | .reset => 0 | .load => 1 | .check => 2 | .prepare => 3
  | .runUnlocked => 4 | .runLocked => 5 | .standby => 6 | .safe => 7

/-- A change of engine state sets SYS_STATE.changed. -/
def State.enter (s : State) (e : EngState) : State :=
  if s.sys.state = e then s else ({ s with sys := { s.sys with state := e } }).mark R.SYS_STATE.changed

/-! ## Free values -/

/-- The next free word, and the state with the counter read. -/
def State.freeWord (s : State) : Word × State := (Config.freeWord s.free, { s with free := s.free + 1 })

/-- The next free byte. -/
def State.freeByte (s : State) : Byte × State := (Config.freeByte s.free, { s with free := s.free + 1 })

/-- The next free number. -/
def State.freeNat (s : State) : Nat × State := (Config.freeNat s.free, { s with free := s.free + 1 })

/-- The next free integer. -/
def State.freeInt (s : State) : Int × State := (Config.freeInt s.free, { s with free := s.free + 1 })

/-! ## Output -/

/-- Something put out to the world by the command under way. -/
def State.emit (s : State) (o : Out) : State := { s with out := s.out ++ [o] }

/-! ## Event counting (R429 to R431) -/

/-- Counter i takes amount amt: a wrap sets its overflow bit, or carries into a chained odd counter (R431). -/
def perfAdd (s : State) (i amt : Nat) : State :=
  let a := R.PERF_CNT.reg i
  let n := (s.reg a).toNat + amt
  let s := s.setReg a (BitVec.ofNat 32 n)
  if n < 2 ^ 32 then s
  else if i % 2 = 0 && s.flag (R.PERF_EVSEL.chain (i + 1)) then
    let b := R.PERF_CNT.reg (i + 1)
    let m := (s.reg b).toNat + n / 2 ^ 32
    let s := s.setReg b (BitVec.ofNat 32 m)
    if m < 2 ^ 32 then s else s.put ⟨R.PERF_OVF.reg ((i + 1) / 32), (i + 1) % 32, 1⟩ 1
  else s.put ⟨R.PERF_OVF.reg (i / 32), i % 32, 1⟩ 1

/-- One cycle's amount of an event goes to every counter that selects it, while PERF_CTRL.run is 1 (R429, R430). -/
def State.count (s : State) (ev amt : Nat) : State :=
  if amt = 0 || !s.rawFlag R.PERF_CTRL.run then s
  else (List.range 128).foldl (fun s i =>
    if s.get (R.PERF_EVSEL.event i) = ev && !(i % 2 = 1 && s.flag (R.PERF_EVSEL.chain i)) then
      perfAdd s i (if s.flag (R.PERF_EVSEL.thr_en i) then bit (s.get (R.PERF_EVSEL.thr i) < amt) else amt)
    else s) s

/-- Monitor m counts n bytes while it measures a window (R434). -/
def State.bwAdd (s : State) (m n : Nat) : State :=
  match s.perf.bw[m]? with
  | some (some k) => { s with perf := { s.perf with bw := s.perf.bw.set m (some (k + n)) } }
  | _ => s

/-! ## Raising a fault (R392 to R394) -/

/-- A fault is raised: it joins the faults of this command, which enter the queue together. -/
def State.raise (s : State) (cls blk code detail : Nat) : State :=
  { s with flt := { s.flt with raised := s.flt.raised ++ [⟨cls, blk, code, detail⟩] } }

/-- The order of R392 among faults of one cycle: source block, code, detail. -/
def Raised.before (a b : Raised) : Bool :=
  Nat.blt a.blk b.blk || a.blk == b.blk && (Nat.blt a.code b.code || a.code == b.code && Nat.ble a.detail b.detail)

/-- A raised fault put in its place in the order of R392. -/
def Raised.insert (x : Raised) : List Raised → List Raised
  | [] => [x]
  | y :: t => if y.before x then y :: Raised.insert x t else x :: y :: t

/-- Whether a record and a raised fault coalesce (R393). -/
def FaultRec.same (r : FaultRec) (x : Raised) : Bool :=
  r.cls == x.cls && r.blk == x.blk && r.code == x.code && r.detail == x.detail

/-- The lowest free slot among those from lo to lo + n - 1. -/
def freeSlot (q : List FaultRec) (lo n : Nat) : Option Nat :=
  ((List.range n).map (· + lo)).find? (fun k => !q.any (·.slot == k))

/-- The oldest unread record of class v in a general slot. -/
def oldestGeneral (q : List FaultRec) (v : Nat) : Option FaultRec := q.find? (fun r => r.cls == v && Nat.blt r.slot 56)

/-- The placement of R394: the slot a new record of class cls takes and the record it overwrites, or none when the new
record is lost. -/
def placeRec (q : List FaultRec) (cls : Nat) : Option (Nat × Option FaultRec) :=
  match (if cls = 3 then freeSlot q 56 8 else none) with
  | some k => some (k, none)
  | none => match freeSlot q 0 56 with
    | some k => some (k, none)
    | none =>
      ((List.range 3).filter (fun v => Nat.ble v cls && (Nat.blt v 2 || cls == 3))).findSome?
        (fun v => (oldestGeneral q v).map (fun r => (r.slot, some r)))

/-- A fault of class 2 or 3 of Mash, a core, the stream engine, XIO, a modulator, Cask or the fabric is a local fault (R299). (DEDUCED, log entry 59.) -/
def noteLocal (s : State) (x : Raised) : State :=
  if Nat.ble 2 x.cls && Nat.ble 4 x.blk && Nat.ble x.blk 10 then { s with twin := { s.twin with faultBnd := some s.sys.bnd } } else s

/-- One raised fault enters the queue: it coalesces (R393), or is placed (R394). -/
def enqueue (s : State) (x : Raised) : State :=
  let s := noteLocal s x
  let s := if x.cls = 3 then { s with flt := { s.flt with c3 := s.flt.c3 ++ [(x.blk, x.code)] } } else s
  if s.flt.queue.any (·.same x) then
    { s with flt := { s.flt with queue := s.flt.queue.map (fun r => if r.same x then { r with count := min (r.count + 1) 65535 } else r) } }
  else match placeRec s.flt.queue x.cls with
    | none => s.bump (R.FLT_LOST.lost x.cls)
    | some (k, past) =>
      let q := match past with
        | none => s.flt.queue
        | some o => s.flt.queue.filter (· != o)
      let s := { s with flt := { s.flt with
        queue := q ++ [⟨x.cls, x.blk, x.code, x.detail, 0, false, s.pnl, s.wt, k, s.sys.up⟩] } }
      match past with
      | none => s
      | some o => s.bump (R.FLT_LOST.lost o.cls)

/-- A port's egress frames that wait are discarded, uncounted. -/
def EthPort.noStreams (x : EthPort) : EthPort := { x with queues := x.queues.set 5 (x.queues[5].filter (fun f => !f.src.staged)) }

/-- The twin yields (R300, R301): its egress frames that wait are discarded, none follows; it leaves service at the next boundary. -/
def selfYield (s : State) : State :=
  let s := ({ s with eth := { s.eth with port := s.eth.port.map EthPort.noStreams } } : State).mark R.TWIN_EVT.yielded
  let s := s.bump R.TWIN_YIELDS.count
  { s with twin := { s.twin with muted := true, yielding := true } }

/-- The other twin has reported class 3 for the pass of period p (R301). -/
def State.peerClass3 (s : State) (p : Nat) : Bool := match s.twin.peer with | some (a, b, _) => a.c3 && b == p + 1 | none => false

/-- A fault that makes a twin in sync yield: of class 3, or an uncorrectable error in what the pass reads from Cask (R301). -/
def Raised.alarms (x : Raised) : Bool := x.cls == 3 || (x.cls == 2 && x.blk == 9 && x.code == 6)

/-- A twin in sync that raises class 3, or meets an uncorrectable memory error, yields at once, unless the other twin has reported
class 3 for the same pass (R301). (DEDUCED, log entries 45 and 46.) -/
def twinAlarm (l : List Raised) (s : State) : State :=
  if l.any Raised.alarms && s.twinMode && s.get R.TWIN_STAT.state == 5 && !s.twin.yielding && (s.cask.rtErr || !s.flt.c3.isEmpty) && !s.peerClass3 s.pn then selfYield s
  else s

/-- The faults raised in a command enter the queue in the order of R392. -/
def flushFaults (s : State) : State :=
  match s.flt.raised with
  | [] => s
  | l =>
    let s := { s with flt := { s.flt with raised := [] } }
    twinAlarm l (((l.foldl (fun acc x => Raised.insert x acc) []).foldl enqueue s).count 4 l.length)

/-! ## Fabric memory (R333, R335, R407) -/

/-- The fabric address of Tun c (R101). -/
def tunBase (c : Nat) : Nat := 0x10000000 + c * 0x100000

/-- The fabric address of Larder (R333). -/
def larderBase : Nat := 0x20000000

/-- The fabric address of Cask (R333). -/
def caskBase : Nat := 0x400000000

/-- The number R391 gives a memory: Larder bank, or 16 + c for the Tun of core c. -/
def memoryId (a : Nat) : Nat :=
  if larderBase ≤ a then ((a - larderBase) / 64) % 8 else 16 + (a - tunBase 0) / 0x100000

/-- The standing error of the 64-bit word that holds address a, if any. -/
def State.upsetAt (s : State) (a : Nat) : Option Upset := s.fab.upsets.find? (fun u => u.word == a / 8)

/-- The byte that a read of address a delivers: zero in an uncorrectable word (R407). -/
def State.memByte (s : State) (a : Nat) : Byte :=
  match s.upsetAt a with
  | some ⟨_, true⟩ => 0
  | _ => Sparse.get (w := 8) memDflt s.mem a

/-- n bytes from address a up. -/
def State.memBytes (s : State) (a n : Nat) : List Byte := (List.range n).map (fun i => s.memByte (a + i))

/-- The 32-bit word at address a. -/
def State.memWord (s : State) (a : Nat) : Word := leWord (s.memBytes a 4)

/-- A fault of Larder or Tun found by a read of the word of address a: a single-bit error is corrected and written back,
an uncorrectable one is logged and stays (R407). -/
def State.touch1 (s : State) (a : Nat) : State :=
  match s.upsetAt a with
  | none => s
  | some u =>
    if u.hard then
      ((s.setReg R.FLT_MEM_ADDR_LO.reg (BitVec.ofNat 32 (a / 8 * 8))).setReg R.FLT_MEM_ADDR_HI.reg
        (BitVec.ofNat 32 (a / 8 * 8 / 2 ^ 32 + 2 ^ 31))).raise 3 0xF 2 (memoryId a)
    else ({ s with fab := { s.fab with upsets := s.fab.upsets.filter (· != u) } }).raise 0 0xF 1 (memoryId a)

/-- The words that n bytes from a reach are read (R407). -/
def State.touch (s : State) (a n : Nat) : State :=
  if s.fab.upsets.isEmpty then s
  else (List.range ((a + n + 7) / 8 - a / 8)).foldl (fun s i => s.touch1 ((a / 8 + i) * 8)) s

/-- One byte written. -/
def State.pokeByte (s : State) (a : Nat) (b : Byte) : State := { s with mem := Sparse.set (w := 8) memDflt s.mem a b }

/-- Bytes written from address a up. -/
def State.poke (s : State) (a : Nat) : List Byte → State
  | [] => s
  | b :: t => (s.pokeByte a b).poke (a + 1) t

/-- The errors of the words that a write of n bytes from a reaches: a whole word is written with fresh check bits; the
read that a partial word makes finds its error first, and an uncorrectable word is merged into zeros (R407). -/
def State.preWrite (s : State) (a n : Nat) : State :=
  if s.fab.upsets.isEmpty then s
  else (List.range ((a + n + 7) / 8 - a / 8)).foldl (fun s i =>
    let wd := a / 8 + i
    match s.fab.upsets.find? (fun u => u.word == wd) with
    | none => s
    | some u =>
      let whole := Nat.ble a (wd * 8) && Nat.ble (wd * 8 + 8) (a + n)
      let s := if whole then s else s.touch1 (wd * 8)
      let s := { s with fab := { s.fab with upsets := s.fab.upsets.filter (· != u) } }
      if u.hard then s.poke (wd * 8) (List.replicate 8 0) else s) s

/-- Bytes written to Larder or Tun from address a up, with the checks of R407. -/
def State.memWrite (s : State) (a : Nat) (bs : List Byte) : State := (s.preWrite a bs.length).poke a bs

/-- A 32-bit word written to memory. -/
def State.memWriteWord (s : State) (a : Nat) (v : Word) : State := s.memWrite a (leBytes 4 v.toNat)

/-! ## Cores -/

/-- Core c. -/
def State.core (s : State) (c : Fin 16) : Core := s.cores[c]

/-- Core c replaced. -/
def State.setCore (s : State) (c : Fin 16) (k : Core) : State := { s with cores := s.cores.set c k }

/-- The channels of core c. -/
def State.io (s : State) (c : Fin 16) : CoreIo := s.cio[c]

/-- The channels of core c replaced. -/
def State.setIo (s : State) (c : Fin 16) (k : CoreIo) : State := { s with cio := s.cio.set c k }

/-! ## Host interrupts (R369, R370) -/

/-- The level of each interrupt source (R369). -/
def intSource (s : State) (i : Nat) : Bool :=
  match i with
  | 0 => !s.flt.queue.isEmpty
  | 1 => s.flt.queue.any (·.cls == 3)
  | 2 => s.rawFlag R.HIF_COMMIT_DONE.done
  | 3 => s.rawFlag R.SYS_CFG_REJECT.valid
  | 20 => !s.flt.mbOut.isEmpty
  | 21 => s.rawFlag R.SYS_STATE.changed
  | 22 => s.rawFlag ⟨R.KILN_EVT.reg, 0, 32⟩
  | 23 => s.rawFlag ⟨R.TWIN_EVT.reg, 0, 32⟩
  | 24 => (s.reg (R.ETH_LQ_IDX.reg 0)).toNat % 4096 != (s.reg (R.ETH_LQ_IDX.reg 0)).toNat / 65536 % 4096
  | 25 => (List.range 8).any (fun p => s.rawFlag (R.ETH_PSTAT.link_evt p))
  | 26 => s.get R.PTP_LOG_IDX.eidx != s.get R.PTP_LOG_IDX.sidx
  | 27 => (List.range 24).any (fun n => s.rawFlag (R.PWM_CH_STAT.latch_evt n))
  | 28 => s.rawFlag R.PERF_DUMP_STAT.new_rec
  | 29 => s.rawFlag R.PWRA_STAT.warn_evt
  | 30 => s.rawFlag R.FAB_DECERR_INFO.valid || s.rawFlag R.FAB_LOCK_STAT.broken_evt || s.rawFlag R.FAB_LOCK_STAT.refused_evt
  | 31 => s.rawFlag R.HIF_STAT.bad_access || s.rawFlag R.HIF_STAT.atomic_broken
  | n => s.rawFlag (R.CORE_MBOX_STAT.out_full (n - 4))

/-- HIF_INT_SRC (R369). -/
def intWord (s : State) : Word :=
  BitVec.ofNat 32 ((List.range 32).foldl (fun n i => n + bit (intSource s i) * 2 ^ i) 0)

/-- The MSI-X vectors: a newly pending vector that is not masked is sent, a masked one sets its pending bit (R370). -/
def msixStep (s : State) (rise : Word) : Word × List Out :=
  if !s.rawFlag R.HIF_STAT.msix_en then (s.irq.pba, [])
  else
    let want := s.irq.pba ||| rise
    let masked := fun i => (s.reg (R.MSIX_TABLE.reg (4 * i + 3))).getLsbD 0
    (BitVec.ofNat 32 ((List.range 32).foldl (fun n i => n + bit (want.getLsbD i && masked i) * 2 ^ i) 0),
      ((List.range 32).filter (fun i => want.getLsbD i && !masked i)).map Out.msix)

/-- A rising enabled source sends its vector and HOST_INT_N follows the enabled sources (R370). -/
def irqUpdate (s : State) : State :=
  let src := intWord s
  let en := s.reg R.HIF_INT_EN.reg
  let rise := src &&& en &&& (~~~ s.irq.prev ||| s.irq.rearm)
  let (pba, o) := msixStep s rise
  { s with irq := ⟨src, pba, (src &&& en) != 0, 0⟩, out := s.out ++ o }

/-- The outputs of the command before are gone. -/
def State.begin (s : State) : State := { s with out := [] }

/-- Every command runs so: the outputs of the one before are gone, its effect happens, the faults it raised enter the
queue, the interrupt lines follow. (DESIGN CHOICE, log entry 5.) With TEST_EN high the engine does not operate (R448). -/
def Cmd.run (f : State → State) (s : State) : Host.Outcome State Fault Refusal :=
  .next (if s.tap.testEn then s.begin else irqUpdate (flushFaults (f s.begin)))

end Sys2Proof.Machine
end

