-- ==== Sys2Proof/Machine/Frames.lean ====
section
/-!
DEFINITION. Bytes of frames: the CRCs (R202, R217, R376), Internet checksums, and the reading of Ethernet, IP and UDP headers.
-/
namespace Sys2Proof.Machine

/-! ## CRCs -/

/-- n bit steps of a reflected 32-bit CRC. -/
def crcBits (poly : Word) : Nat → Word → Word
  | 0, c => c
  | n + 1, c => crcBits poly n (if c.getLsbD 0 then (c >>> 1) ^^^ poly else c >>> 1)

/-- A reflected CRC-32 over bytes, from all ones, inverted at the end. -/
def crcRefl (poly : Word) (b : List Byte) : Word :=
  ~~~ (b.foldl (fun c x => crcBits poly 8 (c ^^^ x.setWidth 32)) (BitVec.allOnes 32))

/-- The value IEEE 802.3 places in the FCS (R202). -/
def crc32 (b : List Byte) : Word := crcRefl 0xEDB88320 b

/-- CRC-32C, of flash images (R376). -/
def crc32c (b : List Byte) : Word := crcRefl 0x82F63B78 b

/-- n bit steps of the CRC-16 of R217. -/
def crc16Bits : Nat → BitVec 16 → BitVec 16
  | 0, c => c
  | n + 1, c => crc16Bits n (if c.getLsbD 15 then (c <<< 1) ^^^ 0x1021#16 else c <<< 1)

/-- The CRC-16 of R217: most significant bit first, from 0xFFFF, no final inversion. -/
def crc16 (b : List Byte) : BitVec 16 := b.foldl (fun c x => crc16Bits 8 (c ^^^ ((x.setWidth 16 : BitVec 16) <<< 8))) 0xFFFF#16

/-- The value of a CRC-8 with polynomial x^8 + x^2 + x + 1 over bytes (the PEC of R358 and R423). -/
def crc8Bits : Nat → Byte → Byte
  | 0, c => c
  | n + 1, c => crc8Bits n (if c.getLsbD 7 then (c <<< 1) ^^^ 0x07#8 else c <<< 1)
def crc8 (b : List Byte) : Byte := b.foldl (fun c x => crc8Bits 8 (c ^^^ x)) 0

/-! ## Fields of frames -/

/-- The n bytes from offset o, big-endian. -/
def fbe (b : List Byte) (o n : Nat) : Nat := beNat ((b.drop o).take n)

/-- Bytes put in place from offset o. -/
def fput (b : List Byte) (o : Nat) (v : List Byte) : List Byte := b.take o ++ v ++ b.drop (o + v.length)

/-- The sum of the 16-bit words of a byte string. -/
def sum16 : List Byte → Nat
  | [] => 0
  | [a] => a.toNat * 256
  | a :: b :: t => a.toNat * 256 + b.toNat + sum16 t

/-- A sum folded to 16 bits, ones' complement. -/
def fold16 (n : Nat) : Nat := let m := n % 65536 + n / 65536; let m := m % 65536 + m / 65536; m % 65536 + m / 65536

/-- The Internet checksum of a byte string with start value s. -/
def inetSum (s : Nat) (b : List Byte) : Nat := 65535 - fold16 (s + sum16 b)

/-- An Ethernet frame's header: addresses, the 802.1Q tag as PCP and VID, EtherType, the offset of what follows. -/
structure EthHdr where
  da : Nat
  sa : Nat
  tag : Option (Nat × Nat)
  etype : Nat
  off : Nat

/-- The header of a frame (an optional single tag). -/
def ethHdr (b : List Byte) : EthHdr :=
  let et := fbe b 12 2
  if et = 0x8100 then
    let tci := fbe b 14 2
    ⟨fbe b 0 6, fbe b 6 6, some (tci / 8192, tci % 4096), fbe b 16 2, 18⟩
  else ⟨fbe b 0 6, fbe b 6 6, none, et, 14⟩

/-- A multicast or broadcast address. -/
def macMulti (a : Nat) : Bool := a / 2 ^ 40 % 2 == 1

/-- A UDP datagram over IP: version 6, source and destination, ports, the UDP payload, the offset of the UDP header, and
whether the UDP header follows the IP header, and whether the IP header, its fragmentation and the UDP checksum are as R224 wants them. -/
structure UdpPkt where
  v6 : Bool
  direct : Bool
  src : Nat
  dst : Nat
  sport : Nat
  dport : Nat
  payload : List Byte
  off : Nat
  ipOk : Bool
  sumOk : Bool
  hop : Nat

/-- The pseudo-header's sum for protocol pr and length n. -/
def pseudoSum (v6 : Bool) (ip : List Byte) (pr n : Nat) : Nat :=
  if v6 then sum16 ((ip.drop 8).take 32) + n + pr else sum16 ((ip.drop 12).take 8) + n + pr

/-- Where the UDP header lies in an IPv6 packet, past n extension headers at most: nxt is the next header, o where it lies. Hop-by-hop
options, routing, destination options, an unfragmented fragment header. (PRESUMED, log entry 20.) -/
def udpAt6 (ip : List Byte) : Nat → Nat → Nat → Option Nat
  | 0, _, _ => none
  | n + 1, nxt, o =>
    if nxt = 17 then some o
    else if nxt = 0 ∨ nxt = 43 ∨ nxt = 60 then udpAt6 ip n (fbe ip o 1) (o + 8 * (fbe ip (o + 1) 1 + 1))
    else if nxt = 44 ∧ fbe ip (o + 2) 2 / 8 = 0 then udpAt6 ip n (fbe ip o 1) (o + 8)
    else none

/-- The UDP datagram that a frame's body carries at offset off, if it is one. -/
def udpOf (b : List Byte) (h : EthHdr) : Option UdpPkt :=
  let ip := b.drop h.off
  let mk := fun (v6 : Bool) (uo : Nat) (src dst : Nat) (ipOk : Bool) (hop : Nat) =>
    let n := fbe ip (uo + 4) 2
    let u := (ip.drop uo).take n
    let ck := fbe u 6 2
    let good := fold16 (pseudoSum v6 ip 17 n + sum16 u) == 65535
    (⟨v6, !v6 || uo == 40, src, dst, fbe u 0 2, fbe u 2 2, u.drop 8, h.off + uo, ipOk && Nat.ble 8 n && n == u.length,
      if ck = 0 then !v6 else good, hop⟩ : UdpPkt)
  if h.etype = 0x0800 then
    let ihl := fbe ip 0 1 % 16
    if fbe ip 0 1 / 16 = 4 ∧ fbe ip 9 1 = 17 then
      some (mk false (4 * ihl) (fbe ip 12 4) (fbe ip 16 4)
        (ihl == 5 && fbe ip 6 2 % 16384 == 0 && fold16 (sum16 (ip.take 20)) == 65535) (fbe ip 8 1))
    else none
  else if h.etype = 0x86DD then
    if fbe ip 0 1 / 16 = 6 then (udpAt6 ip 8 (fbe ip 6 1) 40).map (fun o => mk true o (fbe ip 8 16) (fbe ip 24 16) (o == 40) (fbe ip 7 1)) else none
  else none

/-- A UDP datagram in IPv4 or IPv6: header and payload. The checksum is zero over IPv4 and computed over IPv6, unless `sum`
asks for it over IPv4 too. -/
def udpBuild (v6 : Bool) (src dst sport dport hop dscp ident : Nat) (sum : Bool) (pl : List Byte) : List Byte :=
  let n := 8 + pl.length
  let uh := fun (ck : Nat) => beBytes 2 sport ++ beBytes 2 dport ++ beBytes 2 n ++ beBytes 2 ck
  let nz := fun (k : Nat) => if k = 0 then 65535 else k
  if v6 then
    let ip := beBytes 4 (6 * 2 ^ 28 + dscp * 2 ^ 22) ++ beBytes 2 n ++ [17#8] ++ beBytes 1 hop ++ beBytes 16 src ++ beBytes 16 dst
    ip ++ uh (nz (inetSum (pseudoSum true ip 17 n) (uh 0 ++ pl))) ++ pl
  else
    let h := fun (ck : Nat) => [0x45#8] ++ beBytes 1 (dscp * 4) ++ beBytes 2 (20 + n) ++ beBytes 2 ident ++ [0#8, 0#8]
      ++ beBytes 1 hop ++ [17#8] ++ beBytes 2 ck ++ beBytes 4 src ++ beBytes 4 dst
    let ip := h (inetSum 0 (h 0))
    ip ++ uh (if sum then nz (inetSum (pseudoSum false ip 17 n) (uh 0 ++ pl)) else 0) ++ pl

/-- An Ethernet header: addresses, an optional tag with PCP and VID, EtherType. -/
def ethBuild (da sa : Nat) (tag : Option (Nat × Nat)) (et : Nat) : List Byte :=
  beBytes 6 da ++ beBytes 6 sa ++ (match tag with | some (p, v) => beBytes 2 0x8100 ++ beBytes 2 (p * 8192 + v) | none => [])
    ++ beBytes 2 et

end Sys2Proof.Machine
end

