-- ==== Sys2Proof/Machine/Sieve.lean ====
section
/-!
DEFINITION. Sieve (R340 to R343) and the power arbiter (R345 to R348), with the events of PWR_WARN_N and of an allowance
that passes. Classes of targets: 0 Larder, 1 Cask, 2 Tun.
-/
namespace Sys2Proof.Machine

/-! ## Activities (R340) -/

/-- The master ID of an activity. -/
def masterOf (act : Nat) : Nat :=
  if act < 32 then act % 16
  else match act with
    | 32 => 0x10 | 33 => 0x11 | 34 => 0x12 | 35 => 0x13 | 36 => 0x14 | 37 => 0x17 | 38 => 0x16 | 39 => 0x11 | _ => 0x15

/-- Whether an activity is real-time. -/
def isRt (act : Nat) : Bool := Nat.blt act 16 || (Nat.ble 32 act && Nat.ble act 35)

/-- The power consumer of a best-effort activity (the text before R345). -/
def consumerOf (act : Nat) : Option Nat :=
  if 16 ≤ act ∧ act < 32 then some (act - 16)
  else match act with
    | 36 => some 16 | 37 => some 17 | 38 => some 18 | 39 => some 19 | 40 => some 20 | _ => none

/-! ## Budgets (R341 to R343) -/

/-- Beats granted this period to an activity in a class. -/
def State.svUsed (s : State) (act cls : Nat) : Nat := (assocGet (4 * act + cls) s.fab.used).getD 0

/-- Bit act of FAB_SV_DREW (which = 0), FAB_SV_DEMOTED (1) or FAB_SV_STALLED (2). -/
def svFlag (which act : Nat) : Loc := ⟨0x584020 + 8 * which + 4 * (act / 32), act % 32, 1⟩

/-- n beats are granted to an activity: counted, and by event 0x180 + act. -/
def State.svGrant (s : State) (act cls n : Nat) : State :=
  ({ s with fab := { s.fab with used := assocSet (4 * act + cls) (s.svUsed act cls + n) s.fab.used } }).count (0x180 + act) n

/-- Beats that a best-effort activity may still issue to a class this period; none while Sieve does not act. -/
def State.svRoom (s : State) (act cls : Nat) : Option Nat :=
  if s.sys.dataPlane then some (s.get (R.FAB_SV_BUD.budget act cls) - s.svUsed act cls) else none

/-- Slack beats of a class drawn this period. -/
def State.slackUsed (s : State) (cls : Nat) : Nat := (assocGet cls s.fab.slack).getD 0

/-- n beats of a real-time activity: within the budget, from slack, or demoted (R343). -/
def State.svRt (s : State) (act cls n : Nat) : State :=
  if n = 0 then s
  else if !s.sys.dataPlane then s.svGrant act cls n
  else
    let past := n - min n (s.get (R.FAB_SV_BUD.budget act cls) - s.svUsed act cls)
    let draw := min past (s.get (R.FAB_SV_SLACK.slack cls) - s.slackUsed cls)
    let dem := past - draw
    let s := s.svGrant act cls n
    let s := if draw = 0 then s else
      (({ s with fab := { s.fab with slack := assocSet cls (s.slackUsed cls + draw) s.fab.slack } }).mark (svFlag 0 act)).count 0x34 draw
    if dem = 0 then s
    else
      let s := (s.mark (svFlag 1 act)).count 0x35 dem
      if s.fab.demoted.contains act then s
      else ({ s with fab := { s.fab with demoted := act :: s.fab.demoted } }).raise 2 0xA 4 act

/-- n beats of a best-effort activity are granted; a budget spent sets its bit in FAB_SV_STALLED (R342). -/
def State.svBe (s : State) (act cls n : Nat) : State :=
  let s := s.svGrant act cls n
  if s.svRoom act cls = some 0 then s.mark (svFlag 2 act) else s

/-- n beats of any activity are granted. -/
def State.svCharge (s : State) (act cls n : Nat) : State := if isRt act then s.svRt act cls n else s.svBe act cls n

/-- A best-effort activity has work: its consumer requests at the next boundary (R345). -/
def State.powerWork (s : State) (act : Nat) : State :=
  match consumerOf act with
  | none => s
  | some c => { s with fab := { s.fab with req := s.fab.req ||| BitVec.ofNat 21 (2 ^ c) } }

/-- The activity's consumer is stalled by the power arbiter (R346). -/
def State.powerHeld (s : State) (act : Nat) : Bool :=
  match consumerOf act with
  | none => false
  | some c => s.rawFlag (R.PWRA_GRANT.stalled c)

/-- An activity may issue n beats of a class now: real-time always, best-effort when neither its budget nor its allowance
holds it (R342, R346). -/
def State.mayIssue (s : State) (act cls n : Nat) : Bool :=
  isRt act || (!s.powerHeld act && match s.svRoom act cls with | none => true | some r => Nat.ble n r)

/-- Step 2 of R23 for Sieve: what was granted in the period that ends is shown, the budgets and the pools are whole
again (R341). -/
def sieveRenew (s : State) : State :=
  let shown := fun (s : State) =>
    let s := (s.listed (R.FAB_SV_USED.reg 0 0) 4 164).foldl (fun s i => s.setReg (R.FAB_SV_USED.reg 0 0 + 4 * i) 0) s
    let s := s.fab.used.foldl (fun s u => s.put (R.FAB_SV_USED.used (u.1 / 4) (u.1 % 4)) (min u.2 0xFFFFFF)) s
    [0, 1, 2].foldl (fun s t => s.put (R.FAB_SV_SLACK_USED.used t) (min (s.slackUsed t) 0xFFFFFF)) s
  let s := shown s
  { s with fab := { s.fab with used := [], slack := [], demoted := [] } }

/-! ## The power arbiter -/

/-- Consumer c's cost and its floor in sixteenths, at most 16. -/
def State.cost (s : State) (c : Nat) : Nat := s.get (R.PWRA_CONS.cost c)
def State.floorOf (s : State) (c : Nat) : Nat := min 16 (s.get (R.PWRA_CONS.floor c))

/-- Round 1 of R345: floors, in consumer order. -/
def grantFloors (cost floor : Nat → Nat) (req : Nat → Bool) : List Nat → Nat → List (Nat × Nat) → Nat × List (Nat × Nat)
  | [], pool, g => (pool, g)
  | c :: t, pool, g =>
    if req c then
      let f := min ((cost c * floor c + 15) / 16) pool
      grantFloors cost floor req t (pool - f) (assocSet c f g)
    else grantFloors cost floor req t pool g

/-- Round 2 of R345: round robin from start; the first consumer cut short becomes the next start. -/
def grantRobin (cost : Nat → Nat) (req : Nat → Bool) :
    List Nat → Nat → List (Nat × Nat) → Option Nat → Nat × List (Nat × Nat) × Option Nat
  | [], pool, g, cut => (pool, g, cut)
  | c :: t, pool, g, cut =>
    if req c then
      let have_ := (assocGet c g).getD 0
      let w := min (cost c - have_) pool
      let cut := if w < cost c - have_ && cut.isNone then some c else cut
      grantRobin cost req t (pool - w) (assocSet c (have_ + w) g) cut
    else grantRobin cost req t pool g cut

/-- Step 2 of R23 for the arbiter: the grants of R345, the requests of the period that ends consumed, every consumer with an
allowance running (R346). (DEDUCED, log entry 15.) -/
def powerGrant (s : State) : State :=
  let total := s.get ⟨0x588000, 0, 13⟩ - s.get ⟨0x588004, 0, 13⟩
  let pool0 := if s.fab.warn then total / 2 else total
  let req := fun c => s.fab.req.getLsbD c
  let ids := List.range 21
  let (pool1, g1) := grantFloors s.cost s.floorOf req ids pool0 []
  let (_, g2, cut) := grantRobin s.cost req (ids.map (fun i => (s.fab.start + i) % 21)) pool1 g1 none
  let s1 := ids.foldl (fun (s : State) c =>
    let g := (assocGet c g2).getD 0
    let k := if s.cost c = 0 then 16 else if req c then 16 * g / s.cost c else 0
    s.setReg (R.PWRA_GRANT.reg c) (BitVec.ofNat 32 (g + k * 2 ^ 13 + bit (k == 0) * 2 ^ 18))) s
  ({ s1 with fab := { s1.fab with req := 0, start := cut.getD s.fab.start } }).put R.PWRA_STAT.pool pool0

/-- The checks of R348 when the data plane starts: whether the reservation fits the budget, over_rt and the faults. -/
def powerStart (s : State) : Bool × State :=
  let b := s.get ⟨0x588000, 0, 13⟩
  let r := s.get ⟨0x588004, 0, 13⟩
  let s := s.put R.PWRA_STAT.over_rt (bit (b < r))
  if b < r then (false, s.raise 3 0xA 6 0)
  else
    let floors := (List.range 21).foldl (fun n c => n + (s.cost c * s.floorOf c + 15) / 16) 0
    (true, if (b - r) / 2 < floors then s.raise 1 0xA 7 0 else s)

/-- ALLOWANCE_EXPIRY (R346): a consumer whose allowance is below 16 sixteenths stalls when it has passed; an exempt one has
16. -/
def execAllowanceExpiry (c : Fin 21) (s : State) : Host.Outcome State Fault Refusal :=
  Cmd.run (fun s =>
    if s.cost c.val = 0 || 16 ≤ s.get (R.PWRA_GRANT.allow c.val) then s else s.mark (R.PWRA_GRANT.stalled c.val)) s

/-- Sixteenths of the current period that have passed. -/
def State.sixteenths (s : State) : Nat := (s.sys.et % s.perVco) * 16 / s.perVco

/-- PWR_WARN_ASSERT (R347): every allowance of the period is halved, a consumer whose new allowance has passed stalls, the
pool is halved, warn_evt and warns say so, and a class-1 fault is raised. An exempt consumer stays at 16. -/
def execPwrWarnAssert (s : State) : Host.Outcome State Fault Refusal :=
  Cmd.run (fun s =>
    if s.fab.warn then s
    else
      let now := s.sixteenths
      let s := (List.range 21).foldl (fun (s : State) c =>
        if s.cost c = 0 then s
        else
          let k := s.get (R.PWRA_GRANT.allow c) / 2
          let s := s.put (R.PWRA_GRANT.allow c) k
          if k ≤ now then s.mark (R.PWRA_GRANT.stalled c) else s) s
      let s := { s with fab := { s.fab with warn := true } }
      let s := (s.mark R.PWRA_STAT.warn).mark R.PWRA_STAT.warn_evt
      let s := (s.bump R.PWRA_STAT.warns).put R.PWRA_STAT.pool (s.get R.PWRA_STAT.pool / 2)
      s.raise 1 0xA 5 0) s

/-- PWR_WARN_DEASSERT (R347): the allowances stay as they are until the next boundary. -/
def execPwrWarnDeassert (s : State) : Host.Outcome State Fault Refusal :=
  Cmd.run (fun s => ({ s with fab := { s.fab with warn := false } }).unmark R.PWRA_STAT.warn) s

end Sys2Proof.Machine
end

