-- ==== Sys2Proof/Machine/Cask.lean ====
section
/-!
DEFINITION. Cask (chapter 13): layout and address hash, errors and scrubbing, lines, captures and playbacks, admission.
Cask offset o is fabric address caskBase + o.
-/
namespace Sys2Proof.Machine

/-! ## Layout (R312, R313, R316 to R318) -/

/-- Channel k is present and enabled (R312, R314). -/
def State.caskEn (s : State) (k : Nat) : Bool := Nat.blt k s.sys.fuses.cask && s.rawFlag ⟨R.CASK_CFG.reg, 5 + k, 1⟩

/-- Channel k runs (CASK_STAT.ready). -/
def State.caskRun (s : State) (k : Nat) : Bool := s.rawFlag ⟨R.CASK_STAT.reg, k, 1⟩

/-- Inline ECC is enabled (R317). -/
def State.caskEcc (s : State) : Bool := s.rawFlag R.CASK_CFG.ecc_en

/-- The density C of a channel in bytes (R313). -/
def State.caskC (s : State) : Nat := 2 ^ (30 + s.get R.CASK_CFG.density)

/-- The space S that a channel offers (R316). -/
def State.caskS (s : State) : Nat := if s.caskEcc then 7 * s.caskC / 8 else s.caskC

/-- MT/s (R313). -/
def State.caskSpeed (s : State) : Nat := [3200, 4266, 5500, 6400].getD (s.get R.CASK_CFG.speed) 6400

/-- Channel k has failed its training (CASK_STAT.train_fail). -/
def State.caskFailed (s : State) (k : Nat) : Bool := s.rawFlag ⟨R.CASK_STAT.reg, 2 + k, 1⟩

/-- The channels that share the Cask space: those enabled that have not failed their training (R314, R316). (DEDUCED, log entry 9.) -/
def State.caskChans (s : State) : List Nat := [0, 1].filter (fun k => s.caskEn k && !s.caskFailed k)

/-- seed[15]: the channel of half 0 (R316). -/
def State.caskFlip (s : State) : Nat := s.get ⟨R.CASK_CFG.reg, 31, 1⟩

/-- The channel, of those that share the space, that holds Cask offset o, and the channel-local offset (R316). -/
def State.caskIn (s : State) (chans : List Nat) (o : Nat) : Option (Nat × Nat) :=
  match chans with
  | [] => none
  | [k] => if o < s.caskS then some (k, o) else none
  | _ => if o < s.caskS then some (s.caskFlip, o) else if o < 2 * s.caskS then some (1 - s.caskFlip, o - s.caskS) else none

/-- The place of Cask offset o. -/
def State.caskPlaceOf (s : State) (o : Nat) : Option (Nat × Nat) := s.caskIn s.caskChans o

/-- The running channel that holds Cask offset o; none is undecoded (R314, R316). -/
def State.caskChan (s : State) (o : Nat) : Option Nat :=
  match s.caskPlaceOf o with
  | some (k, _) => if s.caskRun k then some k else none
  | none => none

/-- The Cask offset of channel k's local offset x. -/
def State.caskOff (s : State) (k x : Nat) : Nat :=
  match s.caskChans with
  | [_, _] => if k = s.caskFlip then x else s.caskS + x
  | _ => x

/-- The physical granule of data granule g, and that of its check granule (R317). -/
def caskPhys (ecc : Bool) (g : Nat) : Nat := if ecc then g / 7 * 8 + g % 7 else g
def caskCheckPhys (g : Nat) : Nat := g / 7 * 8 + 7

/-- Bank and position within the bank of physical granule v (R318). -/
def caskHash (v seed : Nat) : Nat × Nat :=
  let h := Nat.xor (v / 256 % 32768) (seed % 32768)
  let f := Nat.xor (Nat.xor (h % 16) (h / 16 % 16)) (Nat.xor (h / 256 % 16) (h / 4096 % 8))
  (Nat.xor (v / 16 % 16) f, v / 256 * 16 + v % 16)

/-- CASK_SIZE: what the running channels offer, in MiB (R316). -/
def caskSized (s : State) : State :=
  s.put R.CASK_SIZE.mib (([0, 1].filter s.caskRun).length * s.caskS / 2 ^ 20)

/-! ## Errors (R319, R320) -/

/-- Who reads a granule (R320). -/
inductive CaskAcc where
  | play | rtDma | bestEffort | scrub
  deriving DecidableEq, Repr

/-- The key under which an error of a data granule, or of the check granule of group n of channel k, stands in
`fab.upsets`: its address divided by 8. Check granules have no fabric address and stand above 2^40. (DEDUCED, log entry 9.) -/
def caskKey (o : Nat) : Nat := (caskBase + o / 64 * 64) / 8
def caskCheckKey (k n : Nat) : Nat := (2 ^ 40 + k * 2 ^ 34 + n * 64) / 8

/-- An error strikes the word or granule of a fabric address: a second one in a word is uncorrectable. Cask without ECC
holds no error: its data is changed to a free byte. (DESIGN CHOICE, log entry 8.) -/
def strike (s : State) (a : Nat) (hard : Bool) : State :=
  let inCask := Nat.ble caskBase a && Nat.blt a (2 ^ 40)
  if inCask && !s.caskEcc then
    let (b, s) := s.freeByte
    s.pokeByte a b
  else
    let w := if Nat.ble caskBase a then a / 64 * 8 else a / 8
    match s.fab.upsets.find? (fun u => u.word == w) with
    | none => { s with fab := { s.fab with upsets := ⟨w, hard⟩ :: s.fab.upsets } }
    | some u => { s with fab := { s.fab with upsets := ⟨w, true⟩ :: s.fab.upsets.filter (· != u) } }

/-- Errors strike memory before an access. -/
def strikes (s : State) (l : List (Nat × Bool)) : State := l.foldl (fun s p => strike s p.1 p.2) s

/-- A corrected error of channel k (R319): counted, logged, and a fault of its own when 256 fall within 1 s. -/
def caskCorrected (s : State) (k : Fin 2) (o : Nat) : State :=
  let s := ((s.bump (R.CASK_ECC_CORR.count k.val)).count (0xA0 + 16 * k.val + 8) 1).raise 0 9 4 (o / 64)
  let l := (s.sys.up :: s.cask.corrUp[k]).take 256
  let s := { s with cask := { s.cask with corrUp := s.cask.corrUp.set k l } }
  if l.length = 256 ∧ s.sys.up ≤ (l.getLast?.getD 0) + 1000 * msVco then s.raise 1 9 5 k.val else s

/-- An uncorrectable granule of channel k at offset o (R320): counted, its address recorded, and a fault by who reads. -/
def caskUncorrectable (s : State) (k : Fin 2) (o : Nat) (who : CaskAcc) : State :=
  let s := s.bump (R.CASK_ECC_UNCORR.count k.val)
  let s := (s.setReg 0x500038 (BitVec.ofNat 32 (o / 64 * 64))).setReg 0x50003C (BitVec.ofNat 32 (o / 64 * 64 / 2 ^ 32 + 2 ^ 31))
  match who with
  | .play | .rtDma => ({ s with cask := { s.cask with rtErr := true } }).raise 2 9 6 k.val
  | _ => s.raise 1 9 7 k.val

/-- A read of the granule at Cask offset o finds its errors and those of its check granule; whether its data stands
(R319, R320). -/
def caskCheck (s : State) (k : Fin 2) (o x : Nat) (who : CaskAcc) : Bool × State :=
  if !s.caskEcc || s.fab.upsets.isEmpty then (true, s)
  else
    let hits := s.fab.upsets.filter (fun u => u.word == caskKey o || u.word == caskCheckKey k.val (x / 64 / 7))
    if hits.any (·.hard) then (false, caskUncorrectable s k o who)
    else if hits.isEmpty then (true, s)
    else (true, caskCorrected { s with fab := { s.fab with upsets := s.fab.upsets.filter (fun u => !hits.contains u) } } k o)

/-- The row events of a granule access: hit or miss, and waits for a bank, which depend on timing (R433); free values. (DESIGN CHOICE, log entry 11.) -/
def caskRow (s : State) (k : Nat) : State :=
  if !s.rawFlag R.PERF_CTRL.run then s
  else
    let (n, s) := s.freeNat
    let (w, s) := s.freeNat
    (s.count (0xA2 + 16 * k + n % 2) 1).count (0xA4 + 16 * k) w

/-- A read of the 64 bytes of the granule at Cask offset o, as who reads receives them; none where nothing decodes. -/
def caskGranule (s : State) (o : Nat) (who : CaskAcc) : Option (List Byte × State) :=
  match s.caskPlaceOf o with
  | none => none
  | some (k, x) =>
    if !s.caskRun k then none
    else
      let o := o / 64 * 64
      let raw := (List.range 64).map (fun i => Sparse.get (w := 8) memDflt s.mem (caskBase + o + i))
      let (good, s) := caskCheck s (Fin.ofNat 2 k) o x who
      let s := ((caskRow s k).count (0xA0 + 16 * k) 1).bwAdd (16 + k) 64
      some (if good then raw else List.replicate 64 0, s)

/-- Bytes put into the granule at Cask offset o (64-byte aligned): a whole granule with fresh check bits; a part is merged
into the granule as it is read, into zeros when that read fails (R317, R320). -/
def caskPut (s : State) (o : Nat) (bytes : List (Option Byte)) (who : CaskAcc) : State :=
  match s.caskPlaceOf o with
  | none => s
  | some (k, x) =>
    if !s.caskRun k then s
    else
      let whole := bytes.length == 64 && bytes.all (·.isSome)
      let (good, s) := if whole then (true, s) else caskCheck s (Fin.ofNat 2 k) o x who
      let s := { s with fab := { s.fab with upsets := s.fab.upsets.filter (fun u => u.word != caskKey o) } }
      let s := if good then s else s.poke (caskBase + o) (List.replicate 64 0)
      let s := (bytes.zipIdx).foldl (fun s b => match b.1 with | some v => s.pokeByte (caskBase + o + b.2) v | none => s) s
      ((caskRow s k).count (0xA1 + 16 * k) 1).bwAdd (18 + k) 64

/-! ## Lines (R322, R323, R326) -/

/-- The lines with en = 1, rising. -/
def State.linesEn (s : State) : List Nat :=
  (s.listed (R.CASK_LINE_W0.reg 0) 16 4096).filter (fun l => s.flag (R.CASK_LINE_W0.en l))

/-- A line's first byte, its length in samples, and the end of its region. -/
def State.lineBase (s : State) (l : Nat) : Nat := 64 * s.get (R.CASK_LINE_W0.base l)
def State.lineLen (s : State) (l : Nat) : Nat := s.get (R.CASK_LINE_W1.len l)
def State.lineEnd (s : State) (l : Nat) : Nat := s.lineBase l + 4 * s.lineLen l

/-- The lines in use: enabled and not treated as disabled. -/
def State.lines (s : State) : List Nat := s.linesEn.filter (fun l => !s.rawFlag (R.CASK_LINE_W2.rejected l))

/-- The line of capture kind that holds Cask offset o, if any (R326). (DEDUCED, log entry 17.) -/
def State.captureLineAt (s : State) (o : Nat) : Option Nat :=
  s.lines.find? (fun l => s.get (R.CASK_LINE_W0.writer l) == 1 && Nat.ble (s.lineBase l) o && Nat.blt o (s.lineEnd l))

/-- The Cask offset of sample index x of line l (R323). -/
def State.lineOff (s : State) (l : Nat) (x : Int) : Nat :=
  s.lineBase l + 4 * (if s.lineLen l = 0 then 0 else (x % (s.lineLen l : Int)).toNat)

/-- Whether a line breaks R322, given the lines before it that stand. -/
def lineBad (s : State) (l : Nat) (before : List Nat) : Bool :=
  let b := s.lineBase l
  let e := s.lineEnd l
  let two := s.caskChans.length == 2
  Nat.blt (s.caskChans.length * s.caskS) e || (two && Nat.blt b s.caskS && Nat.blt s.caskS e)
    || before.any (fun m => Nat.blt b (s.lineEnd m) && Nat.blt (s.lineBase m) e)
    || Nat.blt (s.lineLen l) 64 || s.lineLen l % 16 != 0

/-- A rejection: CASK_STAT.rejects and fault 0x08 with the number and the kind (R413). -/
def caskReject (s : State) (kind n : Nat) : State := (s.mark R.CASK_STAT.rejects).raise 1 9 8 (n + kind * 4096)

/-- The examination of the enabled lines in ascending number (R322). -/
def checkLines (s : State) : List Nat → List Nat → State
  | [], _ => s
  | l :: t, ok =>
    let s := s.put (R.CASK_LINE_W2.chan l) (((s.caskPlaceOf (s.lineBase l)).map (·.1)).getD 0)
    if lineBad s l ok then checkLines (caskReject (s.mark (R.CASK_LINE_W2.rejected l)) 0 l) t ok
    else checkLines s t (l :: ok)

/-! ## Capture and playback (R324, R325) -/

/-- The enabled capture and playback channels, rising. -/
def State.capsEn (s : State) : List Nat :=
  (s.listed (R.CASK_CAP.reg 0) 4 256).filter (fun c => s.flag (R.CASK_CAP.en c))
def State.playsEn (s : State) : List Nat :=
  (s.listed (R.CASK_PLAY.reg 0) 8 256).filter (fun c => s.flag (R.CASK_PLAY.en c))

/-- The capture channels in use. -/
def State.caps (s : State) : List Nat := s.capsEn.filter (fun c => !s.flag (R.CASK_CAP.rejected c))

/-- The playback channels in use: enabled, their line in use. -/
def State.plays (s : State) : List Nat :=
  let ls := s.lines
  s.playsEn.filter (fun c => ls.contains (s.get (R.CASK_PLAY.line c)))

/-- A playback channel's delay, cut to 3N + 15 … len − N (R325). -/
def State.playDelay (s : State) (c : Nat) : Int :=
  max (3 * s.nSamp + 15 : Int) (min (s.get (R.CASK_PLAY_DLY.d c)) ((s.lineLen (s.get (R.CASK_PLAY.line c)) : Int) - s.nSamp))

/-- The examination of the capture channels (R324). -/
def checkCaps (s : State) : List Nat → List Nat → State
  | [], _ => s
  | c :: t, taken =>
    let l := s.get (R.CASK_CAP.line c)
    if !s.lines.contains l || s.get (R.CASK_LINE_W0.writer l) != 1 || taken.contains l then
      checkCaps (caskReject (s.mark (R.CASK_CAP.rejected c)) 1 c) t taken
    else checkCaps s t (l :: taken)

/-- The examination of the playback channels (R325). -/
def checkPlays (s : State) : List Nat → State
  | [] => s
  | c :: t =>
    if !s.lines.contains (s.get (R.CASK_PLAY.line c)) then checkPlays (s.mark (R.CASK_PLAY.rejected c)) t
    else if s.playDelay c != (s.get (R.CASK_PLAY_DLY.d c) : Int) then
      checkPlays (caskReject (s.mark (R.CASK_PLAY.rejected c)) 2 c) t
    else checkPlays s t

/-- The channel of a line. -/
def State.lineChan (s : State) (l : Nat) : Nat := s.get (R.CASK_LINE_W2.chan l)

/-- need of channel k (R328). -/
def caskNeed (s : State) (k : Nat) : Nat :=
  let w := if s.caskEcc then 3 else 1
  let r := if s.caskEcc then 2 else 1
  let g := (s.nSamp + 15) / 16
  let nc := (s.caps.filter (fun c => s.lineChan (s.get (R.CASK_CAP.line c)) == k)).length
  let np := (s.plays.filter (fun c => s.lineChan (s.get (R.CASK_PLAY.line c)) == k)).length
  s.get (R.CASK_RT_DECL.rt_decl k) + nc * g * w + np * g * r

/-- cap (R328): ⌊speed × T ÷ 64,000⌋ with T in ns. -/
def caskCap (s : State) : Nat := s.caskSpeed * s.perVco * 3125 / (6144 * 64000)

/-- The image uses channel k: an enabled line lies in it, as the enabled channels lay out the space, or real-time traffic is declared
(R314). -/
def caskUsed (s : State) (k : Nat) : Bool :=
  s.get (R.CASK_RT_DECL.rt_decl k) != 0
    || s.linesEn.any (fun l => (s.caskIn ([0, 1].filter s.caskEn) (s.lineBase l)).map (·.1) == some k)

/-- The failed channels that the image uses: the data plane does not start (R314). -/
def State.caskLost (s : State) : List Nat := [0, 1].filter (fun k => s.caskFailed k && caskUsed s k)

/-- The start checks of Cask (R314, R322, R324, R325, R328). False: the data plane does not start. -/
def caskStart (s : State) : Bool × State :=
  let clr := fun (base stride n lo : Nat) (s : State) =>
    (s.listed base stride n).foldl (fun (s : State) i => s.unmark ⟨base + stride * i, lo, 1⟩) s
  let s := clr (R.CASK_LINE_W2.reg 0) 16 4096 0 s
  let s := clr (R.CASK_CAP.reg 0) 4 256 13 s
  let s := clr (R.CASK_PLAY.reg 0) 8 256 13 s
  let s := checkLines s s.linesEn []
  let s := checkCaps s s.capsEn []
  let s := checkPlays s s.playsEn
  let s := s.unmark R.CASK_STAT.over_rt
  let (past, s) := ([0, 1].filter s.caskRun).foldl (fun (acc : Bool × State) k =>
    let s := acc.2
    let need := caskNeed s k
    let s := s.setReg (R.CASK_RT_NEED.reg k) (BitVec.ofNat 32 (min need 65535 + min (caskCap s) 65535 * 65536))
    if caskCap s < need then (true, (s.mark R.CASK_STAT.over_rt).raise 3 9 0xA k) else (acc.1, s)) (false, s)
  let lost := s.caskLost
  let s := lost.foldl (fun s k => s.raise 3 9 1 k) s
  let go := !past && lost.isEmpty
  (go, { s with cask := { s.cask with rt := go, cap := [], play := [] } })

/-- A capture channel collects the destination sample of grid sample m (R324). -/
def capPush (s : State) (c : Nat) (m v : Int) : State :=
  let x0 := m - m % 16
  let i := (m % 16).toNat
  let w : Option Word := some (BitVec.ofInt 32 v)
  let l := s.cask.cap
  let l := if l.any (fun g => g.ch == c && g.x0 == x0) then l else l ++ [⟨c, x0, List.replicate 16 none, false⟩]
  let l := l.map (fun g => if g.ch == c && g.x0 == x0 then { g with words := g.words.set i w } else g)
  { s with cask := { s.cask with cap := l } }

/-- A granule with its last sample collected. -/
def CapGranule.full (g : CapGranule) : Bool := (g.words.getD 15 none).isSome

/-- The words of a granule; a sample that was not collected is a free word. (DESIGN CHOICE, log entry 13.) -/
def capWords (s : State) : List (Option Word) → List Byte × State
  | [] => ([], s)
  | w :: t =>
    let (v, s) : Word × State := match w with | some v => (v, s) | none => s.freeWord
    let (r, s) := capWords s t
    (leBytes 4 v.toNat ++ r, s)

/-- CAPTURE_WRITE (R324): the oldest complete granule of the channel is written whole. -/
def execCaptureWrite (c : Fin 256) (s : State) : Host.Outcome State Fault Refusal :=
  Cmd.run (fun s =>
    match s.cask.cap.find? (fun g => g.ch == c.val && g.full) with
    | none => s
    | some g =>
      let (bs, s) := capWords s g.words
      let s := { s with cask := { s.cask with cap := s.cask.cap.filter (· != g) } }
      let s := s.svCharge 34 1 1
      caskPut s (s.lineOff (s.get (R.CASK_CAP.line c.val)) g.x0) (bs.map some) .bestEffort) s

/-- A late event of the channel that holds line l (R330). -/
def caskLate (s : State) (l : Nat) : State :=
  let k := s.lineChan l
  ((s.bump (R.CASK_LATE.count k)).count (0xA0 + 16 * k + 9) 1).raise 2 9 0xB k

/-- A capture granule not written by its deadline: it still completes. -/
def capLate (s : State) (g : CapGranule) : State :=
  caskLate { s with cask := { s.cask with cap := s.cask.cap.map (fun x => if x = g then { x with late := true } else x) } }
    (s.get (R.CASK_CAP.line g.ch))

/-- CAPTURE_LATE (R330). -/
def execCaptureLate (c : Fin 256) (s : State) : Host.Outcome State Fault Refusal :=
  Cmd.run (fun s =>
    match s.cask.cap.find? (fun g => g.ch == c.val && g.full && !g.late) with
    | none => s
    | some g => capLate s g) s

/-- The granules whose x0 + d lies from lo up to hi − 1 are to be fetched; their words are read as they stand now (R325). -/
def playLatch (s : State) (lo hi : Int) : State :=
  s.plays.foldl (fun s c =>
    let d := s.playDelay c
    let l := s.get (R.CASK_PLAY.line c)
    (List.range (hi - lo).toNat).foldl (fun (s : State) (i : Nat) =>
      let x0 := lo + (i : Int) - d
      if x0 % 16 != 0 then s
      else
        let o := s.lineOff l x0
        let ws := (List.range 16).map (fun j =>
          leWord ((List.range 4).map (fun b => Sparse.get (w := 8) memDflt s.mem (caskBase + o + 4 * j + b))))
        { s with cask := { s.cask with play := s.cask.play ++ [⟨c, x0, o, ws, false⟩] } }) s) s

/-- A granule's words replaced and its fetch ended. -/
def playEnd (s : State) (g : PlayGranule) (ws : List Word) : State :=
  { s with cask := { s.cask with play := s.cask.play.map (fun x => if x = g then { x with words := ws, done := true } else x) } }

/-- PLAYBACK_FETCH (R325, R320). -/
def execPlaybackFetch (c : Fin 256) (struck : List (Nat × Bool)) (s : State) : Host.Outcome State Fault Refusal :=
  Cmd.run (fun s =>
    let s := strikes s struck
    match s.cask.play.find? (fun g => g.ch == c.val && !g.done) with
    | none => s
    | some g =>
      let s := s.svCharge 34 1 1
      match s.caskPlaceOf g.off with
      | none => playEnd s g (List.replicate 16 0)
      | some (k, x) =>
        if !s.caskRun k then playEnd s g (List.replicate 16 0)
        else
          let (good, s) := caskCheck s (Fin.ofNat 2 k) g.off x .play
          let s := ((caskRow s k).count (0xA0 + 16 * k) 1).bwAdd (16 + k) 64
          playEnd s g (if good then g.words else List.replicate 16 0)) s

/-- A playback granule that is not there in time reads zero (R330). -/
def playLate (s : State) (g : PlayGranule) : State :=
  caskLate (playEnd s g (List.replicate 16 0)) (s.get (R.CASK_PLAY.line g.ch))

/-- PLAYBACK_LATE (R330). -/
def execPlaybackLate (c : Fin 256) (s : State) : Host.Outcome State Fault Refusal :=
  Cmd.run (fun s =>
    match s.cask.play.find? (fun g => g.ch == c.val && !g.done) with
    | none => s
    | some g => playLate s g) s

/-- What playback channel c supplies in forming the destination samples of grid sample m (R325); `ended`: of a granule whose fetch has not
ended, nothing. -/
def caskPlaySample (s : State) (c : Nat) (m : Int) (ended : Bool) : Int :=
  let x := m - s.playDelay c
  match s.cask.play.find? (fun g => g.ch == c && (g.done || !ended) && g.x0 == x - x % 16) with
  | some g => (g.words.getD (x % 16).toNat 0).toInt
  | none => 0

/-- The samples of Cask source i in the pass under way. -/
def caskVec (s : State) (i : Nat) (ended : Bool) : List Int :=
  (List.range s.nSamp).map (fun j => caskPlaySample s (i - 0x1B00) (((s.pn + 2) * s.nSamp + j : Nat) : Int) ended)

/-- The boundary that starts period q: what is overdue is late (R330), what is past is dropped, what is read now is read
(R325). -/
def caskBoundary (s : State) (q : Int) (first : Bool) : State :=
  if !s.cask.rt then s
  else
    let n : Int := s.nSamp
    let s := s.cask.play.foldl (fun (s : State) g =>
      if !g.done && decide ((g.x0 + s.playDelay g.ch) / n - 1 ≤ q) then playLate s g else s) s
    let s := s.cask.cap.foldl (fun (s : State) g =>
      if g.full && !g.late && decide ((g.x0 + 15) / n ≤ q) then capLate s g else s) s
    let rest := s.cask.play.filter (fun g => decide (q + 2 ≤ (g.x0 + 15 + s.playDelay g.ch) / n))
    let s := { s with cask := { s.cask with play := rest } }
    playLatch s (if first then (q + 2) * n - 15 else (q + 3) * n) ((q + 4) * n)

/-! ## Training, fill, maintenance, scrubbing -/

/-- CASK_TRAINING_DONE (R314): the channel runs, or fails with a class-3 fault when it is in use and a class-1 one when it
is not. Without ECC the regions of enabled lines are written with zero (R317). -/
def execCaskTrainingDone (k : Fin 2) (ok : Bool) (s : State) : Host.Outcome State Fault Refusal :=
  Cmd.run (fun s =>
    if !s.caskEn k.val || s.caskRun k.val then s
    else if ok then
      let s := caskSized (s.mark ⟨R.CASK_STAT.reg, k.val, 1⟩)
      if s.caskEcc && !s.boot.waking then s
      else
        let s := { s with cask := { s.cask with filled := s.cask.filled.set k true } }
        if s.boot.waking then s else
        let zero := s.linesEn.filter (fun l => (s.caskPlaceOf (s.lineBase l)).map (·.1) == some k.val)
        { s with mem := s.mem.filter (fun p =>
            !zero.any (fun l => Nat.ble (caskBase + s.lineBase l) p.1 && Nat.blt p.1 (caskBase + s.lineEnd l))) }
    else
      let s := s.mark ⟨R.CASK_STAT.reg, 2 + k.val, 1⟩
      if caskUsed s k.val then s.raise 3 9 1 k.val else s.raise 1 9 2 k.val) s

/-- CASK_ECC_FILL_DONE (R317): the whole channel holds zero with valid check bits. -/
def execCaskEccFillDone (k : Fin 2) (s : State) : Host.Outcome State Fault Refusal :=
  Cmd.run (fun s =>
    if !s.caskRun k.val || !s.caskEcc then s
    else
      let lo := caskBase + s.caskOff k.val 0
      let hi := lo + s.caskS
      { s with
        cask := { s.cask with filled := s.cask.filled.set k true }
        mem := s.mem.filter (fun p => Nat.blt p.1 lo || Nat.ble hi p.1)
        fab := { s.fab with upsets := s.fab.upsets.filter (fun u =>
          (Nat.blt (u.word * 8) lo || Nat.ble hi (u.word * 8))
            && (Nat.blt (u.word * 8) (2 ^ 40 + k.val * 2 ^ 34) || Nat.ble (2 ^ 40 + (k.val + 1) * 2 ^ 34) (u.word * 8))) } }) s

/-- CASK_REFRESH (R315): a refresh command, seen by event 5 of the channel alone. -/
def execCaskRefresh (k : Fin 2) (s : State) : Host.Outcome State Fault Refusal :=
  Cmd.run (fun s => if s.caskRun k.val && !s.cask.selfRefresh then s.count (0xA0 + 16 * k.val + 5) 1 else s) s

/-- CASK_TEMP_POLL (R315): the multiplier the device asks for applies; beyond 4× sets hot with a class-2 fault. hot falls
once no running channel needs more. (DEDUCED, log entry 10.) -/
def execCaskTempPoll (k : Fin 2) (quarters : Nat) (s : State) : Host.Outcome State Fault Refusal :=
  Cmd.run (fun s =>
    if !s.caskRun k.val || s.cask.selfRefresh then s
    else
      let s := { s with cask := { s.cask with mult := s.cask.mult.set k quarters } }
      let hot := [0, 1].any (fun j => s.caskRun j && Nat.blt 16 (s.cask.mult.toList.getD j 4))
      let s := s.put R.CASK_STAT.hot (bit hot)
      if 16 < quarters then s.raise 2 9 3 k.val else s) s

/-- CASK_RETRAIN (R315): maintenance that changes nothing a command can see. -/
def execCaskRetrain (_ : Fin 2) (s : State) : Host.Outcome State Fault Refusal := Cmd.run id s

/-- CASK_ZQ_CAL (R315): maintenance that changes nothing a command can see. -/
def execCaskZqCal (_ : Fin 2) (s : State) : Host.Outcome State Fault Refusal := Cmd.run id s

/-- The scrubber's read of physical granule v of channel k: a data granule, or a check granule of its own (R319, R321). -/
def scrubOne (s : State) (k : Fin 2) (v : Nat) : State :=
  if s.caskEcc && v % 8 == 7 then
    match s.fab.upsets.find? (fun u => u.word == caskCheckKey k.val (v / 8)) with
    | none => s
    | some u =>
      let o := s.caskOff k.val (v / 8 * 7 * 64)
      if u.hard then caskUncorrectable s k o .scrub
      else caskCorrected { s with fab := { s.fab with upsets := s.fab.upsets.filter (· != u) } } k o
  else
    let x := (if s.caskEcc then v / 8 * 7 + v % 8 else v) * 64
    (caskCheck s k (s.caskOff k.val x) x .scrub).2

/-- CASK_SCRUB_READ (R321): the next granule in ascending physical order; a pass is complete when every running channel has
been read through. -/
def execCaskScrubRead (k : Fin 2) (struck : List (Nat × Bool)) (s : State) : Host.Outcome State Fault Refusal :=
  Cmd.run (fun s =>
    let s := strikes s struck
    let last := s.caskC / 64
    if !s.caskRun k.val || s.cask.selfRefresh || s.get R.CASK_SCRUB.scrub_h = 0 || last ≤ s.cask.scrubAt[k] then s
    else
      let s := (scrubOne s k s.cask.scrubAt[k]).count (0xA0 + 16 * k.val + 10) 1
      let s := { s with cask := { s.cask with scrubAt := s.cask.scrubAt.set k (s.cask.scrubAt[k] + 1) } }
      if [0, 1].all (fun j => !s.caskRun j || Nat.ble last (s.cask.scrubAt.toList.getD j 0)) then
        ({ s with cask := { s.cask with scrubAt := Vector.replicate 2 0 } }).bump R.CASK_SCRUB.passes
      else s) s

/-- Entering STANDBY: every running channel is held in self-refresh; leaving it, each retrains before it runs (R315). -/
def caskSleep (s : State) : State :=
  if [0, 1].any s.caskRun then
    let s := caskSized (s.put R.CASK_STAT.ready 0)
    { s with cask := { s.cask with selfRefresh := true, rt := false } }
  else s

/-- Channel k is still to be trained or filled: enabled, not failed, not yet running with its fill done (R382). -/
def State.caskPending (s : State) (k : Nat) : Bool :=
  s.caskEn k && !s.rawFlag ⟨R.CASK_STAT.reg, 2 + k, 1⟩ && !(s.caskRun k && s.cask.filled.toList.getD k true)

/-- A wake: self-refresh ends; the channels train again (R315, R386). -/
def caskWake (s : State) : State := { s with cask := { s.cask with selfRefresh := false } }

end Sys2Proof.Machine
end

