-- ==== Sys2Proof/Machine/CoreOps.lean ====
section
/-!
DEFINITION. How a Stoteter core issues: the register banks and control registers (R94 to R98), results on their way
(R103), the view an instruction reads its operands from, groups and their limits (R102), the Tun ports and fabric cycles
(R100, R101), delay slots, loops, events and faults (R105, R117 to R124).
A core instruction's command is one word of a group; the group issues with its last word.
-/
namespace Sys2Proof.Machine

/-! ## Banks and control registers -/

/-- The bank in use: bank 1 at level 1 (R95). -/
def Core.useBank1 (k : Core) : Bool := k.level == 1

/-- A bank by its number. -/
def Core.bankOf (k : Core) (one : Bool) : Bank := if one then k.bank1 else k.bank0

/-- A bank replaced. -/
def Core.setBank (k : Core) (one : Bool) (b : Bank) : Core := if one then { k with bank1 := b } else { k with bank0 := b }

/-- The bank in use. -/
def Core.bank (k : Core) : Bank := k.bankOf k.useBank1

/-- SR.ie2 of bank 0 (R97, R119). -/
def Core.ie2 (k : Core) : Bool := k.bank0.sr.getLsbD 8

/-- The MVAG word of an accumulator (R110). -/
def Acc.gWord (a : Acc) : Word := BitVec.ofNat 32 (a.acc.toNat / 2 ^ 64 + toU 4 a.wc * 2 ^ 16 + bit a.lost * 2 ^ 20)

/-- A read of control register cr of R96; a reserved number reads zero. -/
def Core.readCr (k : Core) (b : Bank) (cid pnl cr : Nat) : Word :=
  if h : cr < 16 then b.p[cr]
  else if h : cr - 16 < 16 then b.m[cr - 16]
  else if h : cr - 32 < 8 then b.cb[cr - 32]
  else if h : cr - 40 < 8 then b.cl[cr - 40]
  else if h : cr - 48 < 3 then b.lcnt[cr - 48]
  else if h : 52 ≤ cr ∧ cr - 52 < 3 then (b.ltop[cr - 52]'h.2).setWidth 32
  else if h : 56 ≤ cr ∧ cr - 56 < 3 then (b.lend[cr - 56]'h.2).setWidth 32
  else if cr = 0x3B then BitVec.ofNat 32 b.lsp.val
  else if cr = 0x40 then b.sr
  else if cr = 0x41 then k.cr
  else if cr = 0x42 then b.lr.setWidth 32
  else if cr = 0x43 then k.epc1
  else if cr = 0x44 then k.epc2
  else if cr = 0x45 then k.esr2
  else if cr = 0x46 then k.vbase
  else if cr = 0x47 then BitVec.ofNat 32 k.cyc
  else if cr = 0x48 then BitVec.ofNat 32 cid
  else if cr = 0x49 then BitVec.ofNat 32 pnl
  else 0

/-- A write of control register cr of R96 in a bank; a reserved or read-only number is ignored. In bank 1 the ie2 bit of
SR ignores writes (R97). -/
def Core.writeCr (k : Core) (one : Bool) (cr : Nat) (v : Word) : Core :=
  let b := k.bankOf one
  if h : cr < 16 then k.setBank one { b with p := b.p.set cr v }
  else if h : cr - 16 < 16 then k.setBank one { b with m := b.m.set (cr - 16) v }
  else if h : cr - 32 < 8 then k.setBank one { b with cb := b.cb.set (cr - 32) v }
  else if h : cr - 40 < 8 then k.setBank one { b with cl := b.cl.set (cr - 40) v }
  else if h : cr - 48 < 3 then k.setBank one { b with lcnt := b.lcnt.set (cr - 48) v }
  else if h : 52 ≤ cr ∧ cr - 52 < 3 then k.setBank one { b with ltop := b.ltop.set (cr - 52) (v.setWidth 16) h.2 }
  else if h : 56 ≤ cr ∧ cr - 56 < 3 then k.setBank one { b with lend := b.lend.set (cr - 56) (v.setWidth 16) h.2 }
  else if cr = 0x3B then k.setBank one { b with lsp := Fin.ofNat 4 v.toNat }
  else if cr = 0x40 then k.setBank one { b with sr := v &&& (if one then 0xFF#32 else 0x1FF#32) }
  else if cr = 0x41 then { k with cr := v &&& 7#32 }
  else if cr = 0x42 then k.setBank one { b with lr := v.setWidth 16 }
  else if cr = 0x43 then { k with epc1 := v }
  else if cr = 0x44 then { k with epc2 := v }
  else if cr = 0x45 then { k with esr2 := v }
  else k

/-- The four flags put into SR. -/
def srFlags (sr : Word) (z n c v : Bool) : Word :=
  (sr &&& 0xFFFFFFF0#32) ||| BitVec.ofNat 32 (bit z + 2 * bit n + 4 * bit c + 8 * bit v)

/-- One write of a result reaches its bank (R103). -/
def Core.apply (k : Core) (one : Bool) (w : CWrite) : Core :=
  let b := k.bankOf one
  match w with
  | .d n v => k.setBank one { b with d := b.d.set n v }
  | .ctl cr v => k.writeCr one cr v
  | .acc n v _ => k.setBank one { b with a := b.a.set n v }
  | .flags z n c v => k.setBank one { b with sr := srFlags b.sr z n c v }
  | .sticky m => k.setBank one { b with sr := b.sr ||| m }

/-- The results due now are written, in the order of their issue: of two that reach one register in a cycle the one
issued later stands (R103). -/
def landDue (k : Core) : List InFlight → Core
  | [] => k
  | f :: t => landDue (if f.left = 0 then k.apply f.bank1 f.w else k) t

/-- One CLK_DSP cycle passes for a core. -/
def Core.tick (k : Core) : Core :=
  let fl := k.flight.map (fun f => { f with left := f.left - 1 })
  let k := landDue { k with flight := fl.filter (fun f => f.left != 0) } fl
  { k with cyc := k.cyc + 1, stLeft := k.stLeft - 1, sinceBell := k.sinceBell.map (· + 1) }

/-- Every result on its way has landed; no other time is shown. -/
def Core.settled (k : Core) : Core := landDue { k with flight := [] } (k.flight.mergeSort (fun a b => Nat.ble a.left b.left) |>.map (fun f => { f with left := 0 }))

/-- n CLK_DSP cycles pass for a core. -/
def Core.ticks : Nat → Core → Core
  | 0, k => k
  | n + 1, k => Core.ticks n k.tick

/-! ## Operands -/

/-- What an instruction reads: the core at the cycle in which its group issues, and the rest of the engine. -/
structure CView where
  c : Fin 16
  core : Core
  s : State

/-- The bank in use. -/
def CView.bank (v : CView) : Bank := v.core.bank

/-- D register n. -/
def CView.d (v : CView) (n : Fin 32) : Word := v.bank.d[n]

/-- Pointer n. -/
def CView.p (v : CView) (n : Fin 16) : Word := v.bank.p[n]

/-- Modifier n. -/
def CView.m (v : CView) (n : Fin 16) : Word := v.bank.m[n]

/-- Accumulator n as every read but an accumulating instruction's sees it (R104). -/
def CView.a (v : CView) (n : Fin 8) : Acc := v.bank.a[n]

/-- Accumulator n as an accumulating instruction takes it: the result of the last instruction under way that writes it,
when that instruction passes its result on early (R104). -/
def CView.accIn (v : CView) (n : Fin 8) : Acc :=
  let hits := v.core.flight.filterMap (fun f =>
    if f.bank1 == v.core.useBank1 then
      match f.w with
      | .acc m x fwd => if m = n then some (x, fwd) else none
      | _ => none
    else none)
  match hits.getLast? with
  | some (x, true) => x
  | _ => v.a n

/-- The address of the word being added to the group. -/
def CView.addr (v : CView) : Word := v.core.pc + BitVec.ofNat 32 (4 * v.core.group.length)

/-- The words at a local Tun address (R99). -/
def CView.load (v : CView) (ea n : Nat) : List Byte := v.s.memBytes (tunBase v.c.val + ea) n

/-! ## Groups -/

/-- Addresses of the X bank and of the Y bank (R99). -/
def inX (ea : Nat) : Bool := Nat.ble 0x10000 ea && Nat.blt ea 0x28000
def inY (ea : Nat) : Bool := Nat.ble 0x28000 ea && Nat.blt ea 0x40000

/-- The limits of R102 on the unit classes of a group. -/
def classesFit (ws : List WordEff) : Bool :=
  let n := fun u => (ws.filter (fun w => w.cls == u)).length
  let tp := n .tapm
  Nat.ble (n .alu) 2 && Nat.ble (n .ls + 2 * tp) 2 && Nat.ble (n .mac + tp) 1 && Nat.ble (n .fp) 1 && Nat.ble (n .ctl) 1

/-- No register or accumulator written by two instructions of the group (R102). -/
def destsFit : List WordEff → Bool
  | [] => true
  | w :: t => t.all (fun x => x.dests.all (fun r => !w.dests.contains r)) && destsFit t

/-- A group that R102 or R105 calls illegal, apart from its single words: too long, over the limits, two writers of one
register, two flag writers; a control instruction in a delay slot; a branching instruction at LEND (R118). -/
def groupIllegal (ws : List WordEff) (inSlot atEnd : Bool) : Bool :=
  Nat.blt 4 ws.length || !classesFit ws || !destsFit ws
    || Nat.blt 1 (ws.filter (·.flagW)).length
    || (inSlot && ws.any (fun w => w.cls == .ctl))
    || (atEnd && ws.any (·.branching))

/-- The group accesses Tun (R101). -/
def groupMem (ws : List WordEff) : Bool := ws.any (fun w => w.cls == .ls || w.cls == .tapm)

/-- The group needs two cycles: its accesses exceed the ports of R100, or it holds SAVA or RSTA (R127). A circular 64-bit access in two
pieces (R114) is one access. -/
def groupTwo (ws : List WordEff) : Bool :=
  let ld := fun (bank : Nat → Bool) => (ws.filter (fun w => w.loads.any (fun a => bank a.1))).length
  let st := fun (bank : Nat → Bool) => (ws.filter (fun w => w.stores.any (fun a => bank a.1))).length
  ws.any (·.twoCycle) || Nat.blt 1 (ld inX) || Nat.blt 1 (st inX) || Nat.blt 1 (ld inY + st inY)

/-- The cycles a group waits before the cycle it issues in (R100, R101). -/
def groupHold (ws : List WordEff) (cyc : Nat) : Nat :=
  if !groupMem ws then 0
  else if groupTwo ws then (if 14 ≤ cyc % 16 then 16 - cyc % 16 else 0) + 1
  else if cyc % 16 = 15 then 1 else 0

/-- The words of the group at an address: up to the first with p = 0, at most four; none is fetched outside program memory. -/
def groupWords (s : State) (c : Fin 16) (a : Word) : Nat :=
  let p := fun (i : Nat) => Nat.blt (a.toNat + 4 * i) 0x10000 && (s.memWord (tunBase c.val + a.toNat + 4 * i)).getLsbD 31
  if !p 0 then 1 else if !p 1 then 2 else if !p 2 then 3 else 4

/-- Whether PWRA_GRANT holds consumer c stalled (R346). -/
def State.stalledC (s : State) (c : Nat) : Bool := s.rawFlag (R.PWRA_GRANT.stalled c)

/-- A level-1 event waits that the core takes at a group boundary (R119, R120). -/
def Core.takes1 (k : Core) : Bool := k.level != 1 && (k.bell || k.slice)

/-- A level-2 event waits that the core takes (R119, R122, R346): at level 0, a handler that has set ie2 again is not preempted.
(DEDUCED, log entry 91.) -/
def Core.takes2 (k : Core) (stalled : Bool) : Bool :=
  k.level == 0 && k.ie2 && !stalled && (k.evDebug || k.evMbox || k.evDma)

/-- The core can issue a new group now: it runs, no event is due before it, it is not stalled (R119 to R124, R346). -/
def canIssue (s : State) (c : Fin 16) : Bool :=
  let k := s.core c
  k.run == .running && (k.level == 1 || !s.stalledC c.val)
    && (k.slot.isSome || !(k.takes1 || k.takes2 (s.stalledC c.val)))

/-! ## Faults of a core -/

/-- The returns of a core that stops begin to fade (R135). -/
def fadeReturns (s : State) (c : Fin 16) : State :=
  let io := s.io c
  match io.fade with
  | .full => s.setIo c { io with fade := .out 0 }
  | .rise _ => s.setIo c { io with fade := .out 0 }
  | .wait => s.setIo c { io with fade := .zero }
  | _ => s

/-- A core stops with state 6 and a class-2 fault: reason 0 overruns, 1 illegal, 2 access, 3 loop overflow (R123, R135,
R413). -/
def coreStop (s : State) (c : Fin 16) (reason : Nat) : State :=
  let k := s.core c
  fadeReturns ((s.setCore c { k with
    run := .faulted, group := [], slot := none, haltReq := false, haltCmd := false, stepping := false }).raise 2 6 3 (c.val + 16 * reason)) c

/-- Level-2 entry: PC and SR saved, ie2 cleared, the bank unchanged (R122). ESR2 takes SR before the results of the entry's own
cycles land. (DEDUCED, log entry 91.) -/
def Core.enter2 (k : Core) (vec : Nat) : Core :=
  { k with
    epc2 := k.pc, esr2 := k.bank0.sr, bank0 := { k.bank0 with sr := k.bank0.sr &&& ~~~ 0x100#32 },
    level := 2, pc := k.vbase + BitVec.ofNat 32 vec, run := .running }

/-- The debug event at the boundary after a group, unless a delay slot follows, of a request or at the end of a step: with halt_en the
core halts, at level 0 with ie2 = 1 the event becomes pending, otherwise nothing happens (R124). -/
def debugEnd (k : Core) (haltEn : Bool) : Core :=
  if k.slot.isSome then k
  else
    let ask := k.stepping || k.haltReq
    let k := { k with haltReq := false, haltCmd := false, stepping := false }
    if ask && haltEn then { k with run := .halted, wasIdle := k.run == .idle }
    else if ask && k.level == 0 && k.ie2 then { k with evDebug := true }
    else k

/-- A fault of a group: nothing of the group takes effect; the address and cause are recorded; the fault event is taken
at level 0 with ie2 = 1, otherwise the core stops (R123). cause: 0 illegal, 1 access, 2 loop overflow. -/
def coreFault (s : State) (c : Fin 16) (cause : Nat) : State :=
  let k := { s.core c with group := [], slot := none }
  let s := (s.put (R.CORE_FAULT_PC.pc c.val) (k.pc.toNat % 2 ^ 16)).put (R.CORE_FAULT_PC.cause c.val) cause
  let s := s.mark ⟨R.CORE_EVT.reg c.val, cause, 1⟩
  if k.level = 0 ∧ k.ie2 then
    (s.setCore c (debugEnd { ((k.enter2 0x60).tick).tick with accEntry := k.accEntry + 1 } (s.rawFlag (R.CORE_DBG_SEL.halt_en c.val)))).count (0x100 + 8 * c.val + 6) 1
  else
    let s := if k.level = 1 then s else s.mark (R.CORE_EVT.dbl_fault c.val)
    coreStop (s.setCore c k.tick) c (cause + 1)

/-! ## Flow of control -/

/-- The innermost loop level's registers, when a level is active. -/
def Bank.loop (b : Bank) : Option (Fin 3 × Word × BitVec 16 × BitVec 16) :=
  if b.lsp.val = 0 then none
  else
    let i : Fin 3 := Fin.ofNat 3 (b.lsp.val - 1)
    some (i, b.lcnt[i], b.ltop[i], b.lend[i])

/-- The innermost level popped. -/
def Bank.pop (b : Bank) : Bank := { b with lsp := Fin.ofNat 4 (b.lsp.val - 1) }

/-- The loop level at LEND (R117): with LCNT above 1 it counts and goes to LTOP, otherwise it is popped. -/
def loopEnd (b : Bank) : Bank × Option (BitVec 16) :=
  match b.loop with
  | none => (b, none)
  | some (i, n, top, _) => if 1 < n.toNat then ({ b with lcnt := b.lcnt.set i (n - 1) }, some top) else (b.pop, none)

/-- A taken branch to t pops the innermost level when t lies outside its body (R118). -/
def branchPop (b : Bank) (t : Word) : Bank :=
  match b.loop with
  | none => b
  | some (_, _, top, en) => if top.toNat ≤ t.toNat ∧ t.toNat ≤ en.toNat then b else b.pop

/-- The next group is the last of the innermost loop's body (R117). -/
def Core.atEnd (k : Core) : Bool := match k.bank.loop with | some (_, _, _, en) => k.pc == en.setWidth 32 | none => false

/-- The single control effect of a group. -/
def groupCtl (ws : List WordEff) : CtlEff :=
  match ws.find? (fun w => w.ctl != .none) with
  | some w => w.ctl
  | none => .none

/-- The return to bank 0, in the cycle after the delay slot's, records the span since the period bell (CORE_STAT.l1_peak). (DEDUCED, log
entry 88.) -/
def Core.peak (k : Core) : Core :=
  match k.sinceBell with
  | none => k
  | some n => { k with l1peak := min 65535 (max k.l1peak ((n + 1) / 16)), sinceBell := none }

/-- What follows a delay slot: the branch, or the return from an event (R105, R120, R122). -/
def afterSlot (k : Core) (dst : SlotTo) (seqPc : Word) : Core :=
  match dst with
  | .fall => { k with pc := seqPc }
  | .goto t => { k with pc := t }
  | .rte1 =>
    if k.bell then { k with bell := false, pc := k.vbase + 0x20#32 }
    else if k.slice then { k with slice := false, pc := k.vbase + 0x40#32 }
    else { k.peak with level := k.l1from, pc := k.epc1 }
  | .rte2 =>
    { k with level := 0, pc := k.epc2, bank0 := { k.bank0 with sr := k.esr2 &&& 0x1FF#32 } }

/-- What an instruction class adds to the tag record's word 6 (R436). -/
def tagClasses (ws : List WordEff) : Nat :=
  bit (ws.any (fun w => !w.loads.isEmpty)) + 2 * bit (ws.any (fun w => !w.stores.isEmpty))
    + 4 * bit (ws.any (fun w => w.cls == .mac || w.cls == .tapm)) + 8 * bit (ws.any (fun w => w.cls == .fp))
    + 16 * bit (ws.any (fun w => w.cls == .ctl))

/-- The largest latency of a group's results. -/
def maxLat (ws : List WordEff) : Nat := (ws.flatMap (·.writes)).foldl (fun m w => max m w.1) 0

/-- The control effect e of a group outside a delay slot, and the cycles it adds (R105, R117, R120, R122): k is the core with the
group's results under way and the pc past it, seqPc that pc, st the cycles until every store has reached Tun. -/
def ctlTurn (s : State) (c : Fin 16) (k : Core) (e : CtlEff) (seqPc : Word) (st : Nat) : Core × Nat :=
  match e with
  | .none => (k, 0)
  | .jump t pops link =>
    let k2 := if pops then k.setBank k.useBank1 (branchPop k.bank t) else k
    let k2 := if link then
        { k2 with flight := k2.flight ++ [⟨1, k.useBank1, .ctl 0x42 (seqPc + BitVec.ofNat 32 (4 * groupWords s c seqPc))⟩] }
      else k2
    ({ k2 with slot := some (.goto t) }, 0)
  | .notTaken => ({ k with slot := some .fall }, 0)
  | .rte1 => ({ k with slot := some .rte1 }, 0)
  | .rte2 => ({ k with slot := some .rte2 }, 0)
  | .loop cnt en =>
    if cnt = 0 then ({ k with pc := en + BitVec.ofNat 32 (4 * groupWords s c en) }, 1)
    else
      let b := k.bank
      let i : Fin 3 := Fin.ofNat 3 b.lsp.val
      (k.setBank k.useBank1 { b with
        lcnt := b.lcnt.set i cnt, ltop := b.ltop.set i (seqPc.setWidth 16), lend := b.lend.set i (en.setWidth 16), lsp := Fin.ofNat 4 (b.lsp.val + 1) }, 0)
  | .brk => (k, 0)
  | .idle => ({ k with run := .idle }, 0)
  | .fence => ({ k with accFence := st }, st)

/-- A group that meets no fault takes effect in the cycle it issues in: its stores and results, then its control effect,
the loop at LEND and the delay slot (R103, R105, R117); a delay slot at LEND counts or pops its level, and the branch's target follows
(DEDUCED, log entry 91). k is the core at that cycle, ws what its words do, hold the
cycles it waited. -/
def groupEffect (s : State) (c : Fin 16) (k : Core) (ws : List WordEff) (hold : Nat) : State :=
  let one := k.useBank1
  let nw := ws.length
  let base := tunBase c.val
  -- memory: the words read are checked, then the stores go out
  let s := (ws.flatMap (·.loads)).foldl (fun s a => s.touch (base + a.1) a.2) s
  let sts := ws.flatMap (·.stores)
  let s := sts.foldl (fun s a => s.memWrite (base + a.1) a.2) s
  let atEnd := k.atEnd
  let seqPc := k.pc + BitVec.ofNat 32 (4 * nw)
  let (b1, back) := if atEnd then loopEnd k.bank else (k.bank, none)
  let stWait := if sts.isEmpty then k.stLeft else max k.stLeft (if (k.cyc + 1) % 16 = 15 then 2 else 1)
  let k1 := { k.setBank one b1 with
    group := []
    flight := k.flight ++ (ws.flatMap (·.writes)).map (fun w => ⟨w.1, one, w.2⟩)
    stLeft := stWait
    pc := (back.map (·.setWidth 32)).getD seqPc
    accFence := 0, accEntry := 0, accStall := 0, accIdle := 0
    tagLeft := k.tagLeft - 1
    acct := ⟨k.pc.toNat, k.level.val, s.pnl, k.cyc, bit (hold != 0 && (!groupTwo ws || Nat.blt 1 hold)), bit (groupTwo ws), k.accFence,
      k.accEntry, k.accStall, k.accIdle, nw, tagClasses ws, maxLat ws⟩ }
  let inSlot := k.slot
  -- the control effect of the group; a group in a delay slot holds none
  let (k2, extra) : Core × Nat :=
    match inSlot with
    | some dst => (afterSlot { k1 with slot := none } dst k1.pc, 0)
    | none => ctlTurn s c k1 (groupCtl ws) seqPc stWait
  let k3 := Core.ticks (1 + extra) k2
  let isBrk := groupCtl ws == .brk && inSlot.isNone
  let haltEn := s.rawFlag (R.CORE_DBG_SEL.halt_en c.val)
  let s := if isBrk && (haltEn || (k3.level == 0 && k3.ie2)) then s.mark (R.CORE_EVT.debug c.val) else s
  let k4 := debugEnd { k3 with haltReq := k3.haltReq || isBrk } haltEn
  let dly := hold != 0 && (!groupTwo ws || Nat.blt 1 hold)
  let ev := 0x100 + 8 * c.val
  ((((s.setCore c k4).count ev 1).count (ev + 1) (bit (k.level == 1))).count (ev + 2)
    (bit dly)).count (ev + 3) (bit (groupTwo ws)) |>.count (ev + 7) (ws.foldl (fun n w => n + w.lanes) 0)

/-- The group of core c issues (R100 to R103): the cycle is found, the operands are those of that cycle, a fault
prevents the whole group, otherwise it takes effect. Of several causes the first of illegal, access, loop overflow is recorded.
(DEDUCED, log entry 91.) -/
def issueGroup (s : State) (c : Fin 16) : State :=
  let k0 := s.core c
  let hold := groupHold (k0.group.map (·[0])) k0.cyc
  let k := Core.ticks hold k0
  let ws := k0.group.map (fun w => w[Fin.ofNat 4 hold])
  let s := s.setCore c k
  let atEnd := k.atEnd
  if ws.any (·.illegal) || groupIllegal ws k.slot.isSome atEnd then coreFault s c 0
  else if ws.any (·.access) then coreFault s c 1
  else if ws.any (·.loopOvf) then coreFault s c 2
  else groupEffect s c k ws hold

/-- A core at level 0 or 2 with work marks its power consumer as requesting (R345). -/
def State.request (s : State) (c : Nat) : State :=
  { s with fab := { s.fab with req := s.fab.req ||| BitVec.ofNat 21 (2 ^ c) } }

/-- The word that the core fetches next lies outside program memory (R99). -/
def Core.fetchOut (k : Core) : Bool := Nat.ble 0x10000 (k.pc.toNat + 4 * k.group.length)

/-- One word of a group of core c: f gives what the word does in a cycle. The four entries are for a group that waits 0 to
3 cycles before it issues. A fetch outside program memory is an access fault (R99). A core that cannot issue a group ignores the word (DESIGN CHOICE, log entry 12). -/
def issueWord (c : Fin 16) (last : Bool) (f : CView → WordEff) (s : State) : State :=
  let k := s.core c
  if k.run ≠ .running then s
  else
    let s := if k.level = 1 then s else s.request c.val
    if !k.group.isEmpty || canIssue s c then
      if k.fetchOut then coreFault s c 1 else
      let w : Vector WordEff 4 := #v[f ⟨c, k, s⟩, f ⟨c, Core.ticks 1 k, s⟩, f ⟨c, Core.ticks 2 k, s⟩, f ⟨c, Core.ticks 3 k, s⟩]
      let s := s.setCore c { k with group := k.group ++ [w] }
      if last || Nat.blt 4 (k.group.length + 1) then issueGroup s c else s
    else s

/-- The meaning of every core instruction: one word of a group, in the frame of a command. -/
def coreCmd (c : Fin 16) (last : Bool) (f : CView → WordEff) (s : State) : Host.Outcome State Fault Refusal :=
  Cmd.run (issueWord c last f) s

/-- A core that issues nothing is brought to a value of CYC; idle cycles are counted (R433, R436). -/
def ageTo (s : State) (c : Fin 16) (cyc : Nat) : State :=
  let k := s.core c
  let n := cyc - k.cyc
  if n = 0 || !k.group.isEmpty then s
  else
    let idle := k.run == .idle
    let stalled := k.run == .running && k.level != 1 && s.stalledC c.val
    let k' := Core.ticks (min n 8) k
    let k' := { k' with cyc := k.cyc + n, sinceBell := k.sinceBell.map (· + n) }
    let k' := { k' with accIdle := if idle then k'.accIdle + n else k'.accIdle,
                        accStall := if stalled then k'.accStall + n else k'.accStall }
    ((s.setCore c k').count (0x100 + 8 * c.val + 5) (if idle then n else 0)).count (0x100 + 8 * c.val + 4) (if stalled then n else 0)

end Sys2Proof.Machine
end

