-- ==== Sys2Proof/Machine/Mgp.lean ====
section
/-!
DEFINITION. The fault queue's reading (R391, R395), staleness (R56), the watchdog of the MGP (R405) and the MGP mailbox
(R408 to R412).
-/
namespace Sys2Proof.Machine

/-! ## Reading the queue -/

/-- The four words of a record (R391). -/
def FaultRec.words (r : FaultRec) : List Word :=
  [BitVec.ofNat 32 (r.cls + 4 * bit r.stale + 8 * r.blk + 256 * r.code + 65536 * r.count),
    BitVec.ofNat 32 r.pnl, BitVec.ofNat 32 r.wt, BitVec.ofNat 32 r.detail]

/-- The record a pop moves: the oldest, or the oldest of class 3 when that is asked for and one is there (R395). -/
def popChoice (q : List FaultRec) (c3First : Bool) : Option FaultRec :=
  match (if c3First then q.find? (·.cls == 3) else none) with
  | some r => some r
  | none => q.head?

/-- A pop (R395): the record goes to FLT_RD, its slot is free, rd_valid follows. -/
def fltPopOp (s : State) (c3First : Bool) : Option FaultRec × State :=
  match popChoice s.flt.queue c3First with
  | none => (none, s.unmark R.FLT_POP.rd_valid)
  | some r =>
    let s := { s with flt := { s.flt with queue := s.flt.queue.filter (· != r) } }
    let s := r.words.zipIdx.foldl (fun (s : State) w => s.setReg (R.FLT_RD.reg w.2) w.1) s
    (some r, s.mark R.FLT_POP.rd_valid)

/-- The trigger of FLT_POP (R395): c3_first is stored, pop moves a record. -/
def trigFltPop (s : State) (v : Word) : State :=
  let s := s.put R.FLT_POP.c3_first (fieldGet 1 1 v)
  if v.getLsbD 0 then (fltPopOp s (v.getLsbD 1)).2 else s

/-! ## The outbound queue (R408 to R410) -/

/-- A message of eight words: type, payload, tag (R408). -/
def mbMessage (type tag : Nat) (payload : List Word) : List Word :=
  (BitVec.ofNat 32 (type + 256 * payload.length + 65536 * tag) :: payload ++ List.replicate 7 0).take 8

/-- The type of a message. -/
def mbType (m : List Word) : Nat := (m.headD 0).toNat % 256

/-- The MGP appends a message. While 16 are queued, or others wait before it, it waits in the MGP's own memory, which holds
16 of types 0x02, 0x04 and 0x05; one beyond those is discarded and counted (R410). -/
def mbAppend (s : State) (m : List Word) : State :=
  if !s.flt.mgpRun then s
  else if s.flt.mbHeld.isEmpty ∧ s.flt.mbOut.length < 16 then
    { s with flt := { s.flt with mbOut := s.flt.mbOut ++ [m] } }
  else if mbType m != 3 && Nat.ble 16 ((s.flt.mbHeld.filter (fun x => mbType x != 3)).length) then s.bump R.MGP_MB_STAT.out_drop
  else { s with flt := { s.flt with mbHeld := s.flt.mbHeld ++ [m] } }

/-- Room in the outbound queue is filled from what the MGP holds. -/
def mbRefill (s : State) : State :=
  let n := 16 - s.flt.mbOut.length
  { s with flt := { s.flt with mbOut := s.flt.mbOut ++ s.flt.mbHeld.take n, mbHeld := s.flt.mbHeld.drop n } }

/-- The trigger of MGP_MB_POP (R410). -/
def trigMbPop (s : State) (v : Word) : State :=
  if v.getLsbD 0 then mbRefill { s with flt := { s.flt with mbOut := s.flt.mbOut.drop 1 } } else s

/-- MGP_DRAIN_POP (R395, R409, R410): with mgp_drain set, a running MGP with room in its queue pops the oldest class-3
record, or the oldest, and sends it. -/
def execMgpDrainPop (s : State) : Host.Outcome State Fault Refusal :=
  Cmd.run (fun s =>
    if !s.flt.mgpRun || !s.flag R.FLT_CFG.mgp_drain || !s.flt.mbHeld.isEmpty || Nat.ble 16 s.flt.mbOut.length then s
    else
      match fltPopOp s true with
      | (none, _) => s
      | (some r, s) =>
        let s := mbAppend s (mbMessage 1 s.flt.mgpTag r.words)
        { s with flt := { s.flt with mgpTag := (s.flt.mgpTag + 1) % 65536 } }) s

/-- MGP_MB_OUT(i): word i of the oldest message; zero with none (R410). -/
def mbOutWord (s : State) (i : Nat) : Word := (s.flt.mbOut.headD []).getD i 0

/-- MGP_MB_STAT as it reads. -/
def mbStat (s : State) : Word :=
  fieldPut 0 5 (fieldPut 11 1 (s.reg R.MGP_MB_STAT.reg) (bit s.flt.mgpRun)) s.flt.mbOut.length

/-! ## The inbound slot (R411, R412) -/

/-- in_busy. -/
def State.mbBusy (s : State) : Bool := s.rawFlag R.MGP_MB_STAT.in_busy

/-- The trigger of MGP_MB_GO (R411): hands the message over, or is discarded while busy or while the MGP is stopped. -/
def trigMbGo (s : State) (v : Word) : State :=
  if s.mbBusy then s.mark R.MGP_MB_STAT.in_ovr
  else if !v.getLsbD 0 then s
  else if !s.flt.mgpRun then s.mark R.MGP_MB_STAT.in_refused
  else (s.mark R.MGP_MB_STAT.in_busy).mark R.MGP_MB_GO.go

/-- The write of MGP_MB_IN(i) (R411): discarded while busy. -/
def trigMbIn (s : State) (a : Nat) (v : Word) : State :=
  if s.mbBusy then s.mark R.MGP_MB_STAT.in_ovr else s.setReg a v

/-- The inbound message. -/
def State.mbIn (s : State) (i : Nat) : Word := s.reg (R.MGP_MB_IN.reg i)

/-- The MGP takes the inbound message: in_busy falls, and the reply with its tag goes out (R409, R411). -/
def mbReply (s : State) (status : Nat) (data : List Word) : State :=
  let tag := fieldGet 16 16 (s.mbIn 0)
  let s := (s.unmark R.MGP_MB_STAT.in_busy).unmark R.MGP_MB_GO.go
  mbAppend s (mbMessage 3 tag (BitVec.ofNat 32 status :: data))

/-- The running MGP takes the inbound message when it is of type ty: f answers it. (DESIGN CHOICE, log entry 85.) -/
def mbTake (ty : Nat → Bool) (f : Nat → State → State) (s : State) : State :=
  if s.mbBusy && s.flt.mgpRun && ty (fieldGet 0 8 (s.mbIn 0)) then f (fieldGet 8 3 (s.mbIn 0)) s else s

/-- MB_IDENTIFY (R412). -/
def execMbIdentify (s : State) : Host.Outcome State Fault Refusal :=
  Cmd.run (mbTake (· == 1) (fun len s =>
    if len = 0 then mbReply s 0 [Config.mgpVersion, s.reg R.BOOT_IMG_GEN.reg] else mbReply s 2 [])) s

/-- Whether the fields of a Set clock attributes request lie within their ranges. -/
def clockAttrOk (len : Nat) (w1 w3 : Word) : Bool :=
  let ival := sx 8 (fieldGet 16 8 w3)
  len == 3 && Nat.blt w1.toNat 2 && decide (-3 ≤ ival) && decide (ival ≤ 4) && Nat.ble 2 (fieldGet 24 8 w3)

/-- MB_SET_CLOCK_ATTR (R412): the attributes of a domain apply from the next Announce and BMCA run. -/
def execMbSetClockAttr (s : State) : Host.Outcome State Fault Refusal :=
  Cmd.run (mbTake (· == 2) (fun len s =>
    if clockAttrOk len (s.mbIn 1) (s.mbIn 3) then
      let e := ((s.mbIn 1).toNat, s.mbIn 2, s.mbIn 3)
      let s := { s with flt := { s.flt with clockAttr := e :: s.flt.clockAttr.filter (fun x => x.1 != e.1) } }
      mbReply s 0 []
    else mbReply s 2 [])) s

/-- MB_READ_CLOCK_STATE (R412): the grandmaster as the MGP holds it, and PTP_DOM_PORTS as last written. -/
def execMbReadClockState (gm : BitVec 64) (steps : BitVec 16) (cls prio : Byte) (s : State) :
    Host.Outcome State Fault Refusal :=
  Cmd.run (mbTake (· == 3) (fun len s =>
    if len = 1 ∧ (s.mbIn 1).toNat < 2 then
      mbReply s 0 [gm.setWidth 32, (gm >>> 32).setWidth 32,
        BitVec.ofNat 32 (steps.toNat + 65536 * cls.toNat + 2 ^ 24 * prio.toNat),
        s.reg (R.PTP_DOM_PORTS.reg (s.mbIn 1).toNat)]
    else mbReply s 2 [])) s

/-- MB_UNKNOWN_TYPE (R412): any other type is answered with status 1. -/
def execMbUnknownType (s : State) : Host.Outcome State Fault Refusal :=
  Cmd.run (mbTake (fun t => t == 0 || Nat.blt 3 t) (fun _ s => mbReply s 1 [])) s

/-- MB_PTP_PORT_STATE (R242, R409): the running MGP writes the port states and the parent of a domain and reports them. -/
def mbPtpReport (s : State) (d : Nat) (ports : Word) (parent : BitVec 64) (pp : BitVec 16) : State :=
  mbAppend s (mbMessage 4 0 [BitVec.ofNat 32 d, ports, parent.setWidth 32, (parent >>> 32).setWidth 32, pp.setWidth 32])

/-- MB_EEE_WAKE_TIME's report (R409). -/
def mbEeeReport (s : State) (p : Nat) (tw : Nat) : State :=
  mbAppend s (mbMessage 5 0 [BitVec.ofNat 32 p, BitVec.ofNat 32 tw])

/-- The message on a locked sequence of the MGP broken or refused (R338, R409). -/
def mbLockReport (s : State) (refused : Bool) (target addr : Nat) : State :=
  mbAppend s (mbMessage 2 0 [BitVec.ofNat 32 (bit refused + 2 * target), BitVec.ofNat 32 addr,
    BitVec.ofNat 32 (addr / 2 ^ 32 % 256)])

/-! ## The MGP's watchdog (R405) -/

/-- The MGP's firmware starts: it serves the mailbox; its own tables start from the image. -/
def mgpStart (s : State) : State :=
  ({ s with flt := { s.flt with mgpRun := true, mgpTag := 0, mbHeld := [], clockAttr := [] } }).mark R.FLT_MGP.running

/-- A message handed over to an MGP that is reset is discarded (R411). -/
def mgpDropIn (s : State) : State :=
  if s.mbBusy then ((s.unmark R.MGP_MB_STAT.in_busy).unmark R.MGP_MB_GO.go).mark R.MGP_MB_STAT.in_refused else s

/-- MGP_WDOG_EXPIRY (R405): the MGP is reset and restarted, or at the third expiry within 60 s left stopped. -/
def execMgpWdogExpiry (s : State) : Host.Outcome State Fault Refusal :=
  Cmd.run (fun s =>
    if !s.flt.mgpRun then s
    else
      let h := (s.sys.up :: s.flt.mgpExpiry).filter (fun t => Nat.ble s.sys.up (t + 60000 * msVco))
      let s := mgpDropIn { s with flt := { s.flt with mgpExpiry := h } }
      if 3 ≤ h.length then
        let s := { s with flt := { s.flt with mgpRun := false, mbHeld := [] } }
        (s.unmark R.FLT_MGP.running).raise 2 0xE 2 0
      else ((mgpStart s).bump R.FLT_MGP.restarts).raise 2 0xE 1 0) s

/-- The trigger of FLT_MGP (R405): restarts a stopped MGP, once an image has given it its firmware. -/
def trigMgpRestart (s : State) (v : Word) : State :=
  if v.getLsbD 1 && !s.flt.mgpRun && s.image then mgpStart { s with flt := { s.flt with mgpExpiry := [] } } else s

/-! ## The host watchdog's writes (R404) -/

/-- The trigger of FLT_WDOG: a non-zero timeout starts the countdown, zero stops the watchdog; expired is W1C. -/
def trigWdog (s : State) (v : Word) : State :=
  let old := s.reg R.FLT_WDOG.reg
  let s := s.setReg R.FLT_WDOG.reg ((v &&& 0x3FFFF#32) ||| (old &&& 0x40000#32 &&& ~~~ v))
  { s with flt := { s.flt with wdogRun := fieldGet 0 16 v != 0, wdogUp := s.sys.up } }

/-- The trigger of FLT_WDOG_KICK: 0x5A0F restarts the countdown from the timeout in force. -/
def trigKick (s : State) (v : Word) : State :=
  if fieldGet 0 16 v = 0x5A0F then
    { s with flt := { s.flt with wdogRun := s.get R.FLT_WDOG.timeout != 0, wdogUp := s.sys.up } } else s

/-! ## Staleness (R56, R396) -/

/-- An entry taken at `then_` is older than 1,000 ms, at 1 ms resolution. -/
def State.old (s : State) (then_ : Nat) : Bool := Nat.blt 1000 ((s.sys.up - then_) / msVco)

/-- The unread records older than 1,000 ms are marked. -/
def staleFaults (s : State) : State :=
  { s with flt := { s.flt with queue := s.flt.queue.map (fun r => if s.old r.up then { r with stale := true } else r) } }

end Sys2Proof.Machine
end

