-- ==== Sys2Proof/Machine/Fabric.lean ====
section
/-!
DEFINITION. The Rapid fabric (R332 to R339): decoding, beats, locked sequences, decode errors, and the host bridge's BAR2
window with its atomics (R355, R356).
-/
namespace Sys2Proof

/-- A beat's address, its length, whether it writes. -/
def Beat.addr : Beat → Nat
  | .read a _ => a.toNat
  | .write a _ => a.toNat

def Beat.len : Beat → Nat
  | .read _ n => n
  | .write _ bs => bs.length

def Beat.isWrite : Beat → Bool
  | .read _ _ => false
  | .write _ _ => true

/-- 1 to 64 bytes within one 64-byte line (R334). -/
def Beat.ok (b : Beat) : Bool := Nat.ble 1 b.len && Nat.ble (b.addr % 64 + b.len) 64

end Sys2Proof

namespace Sys2Proof.Machine

/-! ## Decoding (R333) -/

/-- The target of a fabric address: 0 to 7 Larder banks, 8 and 9 Cask channels, 16 + c Tun c; none where no target answers: the
address is undecoded, or it lies in the Tun window of an absent core (`absentTun`). -/
def fabTarget (s : State) (a : Nat) : Option Nat :=
  if tunBase 0 ≤ a ∧ a < tunBase 16 then
    let c := (a - tunBase 0) / 0x100000
    if c < s.sys.fuses.cores ∧ (a - tunBase 0) % 0x100000 < 0x40000 then some (16 + c) else none
  else if larderBase ≤ a ∧ a < larderBase + 0x1800000 then some ((a - larderBase) / 64 % 8)
  else if caskBase ≤ a then (s.caskChan (a - caskBase)).map (· + 8)
  else none

/-- An address in the Tun window of an absent core: decoded but unpopulated (R5, R333). -/
def absentTun (s : State) (a : Nat) : Bool :=
  Nat.ble (tunBase 0 + s.sys.fuses.cores * 0x100000) a && Nat.ble (tunBase 0) a && Nat.blt a (tunBase 16)

/-- The Sieve class of a target. -/
def classOf (t : Nat) : Nat := if t < 8 then 0 else if t < 10 then 1 else 2

/-! ## One beat -/

/-- A decode error (R339): the first since the log was cleared is recorded, each is counted and raises a class-1 fault. -/
def decodeError (s : State) (master : Nat) (write : Bool) (a : Nat) : State :=
  let first := !s.flag R.FAB_DECERR_INFO.valid
  let s := if first then
      let s := (s.put R.FAB_DECERR_INFO.master master).put R.FAB_DECERR_INFO.write (bit write)
      ((s.mark R.FAB_DECERR_INFO.valid).setReg 0x580008 (BitVec.ofNat 32 a)).setReg 0x58000C (BitVec.ofNat 32 (a / 2 ^ 32 % 256))
    else s
  ((s.bumpSat R.FAB_DECERR_INFO.count).count 0x33 1).raise 1 0xA 3 master

/-- The runs of enabled bytes of a write, with their offsets. -/
def enRuns : Nat → List (Option Byte) → List (Nat × List Byte)
  | _, [] => []
  | o, none :: t => enRuns (o + 1) t
  | o, some b :: t =>
    match enRuns (o + 1) t with
    | (o', bs) :: r => if o' = o + 1 then (o, b :: bs) :: r else (o, [b]) :: (o', bs) :: r
    | [] => [(o, [b])]

/-- A core that runs: its program memory takes no fabric write (R101). A halted core does not run. -/
def Core.runs (k : Core) : Bool := k.run == .running || k.run == .idle

/-- Who reads Cask for an activity (R320). -/
def caskWho (act : Nat) : CaskAcc := if act < 16 then .rtDma else .bestEffort

/-- A read of n bytes of one line at a decoded target. -/
def beatRead (s : State) (act t a n : Nat) : List Byte × State :=
  if t = 8 ∨ t = 9 then
    match caskGranule s (a - caskBase) (caskWho act) with
    | some (bs, s) => ((bs.drop (a % 64)).take n, s)
    | none => (List.replicate n 0, s)
  else (s.memBytes a n, s.touch a n)

/-- A write of one line at a decoded target: program memory of a running core discards it (R101), a capture line discards
it (R326). -/
def beatWrite (s : State) (t a : Nat) (bs : List (Option Byte)) (act : Nat) : State :=
  if t = 8 ∨ t = 9 then
    match s.captureLineAt (a - caskBase) with
    | some l => s.raise 1 9 9 l
    | none =>
      let pre := a % 64
      let bytes := List.replicate pre none ++ bs ++ List.replicate (64 - pre - bs.length) none
      caskPut s (a - pre - caskBase) bytes (caskWho act)
  else if 16 ≤ t ∧ (a - tunBase 0) % 0x100000 < 0x10000 ∧ (s.core (Fin.ofNat 16 (t - 16))).runs then
    s.raise 1 6 5 (t - 16)
  else (enRuns 0 bs).foldl (fun s r => s.memWrite (a + r.1) r.2) s

/-- The counts that a served beat makes at its bank (R433, R434). -/
def beatCount (s : State) (act t bytes : Nat) : State :=
  let s := if s.get R.FAB_STAT.tags_peak = 0 then s.put R.FAB_STAT.tags_peak 1 else s
  if t < 8 then
    ((s.count (0x80 + 4 * t) 1).count (0x83 + 4 * t) (bit (isRt act))).bwAdd (20 + t) bytes
  else s

/-- No target answers a beat: a read of the Tun window of an absent core is zero and a write there is ignored (R5, R333); every
other such address is undecoded (R339). -/
def noTarget (s : State) (act : Nat) (write : Bool) (a : Nat) : State :=
  if absentTun s a then s else decodeError s (masterOf act) write a

/-- A beat is served, its budget already charged: the bytes it reads, and the state. -/
def beatDo (s : State) (act : Nat) (b : Beat) : List Byte × State :=
  match fabTarget s b.addr, b with
  | none, .read a n => (List.replicate n 0, noTarget s act false a.toNat)
  | none, .write a _ => ([], noTarget s act true a.toNat)
  | some t, .read a n => beatRead (beatCount s act t n) act t a.toNat n
  | some t, .write a bs => ([], beatWrite (beatCount s act t (bs.filter (·.isSome)).length) t a.toNat bs act)

/-- A beat is charged and served; one that no target grants is charged nothing (R339, R341). -/
def beatRun (s : State) (act : Nat) (b : Beat) : List Byte × State :=
  match fabTarget s b.addr with
  | none => beatDo s act b
  | some t => beatDo (s.svCharge act (classOf t) 1) act b

/-- Whether an activity may issue a beat now. -/
def beatMay (s : State) (act : Nat) (b : Beat) : Bool :=
  match fabTarget s b.addr with
  | none => !(s.powerHeld act)
  | some t => s.mayIssue act (classOf t) 1

/-- A best-effort activity that Sieve holds back shows it (R342). -/
def beatStalled (s : State) (act : Nat) (b : Beat) : State :=
  match fabTarget s b.addr with
  | some t => if !isRt act && s.svRoom act (classOf t) == some 0 then s.mark (svFlag 2 act) else s
  | none => s

/-! ## Longer transfers (R334) -/

/-- The pieces of n bytes from a up that lie within 64-byte lines; fuel bounds their number. -/
def lineSplit : Nat → Nat → Nat → List (Nat × Nat)
  | 0, _, _ => []
  | f + 1, a, n =>
    if n = 0 then []
    else
      let k := min n (64 - a % 64)
      (a, k) :: lineSplit f (a + k) (n - k)

/-- The beats of a transfer: itself where it is one beat, else the beats that its master splits it into (R334). (DEDUCED, log entry 73.) -/
def beatSplit (b : Beat) : List Beat :=
  if b.ok then [b]
  else (lineSplit (b.len / 64 + 2) b.addr b.len).map (fun p =>
    match b with
    | .read _ _ => .read (BitVec.ofNat 40 p.1) p.2
    | .write _ bs => .write (BitVec.ofNat 40 p.1) ((bs.drop (p.1 - b.addr)).take p.2))

/-- Beats are issued in order until the activity is held: the bytes read, the beats that are left, the state (R342, R346). -/
def beatsRun : State → Nat → List Beat → List Byte × List Beat × State
  | s, _, [] => ([], [], s)
  | s, act, b :: t =>
    if beatMay s act b then
      let (d, s) := beatRun s act b
      let (ds, l, s) := beatsRun s act t
      (d ++ ds, l, s)
    else ([], b :: t, beatStalled s act b)

/-- A beat's completion as its master sees it. -/
def beatOut (s : State) (b : Beat) (bs : List Byte) : State := s.emit (if b.isWrite then .ok else .bytes bs)

/-- A beat of an activity: served, or held by its budget or allowance; a held one is not issued. -/
def beatTurn (s : State) (act : Nat) (b : Beat) : State :=
  if beatMay s act b then
    let (bs, s) := beatRun s act b
    beatOut s b bs
  else beatStalled s act b

/-- RAPID_TRANSACTION (R334 to R344): a held best-effort activity issues nothing; its consumer requests at the next
boundary. -/
def execRapidTransaction (act : Fin 41) (beat : Beat) (struck : List (Nat × Bool)) (s : State) :
    Host.Outcome State Fault Refusal :=
  Cmd.run (fun s => (beatSplit beat).foldl (fun s b => beatTurn s act.val b) ((strikes s struck).powerWork act.val)) s

/-! ## Locked sequences (R337, R338) -/

/-- The one target that can be locked for these beats: a Larder bank or a Cask channel, the same for all, 2 to 8 beats. -/
def lockTarget (s : State) (bs : List Beat) : Option Nat :=
  match bs with
  | [] => none
  | b :: _ =>
    match fabTarget s b.addr with
    | none => none
    | some t =>
      if t < 10 ∧ Nat.ble 2 bs.length ∧ Nat.ble bs.length 8 ∧ bs.all (fun x => fabTarget s x.addr == some t) then some t else none

/-- The activity of a locking master. -/
def lockAct (mgp : Bool) : Nat := if mgp then 37 else 36

/-- A grant: at least 1,024 CLK_FAB cycles (4,096 cycles of the VCO) after the one before at the target. (DEDUCED, log entry 16.) -/
def lockGrant (s : State) (t : Nat) : State :=
  let at_ := match assocGet t s.fab.lockAt with | none => s.sys.up | some u => max s.sys.up (u + 4096)
  { s with fab := { s.fab with lockAt := assocSet t at_ s.fab.lockAt } }

/-- Beats of a granted sequence are served in order; their read data in order. -/
def seqServe (s : State) (act : Nat) (bs : List Beat) : List (List Byte) × State :=
  bs.foldl (fun acc b => let (d, s) := beatRun acc.2 act b; (acc.1 ++ [d], s)) ([], s)

/-- A sequence that cannot be locked: refused_evt, the class-1 fault, the MGP's message (R338, R409). (DESIGN CHOICE, log entry 18.) -/
def lockRefuse (s : State) (mgp : Bool) (bs : List Beat) : State :=
  let m := masterOf (lockAct mgp)
  let s := ((s.put R.FAB_LOCK_STAT.master m).mark R.FAB_LOCK_STAT.refused_evt).raise 1 0xA 1 m
  if mgp then
    let a := (bs.head?.map Beat.addr).getD 0
    mbLockReport s true ((fabTarget s a).getD 0) a
  else s

/-- A broken lock: broken_evt, breaks, the class-1 fault; the MGP gets every one of the n completions with the broken status, and its message;
the host bridge's is Completer Abort with atomic_broken (R338, R356). -/
def lockBroken (s : State) (mgp : Bool) (t a n : Nat) : State :=
  let m := masterOf (lockAct mgp)
  let s := ((s.put R.FAB_LOCK_STAT.master m).put R.FAB_LOCK_STAT.target t).mark R.FAB_LOCK_STAT.broken_evt
  let s := (s.bump R.FAB_LOCK_STAT.breaks).raise 1 0xA 2 m
  if mgp then mbLockReport ((List.range n).foldl (fun s _ => s.emit .broken) s) false t a
  else ((s.mark R.HIF_STAT.atomic_broken).raise 1 0xC 3 0).emit .abort

/-- The activity of what waits, and its beats. -/
def Wait.act : Wait → Nat
  | .beat act _ => act
  | .atomic .. => 36
  | .seq mgp _ _ => lockAct mgp

/-- The read and the write of an atomic at address a, without the write's bytes: each one beat, or two where the operand leaves its line.
(DEDUCED, log entry 73.) -/
def atomicBeats (a : Nat) (wide : Bool) : List Beat × List Beat :=
  let n := if wide then 8 else 4
  (beatSplit (.read (BitVec.ofNat 40 a) n), beatSplit (.write (BitVec.ofNat 40 a) (List.replicate n none)))

/-- The beats of what waits. -/
def Wait.beats : Wait → List Beat
  | .beat _ b => [b]
  | .atomic a wide _ _ => (atomicBeats a wide).1
  | .seq _ bs _ => bs

/-- Earlier work of the activity waits for one of the targets of these beats, so they wait behind it (R334). -/
def State.behind (s : State) (act : Nat) (bs : List Beat) : Bool :=
  s.fab.waiting.any (fun w => w.act == act && w.beats.any (fun x => bs.any (fun b => fabTarget s x.addr == fabTarget s b.addr)))

/-- A request of BAR2 whose target's class has a budget of 0 is not issued (R355). -/
def bar2Zero (s : State) (b : Beat) : Bool :=
  match fabTarget s b.addr with
  | none => false
  | some t => s.sys.dataPlane && s.get (R.FAB_SV_BUD.budget 36 (classOf t)) == 0

/-- A transaction of the host bridge or of the MGP: served now, aborted when the budget of its class is 0 (BAR2 alone,
R355), or it waits. -/
def issueOrWait (s : State) (act : Nat) (b : Beat) : State :=
  let s := s.powerWork act
  if act == 36 && bar2Zero s b then s.emit (if b.isWrite then .discarded else .abort)
  else if !s.behind act [b] && beatMay s act b then
    let (bs, s) := beatRun s act b
    beatOut s b bs
  else beatStalled { s with fab := { s.fab with waiting := s.fab.waiting ++ [.beat act b] } } act b

/-- A locked sequence of the beats bs is presented: refused and carried out as ordinary transactions, granted, or it waits for the budget of
its whole length, or behind earlier work. cut: the lock is broken after that many of its beats. -/
def seqPresent (s : State) (mgp : Bool) (bs : List Beat) (cut : Option Nat) : Option State :=
  let act := lockAct mgp
  match lockTarget s bs with
  | none => some (bs.foldl (fun s b => issueOrWait s act b) (lockRefuse s mgp bs))
  | some t =>
    if s.behind act bs || !s.mayIssue act (classOf t) bs.length then none
    else
      let s := lockGrant s t
      match cut with
      | none =>
        let (ds, s) := seqServe s act bs
        some ((bs.zip ds).foldl (fun s p => beatOut s p.1 p.2) s)
      | some n =>
        let (_, s) := seqServe s act (bs.take n)
        let s := s.svCharge act (classOf t) (bs.length - min n bs.length)
        some (lockBroken s mgp t ((bs.head?.map Beat.addr).getD 0) bs.length)

/-- What waits goes to the end of the queue of waiting work. -/
def waitFor (s : State) (w : Wait) : State := { s with fab := { s.fab with waiting := s.fab.waiting ++ [w] } }

/-- A locked sequence is carried out, or waits. -/
def seqGo (s : State) (mgp : Bool) (bs : List Beat) (cut : Option Nat) : State :=
  let s := s.powerWork (lockAct mgp)
  match seqPresent s mgp bs cut with
  | some s' => s'
  | none => waitFor s (.seq mgp bs cut)

/-- LOCKED_SEQUENCE (R337, R338, R342). Fewer than two transactions are refused as more than eight are. (DESIGN CHOICE, log entry 73.) -/
def execLockedSequence (mgp : Bool) (beats : List Beat) (s : State) : Host.Outcome State Fault Refusal :=
  Cmd.run (fun s => seqGo s mgp (beats.flatMap beatSplit) none) s

/-- LOCK_BREAK (R338): the target breaks the lock with `granted` transactions granted. -/
def execLockBreak (mgp : Bool) (granted : Nat) (beats : List Beat) (s : State) : Host.Outcome State Fault Refusal :=
  Cmd.run (fun s => seqGo s mgp (beats.flatMap beatSplit) (some granted)) s

/-! ## BAR2 (R355, R356) -/

/-- The fabric address of offset w of BAR2. -/
def State.winAddr (s : State) (w : Nat) : Nat := (s.get R.HIF_WIN_BASE.base * 2 ^ 20 + w) % 2 ^ 40

/-- BAR2_READ (R355). -/
def execBar2Read (w : BitVec 24) (len : Nat) (s : State) : Host.Outcome State Fault Refusal :=
  Cmd.run (fun s =>
    if !s.flag R.HIF_STAT.pcie_up then s
    else (lineSplit (len / 64 + 2) (s.winAddr w.toNat) len).foldl (fun s p =>
      issueOrWait s 36 (.read (BitVec.ofNat 40 p.1) p.2)) s) s

/-- BAR2_WRITE (R355). -/
def execBar2Write (w : BitVec 24) (bytes : List (Option Byte)) (s : State) : Host.Outcome State Fault Refusal :=
  Cmd.run (fun s =>
    if !s.flag R.HIF_STAT.pcie_up then s
    else
      let a := s.winAddr w.toNat
      (lineSplit (bytes.length / 64 + 2) a bytes.length).foldl (fun s p =>
        issueOrWait s 36 (.write (BitVec.ofNat 40 p.1) ((bytes.drop (p.1 - a)).take p.2))) s) s

/-- What an atomic leaves in memory for the value it read, within its width. -/
def Atomic.result (op : Atomic) (old : Nat) (bits : Nat) : Nat :=
  match op with
  | .fetchAdd v => (old + v.toNat) % 2 ^ bits
  | .swap v => v.toNat % 2 ^ bits
  | .cas c v => if old = c.toNat % 2 ^ bits then v.toNat % 2 ^ bits else old

/-- Whether the atomic writes: a compare-and-swap whose comparison fails leaves memory as it is. -/
def Atomic.writes (op : Atomic) (old bits : Nat) : Bool :=
  match op with
  | .cas c _ => old == c.toNat % 2 ^ bits
  | _ => true

/-- The read of an atomic, and its write of what it leaves; the host gets the value read. -/
def atomicServe (s : State) (a : Nat) (wide : Bool) (op : Atomic) : State :=
  let n := if wide then 8 else 4
  let (ds, s) := seqServe s 36 (atomicBeats a wide).1
  let bs := ds.flatten
  let old := leNat bs
  let new := if op.writes old (8 * n) then (leBytes n (op.result old (8 * n))).map some else List.replicate n none
  ((seqServe s 36 (beatSplit (.write (BitVec.ofNat 40 a) new))).2).emit (.bytes bs)

/-- Activity 36 may issue n beats to the target of b. -/
def bar2May (s : State) (n : Nat) (b : Beat) : Bool :=
  match fabTarget s b.addr with
  | none => !s.powerHeld 36
  | some t => s.mayIssue 36 (classOf t) n

/-- An atomic of BAR2 (R356): a locked read and write; broken, the write is not performed; refused, it is carried out without the lock. None:
it waits. -/
def atomicDo (s : State) (a : Nat) (wide : Bool) (op : Atomic) (broken : Bool) : Option State :=
  let rd := (atomicBeats a wide).1
  let all := rd ++ (atomicBeats a wide).2
  if rd.any (bar2Zero s) then some (s.emit .abort)
  else if s.behind 36 rd || !rd.all (bar2May s all.length) then none
  else match lockTarget s all with
    | none => some (atomicServe (lockRefuse s false all) a wide op)
    | some t =>
      let s := lockGrant s t
      if broken then
        let s := (seqServe s 36 rd).2
        some (lockBroken (s.svCharge 36 (classOf t) (all.length - rd.length)) false t a 2)
      else some (atomicServe s a wide op)

/-- An atomic is carried out, or waits. -/
def atomicGo (s : State) (a : Nat) (wide : Bool) (op : Atomic) (broken : Bool) : State :=
  let s := s.powerWork 36
  match atomicDo s a wide op broken with
  | some s' => s'
  | none => waitFor s (.atomic a wide op broken)

/-- A PCIe atomic arrives. -/
def atomicCmd (w : BitVec 24) (wide broken : Bool) (op : Atomic) (s : State) : Host.Outcome State Fault Refusal :=
  Cmd.run (fun s => if !s.flag R.HIF_STAT.pcie_up then s else atomicGo s (s.winAddr w.toNat) wide op broken) s

/-- ATOMIC_FETCHADD (R356). -/
def execAtomicFetchadd (w : BitVec 24) (wide broken : Bool) (v : BitVec 64) (s : State) : Host.Outcome State Fault Refusal :=
  atomicCmd w wide broken (.fetchAdd v) s

/-- ATOMIC_SWAP (R356). -/
def execAtomicSwap (w : BitVec 24) (wide broken : Bool) (v : BitVec 64) (s : State) : Host.Outcome State Fault Refusal :=
  atomicCmd w wide broken (.swap v) s

/-- ATOMIC_CAS (R356). -/
def execAtomicCas (w : BitVec 24) (wide broken : Bool) (cmp v : BitVec 64) (s : State) : Host.Outcome State Fault Refusal :=
  atomicCmd w wide broken (.cas cmp v) s

/-- One piece of waiting work is tried again at the boundary that renews budgets and allowances. -/
def waitRetry (s : State) (w : Wait) : State :=
  match w with
  | .beat act b => issueOrWait s act b
  | .atomic a wide op broken => atomicGo s a wide op broken
  | .seq mgp bs cut => seqGo s mgp bs cut

/-- All waiting work, in the order it came. -/
def waitDrain (s : State) : State :=
  s.fab.waiting.foldl waitRetry { s with fab := { s.fab with waiting := [] } }

end Sys2Proof.Machine
end

