-- ==== Sys2Proof/Machine/Rings.lean ====
section
/-!
DEFINITION. The engine's side of the rings of descriptors and records (R210, R248, R435, R438): their work is issued beat by beat, in the order
it came, and waits while a budget or an allowance holds its activity (R342, R346). (DEDUCED, log entry 38.)
-/
namespace Sys2Proof.Machine

/-- An event of port p (R433). -/
def ethCount (s : State) (p e n : Nat) : State := s.count (0x40 + 8 * p + e) n

/-! ## The local-port rings (R210) -/

/-- The fabric address of a ring, and its length. -/
def State.lqBase (s : State) (q : Nat) : Nat := s.get (R.ETH_LQ_BASE.base q) + 2 ^ 32 * s.get (R.ETH_LQ_CFG.base_hi q)
def State.lqLen (s : State) (q : Nat) : Nat := min 4096 (s.get (R.ETH_LQ_CFG.len q))

/-- Ring q's engine side. -/
def State.ring (s : State) (q : Fin 4) : RingS := s.eth.ring[q]
def State.setRing (s : State) (q : Fin 4) (x : RingS) : State := { s with eth := { s.eth with ring := s.eth.ring.set q x } }

/-- The engine's index of ring q advances. -/
def lqAdvance (s : State) (q : Fin 4) : State :=
  s.put (R.ETH_LQ_IDX.eidx q.val) ((s.get (R.ETH_LQ_IDX.eidx q.val) + 1) % max 1 (s.lqLen q.val))

/-- A frame captured at `up` stands in receive ring q. -/
def rxEnd (s : State) (q : Fin 4) (up : Nat) : State :=
  let e := s.get (R.ETH_LQ_IDX.eidx q.val)
  let s := lqAdvance s q
  s.setRing q { s.ring q with ups := (e, up) :: (s.ring q).ups.filter (fun x => x.1 != e) }

/-- The descriptor under way of transmit ring q has its status. -/
def txEnd (s : State) (q : Fin 4) : State :=
  let s := lqAdvance s q
  s.setRing q { s.ring q with busy := false, left := 0, err := 0 }

/-! ## The tagger's countdown (R435) -/

/-- One step of the LFSR. (DEDUCED, log entry 57.) -/
def lfsrStep (x : BitVec 16) : BitVec 16 :=
  let b := x.getLsbD 0 ^^ (x.getLsbD 2 ^^ (x.getLsbD 3 ^^ x.getLsbD 5))
  (x >>> 1) ||| (if b then 0x8000#16 else 0#16)

/-- The countdown is loaded. -/
def tagLoad (s : State) (c : Fin 16) : State :=
  let k := max 1 (s.get (R.PERF_TAG_CFG.k c.val))
  let x := s.core c
  s.setCore c { x with tagLeft := 2 ^ (k - 1) + x.lfsr.toNat % 2 ^ k, lfsr := lfsrStep x.lfsr }

/-! ## Rings of records -/

/-- The base and the length of a ring of records, as taken. -/
def State.sinkRing (s : State) : RingSink → Nat × Nat
  | .log => s.eth.logAt
  | .tag _ => s.perf.tagRing
  | .dump => s.perf.dumpRing

/-- The bytes of a record, the indices of its ring, and what counts its losses. -/
def RingSink.size : RingSink → Nat
  | .log => 16
  | .tag _ => 32
  | .dump => 704

def RingSink.eidx : RingSink → Loc
  | .log => R.PTP_LOG_IDX.eidx
  | .tag _ => R.PERF_TAG_IDX.eidx
  | .dump => R.PERF_DUMP_IDX.eidx

def RingSink.sidx : RingSink → Loc
  | .log => R.PTP_LOG_IDX.sidx
  | .tag _ => R.PERF_TAG_IDX.sidx
  | .dump => R.PERF_DUMP_IDX.sidx

def RingSink.drops : RingSink → Loc
  | .log => R.PTP_LOG_DROP.drops
  | .tag _ => R.PERF_TAG_DROP.drops
  | .dump => R.PERF_DUMP_DROP.drops

/-- A record is handed over, or lost: the tagger loads its countdown, the snapshot buffer is free. -/
def recordGone (s : State) : RingSink → State
  | .log => s
  | .tag c => if (s.core c).tagLeft = 0 then tagLoad s c else s
  | .dump => ({ s with perf := { s.perf with snap := none } }).unmark R.PERF_DUMP_STAT.pending

/-- A record captured at `up` stands in its ring. -/
def recordEnd (s : State) (k : RingSink) (up : Nat) : State :=
  let e := s.get k.eidx
  let aged := fun (l : List (Nat × Nat)) => (e, up) :: l.filter (fun x => x.1 != e)
  let s := recordGone (s.put k.eidx ((e + 1) % max 1 (s.sinkRing k).2)) k
  match k with
  | .log => { s with eth := { s.eth with logUps := aged s.eth.logUps } }
  | .tag _ => s
  | .dump => ({ s with perf := { s.perf with dumpUp := aged s.perf.dumpUp } }).mark R.PERF_DUMP_STAT.new_rec

/-! ## Work -/

/-- What follows the last beat of a piece of work. -/
def ringWorkEnd (s : State) : RingEnd → State
  | .rx q up => rxEnd s q up
  | .tx q => txEnd s q
  | .record k up => recordEnd s k up

/-- The beats that write bytes from address a up. -/
def lineWrites (a : Nat) (bs : List Byte) : List Beat := beatSplit (.write (BitVec.ofNat 40 a) (bs.map some))

/-- Beats are written as far as the activity may; what is left of them. -/
def writeRun (s : State) (act : Nat) (bs : List Beat) (fin : RingEnd) : Option RingWork × State :=
  let (_, left, s) := beatsRun s act bs
  if left.isEmpty then (none, ringWorkEnd s fin) else (some (.write left fin), s)

/-- The frame b of port p goes to the descriptor at eidx of receive ring q, or is discarded and counted. -/
def rxRun (s : State) (w : RingWork) (q : Fin 4) (p : Nat) (b : List Byte) (w2 : Nat) (tail : List Byte) (up : Nat) : Option RingWork × State :=
  let n := s.lqLen q.val
  let e := s.get (R.ETH_LQ_IDX.eidx q.val)
  if n = 0 ∨ (e + 1) % n = s.get (R.ETH_LQ_IDX.sidx q.val) then (none, ethCount (s.bump (R.ETH_LQ_DROP.drops q.val)) p 7 1)
  else
    let a := s.lqBase q.val + 32 * e
    let (d, left, s) := beatsRun s 39 (beatSplit (.read (BitVec.ofNat 40 a) 8))
    if !left.isEmpty then (some w, s)
    else
      let size := fieldGet 8 16 (leWord (d.drop 4))
      let data := b.take size
      let w2 := w2 + data.length % 16384 + bit (Nat.blt size b.length) * 2 ^ 18
      writeRun s 39 (lineWrites (leNat (d.take 5)) data ++ lineWrites (a + 8) (leBytes 4 w2 ++ tail)) (.rx q up)

/-- A record goes to its ring, or is discarded and counted. -/
def recordRun (s : State) (act : Nat) (k : RingSink) (bs : List Byte) (up : Nat) : Option RingWork × State :=
  let (base, n) := s.sinkRing k
  let e := s.get k.eidx
  if n = 0 ∨ (e + 1) % n = s.get k.sidx then (none, recordGone (s.bump k.drops) k)
  else writeRun s act (lineWrites (base + k.size * e) bs) (.record k up)

/-- Work of activity act goes as far as it may; what is left of it. The transmit rings' is `ringTurn`'s. -/
def workRun (s : State) (act : Nat) (w : RingWork) : Option RingWork × State :=
  match w with
  | .write l fin => writeRun s act l fin
  | .record k bs up => recordRun s act k bs up
  | .rx q p b w2 tail up => rxRun s w q p b w2 tail up
  | .tx _ => (some w, s)
  | .fetch _ _ _ _ => (some w, s)

/-- The work that waits of activity 38, or of activity 39. -/
def State.ringQ (s : State) (act : Nat) : List RingWork := if act = 38 then s.fab.dumpWork else s.fab.ringWork
def State.setRingQ (s : State) (act : Nat) (l : List RingWork) : State :=
  if act = 38 then { s with fab := { s.fab with dumpWork := l } } else { s with fab := { s.fab with ringWork := l } }

/-- What is left of a piece of work goes to the end of what waits. -/
def ringWait (s : State) (act : Nat) (w : Option RingWork) : State := s.setRingQ act (s.ringQ act ++ w.toList)

/-- Work of activity act is done, or waits for its budget, its allowance, or behind earlier work. -/
def workGo (s : State) (act : Nat) (w : RingWork) : State :=
  let s := s.powerWork act
  if (s.ringQ act).isEmpty then
    let (w, s) := workRun s act w
    ringWait s act w
  else ringWait s act (some w)

/-- The descriptor at eidx of transmit ring q gets its status (R212). -/
def ringEnd (s : State) (q : Fin 4) (err : Nat) : State :=
  workGo s 39 (.write (lineWrites (s.lqBase q.val + 32 * s.get (R.ETH_LQ_IDX.eidx q.val) + 28) (leBytes 4 (1 + 2 * err))) (.tx q))

end Sys2Proof.Machine
end

