-- ==== Sys2Proof/Machine/Eth.lean ====
section
/-!
DEFINITION. Ethernet ports and the bridge (R186 to R218): queues, gates, transmission, preemption, low-power idle, the
forwarding table, forwarding, local rings and segmentation.
-/
namespace Sys2Proof.Machine

/-! ## Ports (R186 to R189) -/

/-- The twin port of the variant. -/
def Fuses.twinPort (f : Fuses) : Nat := if f.ports = 8 then 7 else 3

/-- Port p is the twin port while twin mode is on. -/
def State.isTwinPort (s : State) (p : Nat) : Bool := s.twinMode && p == s.sys.fuses.twinPort

/-- A port that is present; up; its speed in units of 10 Gb/s × 10 per CLK_FAB arithmetic; its longest frame. -/
def State.ethOk (s : State) (p : Nat) : Bool := Nat.blt p s.sys.fuses.ports
def State.linkUp (s : State) (p : Nat) : Bool := s.flag (R.ETH_PSTAT.link p)
def State.fast (s : State) (p : Nat) : Bool := s.flag (R.ETH_PCFG.speed p)
def State.maxlen (s : State) (p : Nat) : Nat := max 1518 (min 9216 (s.get (R.ETH_MAXLEN.maxlen p)))

/-- A port's own MAC address. -/
def State.portMac (s : State) (p : Nat) : Nat := s.get (R.ETH_MAC_LO.mac p) + 2 ^ 32 * s.get (R.ETH_MAC_HI.mac p)

/-- Port p's state. -/
def State.eport (s : State) (p : Fin 8) : EthPort := s.eth.port[p]
def State.setEport (s : State) (p : Fin 8) (x : EthPort) : State := { s with eth := { s.eth with port := s.eth.port.set p x } }

/-! ## Transmit rings' ends (R210, R212) -/

/-- A copy of a ring frame has left its queue, sent or not. -/
def ringCopy (s : State) (q : Nat) (err : Nat) : State :=
  let q := Fin.ofNat 4 q
  let r := s.ring q
  if !r.busy then s
  else
    let e := if r.err = 0 then err else r.err
    if r.left ≤ 1 then ringEnd s q e else s.setRing q { r with left := r.left - 1, err := e }

/-- A frame is gone without being sent. (DEDUCED, log entry 39.) -/
def frameGone (s : State) (f : QFrame) (err : Nat) : State :=
  match f.src with | .ring q => ringCopy s q err | _ => s

/-! ## Queues (R192, R193) -/

/-- Bytes in a port's queues: of reserved frames (hi) or of the others. -/
def qBytes (x : EthPort) (hi : Bool) : Nat :=
  ((List.finRange 8).map fun k => ((x.queues[k].filter (fun f =>
    !f.src.staged && (f.src.origin && Nat.ble 5 k.val) == hi)).map (fun f => f.bytes.length)).sum).sum

/-- Bytes in the queues of every port. -/
def qAll (s : State) : Nat := (s.eth.port.toList.map (fun x => qBytes x true + qBytes x false)).sum

/-- A frame finds room in its port's queues, and in the bridge's 512 KiB (R193). -/
def qRoom (s : State) (x : EthPort) (tc : Nat) (f : QFrame) : Bool :=
  if f.src.staged then true
  else
    let hi := qBytes x true
    let lo := qBytes x false
    Nat.ble (qAll s + f.bytes.length) 524288
      && (if f.src.origin ∧ 5 ≤ tc then Nat.ble (hi + lo + f.bytes.length) 131072
          else Nat.ble (lo + (hi - 16384) + f.bytes.length) 114688)

/-- A frame offered to port p in class tc: discarded while the link is down (R189) or without room (R193); the twin port takes only
frames of the twin link (R186; DEDUCED, log entry 40). -/
def ethQueue (s : State) (p : Nat) (tc : Nat) (f : QFrame) : State :=
  let p := Fin.ofNat 8 p
  if !s.linkUp p.val then
    frameGone (ethCount (s.bump (R.ETH_TX_LINK_DROP.count p.val)) p.val 7 1) f 4
  else if s.isTwinPort p.val && !f.src.ofTwin then frameGone s f 4
  else
    let x := s.eport p
    if !qRoom s x tc f then frameGone (ethCount (s.bump (R.ETH_TX_QDROP.count p.val)) p.val 7 1) f 0
    else
      let k := Fin.ofNat 8 tc
      s.setEport p { x with queues := x.queues.set k (x.queues[k] ++ [f]) }

/-! ## Gates (R196 to R199) -/

/-- Gate of class k in entry i of a list. -/
def Gcl.isOpen (g : Gcl) (i k : Nat) : Bool := (g.ents.getD i (255, 0)).1 / 2 ^ k % 2 == 1

/-- The time for which class k stays open from the start of entry i on, at most n entries; none: for ever. -/
def Gcl.openRun (g : Gcl) (k : Nat) : Nat → Nat → Option Nat
  | 0, _ => none
  | n + 1, i =>
    if g.isOpen (i % g.ents.length) k then (g.openRun k n (i + 1)).map (· + (g.ents.getD (i % g.ents.length) (0, 0)).2)
    else some 0

/-- The longest continuous open time of class k; none: for ever. -/
def Gcl.longest (g : Gcl) (k : Nat) : Option Nat :=
  (List.range g.ents.length).foldl (fun acc i =>
    match acc, g.openRun k g.ents.length i with
    | some m, some n => some (max m n)
    | _, _ => none) (some 0)

/-- CLK_FAB cycles of an instant given in 2^-16 ns. -/
def fabOf (ts : Nat) : Nat := ts * 3 / 400000

/-- The time left before the gate of class k closes at cycle `at_` of the period; none: for ever; some 0: it is closed. -/
def gateLeft (s : State) (x : EthPort) (k at_ : Nat) : Option Nat :=
  match x.gate with
  | none => none
  | some g =>
    if !g.isOpen x.gidx k then some 0
    else
      let ends := ((g.ents.take (x.gidx + 1)).map (·.2)).sum
      let now := s.pn % max 1 g.cyc * (s.perVco / 4) + at_
      (g.openRun k (g.ents.length - 1) (x.gidx + 1)).map (· + (ends - now))

/-- The wire time of n bytes after the SFD, with preamble, SFD, FCS and gap as `over`, fits into c CLK_FAB cycles. -/
def wireFits (s : State) (p n past : Nat) (c : Option Nat) : Bool :=
  match c with
  | none => true
  | some c => Nat.ble ((n + past) * 8 * 49152) (c * if s.fast p then 2500000 else 1000000)

/-- Preemption is active on port p; class k is express (R194). -/
def State.preActive (s : State) (p : Nat) : Bool := s.get (R.ETH_PSTAT.pre_state p) == 2
def State.express (s : State) (p k : Nat) : Bool := Nat.ble 6 k || s.get (R.ETH_PREEMPT.express p) / 2 ^ k % 2 == 1

/-- The bytes that a fragment that is not the last, and the remainder, carry at least (R194, R195). -/
def State.minFrag (s : State) (p : Nat) : Nat := 64 * (1 + s.get (R.ETH_PREEMPT.frag p))

/-- Whether a frame of n bytes (without FCS) of class k may start (R199). -/
def mayStart (s : State) (p k n : Nat) (left : Option Nat) : Bool :=
  left != some 0 &&
    (if s.preActive p && !s.express p k then wireFits s p (min (n + 4) (s.minFrag p)) 20 left
     else wireFits s p n 24 left)

/-- Heads of queues that can never fit are discarded (R199). -/
def gateDropHead (s : State) (p : Fin 8) (k : Fin 8) : Nat → State
  | 0 => s
  | n + 1 =>
    let x := s.eport p
    match x.gate, x.queues[k] with
    | some g, f :: t =>
      if wireFits s p.val f.bytes.length 24 (g.longest k.val) then s
      else
        let s := s.setEport p { x with queues := x.queues.set k t }
        gateDropHead (frameGone (ethCount (s.bump (R.ETH_TX_GATE_DROP.count p.val)) p.val 7 1) f 0) p k n
    | _, _ => s

/-- gateDropHead on every queue of port p. -/
def gateDrops (s : State) (p : Fin 8) : State :=
  (List.finRange 8).foldl (fun s k => gateDropHead s p k ((s.eport p).queues[k]).length) s

/-- The list that ETH_GCTL and ETH_GCL of port p give, adjusted to its cycle (R197), and whether it had to be. -/
def gclOf (s : State) (p : Nat) : Option Gcl × Bool :=
  if !s.flag (R.ETH_GCTL.en p) then (none, false)
  else
    let cyc := s.get (R.ETH_GCTL.cycle_m1 p) + 1
    let n := s.get (R.ETH_GCTL.len_m1 p) + 1
    let total := cyc * (s.perVco / 4)
    let raw := (List.range n).map fun e => (s.get (R.ETH_GCL.gates p e), s.get (R.ETH_GCL.interval p e))
    let (l, sum) := raw.foldl (fun (acc : List (Nat × Nat) × Nat) x =>
      (acc.1 ++ [(x.1, min x.2 (total - acc.2))], min total (acc.2 + x.2))) (([] : List (Nat × Nat)), 0)
    let l := match l.reverse with
      | (g, i) :: t => (t.reverse) ++ [(g, i + (total - sum))]
      | [] => []
    (some ⟨cyc, l⟩, (raw.map (·.2)).sum != total)

/-- A commit of group 4 (R197, R198) on the ports whose list it changes. -/
def gateCommit (old s : State) : State :=
  ((List.finRange 8).filter (fun p => s.ethOk p.val)).foldl (fun s p =>
    let same := old.reg (R.ETH_GCTL.reg p.val) == s.reg (R.ETH_GCTL.reg p.val)
      && (List.range 64).all (fun e => old.reg (R.ETH_GCL.reg p.val e) == s.reg (R.ETH_GCL.reg p.val e))
    if same then s
    else
      let (g, bad) := gclOf s p.val
      let s := if bad then (s.mark (R.ETH_GCTL.list_err p.val)).raise 1 3 4 p.val else s
      s.setEport p { s.eport p with nextG := some (s.get (R.ETH_GCTL.cycle_m1 p.val) + 1, g) }) s

/-- Bytes of a frame sent at instant now. -/
def TxNow.sent (s : State) (p : Nat) (x : TxNow) (now : Nat) : Nat := x.past + (now - x.start) * (if s.fast p then 25 else 10) / 524288

/-- A preemptable transmission stops at instant now and waits, if the part sent and the remainder reach the minimum fragment; else it
completes (R194, R195, R199). -/
def txPreempt (s : State) (p : Fin 8) (now : Nat) : State :=
  let x := s.eport p
  match x.tx with
  | none => s
  | some t =>
    let n := t.sent s p.val now
    let m := s.minFrag p.val
    if s.preActive p.val && !s.express p.val t.k && x.held.isNone && Nat.ble (t.past + m) n && Nat.ble (n + m) (t.f.bytes.length + 4) then
      ethCount ((s.setEport p { x with held := some { t with past := n }, tx := none }).bump (R.ETH_TX_PREEMPT.count p.val)) p.val 5 1
    else s

/-- Entry i of port p's list comes into force at instant now: a preemptable transmission whose gate closes is preempted; frames that can
never fit go (R196, R199). -/
def gateTo (s : State) (p : Fin 8) (g : Gcl) (i now : Nat) : State :=
  let s := s.setEport p { s.eport p with gidx := i }
  let s := match (s.eport p).tx with
    | some t => if g.isOpen i t.k then s else txPreempt s p now
    | none => s
  gateDrops s p

/-- The instant, in 2^-16 ns, c CLK_FAB cycles after the start of period k. -/
def State.fabInstant (s : State) (k c : Nat) : Nat := (k * s.perVco * 3125 * 65536 + 3072) / 6144 + c * 400000 / 3

/-- The boundary's work on the gates and the storm buckets of port p (R196, R198, R205). -/
def ethBoundary1 (s : State) (p : Fin 8) : State :=
  let x := s.eport p
  let x := match x.nextG with
    | some (c, g) => if s.pn % max 1 c = 0 then { x with gate := g, gidx := 0, nextG := none } else x
    | none => x
  let storm := (List.range 3).map fun k =>
    min (s.get (R.ETH_STORM.burst p.val k) * 64) (x.storm.getD k 0 + s.get (R.ETH_STORM.rate p.val k) * 16)
  let s := s.setEport p { x with storm := storm }
  match x.gate with
  | some g => if s.pn % max 1 g.cyc = 0 then gateTo s p g 0 s.nt16 else s
  | none => s

/-- The ports at a boundary. -/
def ethBoundary (s : State) : State := ((List.finRange 8).filter (fun p => s.ethOk p.val)).foldl ethBoundary1 s

/-- GATE_ENTRY_CHANGE (R196, R199): the next entry of the cycle comes into force. -/
def execGateEntryChange (p : Fin 8) (s : State) : Host.Outcome State Fault Refusal :=
  Cmd.run (fun s =>
    let x := s.eport p
    match x.gate with
    | none => s
    | some g =>
      let ends := ((g.ents.take (x.gidx + 1)).map (·.2)).sum
      gateTo s p g ((x.gidx + 1) % max 1 g.ents.length) (s.fabInstant (s.pn - s.pn % max 1 g.cyc) ends)) s

/-- PREEMPTION (R195): an express frame that waits behind an open gate interrupts a preemptable transmission. ts: the instant in 2^-16 ns
since the period began. -/
def execPreemption (p : Fin 8) (ts : Nat) (s : State) : Host.Outcome State Fault Refusal :=
  Cmd.run (fun s =>
    let x := s.eport p
    let waits := (List.finRange 8).any fun j =>
      s.express p.val j.val && !(x.queues[j]).isEmpty && gateLeft s x j.val (fabOf ts) != some 0
    if waits then txPreempt s p (s.nt16 + ts) else s) s

/-- PREEMPT_VERIFY_TIMEOUT (R194): another verify frame is sent; the third failed attempt fails the verification. -/
def execPreemptVerifyTimeout (p : Fin 8) (s : State) : Host.Outcome State Fault Refusal :=
  Cmd.run (fun s =>
    if s.get (R.ETH_PSTAT.pre_state p.val) ≠ 1 then s
    else
      let n := (s.eport p).tries + 1
      let s := s.setEport p { s.eport p with tries := n }
      if 3 ≤ n then (s.put (R.ETH_PSTAT.pre_state p.val) 3).raise 1 3 3 p.val else s.emit (.verify p.val)) s

/-! ## The forwarding table (R201 to R204) -/

/-- bucket() of R202. -/
def State.fdbBucket (s : State) (mac vid : Nat) : Nat :=
  (crc32 (beBytes 6 mac ++ beBytes 2 vid) ^^^ BitVec.ofNat 32 (s.get R.ETH_BR_CFG.seed * 0x10001)).toNat % 1024

/-- The entry of a key. -/
def State.fdbFind (s : State) (mac vid : Nat) : Option FdbEnt := s.eth.fdb.find? (fun e => e.mac == mac && e.vid == vid)

/-- The slot a new key takes: the lowest free way of its bucket, or the lowest free CAM entry. -/
def State.fdbFree (s : State) (mac vid : Nat) : Option Nat :=
  let b := s.fdbBucket mac vid
  let free := fun (k : Nat) => !s.eth.fdb.any (·.slot == k)
  match ((List.range 4).map (fun w => b * 4 + w)).find? free with
  | some k => some k
  | none => ((List.range 64).map (fun w => 4096 + w)).find? free

/-- The table replaced; fdb_used and cam_used follow. -/
def State.setFdb (s : State) (l : List FdbEnt) : State :=
  let s := { s with eth := { s.eth with fdb := l } }
  let cam := (l.filter (fun e => Nat.ble 4096 e.slot)).length
  (s.put R.ETH_BR_STAT.fdb_used (l.length - cam)).put R.ETH_BR_STAT.cam_used cam

/-- Learning (R201, R202): a known dynamic key moves to the port, a new one takes a slot, or fails. -/
def learn (s : State) (mac vid p : Nat) : State :=
  match s.fdbFind mac vid with
  | some e => if e.fixed || e.port == p then s else s.setFdb (s.eth.fdb.map (fun x => if x == e then { e with port := p } else x))
  | none => match s.fdbFree mac vid with
    | some k => s.setFdb (s.eth.fdb ++ [⟨k, mac, vid, p, false⟩])
    | none => ((s.bump R.ETH_BR_LEARN_FAIL.fails).mark R.ETH_BR_STAT.learn_full).raise 0 3 5 (s.fdbBucket mac vid)

/-- FDB_AGEING (R203): a dynamic entry goes, unless ageing is off. -/
def execFdbAgeing (slot : Fin 4160) (s : State) : Host.Outcome State Fault Refusal :=
  Cmd.run (fun s =>
    if s.get R.ETH_BR_CFG.age = 0 then s
    else s.setFdb (s.eth.fdb.filter (fun e => e.fixed || e.slot != slot.val))) s

/-- The trigger of ETH_FDB_CMD (R204): index and op are written; go performs the op. -/
def trigFdb (s : State) (v : Word) : State :=
  let s := s.setReg R.ETH_FDB_CMD.reg (fieldPut 0 16 (s.reg R.ETH_FDB_CMD.reg) v.toNat)
  if !v.getLsbD 16 then s
  else
    let mac := s.get R.ETH_FDB_DATA0.mac + 2 ^ 32 * s.get R.ETH_FDB_DATA1.mac
    let vid := s.get R.ETH_FDB_DATA1.vid
    let p := s.get R.ETH_FDB_DATA1.port
    let s := s.unmark R.ETH_FDB_CMD.err
    match fieldGet 13 3 v with
    | 0 =>
      match s.eth.fdb.find? (·.slot == fieldGet 0 13 v) with
      | some e =>
        let s := (s.put R.ETH_FDB_DATA0.mac e.mac).put R.ETH_FDB_DATA1.mac (e.mac / 2 ^ 32)
        let s := (s.put R.ETH_FDB_DATA1.vid e.vid).put R.ETH_FDB_DATA1.port e.port
        (s.mark R.ETH_FDB_CMD.valid).put R.ETH_FDB_CMD.static_ (bit e.fixed)
      | none => (s.unmark R.ETH_FDB_CMD.valid).unmark R.ETH_FDB_CMD.static_
    | 1 =>
      match s.fdbFind mac vid with
      | some e =>
        (s.setFdb (s.eth.fdb.map (fun x => if x == e then { e with port := p, fixed := true } else x))).put R.ETH_FDB_CMD.index e.slot
      | none => match s.fdbFree mac vid with
        | some k => (s.setFdb (s.eth.fdb ++ [⟨k, mac, vid, p, true⟩])).put R.ETH_FDB_CMD.index k
        | none => s.mark R.ETH_FDB_CMD.err
    | 2 => s.setFdb (s.eth.fdb.filter (fun e => !(e.mac == mac && e.vid == vid)))
    | 3 => s.setFdb (s.eth.fdb.filter (fun e => e.fixed || e.port != p))
    | 4 => s.setFdb (s.eth.fdb.filter (·.fixed))
    | _ => s.mark R.ETH_FDB_CMD.err

/-! ## Forwarding (R200, R205 to R208) -/

/-- A bridge stream entry that is treated as disabled (R208). -/
def State.strBad (s : State) (i : Nat) : Bool :=
  let ports := s.get (R.ETH_BR_STR_W2.ports i)
  Nat.blt (s.get (R.ETH_BR_STR_W2.max_len i)) 64
    || (s.twinMode && ports / 2 ^ s.sys.fuses.twinPort % 2 == 1)
    || (List.range 8).any (fun p => ports / 2 ^ p % 2 == 1 && s.ethOk p && s.flag (R.ETH_EEE.en p))

/-- The bridge stream entry that a frame matches, the lowest-numbered. (DEDUCED, log entry 37.) -/
def State.strFind (s : State) (da vid : Nat) : Option Nat :=
  (s.listed 0x58004 0x10 1024).find? fun i =>
    s.flag (R.ETH_BR_STR_W1.en i) && s.get (R.ETH_BR_STR_W1.vid i) == vid
      && s.get (R.ETH_BR_STR_W0.da_lo i) + 2 ^ 32 * s.get (R.ETH_BR_STR_W1.da_hi i) == da && !s.strBad i

/-- A commit of group 5: entries committed with what R208 forbids. -/
def strCommit (old s : State) : State :=
  (s.listed 0x58004 0x10 1024).foldl (fun s i =>
    let same := (List.range 3).all (fun w => old.reg (0x58000 + 16 * i + 4 * w) == s.reg (0x58000 + 16 * i + 4 * w))
    if s.flag (R.ETH_BR_STR_W1.en i) && s.strBad i && !same then s.raise 1 3 6 i else s) s

/-- Port p is a member of VLAN v; sends it untagged. -/
def State.vlanHas (s : State) (v p : Nat) : Bool := s.get (R.ETH_VLAN.member v) / 2 ^ p % 2 == 1
def State.vlanUntag (s : State) (v p : Nat) : Bool := s.get (R.ETH_VLAN.untag v) / 2 ^ p % 2 == 1

/-- A port to which the bridge may send. -/
def State.brOut (s : State) (p : Nat) : Bool :=
  s.ethOk p && s.linkUp p && s.flag (R.ETH_PCFG.bridge p) && !s.isTwinPort p

/-- A frame as port e sends it in VLAN v, tagged with PCP c or untagged (R200, step 7). -/
def retag (s : State) (b : List Byte) (h : EthHdr) (v c e : Nat) : List Byte :=
  let addr := b.take 12
  let rest := b.drop (h.off - 2)
  if s.vlanUntag v e then addr ++ rest else addr ++ beBytes 2 0x8100 ++ beBytes 2 (c * 8192 + v) ++ rest

/-- Where the bridge sends a frame: the stream entry it matched, the ports, the storm limiter that a flood meets. -/
structure Route2 where
  entry : Option Nat
  ports : List Nat
  storm : Option Nat

/-- Steps 4 to 6 of R200 for a frame from port i (8: the local port). -/
def bridgeRoute (s : State) (h : EthHdr) (v i : Nat) : Route2 :=
  let outs := fun (l : List Nat) => l.filter (fun p => p != i && s.brOut p)
  match s.strFind h.da v with
  | some n => ⟨some n, outs ((List.range 8).filter (fun p => s.get (R.ETH_BR_STR_W2.ports n) / 2 ^ p % 2 == 1 && s.vlanHas v p)), none⟩
  | none =>
    match (if macMulti h.da then none else s.fdbFind h.da v) with
    | some e => ⟨none, outs [e.port], none⟩
    | none =>
      ⟨none, outs ((List.range 8).filter (s.vlanHas v)),
        some (if h.da = 2 ^ 48 - 1 then 0 else if macMulti h.da then 1 else 2)⟩

/-- The storm limiter k of port i lets a frame of n bytes be flooded (R205). -/
def stormTake (s : State) (i : Fin 8) (k n : Nat) : Bool × State :=
  if s.get (R.ETH_STORM.rate i.val k) = 0xFFFF then (true, s)
  else
    let x := s.eport i
    let have_ := x.storm.getD k 0
    if n ≤ have_ then (true, s.setEport i { x with storm := x.storm.set k (have_ - n) })
    else (false, s.bump (R.ETH_RX_STORM_DROP.count i.val))

/-- A frame longer than port e's maxlen is truncated there, with a stomped FCS (R191). -/
def txTrunc (s : State) (e : Nat) (f : QFrame) : QFrame × State :=
  if f.bytes.length + 4 ≤ s.maxlen e then (f, s)
  else ({ f with bytes := f.bytes.take (s.maxlen e - 4), stomp := true }, s.bump (R.ETH_TX_TRUNC.count e))

/-- The class a forwarded frame joins (R192). -/
def fwdClass (s : State) (i : Nat) (ptp : Bool) (entry : Option Nat) (pcp : Nat) : Nat :=
  if ptp then 7
  else match entry with
    | some n => s.get (R.ETH_BR_STR_W2.tc n)
    | none => s.get (R.ETH_PCP_MAP.map i) / 8 ^ pcp % 8

/-- A cut-through transmission on port e is allowed (R206, R207): at_ is the cycle at which byte 64 was received. (DESIGN CHOICE, log entry 34.) -/
def cutOk (s : State) (i e n tc at_ : Nat) : Bool :=
  let x := s.eport (Fin.ofNat 8 e)
  s.flag (R.ETH_PCFG.cut e) && (s.fast i || !s.fast e) && x.tx.isNone && x.held.isNone
    && (x.queues[Fin.ofNat 8 tc]).isEmpty && !s.flag (R.ETH_PSTAT.tx_lpi e)
    && mayStart s e tc (s.get (R.ETH_BR_STR_W2.max_len n) - 4) (gateLeft s x tc at_)

/-- A cut-through transmission of frame f, begun and ended: cut at the entry's max_len or the port's maxlen, its FCS stomped when the frame
is cut, truncated or bad (R191, R206, R207, R261). -/
def cutSend (s : State) (e maxl : Nat) (f : QFrame) (bad : Bool) : State :=
  let lim := min maxl (s.maxlen e)
  let past := Nat.blt lim (f.bytes.length + 4)
  let out := if past then f.bytes.take (lim - 4) else f.bytes
  let s := if past then s.bump (R.ETH_TX_TRUNC.count e) else s
  let s := if bad then s.bump (R.ETH_TX_STOMP.count e) else s
  let s := ((s.bump (R.ETH_TX_FRAMES.count e)).bump (R.ETH_TX_BYTES.count e) (out.length + 4)).bump (R.ETH_TX_CUT.count e)
  ((ethCount (ethCount s e 6 1) e 1 1).bwAdd (8 + e) (out.length + 4)).emit (.eth e out (past || f.stomp || bad))

/-! ## Rings (R210 to R214) -/

/-- A frame of port p goes into receive ring q, or is discarded and counted (R211). ts: the arrival in 2^-16 ns since the period began. -/
def ringFill (s : State) (q : Fin 4) (b : List Byte) (p : Nat) (trunc : Bool) (tag : Option (Nat × Nat)) (vid pcp ts : Nat) : State :=
  let t16 := s.nt16 + ts
  workGo s 39 (.rx q p b (p * 2 ^ 14 + bit trunc * 2 ^ 17 + bit tag.isSome * 2 ^ 20 + pcp * 2 ^ 21)
    (leBytes 4 s.pnl ++ leBytes 4 (t16 / 65536) ++ leBytes 4 (t16 % 65536 + vid * 65536)) s.sys.up)

/-- A header of a segmentation send: where the IP and the transport header start, IPv6, and the length of all (R213). -/
def segHdr (b : List Byte) (udp : Bool) : Option (Nat × Nat × Bool × Nat) :=
  let h := ethHdr b
  let ip := b.drop h.off
  let pr := if udp then 17 else 6
  let finish := fun (v6 : Bool) (io : Nat) =>
    let t := h.off + io
    let hl := if udp then 8 else fbe b (t + 12) 1 / 16 * 4
    if hl < (if udp then 8 else 20) ∨ b.length < t + hl then none else some (h.off, t, v6, t + hl)
  if h.etype = 0x0800 then
    if fbe ip 0 1 / 16 = 4 ∧ fbe ip 9 1 = pr ∧ fbe ip 6 2 % 16384 = 0 ∧ 5 ≤ fbe ip 0 1 % 16 then finish false (fbe ip 0 1 % 16 * 4) else none
  else if h.etype = 0x86DD then
    if fbe ip 0 1 / 16 = 6 ∧ fbe ip 6 1 = pr then finish true 40 else none
  else none

/-- Segment i of n of a send (R214). -/
def segment (hdr : List Byte) (ipo t : Nat) (v6 udp : Bool) (i n mss : Nat) (pl : List Byte) : List Byte :=
  let total := hdr.length - ipo + pl.length
  let b := if v6 then fput hdr (ipo + 4) (beBytes 2 (total - 40))
    else
      let b := fput (fput hdr (ipo + 2) (beBytes 2 total)) (ipo + 4) (beBytes 2 ((fbe hdr (ipo + 4) 2 + i) % 65536))
      let b := fput b (ipo + 10) [0, 0]
      fput b (ipo + 10) (beBytes 2 (inetSum 0 ((b.drop ipo).take (t - ipo))))
  let l4 := hdr.length - t + pl.length
  let b := if udp then fput (fput b (t + 4) (beBytes 2 l4)) (t + 6) [0, 0]
    else
      let fl := fbe hdr (t + 13) 1
      let fl := if i + 1 = n then fl else fl - fl % 2 - (fl / 8 % 2) * 8
      let fl := if i = 0 then fl else fl - fl / 128 * 128
      fput (fput (fput b (t + 4) (beBytes 4 ((fbe hdr (t + 4) 4 + i * mss) % 2 ^ 32))) (t + 13) (beBytes 1 fl)) (t + 16) [0, 0]
  let ck := inetSum (pseudoSum v6 (b.drop ipo) (if udp then 17 else 6) l4) (b.drop t ++ pl)
  fput b (t + if udp then 6 else 16) (beBytes 2 (if ck = 0 ∧ udp then 65535 else ck)) ++ pl

/-- The pieces of a payload. -/
def chunks {α : Type} : Nat → Nat → List α → List (List α)
  | 0, _, _ => []
  | f + 1, n, l => if l.isEmpty then [] else l.take n :: chunks f n (l.drop n)

/-- The frames a transmit descriptor asks for, or the err that refuses it (R212, R213). -/
def txFrames (b : List Byte) (seg udp : Bool) (hdrLen mss maxlen : Nat) : Nat ⊕ List (List Byte) :=
  if !seg then .inr [b]
  else match segHdr b udp with
    | none => .inl 2
    | some (ipo, t, v6, hl) =>
      if hl ≠ hdrLen ∨ mss = 0 then .inl 2
      else if maxlen < hl + min mss (b.length - hl) + 4 then .inl 3
      else
        let l := chunks (b.length + 1) mss (b.drop hl)
        let l := if l.isEmpty then [[]] else l
        .inr ((List.range l.length).map fun i => segment (b.take hl) ipo t v6 udp i l.length mss (l.getD i []))

/-- A frame shorter than 60 bytes is padded with zeros. (DEDUCED, log entry 49.) -/
def padFrame (b : List Byte) : List Byte := b ++ List.replicate (60 - b.length) 0

/-- A range within Larder or Cask. -/
def bufOk (s : State) (a n : Nat) : Bool :=
  (Nat.ble larderBase a && Nat.ble (a + n) (larderBase + 0x1800000))
    || (Nat.ble caskBase a && (s.caskChan (a - caskBase)).isSome && (s.caskChan (a + n - 1 - caskBase)).isSome)

/-- The copies that a frame of a lookup descriptor makes: ports with the frame as each sends it (R200, steps 4 to 7). (DESIGN CHOICE, log entry 35.) -/
def lookupCopies (s : State) (b : List Byte) : List (Nat × List Byte) × State :=
  let h := ethHdr b
  let (f, s) := s.freeNat
  let (vid, pcp) := match h.tag with | some (p, v) => (if v = 0 then f / 8 % 4096 else v, p) | none => (f / 8 % 4096, f % 8)
  let r := bridgeRoute s h vid 8
  (r.ports.map (fun e => (e, retag s b h vid pcp e)), s)

/-- The bytes b of the descriptor d of transmit ring q are there: its frames are queued, or it is refused (R212 to R214). (DEDUCED, log entry 36.) -/
def txTake (s : State) (q : Fin 4) (d b : List Byte) : State :=
  let w := fun (i : Nat) => leWord (d.drop (4 * i))
  let p := fieldGet 8 3 (w 1)
  let look := (w 1).getLsbD 11
  let tc := fieldGet 12 3 (w 1)
  match txFrames b ((w 1).getLsbD 15) ((w 1).getLsbD 16) (fieldGet 17 9 (w 2)) (fieldGet 0 14 (w 3)) (if look then 9216 else s.maxlen p) with
  | .inl err => ringEnd s q err
  | .inr l =>
    if !look && s.isTwinPort p then ringEnd s q 4
    else if !look && (!s.ethOk p || !s.linkUp p) then
      ringEnd (if s.ethOk p then ethCount (s.bump (R.ETH_TX_LINK_DROP.count p) l.length) p 7 l.length else s) q 4
    else
      let (cs, s) := if look then
          l.foldl (fun (acc : List (Nat × List Byte) × State) f =>
            let (c, s) := lookupCopies acc.2 (padFrame f)
            (acc.1 ++ c, s)) (([] : List (Nat × List Byte)), s)
        else (l.map (fun f => (p, padFrame f)), s)
      if cs.isEmpty then ringEnd s q 0
      else
        let s := s.setRing q { s.ring q with busy := true, left := cs.length, err := 0 }
        cs.foldl (fun s (e, f) => ethQueue s e tc ⟨f, .ring q.val, false⟩) s

/-- The rest of a frame of transmit ring q is fetched, as far as the rings may. -/
def fetchRun (s : State) (q : Fin 4) (d got : List Byte) (left : List Beat) : Option RingWork × State :=
  let (x, left, s) := beatsRun s 39 left
  if left.isEmpty then (none, txTake s q d (got ++ x)) else (some (.fetch q d (got ++ x) left), s)

/-- The descriptor at eidx of transmit ring q is fetched, and refused, or its frame is fetched (R212). (DEDUCED, log entry 36.) -/
def txRun (s : State) (q : Fin 4) : Option RingWork × State :=
  let (d, left, s) := beatsRun s 39 (beatSplit (.read (BitVec.ofNat 40 (s.lqBase q.val + 32 * s.get (R.ETH_LQ_IDX.eidx q.val))) 32))
  if !left.isEmpty then (some (.tx q), s)
  else
    let w := fun (i : Nat) => leWord (d.drop (4 * i))
    let buf := (w 0).toNat + 2 ^ 32 * fieldGet 0 8 (w 1)
    let len := fieldGet 0 17 (w 2)
    let maxl := if (w 1).getLsbD 11 then 9216 else s.maxlen (fieldGet 8 3 (w 1))
    if len < 14 ∨ (if (w 1).getLsbD 15 then 65536 else maxl - 4) < len then (none, ringEnd s q 1)
    else if !bufOk s buf len then (none, ringEnd s q 5)
    else fetchRun s q d [] (beatSplit (.read (BitVec.ofNat 40 buf) len))

/-- A piece of ring work goes as far as it may; what is left of it. -/
def ringTurn (s : State) (act : Nat) (w : RingWork) : Option RingWork × State :=
  match w with
  | .tx q => txRun s q
  | .fetch q d got left => fetchRun s q d got left
  | _ => workRun s act w

/-- A piece of ring work is done, or waits. -/
def ringGo (s : State) (act : Nat) (w : RingWork) : State :=
  let s := s.powerWork act
  if (s.ringQ act).isEmpty then
    let (w, s) := ringTurn s act w
    ringWait s act w
  else ringWait s act (some w)

/-- The work that waits of activity 38 or 39 is taken up again, in the order it came, when budgets and allowances are renewed. -/
def ringDrain (s : State) (act : Nat) : State := (s.ringQ act).foldl (fun s w => ringGo s act w) (s.setRingQ act [])

/-- A transmit ring with descriptors is work for its consumer (R345). -/
def ringsRequest (s : State) : State :=
  if [1, 3].any (fun q => s.lqLen q != 0 && s.get (R.ETH_LQ_IDX.eidx q) != s.get (R.ETH_LQ_IDX.sidx q)) then s.powerWork 39 else s

/-- TX_RING_DESCRIPTOR (R210, R212 to R214): the descriptor at eidx is taken; its frames are queued, or it is refused. -/
def execTxRingDescriptor (mgp : Bool) (s : State) : Host.Outcome State Fault Refusal :=
  Cmd.run (fun s =>
    let q : Fin 4 := if mgp then 3 else 1
    if s.lqLen q.val = 0 || (s.ring q).busy || s.get (R.ETH_LQ_IDX.eidx q.val) == s.get (R.ETH_LQ_IDX.sidx q.val) then s
    else ringGo (s.setRing q { s.ring q with busy := true, left := 0, err := 0 }) 39 (.tx q)) s

/-! ## Low-power idle (R215) -/

/-- LPI_ENTRY. -/
def execLpiEntry (p : Fin 8) (s : State) : Host.Outcome State Fault Refusal :=
  Cmd.run (fun s =>
    let x := s.eport p
    let idle := (List.finRange 8).all (fun k => (x.queues[k]).isEmpty) && x.tx.isNone && x.held.isNone
    if s.linkUp p.val && s.flag (R.ETH_EEE.en p.val) && s.get (R.ETH_EEE.tw_tx p.val) != 0 && !s.isTwinPort p.val && idle
        && !s.flag (R.ETH_PSTAT.tx_lpi p.val) then
      (s.mark (R.ETH_PSTAT.tx_lpi p.val)).bump (R.ETH_LPI_ENTRIES.count p.val)
    else s) s

/-- LPI_WAKE. -/
def execLpiWake (p : Fin 8) (s : State) : Host.Outcome State Fault Refusal :=
  Cmd.run (fun s => s.unmark (R.ETH_PSTAT.tx_lpi p.val)) s

/-- RX_LPI_CHANGE. -/
def execRxLpiChange (p : Fin 8) (on : Bool) (s : State) : Host.Outcome State Fault Refusal :=
  Cmd.run (fun s => if s.linkUp p.val then s.put (R.ETH_PSTAT.rx_lpi p.val) (bit on) else s) s

/-! ## A transmission (R199, R210) -/

/-- A class whose head frame may start now, from class k down; only express classes when `only`. -/
def pickClass (s : State) (p : Fin 8) (x : EthPort) (at_ : Nat) (only : Bool) : Nat → Option (Fin 8)
  | 0 => none
  | k + 1 =>
    let c := Fin.ofNat 8 k
    match x.queues[c] with
    | f :: _ =>
      if (!only || s.express p.val k) && mayStart s p.val k f.bytes.length (gateLeft s x k at_) then some c
      else pickClass s p x at_ only k
    | [] => pickClass s p x at_ only k

/-- The frame of port p that starts at instant now, the cycle at_ of the period: taken from its queue, or the preempted one that
resumes. -/
def txPick (s : State) (p : Fin 8) (at_ now : Nat) : Option (TxNow × Bool) × State :=
  let s := gateDrops s p
  let x := s.eport p
  match pickClass s p x at_ (x.held.isSome && s.preActive p.val) 8 with
  | some k =>
    match x.queues[k] with
    | f :: t => (some (⟨k.val, f, now, 0⟩, false), gateDrops (s.setEport p { x with queues := x.queues.set k t }) p)
    | [] => (none, s)
  | none =>
    match x.held with
    | some t =>
      let waits := (List.finRange 8).any fun j => s.express p.val j.val && !(x.queues[j]).isEmpty && gateLeft s x j.val at_ != some 0
      if !waits && gateLeft s x t.k at_ != some 0 then (some ({ t with start := now }, true), s.setEport p { x with held := none }) else (none, s)
    | none => (none, s)

/-- The end of the transmission under way (R210): counted, and what waited for it completes. -/
def txSent (s : State) (p : Fin 8) : State :=
  let x := s.eport p
  match x.tx with
  | none => s
  | some ⟨_, f, _, _⟩ =>
    let s := s.setEport p { x with tx := none }
    let s := (s.bump (R.ETH_TX_FRAMES.count p.val)).bump (R.ETH_TX_BYTES.count p.val) (f.bytes.length + 4)
    let s := (ethCount s p.val 1 1).bwAdd (8 + p.val) (f.bytes.length + 4)
    let s := s.emit (match f.src with | .twin m => .twin p.val f.bytes m | _ => .eth p.val f.bytes f.stomp)
    match f.src with
    | .ring q => ringCopy s q 0
    | .stream c b _ => if b then s.bump (R.SXE_EG_SENT_B.count c) else s.bump (R.SXE_EG_SENT_A.count c)
    | _ => s

/-- ETH_TX_FRAME_SENT (R210). -/
def execEthTxFrameSent (p : Fin 8) (s : State) : Host.Outcome State Fault Refusal := Cmd.run (fun s => txSent s p) s

/-- Every frame of port p is gone with its link (R189). -/
def linkDrop (s : State) (p : Fin 8) : State :=
  let x := s.eport p
  let fs := x.tx.toList.map (·.f) ++ x.held.toList.map (·.f) ++ (List.finRange 8).flatMap (fun k => x.queues[k])
  let s := s.setEport p { x with queues := Vector.replicate 8 [], tx := none, held := none }
  let s := ethCount (s.bump (R.ETH_TX_LINK_DROP.count p.val) fs.length) p.val 7 fs.length
  fs.foldl (fun s f => frameGone s f 4) s

end Sys2Proof.Machine
end

