-- ==== Sys2Proof/Machine/TwinLink.lean ====
section
/-!
DEFINITION. The twin link (R285, R286) and the mirroring of what enters the jitter store (R291).
-/
namespace Sys2Proof.Machine

/-- The twin's service state (R287): 0 off, 1 out, 2 alone, 3 transfer, 4 check, 5 sync, 6 given up. -/
def State.twinState (s : State) : Nat := s.get R.TWIN_STAT.state

/-- In service (R287). -/
def State.inService (s : State) : Bool := s.twinState == 2 || s.twinState == 5

/-- The TWIN_ROLE strap: secondary. -/
def State.secondary (s : State) : Bool := s.sys.straps.twinRole

/-- The twin is the leader (R296). -/
def State.leads (s : State) : Bool := s.twinState == 2 || (s.twinState == 5 && !s.secondary)

/-- The other twin's state in its last agreement frame; 0 when it is lost (R295). -/
def State.peerState (s : State) : Nat :=
  match s.twin.peer with
  | some (a, _, _) => if Nat.ble 3 s.twin.missed then 0 else a.state.val
  | none => 0

/-- The active twin of a re-join that has begun (R303). -/
def State.serving (s : State) : Bool :=
  s.twinState == 2 && (match s.twin.start with | some r => Nat.ble r s.pn | none => false)

/-- The other twin takes part: sync, transfer or check (R297), or a re-join that has begun. -/
def State.peerJoined (s : State) : Bool := s.serving || (let t := s.peerState; t == 3 || t == 4 || t == 5)

/-- Mirroring runs (R291, R303). -/
def State.mirrors (s : State) : Bool := s.twinMode && ((let t := s.twinState; t == 3 || t == 4 || t == 5) || s.serving)

/-! ## Frames (R285, R291) -/

/-- A field of n bytes at offset o of R285's header. -/
def TwinFrame.field (f : TwinFrame) (o n : Nat) : Nat := fbe f.head (14 + o) n

/-- lseq, lack and pn of a frame. -/
def TwinFrame.lseq (f : TwinFrame) : Nat := f.field 4 4
def TwinFrame.lack (f : TwinFrame) : Nat := f.field 8 4
def TwinFrame.pn (f : TwinFrame) : Nat := f.field 12 8

/-- The kind of a message; kinds 0x02 to 0x05 are numbered. -/
def TwinMsg.kind : TwinMsg → Nat
  | .agreement _ => 1 | .mirror _ => 2 | .control .. => 3 | .transfer _ => 4 | .xferCtrl _ => 5 | .ack => 6
def TwinMsg.numbered (m : TwinMsg) : Bool := Nat.ble 2 m.kind && Nat.ble m.kind 5

/-- The words of a mirror record (R291), little-endian. -/
def MirRec.bytes (r : MirRec) : List Byte :=
  leBytes 4 (r.id % 2 ^ 13 + r.kind % 8 * 2 ^ 13) ++ leBytes 4 r.pnl.toNat ++ leBytes 4 r.mask.toNat ++ r.words.flatMap (fun w => leBytes 4 w.toNat)

/-- The number of words after word 2 of a record of kind k whose word 2 is c, at N samples a period. -/
def mirTail (N k c : Nat) : Option Nat := match k with | 0 => some N | 1 => some ((c + 31) / 32) | _ => none

/-- The first n little-endian words of a byte string. -/
def leWords : Nat → List Byte → List Word
  | 0, _ => []
  | n + 1, b => leWord b :: leWords n (b.drop 4)

/-- The records of a mirror frame's payload at N samples a period, as far as they are whole and of a kind that R291 gives. -/
def mirDecode (N : Nat) : Nat → List Byte → List MirRec
  | 0, _ => []
  | fuel + 1, b =>
    let w0 := (leWord b).toNat
    let c := leWord (b.drop 8)
    match mirTail N (w0 / 2 ^ 13 % 8) c.toNat with
    | none => []
    | some n =>
      if b.length < 12 + 4 * n then []
      else ⟨w0 % 2 ^ 13, w0 / 2 ^ 13 % 8, leWord (b.drop 4), c, leWords n (b.drop 12)⟩ :: mirDecode N fuel (b.drop (12 + 4 * n))

/-- The payload of a message: as R291 lays it down, or free where the spec gives no layout (DESIGN CHOICE, log entry 42). -/
def twinPayload (m : TwinMsg) (n : Nat) : List Byte :=
  match m with
  | .mirror l => l.flatMap MirRec.bytes
  | .ack => []
  | m => (Config.twinPayload m.kind n).take 9160

/-- A frame of the twin link goes to TC7 of the twin port (R192, R285): any destination address, here a free one. It acknowledges what has
been received. -/
def twinOut (s : State) (lseq pn : Nat) (m : TwinMsg) (payload : List Byte) : State :=
  let p := s.sys.fuses.twinPort
  let (da, s) := s.freeNat
  let b := ethBuild (da % 2 ^ 48) (s.portMac p) none 0x88B5 ++ beBytes 1 m.kind ++ [1#8] ++ beBytes 2 payload.length ++ beBytes 4 lseq
    ++ beBytes 4 s.twin.lack ++ beBytes 8 pn ++ payload
  ethQueue { s with twin := { s.twin with ackDue := false } } p 7 ⟨padFrame b, .twin m, false⟩

/-- A message is sent; kinds 0x02 to 0x05 take the next lseq and wait for their acknowledgement. The first lseq
after a link up is 1, so that lack = 0 says that nothing has been received. (DEDUCED, log entry 40.) -/
def twinSend (s : State) (pn : Nat) (m : TwinMsg) : State :=
  let (f, s) := match m with | .mirror _ => (0, s) | .ack => (0, s) | _ => s.freeNat
  let b := twinPayload m f
  let n := if m.numbered then (s.twin.lseq + 1) % 2 ^ 32 else 0
  let s := if m.numbered then { s with twin := { s.twin with lseq := n, unacked := s.twin.unacked ++ [⟨n, pn, m, b, s.sys.up⟩] } } else s
  let s := twinOut s n pn m b
  match m with | .mirror _ => s.count 0x38 1 | _ => s

/-! ## Mirroring (R291) -/

/-- The samples of one source and period among the items noted. -/
def mirRecord (s : State) (src m : Nat) : MirRec :=
  let N := s.nSamp
  let l := s.twin.mir.filter (fun x => x.1 == src && x.2.1 / N == m)
  let at_ := fun (i : Nat) => l.find? (fun x => x.2.1 % N == i)
  ⟨src, 0, BitVec.ofNat 32 m,
    BitVec.ofNat 32 ((List.range N).foldl (fun k i => k + bit (at_ i).isSome * 2 ^ i) 0),
    (List.range N).map (fun i => match at_ i with | some x => x.2.2 | none => 0)⟩

/-- Records for period m have been sent. -/
def noteSent (s : State) (m n : Nat) : State :=
  { s with twin := { s.twin with sent := assocSet m ((assocGet m s.twin.sent).getD 0 + n) s.twin.sent } }

/-- Records leave in as few mirror frames as hold them (R285: at most 9,160 bytes of payload). -/
def mirrorSend (s : State) (fuel : Nat) (recs : List MirRec) : State :=
  match fuel, recs with
  | 0, _ => s
  | _, [] => s
  | f + 1, r :: t =>
    let per := max 1 (9160 / (4 * (3 + r.words.length)))
    mirrorSend (twinSend s s.pn (.mirror ((r :: t).take per))) f ((r :: t).drop per)

/-- What a command has written into the jitter store is mirrored (R291). -/
def mirrorFlush (s : State) : State :=
  if s.twin.mir.isEmpty then s
  else
    let keys := (s.twin.mir.map (fun x => (x.1, x.2.1 / s.nSamp))).eraseDups
    let recs := keys.map (fun k => mirRecord s k.1 k.2)
    let s := keys.foldl (fun s k => noteSent s k.2 1) s
    mirrorSend { s with twin := { s.twin with mir := [] } } recs.length recs

/-- A trip of modulator channel c in the carrier cycle of index j of period m, of n cycles (R185, R291). -/
def mirrorTrip (s : State) (c m n j : Nat) : State :=
  if !s.mirrors then s
  else
    let words := (List.range ((n + 31) / 32)).map fun w => if j / 32 = w then BitVec.ofNat 32 (2 ^ (j % 32)) else 0
    twinSend (noteSent s m 1) s.pn (.mirror [⟨c, 1, BitVec.ofNat 32 m, BitVec.ofNat 32 n, words⟩])

end Sys2Proof.Machine
end

