-- ==== Sys2Proof/Machine/Real.lean ====
section
/-!
DEFINITION. The real functions the spec names with exactly rounded results (R72, R78, R80), in fixed point of 128
fraction bits: sine and cosine by their series, the exponential by its binary roots, the logarithm by repeated squaring.
-/
namespace Sys2Proof.Machine

/-- One in fixed point. -/
abbrev fxOne : Nat := 2 ^ 128

/-- π in fixed point. -/
def fxPi : Nat := 0x3243f6a8885a308d313198a2e03707344

/-- 2^(1/2), 2^(1/4), … 2^(1/65536) in fixed point. -/
def fxRoots : List Nat := [
  0x16a09e667f3bcc908b2fb1366ea957d3e, 0x1306fe0a31b7152de8d5a46305c85eded,
  0x1172b83c7d517adcdf7c8c50eb14a7920, 0x10b5586cf9890f6298b92b71842a98364,
  0x1059b0d31585743ae7c548eb68ca417fe, 0x102c9a3e778060ee6f7caca4f7a29bde9,
  0x10163da9fb33356d84a66ae336dcdfa40, 0x100b1afa5abcbed6129ab13ec11dc9544,
  0x10058c86da1c09ea1ff19d294cf2f679c, 0x1002c605e2e8cec506d21bfc89a23a011,
  0x100162f3904051fa128bca9c55c31e5e0, 0x1000b175effdc76ba38e31671ca939726,
  0x100058ba01fb9f96d6cacd4b180917c3e, 0x10002c5cc37da9491d0985c348c68e7b4,
  0x1000162e525ee054754457d5995292027, 0x10000b17255775c040618bf4a4ade83fd]

/-- 2^(k/12) in fixed point, k = 0 to 11. -/
def fxSemi : List Nat := [
  0x100000000000000000000000000000000, 0x10f38f92d97962cbcb533704a0d391b84,
  0x11f59ac3c7d6bfd6be1c781f2bfa2a923, 0x1306fe0a31b7152de8d5a46305c85edec,
  0x1428a2f98d728ae223ddab715be250d0c, 0x155b8108f0ec5dfc946eac64433eb61ff,
  0x16a09e667f3bcc908b2fb1366ea957d3e, 0x17f910d768cfafe6d8be5b92eaf1c8d80,
  0x1965fea53d6e3c82b05999ab43dc4def1, 0x1ae89f995ad3ad5e8734d1773205a7fbc,
  0x1c823e074ec12946a2626ced57a96d6ef, 0x1e3437e7101343b794ac5feffd7a8c0ab]

/-- The terms of an alternating series from term t on: each is the last times x² / (k (k + 1)). -/
def fxSeries : Nat → Nat → Int → Nat → Int
  | 0, _, _, _ => 0
  | n + 1, x2, t, k => t + fxSeries n x2 (-(t * x2 / (fxOne : Int) / (k * (k + 1) : Nat))) (k + 2)

/-- sin x, for x in fixed point from 0 to 2. -/
def fxSin (x : Nat) : Int := fxSeries 24 (x * x / fxOne) x 2

/-- cos x, for x in fixed point from 0 to 2. -/
def fxCos (x : Nat) : Int := fxSeries 24 (x * x / fxOne) fxOne 1

/-- A fixed-point value to the nearest multiple of 2^-bits, as an integer; ties away from zero. -/
def fxRound (v : Int) (bits : Nat) : Int :=
  let h : Int := (2 ^ (127 - bits) : Nat)
  let d : Int := (2 ^ (128 - bits) : Nat)
  if 0 ≤ v then (v + h) / d else -((-v + h) / d)

/-- n / d to the nearest integer, ties away from zero. -/
def divRound (n : Int) (d : Nat) : Int :=
  if 0 ≤ n then (2 * n + d) / (2 * d) else -((2 * (-n) + d) / (2 * d))

/-- The next n fraction bits of log2 m, for m from 1 to 2 with 160 fraction bits, after the bits l. -/
def lgBits : Nat → Nat → Nat → Nat
  | 0, _, l => l
  | n + 1, m, l =>
    let q := m * m / 2 ^ 160
    if 2 ^ 161 ≤ q then lgBits n (q / 2) (2 * l + 1) else lgBits n q (2 * l)

/-- round(65,536 × log2(g / 2^20)) (R78), for g above 0, from the 17 fraction bits of log2 g. -/
def lgQ (g : Nat) : Int := (lgBits 17 (g * 2 ^ 160 / 2 ^ Nat.log2 g) (Nat.log2 g) + 1 : Nat) / 2 - 20 * 65536

/-- The product of the binary roots that the 16 fraction bits of f select. -/
def expFrac (f : Nat) : List Nat → Nat → Nat → Nat
  | [], _, acc => acc
  | r :: t, i, acc => expFrac f t (i - 1) (if f / 2 ^ i % 2 = 1 then acc * r / fxOne else acc)

/-- round(2^20 × 2^(l / 65,536)) (R78). -/
def exQ (l : Int) : Nat :=
  let n := (l + 20 * 65536).toNat
  let m := expFrac (n % 65536) fxRoots 15 fxOne
  (m * 2 ^ (n / 65536) + 2 ^ 127) / 2 ^ 128

end Sys2Proof.Machine
end

