-- ==== Sys2Proof/Machine/Whisk.lean ====
section
/-!
DEFINITION. Whisk (R75 to R84, R465): ramps and fades, the crosspoint entries' changes, transition slots and dips, the
destinations' trim, mute and reaction factors.
-/
namespace Sys2Proof.Machine

/-- 1.0 in Q4.20 and in Q1.20. -/
abbrev unity : Int := 0x100000

/-- (x × y + 2^19) >> 20. -/
def mul20 (x y : Int) : Int := rshift (x * y) 20

/-- sign() of R78: +1 for 0. -/
def sign1 (x : Int) : Int := if x < 0 then -1 else 1

/-- The linear-in-dB law of R78 between values of one sign. An ex() that rounds to 2^24 is kept. (DEDUCED, log entry 89.) -/
def rampDb (s0 s1 : Int) (T i : Nat) : Int :=
  if T ≤ i then s1
  else
    let sg := if s1 ≠ 0 then sign1 s1 else sign1 s0
    let l0 := lgQ (max s0.natAbs 1)
    let l1 := lgQ (max s1.natAbs 1)
    sg * exQ (l0 + (l1 - l0) * i / T)

/-- ramp() of R78. -/
def rampAt (s0 s1 : Int) (T : Nat) (db : Bool) (i : Nat) : Int :=
  if T ≤ i then s1
  else if !db then s0 + (s1 - s0) * i / T
  else if s0 ≠ 0 ∧ s1 ≠ 0 ∧ sign1 s0 ≠ sign1 s1 then
    if i ≤ T / 2 then rampDb s0 (sign1 s0) (T / 2) i else rampDb (sign1 s1) s1 (T - T / 2) (i - T / 2)
  else rampDb s0 s1 T i

/-- A ramp's value at sample count n; R76 gives the values from sample 1, and at sample 0 ramp() is taken as at any other sample. (DEDUCED,
log entry 89.) -/
def Ramp.at (r : Ramp) (n : Nat) : Int := rampAt r.s0 r.s1 r.T r.db (n - r.t0)

/-- A ramp has ended by sample count n. -/
def Ramp.done (r : Ramp) (n : Nat) : Bool := Nat.ble r.T (n - r.t0)

/-- A value at rest. -/
def Ramp.const (v : Int) : Ramp := ⟨v, v, 0, false, 0⟩

/-- A new target (R77): a changed one ends the running ramp at its value of now and starts another; the same one does
not. -/
def Ramp.toward (r : Ramp) (s1 : Int) (T : Nat) (db : Bool) (n : Nat) : Ramp :=
  if r.s1 = s1 then r else ⟨r.at n, s1, T, db, n⟩

/-- c_in of R80 at sample i of a fade over T samples. -/
def fadeIn (i T : Nat) (lin : Bool) : Int :=
  if T ≤ i then unity
  else if i = 0 then 0
  else if lin then unity * i / T
  else fxRound (fxSin (fxPi * i / (2 * T))) 20

/-- c_out of R80. -/
def fadeOut (i T : Nat) (lin : Bool) : Int :=
  if T ≤ i then 0
  else if i = 0 then unity
  else if lin then unity - unity * i / T
  else fxRound (fxCos (fxPi * i / (2 * T))) 20

/-! ## Entries -/

/-- The signed gain that an entry's path carries at sample count n, its fade on top (R80). -/
def XpEnt.level (x : XpEnt) (n : Nat) : Int :=
  match x.fin with
  | none => x.r.at n
  | some (t0, T, lin) => mul20 (x.r.at n) (fadeIn (n - t0) T lin)

/-- The signed gain of a slot's path at sample count n. -/
def XpSlot.level (x : XpSlot) (n : Nat) : Int := mul20 x.g (fadeOut (n - x.t0) x.T x.lin)

/-- The entry's state, if it is enabled or still ramping. -/
def State.xpEnt (s : State) (e : Nat) : Option XpEnt := s.mash.ents.find? (·.e == e)

/-- The entry's state put in its place, entries ascending. -/
def xpInsert (x : XpEnt) : List XpEnt → List XpEnt
  | [] => [x]
  | y :: t => if x.e < y.e then x :: y :: t else if y.e = x.e then x :: t else y :: xpInsert x t

/-- Word 3 of an entry (R84): phase, slot, dipped. -/
def xpReport (s : State) (x : XpEnt) : State :=
  let ph := if x.pend.isSome || x.dipIn then 3
    else if x.slot.isSome then 2
    else if !x.r.done s.mash.base || x.fin.isSome then 1 else 0
  let s := s.put (R.MASH_XP_W3.phase x.e) ph
  match x.slot with
  | some k => s.put (R.MASH_XP_W3.slot x.e) k
  | none => s

/-- The entry's state stored and reported. -/
def State.setXp (s : State) (x : XpEnt) : State :=
  xpReport { s with mash := { s.mash with ents := xpInsert x s.mash.ents } } x

/-- The lowest-numbered free slot. -/
def State.freeXpSlot (s : State) : Option Nat :=
  if s.mash.slots.length < 1024 then (List.range 1024).find? (fun k => !s.mash.slots.any (·.slot == k)) else none

/-- slots_busy and its peak. -/
def xpBusy (s : State) : State :=
  let n := s.mash.slots.length
  (s.put R.MASH_STAT.slots_busy n).put R.MASH_XSLOT_PEAK.slots_peak (max n (s.get R.MASH_XSLOT_PEAK.slots_peak))

/-- An old path goes into slot k and begins to fade (R79, R84). -/
def slotTake (s : State) (k e src dst : Nat) (g : Int) (T : Nat) (lin : Bool) : State :=
  let s := { s with mash := { s.mash with slots := s.mash.slots ++ [⟨k, e, src, dst, g, T, lin, s.mash.base⟩] } }
  ((xpBusy s).setReg R.MASH_XFADES.reg (s.reg R.MASH_XFADES.reg + 1)).count 0x12 1

/-- A dip is counted and raises a class-0 fault naming the entry (R84). -/
def dipCount (s : State) (e : Nat) : State :=
  ((((s.setReg R.MASH_DIPS.reg (s.reg R.MASH_DIPS.reg + 1)).put (R.MASH_XP_W3.dipped e) 1)).count 0x13 1).raise 0 5 2 e

/-- A dip toward a route (R81): the carried path ramps to 0 with the entry's law. -/
def dipStart (s : State) (x : XpEnt) (lvl : Int) (rt : XpRoute) : State :=
  (dipCount s x.e).setXp { x with
    cur := some rt, r := ⟨lvl, 0, rt.T, rt.db, s.mash.base⟩, fin := none, pend := some rt, dipIn := false }

/-- A route change of an entry enabled before and after the commit (R79, R81 to R83): the slot takes the signed gain that the path carries
at sample 0 of the pass; in the fade-in of a dip a route change is one as any other. (DEDUCED, log entry 90.) -/
def routeChange (s : State) (x : XpEnt) (rt : XpRoute) : State :=
  let n := s.mash.base
  if rt.T = 0 then
    (s.put (R.MASH_XP_W3.dipped x.e) 0).setXp { x with
      cur := some rt, src := rt.src, dst := rt.dst, r := Ramp.const rt.g, fin := none, pend := none, dipIn := false }
  else if x.pend.isSome then dipStart s x (x.level n) rt
  else match s.freeXpSlot with
    | none => dipStart s x (x.level n) rt
    | some k =>
      let s := slotTake s k x.e x.src x.dst (x.level n) rt.T rt.lin
      (s.put (R.MASH_XP_W3.dipped x.e) 0).setXp { x with
        cur := some rt, src := rt.src, dst := rt.dst, r := x.r.toward rt.g rt.T rt.db n,
        fin := some (n, rt.T, rt.lin), dipIn := false, slot := some k }

/-- An entry enabled again on another path while it still ramps out (R465). -/
def reviveChange (s : State) (x : XpEnt) (rt : XpRoute) : State :=
  let n := s.mash.base
  let fresh : XpEnt := { x with
    cur := some rt, src := rt.src, dst := rt.dst, r := ⟨0, rt.g, rt.T, rt.db, n⟩, fin := none, pend := none, dipIn := false }
  if rt.T = 0 then s.setXp fresh
  else match s.freeXpSlot with
    | some k => (slotTake s k x.e x.src x.dst (x.level n) rt.T rt.lin).setXp { fresh with slot := some k }
    | none => (dipCount s x.e).setXp { x with cur := some rt, pend := some rt }

/-- A commit gives entry e the route new (none: disabled). rampT and law are those committed with it (R76, R77). An entry whose ramp to
0 has ended is enabled as one at rest; R465 is of one that still ramps. -/
def xpChange (s : State) (e : Nat) (new : Option XpRoute) (rampT : Nat) (law : Bool) : State :=
  let n := s.mash.base
  match s.xpEnt e, new with
  | none, none => s
  | none, some rt => s.setXp ⟨e, some rt, rt.src, rt.dst, ⟨0, rt.g, rt.T, rt.db, n⟩, none, none, false, none⟩
  | some x, none =>
    if x.cur.isNone then s
    else s.setXp { x with cur := none, pend := none, dipIn := false, r := x.r.toward 0 rampT law n }
  | some x, some rt =>
    match x.cur with
    | none =>
      if x.src = rt.src ∧ x.dst = rt.dst then s.setXp { x with cur := some rt, r := x.r.toward rt.g rt.T rt.db n }
      else if x.r.done n then
        s.setXp { x with
          cur := some rt, src := rt.src, dst := rt.dst, r := ⟨0, rt.g, rt.T, rt.db, n⟩, fin := none, pend := none, dipIn := false }
      else reviveChange s x rt
    | some old =>
      if old = rt then s
      else if old.src = rt.src ∧ old.dst = rt.dst then
        if x.pend.isSome then s.setXp { x with cur := some rt, pend := some rt }
        else s.setXp { x with cur := some rt, r := x.r.toward rt.g rt.T rt.db n }
      else routeChange s x rt

/-- At a boundary before its commits: a slot whose fade has ended is free; a dip whose fade-out has ended switches and ramps
in from 0 (R79, R81). -/
def xpBoundary (s : State) : State :=
  let n := s.mash.base
  let dead := s.mash.slots.filter (fun x => Nat.ble (x.t0 + x.T) n)
  let s := if dead.isEmpty then s
    else xpBusy { s with mash := { s.mash with slots := s.mash.slots.filter (fun x => !dead.contains x) } }
  s.mash.ents.foldl (fun s x =>
    let freed := match x.slot with | some k => dead.any (fun d => d.slot == k && d.e == x.e) | none => false
    let x' := if freed then { x with slot := none } else x
    match x'.pend with
    | some rt =>
      if x'.r.done n then
        s.setXp { x' with src := rt.src, dst := rt.dst, r := ⟨0, rt.g, rt.T, rt.db, n⟩, pend := none, dipIn := true }
      else if freed then s.setXp x' else s
    | none => if freed then s.setXp x' else s) s

/-- At the end of a pass: fades and ramps that have ended, and entries that have stopped contributing (R76). -/
def xpEndPass (s : State) : State :=
  let n := s.mash.base
  let s := s.mash.ents.foldl (fun s x =>
    let fin := match x.fin with | some (t0, T, lin) => if t0 + T ≤ n then none else some (t0, T, lin) | none => none
    let x' := { x with fin := fin, dipIn := x.dipIn && !x.r.done n }
    if x' = x ∧ !x.r.done n then s else s.setXp x') s
  let rest := s.mash.ents.filter (fun x => x.cur.isSome || x.pend.isSome || x.slot.isSome || !x.r.done n)
  { s with mash := { s.mash with ents := rest } }

/-! ## Destinations -/

/-- A destination with nothing moved. -/
def DstW.rest (d : Nat) : DstW := ⟨d, Ramp.const unity, Ramp.const unity, none, none, none⟩

/-- The state of a destination. -/
def State.dstW (s : State) (d : Nat) : DstW := (s.mash.dsts.find? (·.d == d)).getD (DstW.rest d)

/-- The state of a destination stored. -/
def State.setDstW (s : State) (x : DstW) : State :=
  { s with mash := { s.mash with dsts := x :: s.mash.dsts.filter (·.d != x.d) } }

/-- The committed trim and mute of a destination take their ramps (R73, R76, R77). -/
def dstChange (s : State) (d : Nat) (T : Nat) : State :=
  let x := s.dstW d
  let law := s.flag (R.MASH_DST_GAIN.law d)
  let n := s.mash.base
  s.setDstW { x with
    trim := x.trim.toward (s.get (R.MASH_DST_GAIN.trim d)) T law n
    mute := x.mute.toward (if s.flag (R.MASH_DST_GAIN.mute d) then 0 else unity) T law n }

/-- The three reactions of R75. -/
inductive React where
  | eng | safe | prot
  deriving DecidableEq, Repr

/-- A reaction's factor of a destination. -/
def DstW.react (x : DstW) : React → Option Ramp
  | .eng => x.eng
  | .safe => x.safe
  | .prot => x.prot

/-- A reaction's factor replaced. -/
def DstW.setReact (x : DstW) (k : React) (r : Option Ramp) : DstW :=
  match k with
  | .eng => { x with eng := r }
  | .safe => { x with safe := r }
  | .prot => { x with prot := r }

/-- A reaction ramps its factor toward a target over T samples, linear in amplitude; an unchanged target continues the ramp
that runs (R75, R398); T = 0 sets it at once. -/
def reactHold (s : State) (k : React) (d : Nat) (target : Int) (T : Nat) : State :=
  let x := s.dstW d
  let r := (x.react k).getD (Ramp.const unity)
  s.setDstW (x.setReact k (some (if T = 0 then Ramp.const target else r.toward target T false s.mash.base)))

/-- A reaction releases a destination over its ramp_time with its law (R75). -/
def reactRelease (s : State) (k : React) (d : Nat) : State :=
  let x := s.dstW d
  match x.react k with
  | none => s
  | some r =>
    s.setDstW (x.setReact k (some (r.toward unity (s.get (R.MASH_DST_CTL.ramp_time d)) (s.flag (R.MASH_DST_GAIN.law d)) s.mash.base)))

/-- A reaction's factor at sample count n. -/
def reactAt (r : Option Ramp) (n : Nat) : Int := match r with | some r => r.at n | none => unity

/-- react_g at sample count n (R75). -/
def DstW.reactG (x : DstW) (n : Nat) : Int := mul20 (mul20 (mul20 unity (reactAt x.eng n)) (reactAt x.safe n)) (reactAt x.prot n)

/-- A reaction's factor stands at its target. -/
def reactDone (s : State) (k : React) (d : Nat) : Bool :=
  match (s.dstW d).react k with | some r => r.done s.mash.base | none => true

/-- At the end of a pass a reaction that has released, and a destination at rest, need no state. -/
def dstEndPass (s : State) : State :=
  let n := s.mash.base
  let clean := fun (r : Option Ramp) => match r with | some q => if q.s1 = unity ∧ q.done n then none else some q | none => none
  let l := s.mash.dsts.map (fun x => { x with eng := clean x.eng, safe := clean x.safe, prot := clean x.prot })
  let l := l.filter (fun x => x.eng.isSome || x.safe.isSome || x.prot.isSome || x.trim.s1 != unity || x.mute.s1 != unity
    || !x.trim.done n || !x.mute.done n)
  { s with mash := { s.mash with dsts := l } }

end Sys2Proof.Machine
end

