-- ==== Sys2Proof/Machine/Xio.lean ====
section
/-!
DEFINITION. Local I/O (chapter 6): TDM groups and their frames, elastic buffers, clock loss, rate bridges; and the jitter
store that local samples enter (R228).
-/
namespace Sys2Proof.Machine

/-! ## The jitter store (R228) -/

/-- An item written is noted for mirroring (R291). -/
def mirrorNote (s : State) (src n : Nat) (v : Word) : State :=
  if s.mirrors then { s with twin := { s.twin with mir := s.twin.mir ++ [(src, n, v)] } } else s

/-- A sample of grid sample n of a source goes into the store unless its slot holds a valid sample of n; a new period clears
the slot. True: it was written. -/
def storePut (s : State) (src n : Nat) (v : Word) : Bool × State :=
  let m := n / s.nSamp
  let i := n % s.nSamp
  let ring := s.dIn + 2
  let mine := fun (x : StoreSlot) => x.src == src && x.m % ring == m % ring
  let put := fun (l : List StoreSlot) => mirrorNote { s with sxe := { s.sxe with store := l } } src n v
  match s.sxe.store.find? mine with
  | none => (true, put (s.sxe.store ++ [⟨src, m, (List.replicate s.nSamp none).set i (some v)⟩]))
  | some x =>
    if x.m = m then
      if ((x.v.getD i none)).isSome then (false, s)
      else (true, put (s.sxe.store.map (fun y => if mine y then { y with v := y.v.set i (some v) } else y)))
    else (true, put (s.sxe.store.map (fun y =>
      if mine y then ⟨src, m, (List.replicate s.nSamp none).set i (some v)⟩ else y)))

/-- The samples of period k that the store holds for a source. -/
def storeRead (l : List StoreSlot) (src k : Nat) : List (Option Word) :=
  match l.find? (fun x => x.src == src && x.m == k) with
  | some x => x.v
  | none => []

/-! ## Groups and ports (R149 to R155) -/

/-- Ports and groups present (R150). -/
def State.portOk (s : State) (p : Nat) : Bool := Nat.blt p s.sys.fuses.tdm
def State.grpOk (s : State) (g : Nat) : Bool := Nat.blt (8 * g) s.sys.fuses.tdm

/-- Slots per frame, bits per slot. -/
def State.grpSlots (s : State) (g : Nat) : Nat := s.get (R.XIO_GRP_CFG.slots_m1 g) + 1
def State.slotBits (s : State) (g : Nat) : Nat := 16 + 8 * s.get (R.XIO_GRP_CFG.slot_width g)

/-- The domain of a group; master. -/
def State.grpDom (s : State) (g : Nat) : Nat := s.get (R.XIO_GRP_CFG.domain g)
def State.grpMaster (s : State) (g : Nat) : Bool := s.flag (R.XIO_GRP_CFG.master g)

/-- A group named as its domain's source (R161): no elastic buffer. -/
def State.grpSource (s : State) (g : Nat) : Bool :=
  let d := s.grpDom g
  d != 0 && s.get (R.XIO_DOM.src (d - 1)) == 3 && s.get (R.XIO_DOM.grp (d - 1)) == g

/-- Word widths of port p, at most the slot width (R153). -/
def State.winBits (s : State) (p : Nat) : Nat := min (16 + 8 * s.get (R.XIO_PORT.win p)) (s.slotBits (p / 8))
def State.woutBits (s : State) (p : Nat) : Nat := min (16 + 8 * s.get (R.XIO_PORT.wout p)) (s.slotBits (p / 8))

/-- The rate of a domain as a fraction of integers (R161). -/
def State.domRate (s : State) (d : Nat) : Nat × Nat :=
  if d = 0 then (s.fs, 1)
  else
    let r := [32000, 44100, 48000, 88200, 96000, 176400, 192000].getD (s.get (R.XIO_DOM.rate (d - 1))) 48000
    if s.flag (R.XIO_DOM.pull (d - 1)) then (r * 1000, 1001) else (r, 1)

/-- The top w bits of a word as the Q1.31 sample (R153). -/
def wordIn (w : Nat) (x : Word) : Word := x &&& BitVec.ofNat 32 ((2 ^ w - 1) * 2 ^ (32 - w))

/-- An output sample as a word of w bits aligned to the top (R153, R221). -/
def wordOut (w : Nat) (x : Int) : Word :=
  if 32 ≤ w then BitVec.ofInt 32 x
  else BitVec.ofInt 32 (min (((2 ^ (w - 1) : Nat) : Int) - 1) (rshift x (32 - w)) * (2 ^ (32 - w) : Nat))

/-- Group g replaced. -/
def State.setGrp (s : State) (g : Fin 4) (x : XioGrp) : State := { s with xio := { s.xio with grp := s.xio.grp.set g x } }

/-- Group g. -/
def State.grp (s : State) (g : Fin 4) : XioGrp := s.xio.grp[g]

/-! ## Rate bridges (R163 to R166) -/

/-- The group a bridge joins. -/
def State.brGrp (s : State) (b : Nat) : Nat := s.get (R.XIO_BR_CFG.port b) / 8

/-- The group delay G of a bridge in grid samples (R164). -/
def State.brDelay (s : State) (b : Nat) : Nat :=
  let (n, d) := s.domRate (s.grpDom (s.brGrp b))
  let up := if n ≤ s.fs * d then (16 * s.fs * d + n - 1) / n else 16
  max (s.get (R.XIO_BR_CFG.gd_target b)) (s.nSamp + up)

/-- A bridge's record replaced. -/
def State.setBridge (s : State) (x : BridgeU) : State :=
  { s with xio := { s.xio with bridges := s.xio.bridges.map (fun y => if y.b == x.b then x else y) } }

/-- A locked bridge unlocks (R166). -/
def bridgeUnlock (s : State) (b : Nat) : State :=
  match s.xio.bridges.find? (·.b == b) with
  | none => s
  | some x =>
    if !x.locked then s
    else
      let s := s.setBridge { x with locked := false, n := 0, lvl := x.n, late := 0 }
      let s := ((s.unmark (R.XIO_BR_STAT.locked b)).mark (R.XIO_BR_STAT.unlocked_evt b)).bump (R.XIO_BR_STAT.unlocks b)
      ((s.setReg (R.XIO_BR_GD.reg b) 0).raise 1 7 7 b).count 0xC2 1

/-- Every bridge that `which` names unlocks. -/
def bridgesUnlock (s : State) (which : Nat → Bool) : State :=
  s.xio.bridges.foldl (fun s x => if which x.b then bridgeUnlock s x.b else s) s

/-- The ratio lies within 1/6 to 4 in Q4.28 (R164). -/
def ratioOk (r : Word) : Bool := Nat.ble (2 ^ 28) (6 * r.toNat) && Nat.ble r.toNat (2 ^ 30)

/-- BRIDGE_LOCK (R166): the domain is locked, the group's clock is good. -/
def execBridgeLock (b : Fin 256) (ratio : Word) (s : State) : Host.Outcome State Fault Refusal :=
  Cmd.run (fun s =>
    match s.xio.bridges.find? (·.b == b.val) with
    | none => s
    | some x =>
      let g := s.brGrp b.val
      let s := s.setReg (R.XIO_BR_RATIO.reg b.val) ratio
      if !ratioOk ratio then bridgeUnlock s b.val
      else if x.locked || !s.flag (R.XIO_DOM.locked (s.grpDom g - 1)) || !s.flag (R.XIO_GRP_STAT.clk_ok g) then s
      else
        let s := s.setBridge { x with locked := true, n := 0 }
        (s.mark (R.XIO_BR_STAT.locked b.val)).setReg (R.XIO_BR_GD.reg b.val) (BitVec.ofNat 32 (s.brDelay b.val * 65536))) s

/-- An input sample reaches a bridge. -/
def bridgeInput (s : State) (b : Nat) (v : Int) : State :=
  match s.xio.bridges.find? (·.b == b) with
  | none => s
  | some x => s.setBridge { x with hist := (v :: x.hist).take 2048, late := if x.locked then 0 else x.late + 1 }

/-- The input samples as the conversion takes them: after an unlock zeros follow the last one before it (R166), at least one for each that
`rate` (Q4.28) gives the output samples since. -/
def BridgeU.inputs (x : BridgeU) (rate : Nat) : List Int :=
  if x.locked then x.hist else List.replicate (max x.late ((x.n + 1) * rate / 2 ^ 28)) 0 ++ x.hist.drop x.late

/-- The next converted sample of a bridge: the weighted sum of the input samples about the one that came `lag` (Q4.28) of them before the
latest, saturated (R164, R165), with the fade of R166 on top; zero once faded out. `rate` is the input samples to an output sample. The
weights, and the place between two samples, are free values. (DESIGN CHOICE, log entry 31.) -/
def bridgeSample (s : State) (b rate : Nat) (lag : Int) : Int × State :=
  match s.xio.bridges.find? (·.b == b) with
  | none => (0, s)
  | some x =>
    let (w, s) := s.freeWord
    let l := x.inputs rate
    let half : Nat := 16 * max 1 ((rate + 2 ^ 28 - 1) / 2 ^ 28)
    let at_ := fun (k : Nat) => let i : Int := lag / 2 ^ 28 - half + k; if i < 0 then 0 else l.getD i.toNat 0
    let v := satS 32 (rshift (((List.range (2 * half)).map (fun k => Config.bridgeTap (s.reg (R.XIO_BR_RATIO.reg b)) w k * at_ k)).sum) 30)
    let j := x.n + 1
    let y := if x.locked then (if j < 1024 then v * j / 1024 else v) else if j < 64 then v * x.lvl * (64 - j) / 65536 else 0
    (y, s.setBridge { x with n := min j 1024 })

/-- A local-to-grid bridge's sample of grid instant i of the period that ends (R164): its inputs run at the ratio tracked. -/
def bridgeGrid (s : State) (b i : Nat) : Int × State :=
  let r := (s.reg (R.XIO_BR_RATIO.reg b)).toNat
  bridgeSample s b r (((s.brDelay b + s.nSamp - i) * r : Nat) : Int)

/-- A grid-to-local bridge's sample of the local frame j of the period (R164): its inputs are the period's samples and those before. -/
def bridgeLocal (s : State) (b j : Nat) : Int × State :=
  let r := (s.reg (R.XIO_BR_RATIO.reg b)).toNat
  let inv := if r = 0 then 0 else 2 ^ 56 / r
  bridgeSample s b inv ((((s.brDelay b + s.nSamp - 1) * 2 ^ 28 : Nat) : Int) - ((j * inv : Nat) : Int))

/-! ## Frames (R152 to R160) -/

/-- A bridge that runs and drives this slot, grid to local. -/
def State.slotBridge (s : State) (p k : Nat) : Option Nat :=
  (s.xio.bridges.find? (fun x =>
    s.flag (R.XIO_BR_CFG.dir x.b) && s.get (R.XIO_BR_CFG.port x.b) == p && s.get (R.XIO_BR_CFG.slot x.b) == k)).map (·.b)

/-- The local output channel that drives this slot. -/
def State.slotOut (s : State) (p k : Nat) : Option Nat :=
  (s.listed 0x401800 4 512).find? (fun j =>
    s.flag (R.XIO_OMAP.valid j) && s.get (R.XIO_OMAP.port j) == p && s.get (R.XIO_OMAP.slot j) == k)

/-- What port p drives in slot k of frame i of the period, that of grid instant i in domain 0 (R153, R154). -/
def slotDrive (s : State) (p k i : Nat) : Option Word × State :=
  let w := s.woutBits p
  if !s.flag (R.XIO_PORT.out_en p) then (some 0, s)
  else if s.grpDom (p / 8) = 0 then
    match s.slotOut p k with
    | some j => (some (wordOut w (((assocGet (0x1000 + j) s.mash.pres).getD []).getD i 0)), s)
    | none => (if s.flag (R.XIO_PORT.out_hiz p) then none else some 0, s)
  else match s.slotBridge p k with
    | some b => let (v, s) := bridgeLocal s b i; (some (wordOut w v), s)
    | none => (if s.flag (R.XIO_PORT.out_hiz p) then none else some 0, s)

/-- The output frame of group g for grid instant i of the period. -/
def frameDrive (s : State) (g i : Nat) : TdmOut × State :=
  ((List.range 8).filter (fun p => s.portOk (8 * g + p))).foldl (fun (acc : TdmOut × State) p =>
    let (l, s) := (List.range (acc.2.grpSlots g)).foldl (fun (a : List (Option Word) × State) k =>
      let (o, s) := slotDrive a.2 (8 * g + p) k i
      (a.1 ++ [o], s)) (([] : List (Option Word)), acc.2)
    (acc.1 ++ [l], s)) (([] : TdmOut), s)

/-- What a group's balls carry of an output frame (R152, R277). -/
def tdmWire (s : State) (g : Nat) (o : TdmOut) : TdmWire where
  fs :=
    let n := s.grpSlots g * s.slotBits g
    let on := match s.get (R.XIO_GRP_CFG.fs_mode g) with | 0 => 1 | 1 => s.slotBits g | _ => n / 2
    if s.grpMaster g then (List.range n).map (fun i => Nat.blt i on != s.flag (R.XIO_GRP_CFG.fs_pol g)) else []
  lead := s.get (R.XIO_GRP_CFG.fs_delay g)
  rise := s.flag (R.XIO_GRP_CFG.bclk_pol g)
  bits := o.map (fun port => port.flatMap (fun w => (List.range (s.slotBits g)).map (fun i => w.map (fun v => v.getLsbD (31 - i)))))
  lag := if s.grpDom g = 0 then s.kiln.lag % s.sampVco else 0

/-- A group sends an output frame. -/
def tdmSend (s : State) (g : Nat) (o : TdmOut) : State := s.emit (.tdm g o (tdmWire s g o))

/-- A frame of zeros. -/
def zeroFrame (s : State) (g : Nat) : TdmOut :=
  ((List.range 8).filter (fun p => s.portOk (8 * g + p))).map (fun _ => List.replicate (s.grpSlots g) (some 0))

/-- The sample that port p takes from slot k of a frame (R153, R154). -/
def slotIn (s : State) (f : TdmFrame) (p k : Nat) : Int :=
  if s.flag (R.XIO_PORT.in_en p) then (wordIn (s.winBits p) ((f.getD (p % 8) []).getD k 0)).toInt else 0

/-- The input channels of a domain-0 group take the frame of their grid instant: input sample n of R159, with the fades of
R158. -/
def frameStore (s : State) (g : Fin 4) (f : TdmFrame) (n : Nat) : State :=
  let x := s.grp g
  (s.listed 0x401000 4 512).foldl (fun s i =>
    let p := s.get (R.XIO_IMAP.port i)
    if !s.flag (R.XIO_IMAP.valid i) || p / 8 != g.val then s
    else
      let v := slotIn s f p (s.get (R.XIO_IMAP.slot i))
      let v := match x.loss, x.rise with
        | some j, _ => if 63 ≤ j then 0 else v * (63 - (j : Int)) * x.lvl / 4096
        | none, some j => if 63 ≤ j then v else v * ((j : Int) + 1) / 64
        | none, none => v
      (storePut s (0x1000 + i) n (BitVec.ofInt 32 v)).2) s

/-- The local-to-grid bridges of a group in another domain take their slots of a frame (R163). -/
def frameBridges (s : State) (g : Nat) (f : TdmFrame) : State :=
  s.xio.bridges.foldl (fun s x =>
    let p := s.get (R.XIO_BR_CFG.port x.b)
    if s.flag (R.XIO_BR_CFG.dir x.b) || p / 8 != g then s else bridgeInput s x.b (slotIn s f p (s.get (R.XIO_BR_CFG.slot x.b)))) s

/-- The fades move on by a sample. (DEDUCED, log entry 27.) -/
def XioGrp.fade (x : XioGrp) : XioGrp :=
  { x with loss := x.loss.map (fun j => min 64 (j + 1)),
           rise := match x.rise with | some j => if 63 ≤ j then none else some (j + 1) | none => none }

/-- A slip is counted (R157). -/
def slip (s : State) (g : Nat) : State := ((s.bump (R.XIO_GRP_STAT.slips g)).raise 1 7 2 g).count 0xC0 1

/-- The engine takes one frame of group g at the instant of a master frame: its samples go to the input channels of domain 0, or to the
bridges of another domain. While the data plane is idle after a time set nothing is taken (R42, R467). -/
def grpTake (s : State) (g : Fin 4) (f : TdmFrame) : State :=
  let x := s.grp g
  if s.sys.idle then s.setGrp g { x.fade with last := f }
  else
    let s := if s.grpDom g.val = 0 then frameStore s g f (s.pn * s.nSamp + x.cnt + 1) else frameBridges s g.val f
    let x := s.grp g
    s.setGrp g { x.fade with cnt := x.cnt + 1, last := f }

/-- The engine reads the elastic buffer of slave group g and writes it, at the instant of a master frame (R157): its two halves hold four
frames together. A frame is repeated, and an output frame dropped, when the input half would be left empty; without a clock the last
frame fades and output frames are discarded (R158); while the buffer fills nothing is read. -/
def slaveTake (s : State) (g : Fin 4) : State :=
  let x := s.grp g
  if s.grpDom g.val = 0 ∧ s.nSamp ≤ x.cnt then s
  else
    let (o, s) := frameDrive s g.val x.cnt
    let x := s.grp g
    if x.loss.isSome then grpTake s g x.last
    else if x.filling then s.setGrp g { x with cnt := x.cnt + 1, outq := (if 2 ≤ x.outq.length then x.outq.tail else x.outq) ++ [o] }
    else match x.inq with
      | f :: f2 :: t => grpTake (s.setGrp g { x with inq := f2 :: t, outq := x.outq ++ [o] }) g f
      | _ => grpTake ((slip s g.val).setGrp g { x with outq := x.outq.tail ++ [o] }) g x.last

/-- slaveTake, n times. -/
def slaveTakes (g : Fin 4) : Nat → State → State
  | 0, s => s
  | n + 1, s => slaveTakes g n (slaveTake s g)

/-- An external frame of slave group g (R157): its input goes into the buffer and the oldest output frame goes out. A frame is dropped, and
an output frame repeated, when the input half would be full. The buffer fills to two frames, and zeros go out meanwhile (DESIGN CHOICE, log entry
94). -/
def slavePush (s : State) (g : Fin 4) (f : TdmFrame) : State :=
  let x := s.grp g
  let zero := zeroFrame s g.val
  let o := x.outq.headD zero
  if x.filling then
    if x.inq.isEmpty then tdmSend (s.setGrp g { x with inq := [f] }) g.val zero
    else tdmSend (s.setGrp g { x with
      inq := x.inq ++ [f], filling := false, outq := List.replicate (2 - x.outq.length) zero ++ x.outq }) g.val zero
  else if 3 ≤ x.inq.length then tdmSend ((slip s g.val).setGrp g { x with inq := x.inq.tail ++ [f] }) g.val o
  else tdmSend (s.setGrp g { x with inq := x.inq ++ [f], outq := x.outq.tail }) g.val o

/-- The level, in 64ths, of the last input sample of a group (R158). -/
def XioGrp.level (x : XioGrp) : Nat := if x.filling then 0 else match x.rise with | some j => j | none => 64

/-- Group g loses its clock (R158). -/
def clockLoss (s : State) (g : Fin 4) : State :=
  if s.grpMaster g.val || !(s.grp g).run || !s.flag (R.XIO_GRP_STAT.clk_ok g.val) then s
  else
    let x := s.grp g
    let s := (s.unmark (R.XIO_GRP_STAT.clk_ok g.val)).raise 1 7 4 g.val
    let s := s.setGrp g { x with loss := some 0, rise := none, good := 0, lvl := x.level, filling := false, inq := [], outq := [] }
    bridgesUnlock s (fun b => s.brGrp b == g.val)

/-- The synthesiser of domain d + 1 unlocks, and its bridges with it (R166, R280). -/
def domUnlock (s : State) (d : Nat) : State :=
  if s.get (R.XIO_DOM.src d) = 0 || !s.flag (R.XIO_DOM.locked d) then s
  else bridgesUnlock (s.unmark (R.XIO_DOM.locked d)) (fun b => s.grpDom (s.brGrp b) == d + 1)

/-- No frame start of group g arrives for four frame periods: it loses its clock, and the domain that follows it its reference (R158,
R280). -/
def frameLoss (s : State) (g : Fin 4) : State :=
  if s.grpMaster g.val || !(s.grp g).run then s
  else
    let s := clockLoss s g
    let s := s.setGrp g { s.grp g with alive := false, good := 0 }
    (List.range 2).foldl (fun s d => if s.get (R.XIO_DOM.src d) = 3 ∧ s.get (R.XIO_DOM.grp d) = g.val then domUnlock s d else s) s

/-- TDM_CLOCK_LOSS (R158). -/
def execTdmClockLoss (g : Fin 4) (s : State) : Host.Outcome State Fault Refusal := Cmd.run (fun s => frameLoss s g) s

/-- The clock checks of a slave's frame (R158): its content, or the frame before it after a framing error; four errors in a
row lose the clock; 64 good frames bring it back. -/
def slaveCheck (s : State) (g : Fin 4) (f : TdmFrame) (bits : Nat) (onTime : Bool) : TdmFrame × State :=
  let x := s.grp g
  let ok := bits == s.grpSlots g.val * s.slotBits g.val
  let f := if ok then f else x.recv
  let s := if ok then s else (s.mark (R.XIO_GRP_STAT.frame_err g.val)).count 0xC1 1
  let s := s.setGrp g { x with
    recv := f, alive := true, errs := if ok then 0 else x.errs + 1, good := if ok && onTime then x.good + 1 else 0 }
  let s := if (s.grp g).errs = 4 then clockLoss s g else s
  let x := s.grp g
  if !s.flag (R.XIO_GRP_STAT.clk_ok g.val) ∧ 64 ≤ x.good then
    (f, (s.mark (R.XIO_GRP_STAT.clk_ok g.val)).setGrp g { x with loss := none, rise := some 0, inq := [], outq := [], filling := true })
  else (f, s)

/-- The ratio a group's bridges track (R164); one out of range unlocks them. -/
def ratioTrack (s : State) (g : Nat) (ratio : Word) : State :=
  s.xio.bridges.foldl (fun s x =>
    if s.brGrp x.b != g then s
    else
      let s := s.setReg (R.XIO_BR_RATIO.reg x.b) ratio
      if ratioOk ratio then s else bridgeUnlock s x.b) s

/-- TDM_FRAME (R152 to R160): a frame of a running group. -/
def execTdmFrame (g : Fin 4) (slots : List (List Word)) (bits : Nat) (onTime : Bool) (took : Nat) (phase ratio : Word)
    (s : State) : Host.Outcome State Fault Refusal :=
  Cmd.run (fun s =>
    let x := s.grp g
    if !x.run then s
    else
      let s := if s.grpDom g.val = 0 then s else ratioTrack s g.val ratio
      if s.grpMaster g.val then
        if s.grpDom g.val = 0 ∧ s.nSamp ≤ x.cnt then s
        else
          let (o, s) := frameDrive s g.val x.cnt
          mirrorFlush (grpTake (tdmSend s g.val o) g slots)
      else
        let s := s.setReg (R.XIO_GRP_PHASE.reg g.val) phase
        let (f, s) := slaveCheck s g slots bits onTime
        let s := if s.grpSource g.val then
            let (o, s) := frameDrive s g.val x.cnt
            let s := if s.flag (R.XIO_GRP_STAT.clk_ok g.val) then tdmSend s g.val o else s
            grpTake s g f
          else
            let s := slaveTakes g took s
            if s.flag (R.XIO_GRP_STAT.clk_ok g.val) then slavePush s g f else s
        mirrorFlush (s.put (R.XIO_GRP_STAT.fill g.val) (s.grp g).inq.length)) s

/-- The period ends: a slave group has taken a frame for every grid instant of it, a master group that was given fewer frames
has taken none; the local-to-grid bridges have put their samples of the period into the store (R164). (DEDUCED, log entry 30.) An idle
data plane takes nothing (R42). -/
def xioPeriodEnd (s : State) : State :=
  let s := (List.finRange 4).foldl (fun s g =>
    let x := s.grp g
    if !x.run then s
    else
      let s := if s.grpDom g.val = 0 ∧ !s.grpMaster g.val ∧ !s.sys.idle then slaveTakes g (s.nSamp - x.cnt) s else s
      (s.setGrp g { s.grp g with cnt := 0 }).put (R.XIO_GRP_STAT.fill g.val) (s.grp g).inq.length) s
  if s.sys.idle then s
  else mirrorFlush (s.xio.bridges.foldl (fun s x =>
    if s.flag (R.XIO_BR_CFG.dir x.b) then s
    else (List.range s.nSamp).foldl (fun s i =>
      let (v, s) := bridgeGrid s x.b i
      (storePut s (0x1A00 + x.b) (s.pn * s.nSamp + i) (BitVec.ofInt 32 v)).2) s) s)

/-- The samples presented in the period that begins reach the grid-to-local bridges (R163, R164). -/
def bridgesPresent (s : State) : State :=
  s.xio.bridges.foldl (fun s x =>
    if !s.flag (R.XIO_BR_CFG.dir x.b) then s
    else (List.range s.nSamp).foldl (fun s i => bridgeInput s x.b (((assocGet (0x1A00 + x.b) s.mash.pres).getD []).getD i 0)) s) s

/-! ## Start (R153, R155, R156, R160, R163) -/

/-- A map entry that assigns its channel (R160). -/
def mapOk (s : State) (en : Bool) (p k : Nat) (portEn : Bool) : Bool :=
  en && s.portOk p && portEn && s.grpDom (p / 8) == 0 && Nat.blt k (s.grpSlots (p / 8))

/-- The slot maps at a start: valid, and the outputs that a lower-numbered channel keeps from their slot. -/
def mapsStart (s : State) : State :=
  let s := (s.listed 0x401000 4 512).foldl (fun s i =>
    let p := s.get (R.XIO_IMAP.port i)
    s.put (R.XIO_IMAP.valid i) (bit (mapOk s (s.flag (R.XIO_IMAP.en i)) p (s.get (R.XIO_IMAP.slot i)) (s.flag (R.XIO_PORT.in_en p))))) s
  ((s.listed 0x401800 4 512).foldl (fun (acc : List (Nat × Nat) × State) j =>
    let s := acc.2
    let p := s.get (R.XIO_OMAP.port j)
    let k := s.get (R.XIO_OMAP.slot j)
    if !mapOk s (s.flag (R.XIO_OMAP.en j)) p k (s.flag (R.XIO_PORT.out_en p)) then (acc.1, s.unmark (R.XIO_OMAP.valid j))
    else if acc.1.contains (p, k) then (acc.1, (s.unmark (R.XIO_OMAP.valid j)).raise 1 7 5 j)
    else ((p, k) :: acc.1, s.mark (R.XIO_OMAP.valid j))) (([] : List (Nat × Nat)), s)).2

/-- The bridges that run (R163). -/
def bridgesStart (s : State) : State :=
  let (l, _, s) := ((s.listed 0x402000 0x10 256).filter (fun b => s.flag (R.XIO_BR_CFG.en b))).foldl
    (fun (acc : List BridgeU × List (Nat × Nat) × State) b =>
      let (l, used, s) := acc
      let p := s.get (R.XIO_BR_CFG.port b)
      let k := s.get (R.XIO_BR_CFG.slot b)
      if !s.portOk p || !Nat.blt k (s.grpSlots (p / 8)) || s.grpDom (p / 8) == 0 then (l, used, s.raise 1 7 6 b)
      else if s.flag (R.XIO_BR_CFG.dir b) then
        if used.contains (p, k) then (l, used, s) else (l ++ [⟨b, false, 1024, 0, [], 0⟩], (p, k) :: used, s)
      else (l ++ [⟨b, false, 1024, 0, [], 0⟩], used, s)) (([] : List BridgeU), ([] : List (Nat × Nat)), s)
  { s with xio := { s.xio with bridges := l } }

/-- The slot rate of group g is within the limit (R155). -/
def State.grpFits (s : State) (g : Nat) : Bool :=
  let (n, d) := s.domRate (s.grpDom g)
  Nat.ble (s.grpSlots g * n) (1536000 * d)

/-- The clocks that a master group drives (R155, R156). -/
def State.grpClk (s : State) (g : Nat) : TdmClk :=
  let (n, d) := s.domRate (s.grpDom g)
  let m := if n ≤ 48000 * d then 1 else if n ≤ 96000 * d then 2 else 4
  { bclk := (s.grpSlots g * s.slotBits g * n, d), fs := (n, d),
    mclk := if s.flag (R.XIO_GRP_CFG.mclk_en g) then some (512 * n, d * m) else none }

/-- The master clocks of group g start, or are held low (R156). -/
def grpClock (s : State) (g : Fin 4) (on : Bool) : State :=
  if (s.grp g).clk == on then s
  else (s.setGrp g { s.grp g with clk := on }).emit (.tdmClk g.val (if on then some (s.grpClk g.val) else none))

/-- A group starts within the slot-rate limit (R155), its master clocks run (R156), and its ports' widths are looked at
(R153). (DEDUCED, log entry 28.) -/
def grpStart (s : State) (g : Fin 4) : State :=
  if !s.grpOk g.val then s
  else if !s.grpFits g.val then (grpClock s g false).raise 2 7 3 g.val
  else
    let wide := (List.range 8).any (fun p =>
      s.portOk (8 * g.val + p) &&
        (Nat.blt (s.slotBits g.val) (16 + 8 * s.get (R.XIO_PORT.win (8 * g.val + p)))
          || Nat.blt (s.slotBits g.val) (16 + 8 * s.get (R.XIO_PORT.wout (8 * g.val + p)))))
    let s := if wide then s.raise 1 7 1 g.val else s
    let m := s.grpMaster g.val
    let s := (s.mark (R.XIO_GRP_STAT.running g.val)).put (R.XIO_GRP_STAT.clk_ok g.val) (bit m)
    grpClock (s.setGrp g { XioGrp.off with run := true, clk := (s.grp g).clk, loss := if m then none else some 64 }) g m

/-- Local I/O starts with the data plane. -/
def xioStart (s : State) : State := (List.finRange 4).foldl grpStart (bridgesStart s)

/-- The master clocks that start in PREPARE (R156). -/
def xioEarly (s : State) : State :=
  (List.finRange 4).foldl (fun s g =>
    if s.grpOk g.val && s.grpMaster g.val && s.flag (R.XIO_GRP_CFG.mclk_early g.val) && s.grpFits g.val then grpClock s g true
    else s) s

/-- Local I/O stops with the data plane. -/
def xioStop (s : State) : State :=
  let s := bridgesUnlock s (fun _ => true)
  let s := (List.finRange 4).foldl (fun s g =>
    let s := (((grpClock s g false).setGrp g XioGrp.off).unmark (R.XIO_GRP_STAT.running g.val)).unmark (R.XIO_GRP_STAT.clk_ok g.val)
    (s.put (R.XIO_GRP_STAT.fill g.val) 0).setReg (R.XIO_GRP_PHASE.reg g.val) 0) s
  { s with xio := { s.xio with bridges := [] } }

end Sys2Proof.Machine
end

