-- ==== Sys2Proof/Machine/Kiln.lean ====
section
/-!
DEFINITION. Kiln (R263 to R280): qualification and selection of references, the loop's states, the pending slew, time sets,
the output edge grid and the local synthesisers. What Kiln measures of the world comes with its commands.
-/
namespace Sys2Proof.Machine

/-! ## The pending slew (R274) -/

/-- The slew rate. -/
def State.slewMax (s : State) : Nat := s.get R.KILN_SLEW_MAX.slew

/-- The pending slew at a slew rate, in 2^-16 ns: it falls by rate · 10^-8 of the time that passes; one VCO cycle at 0.01 ppm is
1/3000 of 2^-16 ns. -/
def pendAt (s : State) (rate : Nat) : Int :=
  let d : Int := (rate * (s.sys.up - s.kiln.pendUp) / 3000 : Nat)
  if 0 ≤ s.kiln.pend then max 0 (s.kiln.pend - d) else min 0 (s.kiln.pend + d)

/-- The pending slew as it stands. -/
def State.pend (s : State) : Int := pendAt s s.slewMax

/-- The pending slew made v. -/
def State.setPend (s : State) (v : Int) : State := { s with kiln := { s.kiln with pend := v, pendUp := s.sys.up } }

/-! ## The loop term and the holdover average (R270, R272, R274) -/

/-- VCO cycles in a second. -/
def vcoHz : Nat := 1966080000

/-- The loop term at a limit of `drift` ppb/s, in 2^-16 ppb: it moves to its goal no faster (R274). -/
def loopAt (s : State) (drift : Nat) : Int :=
  let k := s.kiln
  let d : Int := (max 1 drift * 65536 * (s.sys.up - k.loopUp) / vcoHz : Nat)
  if k.loop ≤ k.goal then min k.goal (k.loop + d) else max k.goal (k.loop - d)

/-- The loop term as it stands, and in ppb. -/
def State.loopTerm (s : State) : Int := loopAt s (s.get R.KILN_DRIFT_MAX.drift)
def State.loopPpb (s : State) : Int := (s.loopTerm + 32768) / 65536

/-- KILN_FREQ: both terms of R274, in ppb. -/
def State.kilnFreq (s : State) : Int :=
  let slew : Int := 10 * s.slewMax
  satS 32 (s.loopPpb + if 0 < s.pend then slew else if s.pend < 0 then -slew else 0)

/-- The frequencies of the last n VCO cycles of a list: their sum by cycles, and the cycles. -/
def segSum : List (Nat × Int) → Nat → Int × Nat
  | [], _ => (0, 0)
  | (d, f) :: t, n =>
    let m := min d n
    let (a, c) := segSum t (n - m)
    (a + f * m, c + m)

/-- The entries of a list that cover its last n VCO cycles. -/
def segTrim : List (Nat × Int) → Nat → List (Nat × Int)
  | [], _ => []
  | x :: t, n => if n = 0 then [] else x :: segTrim t (n - x.1)

/-- The time in locked up to now joins what is kept of it, the last 1,000 seconds. -/
def segNote (s : State) : State :=
  let k := s.kiln
  let l := if s.get R.KILN_STAT.state = 2 then (s.sys.up - k.segUp, s.loopPpb) :: k.segs else k.segs
  { s with kiln := { k with segs := segTrim (l.filter (fun x => x.1 != 0)) (1000 * vcoHz), segUp := s.sys.up } }

/-- The holdover average (R272): over the last ho_avg seconds in locked since acquire was left, in ppb. (DEDUCED, log entry 95.) -/
def State.hoMean (s : State) : Int :=
  let (a, c) := segSum (segNote s).kiln.segs (max 1 (min 1000 (s.get R.KILN_HOLDOVER.ho_avg)) * vcoHz)
  if c = 0 then 0 else (2 * a + c) / (2 * c)

/-- VCO cycles spent in locked since acquire was left. -/
def State.lockedFor (s : State) : Nat := ((segNote s).kiln.segs.map (·.1)).sum

/-- The loop is to move to the frequency g, in 2^-16 ppb. -/
def loopTo (s : State) (g : Int) : State :=
  let s := segNote s
  { s with kiln := { s.kiln with loop := s.loopTerm, loopUp := s.sys.up, goal := g } }

/-- What a write of KILN_DRIFT_MAX, which held `old`, does besides: the loop term goes on from where it stands. -/
def driftWritten (old : Nat) (s : State) : State :=
  let v := loopAt s old
  let s := segNote s
  { s with kiln := { s.kiln with loop := v, loopUp := s.sys.up } }

/-! ## Movements -/

/-- Movements added to the pending slew; it saturates. With KILN_SLEW_MAX = 0 they are a time-set request. -/
def addPend (s : State) (d : Int) : State :=
  if d = 0 then s
  else
    let v := s.pend + d
    let w := satS 48 v
    let s := if v = w then s else (s.mark R.KILN_EVT.pend_sat).raise 1 1 7 0
    let s := s.setPend w
    if s.slewMax = 0 ∧ s.kiln.req = none then { s with kiln := { s.kiln with req := some 0 } } else s

/-- What a write of KILN_SLEW_MAX, which held `old`, does besides (R274, R275). -/
def slewWritten (old : Nat) (s : State) : State :=
  let v := pendAt s old
  let s := s.setPend v
  if s.slewMax = 0 ∧ v ≠ 0 ∧ s.kiln.req = none then { s with kiln := { s.kiln with req := some 0 } } else s

/-- A write of KILN_PHASE_STEP_HI (R276). -/
def trigPhaseStep (s : State) (v : Word) : State :=
  { s with sys := { s.sys with
      sched := s.sys.sched ++ [(2, Action.phaseStep (sx 48 (s.kiln.stepLo.toNat + 2 ^ 32 * (v.toNat % 65536))))] } }

/-- A write of KILN_ALIGN (R278); one has no effect while another waits (R16). -/
def trigAlign (s : State) (v : Word) : State :=
  if !v.getLsbD 0 || s.flag R.KILN_ALIGN.go then s
  else ({ s with sys := { s.sys with sched := s.sys.sched ++ [(2, Action.kilnAlign)] } }).mark R.KILN_ALIGN.go

/-! ## Qualification and selection (R264 to R269) -/

/-- A limit of 1 to 10,000 in 0.1 ppm. -/
def limit10k (n : Nat) : Nat := max 1 (min 10000 n)

/-- Reference i. -/
def State.kref (s : State) (i : Nat) : KilnRef := s.kiln.ref[Fin.ofNat 14 i]
def State.setKref (s : State) (i : Nat) (x : KilnRef) : State :=
  { s with kiln := { s.kiln with ref := s.kiln.ref.set (Fin.ofNat 14 i) x } }

/-- Reference i exists: the SyncE reference of an absent port does not (R263). -/
def State.krefOk (s : State) (i : Nat) : Bool := if 2 ≤ i ∧ i ≤ 9 then Nat.blt (i - 2) s.sys.fuses.ports else true

/-- Reference i is qualified. -/
def State.qualified (s : State) (i : Nat) : Bool := s.krefOk i && s.get (R.KILN_REF_STAT.qual i) == 2

/-- qual of reference i made q; leaving qualified sets disq_evt. -/
def setQual (s : State) (i q : Nat) : State :=
  let s := if s.get (R.KILN_REF_STAT.qual i) = 2 ∧ q ≠ 2 then s.mark (R.KILN_REF_STAT.disq_evt i) else s
  s.put (R.KILN_REF_STAT.qual i) q

/-- The update of R265. -/
def refUpdate (s : State) (i dt : Nat) : State :=
  let reject := limit10k (s.get (R.KILN_REF_LIM.reject i))
  let accept := limit10k (s.get (R.KILN_REF_LIM.accept i))
  let hold := max 1 (min 6000 (s.get (R.KILN_REF_HOLD.hold i)))
  let la := min accept reject * 100
  let lr := reject * 100
  let x := s.kref i
  if !s.flag (R.KILN_REF_CFG.en i) || !s.flag (R.KILN_REF_STAT.active i) || Nat.blt lr x.f.natAbs then
    (setQual s i 0).setKref i { x with t := 0 }
  else if s.get (R.KILN_REF_STAT.qual i) = 2 then s
  else if x.f.natAbs ≤ la then
    let t := (x.t + dt) % 2 ^ 32
    (setQual s i (if hold * 100 ≤ t then 2 else 1)).setKref i { x with t := t }
  else (setQual s i 0).setKref i { x with t := 0 }

/-- The qualified references. -/
def State.krefs (s : State) : List Nat := (List.range 14).filter s.qualified

/-- Two references disagree: their f differ by more than KILN_XCHECK. -/
def disagree (s : State) (a b : Nat) : Bool :=
  Nat.blt (limit10k (s.get R.KILN_XCHECK.limit) * 100) ((s.kref a).f - (s.kref b).f).natAbs

/-- votes() of R267. -/
def votes (s : State) (q : List Nat) (i : Nat) : Nat := (q.filter (fun j => j != i && !disagree s i j)).length

/-- Whether reference a comes before b: most votes, then the smaller f, then the lower index. -/
def refBefore (s : State) (q : List Nat) (a b : Nat) : Bool :=
  let va := votes s q a
  let vb := votes s q b
  let fa := (s.kref a).f.natAbs
  let fb := (s.kref b).f.natAbs
  Nat.blt vb va || (va == vb && (Nat.blt fa fb || (fa == fb && Nat.blt a b)))

/-- choose() of R267 over the qualified references q and those of them that are eligible. -/
def choose (s : State) (q c : List Nat) (cur : Nat) : Nat :=
  match c with
  | [] => 15
  | c0 :: ct =>
    let rank := fun (i : Nat) => s.get (R.KILN_REF_CFG.rank i)
    let r := ct.foldl (fun m i => min m (rank i)) (rank c0)
    let t := (c0 :: ct).filter (fun i => rank i == r)
    let w := t.filter (fun i => disagree s i cur && Nat.blt (votes s q cur) (votes s q i))
    if t.contains cur && w.isEmpty then cur
    else match (if t.contains cur then w else t) with
      | [] => 15
      | a :: l => l.foldl (fun m i => if refBefore s q i m then i else m) a

/-- The choice for both roles (R266, R267): PTP and PPS have phase; SyncE, word clock and FREF frequency. -/
def chooseBoth (s : State) : Nat × Nat :=
  let q := s.krefs
  let ph := fun (i : Nat) => Nat.ble i 1 || i == 13
  if s.flag R.KILN_CFG.hybrid then
    (choose s q (q.filter ph) (s.get R.KILN_STAT.sel), choose s q (q.filter (fun i => !ph i)) (s.get R.KILN_STAT.fsel))
  else (choose s q q (s.get R.KILN_STAT.sel), 15)

/-- dispute and wander follow the references and the selection (R268, R269). -/
def watchRefs (s : State) : State :=
  let sel := s.get R.KILN_STAT.sel
  let l := s.krefs.filter (fun i => s.get (R.KILN_REF_CFG.rank i) == s.get (R.KILN_REF_CFG.rank sel))
  let disp := sel != 15 && l.any (fun a => l.any (fun b => disagree s a b))
  let wan := sel != 15 && s.lockedFor != 0
    && Nat.blt (limit10k (s.get R.KILN_WANDER.limit) * 100) ((s.kref sel).f - s.hoMean).natAbs
  let s := if disp && !s.flag R.KILN_STAT.dispute then (s.mark R.KILN_EVT.dispute_evt).raise 1 1 5 sel else s
  let s := if wan && !s.flag R.KILN_STAT.wander then (s.mark R.KILN_EVT.wander_evt).raise 1 1 6 sel else s
  (s.put R.KILN_STAT.dispute (bit disp)).put R.KILN_STAT.wander (bit wan)

/-- Every update under R265 ends with the choice of R267. -/
def refChosen (s : State) : State := watchRefs { s with kiln := { s.kiln with next := chooseBoth s } }

/-- What makes reference i active, where the engine itself knows it: the valid bit of its domain, the link of its port. -/
def refHeld (s : State) (i : Nat) : Bool :=
  if i ≤ 1 then s.flag (R.PTP_DOM_STAT.valid i)
  else if i ≤ 9 then s.flag (R.ETH_PSTAT.link (i - 2))
  else false

/-- A change of activity of reference i (R264, R265). (DEDUCED, log entry 51.) -/
def refActive (s : State) (i : Nat) (on : Bool) : State :=
  if !s.krefOk i || s.flag (R.KILN_REF_STAT.active i) == on then s
  else refChosen (refUpdate (s.put (R.KILN_REF_STAT.active i) (bit on)) i 0)

/-- The valid bit of domain d, or the link of port p, has changed. -/
def refFollow (s : State) (i : Nat) : State :=
  if s.flag (R.KILN_REF_CFG.en i) then refActive s i (refHeld s i) else s

/-! ## Measurements and lock (R263, R264, R270, R273) -/

/-- Reference sel carries phase (R263): a word clock at fs, fs/2 or fs/4, PPS once time has been taken. -/
def State.carriesPhase (s : State) (sel : Nat) : Bool :=
  if sel ≤ 1 then true
  else if sel = 10 ∨ sel = 11 then
    let r := s.get (R.KILN_REF_CFG.rate sel)
    let hz := [32000, 44100, 48000, 88200, 96000, 176400, 192000].getD r 96000
    hz == s.fs || 2 * hz == s.fs || 4 * hz == s.fs
  else sel == 13 && s.ptp.taken

/-- Something is selected in a role. -/
def State.selected (s : State) : Bool := s.get R.KILN_STAT.sel != 15 || s.get R.KILN_STAT.fsel != 15

/-- The reference that sets the rate (R266). -/
def State.rateRef (s : State) : Nat := if s.get R.KILN_STAT.fsel = 15 then s.get R.KILN_STAT.sel else s.get R.KILN_STAT.fsel

/-- The loop bandwidth of reference i, in 0.01 Hz, within its type's range (R270). -/
def State.kilnBw (s : State) (i : Nat) : Nat :=
  let (t, lo, hi) := if i ≤ 1 then (0, 1, 100) else if i ≤ 9 then (1, 100, 10000) else if i ≤ 11 then (2, 100, 10000)
    else if i = 12 then (3, 10, 10000) else (4, 1, 100)
  max lo (min hi (s.get (R.KILN_BW.bw t)))

/-- A phase error in ns reduced to half a period of n/d ns either way (R263). -/
def phaseReduce (ph : Int) (n d : Nat) : Int :=
  let k := (2 * ph * d + n) / (2 * n)
  ph - (2 * k * n + d) / (2 * d)

/-- The nominal rate of a word clock. -/
def State.wckHz (s : State) (i : Nat) : Nat :=
  [32000, 44100, 48000, 88200, 96000, 176400, 192000].getD (s.get (R.KILN_REF_CFG.rate i)) 96000

/-- The phase error in ns that a measurement of ph of reference i gives: a PTP domain's is its last servo sample, a word clock's and a PPS's
are reduced to half a period either way (R263). -/
def State.refPhase (s : State) (i : Nat) (ph : Int) : Int :=
  if h : i < 2 then satS 32 (((s.ptp.dom[i]'h).eLast + 32768) / 65536)
  else if i = 10 ∨ i = 11 then phaseReduce ph 1000000000 (s.wckHz i)
  else if i = 13 then phaseReduce ph 1000000000 1
  else ph

/-- The least-squares slope of points (t, z), in 10^-9. -/
def slopePpb (l : List (Int × Int)) : Int :=
  let t0 := (l.headD (0, 0)).1
  let z0 := (l.headD (0, 0)).2
  let n : Int := l.length
  let sum := fun (f : Int → Int → Int) => (l.map (fun x => f (x.1 - t0) (x.2 - z0))).sum
  let den := n * sum (fun t _ => t * t) - sum (fun t _ => t) * sum (fun t _ => t)
  let num := n * sum (fun t z => t * z) - sum (fun t _ => t) * sum (fun _ z => z)
  if den = 0 then 0 else (2 * num * 1000000000 + den) / (2 * den)

/-- The condition of R273 holds. -/
def State.lockOk (s : State) : Bool :=
  let sel := s.get R.KILN_STAT.sel
  s.selected && (if s.carriesPhase sel then
      Nat.ble (s.getS R.KILN_PHERR.value).natAbs (max 1 (s.get R.KILN_LOCK.lock_win)) && s.pend == 0 && (Nat.blt 1 sel || s.ptp.taken)
    else Nat.ble (s.loopPpb - (s.kref s.rateRef).f).natAbs 10)

/-- Since when the condition of R273 has held in acquire. -/
def lockWatch (s : State) : State :=
  let ok := s.get R.KILN_STAT.state == 1 && s.lockOk
  { s with kiln := { s.kiln with okUp := if ok then some (s.kiln.okUp.getD s.sys.up) else none } }

/-- n seconds, at least 1, have passed since the time u. -/
def State.passed (s : State) (n u : Nat) : Bool := Nat.ble (max 1 n * vcoHz) (s.sys.up - u)

/-- Reference i has been measured: the loop that follows it asks for its frequency (R270). The frequency asked for is a free value. (DESIGN
CHOICE, log entry 50.) -/
def loopFollow (s : State) (i : Nat) : State :=
  let st := s.get R.KILN_STAT.state
  let sel := s.get R.KILN_STAT.sel
  if (st = 1 ∨ st = 2) ∧ (i = sel ∨ i = s.rateRef) then
    let r := s.rateRef
    let steer := if s.carriesPhase sel then some (s.kilnBw sel, s.getS R.KILN_PHERR.value) else none
    loopTo { s with free := s.free + 1 } (Config.kilnLoop s.free (s.kilnBw r) (s.kref r).f steer s.loopTerm)
  else s

/-- A measurement of reference i that gives its offset f and phase error ph, dt ms after the one before (R264, R265). -/
def refMeasured (s : State) (i : Nat) (f : Int) (dt : Nat) (ph : Int) : State :=
  let s := (s.mark (R.KILN_REF_STAT.active i)).setReg (R.KILN_REF_FREQ.reg i) (BitVec.ofInt 32 f)
  let s := s.setKref i { s.kref i with f := f, ph := ph }
  let s := if s.get R.KILN_STAT.sel = i then s.setReg R.KILN_PHERR.reg (BitVec.ofInt 32 ph) else s
  lockWatch (refChosen (refUpdate (loopFollow s i) i dt))

/-- REF_MEASUREMENT (R264, R265, R268, R269). A PTP reference is measured once at each sample that its servo accepts, from the samples
themselves; a word clock beyond 1,000 ppm unlocks the synthesiser that follows it (R280). (DESIGN CHOICE, log entry 50.) -/
def execRefMeasurement (i : Fin 14) (f : BitVec 32) (dt : Nat) (ph : BitVec 32) (s : State) : Host.Outcome State Fault Refusal :=
  Cmd.run (fun s =>
    if !s.krefOk i.val || !s.flag (R.KILN_REF_CFG.en i.val) || (Nat.ble i.val 9 && !refHeld s i.val) then s
    else if h : i.val < 2 then
      let x := s.ptp.dom[i.val]'h
      if !x.fresh then s
      else
        let s := { s with ptp := { s.ptp with dom := s.ptp.dom.set i.val { x with fresh := false } h } }
        let ms := match x.hist with | a :: b :: _ => ((a.1 - b.1) / 65536000000).toNat | _ => 0
        refMeasured s i.val (satS 32 (slopePpb x.hist)) ms (s.refPhase i.val 0)
    else
      let s := refMeasured s i.val f.toInt dt (s.refPhase i.val ph.toInt)
      if 1000000 < f.toInt.natAbs then
        (List.range 2).foldl (fun s d => if s.get (R.XIO_DOM.src d) + 9 = i.val ∧ i.val < 12 then domUnlock s d else s) s
      else s) s

/-- SLEW_COMPLETE (R274): with no slew term there is none that stops. -/
def execSlewComplete (s : State) : Host.Outcome State Fault Refusal :=
  Cmd.run (fun s => if s.slewMax = 0 then s else lockWatch (s.setPend 0)) s

/-- REF_ACTIVITY_LOSS (R264): a reference that the engine itself knows to be held does not time out; the synthesiser that follows a word
clock unlocks with its loss (R280). -/
def execRefActivityLoss (i : Fin 14) (s : State) : Host.Outcome State Fault Refusal :=
  Cmd.run (fun s =>
    if refHeld s i.val then s
    else (List.range 2).foldl (fun s d => if s.get (R.XIO_DOM.src d) + 9 = i.val ∧ 10 ≤ i.val ∧ i.val < 12 then domUnlock s d else s)
      (refActive s i.val false)) s

/-- A write of a reference's limits, hold time or rate (R265). -/
def refReset (s : State) (i : Nat) : State := refChosen ((setQual s i 0).setKref i { s.kref i with t := 0 })

/-- What a write of KILN_REF_CFG(i), which held `old`, does besides (R264, R265). -/
def refCfgWritten (old : Word) (i : Nat) (s : State) : State :=
  let s := if fieldGet 6 3 old ≠ s.get (R.KILN_REF_CFG.rate i) then refReset s i else watchRefs s
  if !s.flag (R.KILN_REF_CFG.en i) then refChosen (refUpdate (s.unmark (R.KILN_REF_STAT.active i)) i 0)
  else if i ≤ 9 then refActive s i (refHeld s i)
  else s

/-! ## Events of the loop -/

/-- LOCK_DECLARE (R273): in acquire, with no time set waiting, once the condition has held for lock_hold seconds. The transition takes
effect at the next boundary (R271). -/
def execLockDeclare (s : State) : Host.Outcome State Fault Refusal :=
  Cmd.run (fun s =>
    let held := match s.kiln.okUp with | some u => s.passed (s.get R.KILN_LOCK.lock_hold) u | none => false
    if s.get R.KILN_STAT.state = 1 && s.kiln.req.isNone && s.lockOk && held then { s with kiln := { s.kiln with lockDue := true } } else s) s

/-- FREERUN_RETURN (R275): lock_hold seconds after a time set with nothing selected. -/
def execFreerunReturn (s : State) : Host.Outcome State Fault Refusal :=
  Cmd.run (fun s =>
    if s.get R.KILN_STAT.state = 1 && s.kiln.req.isNone && s.kiln.setAlone && !s.selected
        && s.passed (s.get R.KILN_LOCK.lock_hold) s.kiln.setUp then
      { s with kiln := { s.kiln with freeDue := true } }
    else s) s

/-- HOLDOVER_EXPIRY (R272): after ho_max seconds. -/
def execHoldoverExpiry (s : State) : Host.Outcome State Fault Refusal :=
  Cmd.run (fun s =>
    if s.get R.KILN_STAT.state = 3 && s.get R.KILN_HOLDOVER.ho_max != 0 && s.passed (s.get R.KILN_HOLDOVER.ho_max) s.kiln.hoUp then
      { s with kiln := { s.kiln with expired := true } }
    else s) s

/-! ## Time sets (R46, R256, R275) -/

/-- The network-time block requests a time set for domain d (R256). -/
def ptpRequest (s : State) (d : Nat) : State :=
  let s := s.mark R.PTP_STAT.set_pending
  let req := match s.kiln.req with | none => some 0 | some n => some n
  { s with ptp := { s.ptp with want := some d }, kiln := { s.kiln with req := req } }

/-- The lag reported (R277). -/
def alignErr (lag : Nat) : Nat := (lag * 3125 + 3072) / 6144 % 1000000000

/-- The output edge grid's lag made n VCO cycles, modulo 1 s. -/
def State.setLag (s : State) (n : Int) : State :=
  let l := (n % 1966080000).toNat
  ({ s with kiln := { s.kiln with lag := l } }).put R.KILN_ALIGN_ERR.lag (alignErr l)

/-- A time set at the end of a period: engine time moves by the multiple of 160 VCO cycles nearest the amount requested, the
remainder is slewed out or dropped; the output edge grid keeps its edges (R275, R277). (DEDUCED, log entry 52.) A set further back than engine time
has come leaves it at 0. (DESIGN CHOICE, log entry 93.) -/
def timeSet (s : State) : State :=
  let amt := match s.ptp.want with | some d => (s.ptp.dom[Fin.ofNat 2 d]).eLast | none => s.pend
  let k := (amt * 3 + 8000000) / 16000000
  let rem := ((amt * 3 - k * 16000000) * 2 + 3) / 6
  let old := s.pnl
  let s := { s with sys := { s.sys with et := ((s.sys.et : Int) + 160 * k).toNat } }
  let s := s.setLag (s.kiln.lag + 160 * k)
  let s := s.setPend (if s.slewMax = 0 then 0 else rem)
  let s := { s with
    ptp := { s.ptp with taken := s.ptp.taken || s.ptp.want.isSome, want := none, dom := s.ptp.dom.map (fun (x : PtpDom) => { x with hist := [] }) }
    kiln := { s.kiln with req := none, setAlone := !s.selected, setUp := s.sys.up, okUp := none } }
  let s := ((s.unmark R.PTP_STAT.set_pending).mark R.SYS_TIME_CAP.time_set).bump R.SYS_TIME_CAP.time_sets
  s.raise 0 0 2 old

/-- At the end of a period: a time set takes place if one is due (in RUN-UNLOCKED, a boundary after its request was taken up).
Whether this end is then a boundary of the grid (R42). -/
def kilnSet (s : State) : Option Bool × State :=
  match s.kiln.req with
  | some (_ + 1) =>
    if s.sys.state = .runUnlocked then
      let s := timeSet s
      (some (s.sys.et % s.perVco == 0), s)
    else (none, s)
  | _ => (none, s)

/-! ## The boundary's work -/

/-- The new choice takes effect (R266, R267, R271, R274, R256, R258); the phase movement of a switch of the phase role. -/
def kilnSwitch (s : State) : Int × State :=
  let (sel, fsel) := s.kiln.next
  let sel0 := s.get R.KILN_STAT.sel
  let fsel0 := s.get R.KILN_STAT.fsel
  if sel = sel0 ∧ fsel = fsel0 then (0, s)
  else
    let s := (s.put R.KILN_STAT.sel sel).put R.KILN_STAT.fsel fsel
    let n := bit (sel != sel0) + bit (fsel != fsel0)
    let s := (s.bump R.KILN_SWITCHES.switches n).mark R.KILN_EVT.switch
    let s := (List.range n).foldl (fun s _ => s.raise 0 1 4 (sel + 16 * fsel)) s
    let s := s.put R.PTP_STAT.source (if sel ≤ 1 then sel + 1 else 0)
    let s := watchRefs s
    if sel = sel0 then (0, s)
    else
    let s := s.setReg R.KILN_PHERR.reg 0
    if !s.carriesPhase sel then (0, s)
    else if sel ≤ 1 then
      if s.ptp.taken then ((s.ptp.dom[Fin.ofNat 2 sel]).eLast, s) else (0, ptpRequest s sel)
    else ((s.kref sel).ph * 65536, s)

/-- The loop enters state st with lock as given (R271). Time in locked is kept up to now; holdover goes to the average, freerun stays where
the loop term stands; acquire begins the average anew. -/
def kilnTo (s : State) (st : Nat) (lock : Bool) : State :=
  let had := s.flag R.KILN_STAT.lock
  let was := s.get R.KILN_STAT.state
  let s := if lock && !had then s.raise 0 1 1 0 else s
  let s := if had && !lock then (s.mark R.KILN_EVT.lock_lost).raise 1 1 2 0 else s
  let s := segNote s
  let s := if st = 3 ∧ was ≠ 3 then
      let s := loopTo s (s.hoMean * 65536)
      ((({ s with kiln := { s.kiln with hoUp := s.sys.up } } : State)).mark R.KILN_EVT.ho_evt).raise 1 1 3 0
    else if st = 0 ∧ was ≠ 0 then loopTo s s.loopTerm
    else if st = 1 then { s with kiln := { s.kiln with segs := [] } }
    else s
  (s.put R.KILN_STAT.state st).put R.KILN_STAT.lock (bit lock)

/-- The transitions of R271; `req0` is the time-set request as it stood before the boundary. -/
def kilnTransition (req0 : Option Nat) (s : State) : State :=
  let some_ := s.selected
  let free := s.flag R.KILN_CFG.free_ok
  let k := s.kiln
  let s := { s with kiln := { k with lockDue := false, expired := false, freeDue := false, setAlone := k.setAlone && !some_ } }
  let acquire := fun (s : State) => kilnTo s 1 false
  match req0 with
  | some 0 => acquire { s with kiln := { s.kiln with req := some 1 } }
  | _ =>
    match s.get R.KILN_STAT.state with
    | 0 => if some_ then acquire s else kilnTo s 0 free
    | 1 =>
      if k.lockDue && some_ && k.req.isNone then kilnTo s 2 true
      else if !some_ && k.req.isNone && (k.freeDue || !k.setAlone) then kilnTo s 0 free
      else s
    | 2 =>
      if some_ then s
      else if Nat.ble vcoHz s.lockedFor then kilnTo s 3 true
      else kilnTo s 0 free
    | _ => if some_ then kilnTo s 2 true else if k.expired then kilnTo s 0 free else s

/-! ## Outputs (R60, R277 to R279) -/

/-- The nominal period of PERIOD_OUT in VCO cycles. -/
def State.poutSpan (s : State) : Nat := 2 ^ s.get R.SYS_POUT.div_log2 * s.perVco

/-- The outputs are re-aligned (R278): a domain-0 master group with a lag omits an output frame and repeats an input frame, and so do the
pulses and the word clocks: the edge that would fall in the lengthened interval is omitted. -/
def kilnRealign (s : State) : State :=
  let k := s.kiln
  let s := (List.finRange 4).foldl (fun s g =>
    if (s.grp g).run && s.grpMaster g.val && s.grpDom g.val == 0 && k.lag % s.sampVco != 0 then grpTake s g (s.grp g).last
    else s) s
  let p := s.flag R.SYS_POUT.enable && k.lag % s.poutSpan != 0
  let q := s.flag R.KILN_PPS_OUT.en && k.lag % vcoHz != 0
  let s := { s with kiln := { s.kiln with
    pouts := [], ppss := []
    poutSkip := k.poutSkip || (p && k.pouts.isEmpty), ppsSkip := k.ppsSkip || (q && k.ppss.isEmpty), wckSkip := k.lag % s.sampVco != 0 } }
  ((s.setLag 0).unmark R.KILN_ALIGN.go).mark R.KILN_EVT.align_done

/-- A pulse of PERIOD_OUT begins, with its settings as they stand (R60). -/
def poutPulse (s : State) : State :=
  let e := s.sys.state
  if (e == .prepare || e.isRun || e == .safe) && s.flag R.SYS_POUT.enable then
    s.emit (.pulse (max 1 (s.get R.SYS_POUT.width)) (!s.flag R.SYS_POUT.polarity))
  else s

/-- A pulse of PPS_OUT begins (R279). -/
def ppsPulse (s : State) : State :=
  if (s.sys.state.isRun || s.sys.state == .safe) && s.flag R.KILN_PPS_OUT.en then
    s.emit (.pps (max 1 (s.get R.KILN_PPS_OUT.width)) (!s.flag R.KILN_PPS_OUT.pol))
  else s

/-- The pulses whose time has come begin. -/
def pulsesDue (s : State) : State :=
  let now := fun (t : Nat) => Nat.ble t s.sys.up
  let a := s.kiln.pouts.filter now
  let b := s.kiln.ppss.filter now
  let s := { s with kiln := { s.kiln with pouts := s.kiln.pouts.filter (fun t => !now t), ppss := s.kiln.ppss.filter (fun t => !now t) } }
  b.foldl (fun s _ => ppsPulse s) (a.foldl (fun s _ => poutPulse s) s)

/-- The word clock that WCK_OUTk gives in the period that begins: its rate, and in domain 0 its first active edge after the boundary (R277
to R279). -/
def wckWave (s : State) (k : Nat) : State :=
  if s.flag (R.KILN_WCK_OUT.en k) then
    let d := s.get (R.KILN_WCK_OUT.dom k)
    let d := if d = 3 then 0 else d
    let first := if s.kiln.wckSkip then s.sampVco else s.kiln.lag % s.sampVco
    s.emit (.wck k (s.domRate d) (if d = 0 then some first else none) (!s.flag (R.KILN_WCK_OUT.pol k)))
  else s

/-- The pulses and word clocks of the period that a boundary begins: each output's edges lag the grid by the lag modulo its own nominal
period (R60, R277, R279). (DEDUCED, log entry 60.) -/
def kilnPulses (s : State) : State :=
  let e := s.sys.state
  let k := s.kiln
  let run := e.isRun || e == .safe
  let p := (run || e == .prepare) && s.pn % 2 ^ s.get R.SYS_POUT.div_log2 == 0
  let q := run && s.pn * s.nSamp % s.fs == 0
  let s := { s with kiln := { k with
    pouts := if p && !k.poutSkip then k.pouts ++ [s.sys.up + k.lag % s.poutSpan] else k.pouts
    ppss := if q && !k.ppsSkip then k.ppss ++ [s.sys.up + k.lag % vcoHz] else k.ppss
    poutSkip := k.poutSkip && !p, ppsSkip := k.ppsSkip && !q } }
  let s := pulsesDue s
  let s := if run then (List.range 2).foldl wckWave s else s
  { s with kiln := { s.kiln with wckSkip := false } }

/-- Kiln's part of step 1 of R23, with the phase steps and the re-alignment that fall due. -/
def kilnBoundary (s : State) (steps : Int) (align : Bool) : State :=
  let req0 := s.kiln.req
  let (d, s) := kilnSwitch s
  let s := kilnTransition req0 s
  let s := addPend s (d + steps)
  let s := s.put R.KILN_STAT.phase_hold
    (bit (s.flag R.KILN_CFG.hybrid && s.get R.KILN_STAT.sel == 15 && s.get R.KILN_STAT.fsel != 15))
  let s := watchRefs (lockWatch s)
  if align then kilnRealign s else s

/-- A boundary at which Kiln does not run: the phase steps and the re-alignment that fall due happen all the same (R276, R278). -/
def kilnIdle (s : State) (steps : Int) (align : Bool) : State :=
  let s := addPend s steps
  if align then kilnRealign s else s

/-! ## The local synthesisers (R280) -/

/-- A synthesiser that follows nothing is locked while the data plane runs. -/
def synthStart (s : State) (run : Bool) : State :=
  (List.range 2).foldl (fun s d => if s.get (R.XIO_DOM.src d) = 0 then s.put (R.XIO_DOM.locked d) (bit run) else s) s

/-- A write of XIO_DOM(d), which held `old`: a synthesiser whose configuration changes is not locked to what it followed. (DEDUCED, log entry
96.) -/
def domWritten (old : Word) (s : State) (d : Nat) : State :=
  if fieldGet 0 8 old ≠ fieldGet 0 8 (s.reg (R.XIO_DOM.src d).addr) then s.unmark (R.XIO_DOM.locked d) else s

/-- The reference of domain d's synthesiser is active, as far as the engine holds it (R280): a word clock whose monitor runs is active and
within 1,000 ppm; frame starts of the source group arrive. -/
def State.synthRef (s : State) (d : Nat) : Bool :=
  let src := s.get (R.XIO_DOM.src d)
  if src = 3 then (s.grp (Fin.ofNat 4 (s.get (R.XIO_DOM.grp d)))).alive
  else !s.flag (R.KILN_REF_CFG.en (9 + src)) || (s.flag (R.KILN_REF_STAT.active (9 + src)) && Nat.ble (s.kref (9 + src)).f.natAbs 1000000)

/-- DOMAIN_SYNTH_LOCK. -/
def execDomainSynthLock (d : Fin 2) (s : State) : Host.Outcome State Fault Refusal :=
  Cmd.run (fun s => if s.get (R.XIO_DOM.src d.val) = 0 || !s.synthRef d.val then s else s.mark (R.XIO_DOM.locked d.val)) s

/-- DOMAIN_SYNTH_UNLOCK: the domain's bridges unlock with it (R166). -/
def execDomainSynthUnlock (d : Fin 2) (s : State) : Host.Outcome State Fault Refusal := Cmd.run (fun s => domUnlock s d.val) s

end Sys2Proof.Machine
end

