-- ==== Sys2Proof/Machine/Ptp.lean ====
section
/-!
DEFINITION. Network time (R241 to R262): the domains and their port states, messages sent and received, the servos, link delays, the
transparent clock and the timestamp log. Times are signed counts of 2^-16 ns of engine time. The layout of a message is that of IEEE
1588-2019 (PRESUMED, log entry 26).
-/
namespace Sys2Proof.Machine

/-! ## Time -/

/-- A receive or transmit timestamp (R246): the instant at the MAC/PCS boundary, in 2^-16 ns since the period began, referred to the
balls. -/
def State.rxTime (s : State) (p ts : Nat) : Int :=
  s.nt16 + ts - (s.get (R.PTP_PORT_LAT.rx p) + s.getS (R.PTP_PORT_FIX.rx_fix p)) * 256
def State.txTime (s : State) (p ts : Nat) : Int :=
  s.nt16 + ts + (s.get (R.PTP_PORT_LAT.tx p) + s.getS (R.PTP_PORT_FIX.tx_fix p)) * 256

/-- A time as the ten bytes of a message: seconds and truncated nanoseconds; and its fraction. -/
def stampBytes (t : Int) : List Byte :=
  let ns := t.toNat / 65536
  beBytes 6 (ns / 1000000000) ++ beBytes 4 (ns % 1000000000)
def stampFrac (t : Int) : Int := t % 65536

/-- The time that ten bytes give. -/
def stampOf (b : List Byte) (o : Nat) : Int := ((fbe b o 6 * 1000000000 + fbe b (o + 6) 4) * 65536 : Nat)

/-- A signed 64-bit field. -/
def corrOf (b : List Byte) (o : Nat) : Int := sx 64 (fbe b o 8)
def corrBytes (c : Int) : List Byte := beBytes 8 (toU 64 c)

/-! ## Domains (R241 to R244) -/

/-- The transport of a domain: Ethernet, IPv4, IPv6. -/
def State.domTransport (s : State) (d : Nat) : Nat :=
  if s.flag (R.PTP_DOM_CFG.profile d) then s.get (R.PTP_DOM_CFG.transport d) % 3 else 0

/-- Peer-to-peer delay: always in the 802.1AS profile. -/
def State.domP2p (s : State) (d : Nat) : Bool := !s.flag (R.PTP_DOM_CFG.profile d) || s.flag (R.PTP_DOM_CFG.p2p d)

/-- Both domains are enabled with one number and transport (R244). -/
def State.domDup (s : State) : Bool :=
  s.flag (R.PTP_DOM_CFG.en 0) && s.flag (R.PTP_DOM_CFG.en 1) && s.get (R.PTP_DOM_CFG.dom_num 0) == s.get (R.PTP_DOM_CFG.dom_num 1)
    && s.domTransport 0 == s.domTransport 1

/-- Domain d is enabled and not treated as disabled. -/
def State.domOn (s : State) (d : Nat) : Bool := s.flag (R.PTP_DOM_CFG.en d) && !(d == 1 && s.domDup)

/-- The state written for port p. -/
def State.rawPort (s : State) (d p : Nat) : Nat := s.get (R.PTP_DOM_PORTS.state d) / 8 ^ p % 8

/-- The acting slave port: the lowest-numbered (R242). -/
def State.slavePort (s : State) (d : Nat) : Option Nat := (List.range 8).find? (fun p => s.ethOk p && s.rawPort d p == 3)

/-- The port state that acts: 0 disabled, 1 listening, 2 master, 3 slave, 4 passive. -/
def State.portState (s : State) (d p : Nat) : Nat :=
  let r := s.rawPort d p
  if 4 < r then 0 else if r = 3 ∧ s.slavePort d ≠ some p then 4 else r

/-- The domain has a master or slave port: its messages are not forwarded (R243). -/
def State.terminates (s : State) (d : Nat) : Bool :=
  s.domOn d && (List.range 8).any (fun p => s.ethOk p && (s.portState d p == 2 || s.portState d p == 3))

/-- The domain of a message by its number and transport. -/
def State.domOf (s : State) (num tr : Nat) : Option (Fin 2) :=
  (List.finRange 2).find? (fun d => s.domOn d.val && s.get (R.PTP_DOM_CFG.dom_num d.val) == num && s.domTransport d.val == tr)

/-- Domain d. -/
def State.pdom (s : State) (d : Fin 2) : PtpDom := s.ptp.dom[d]
def State.setPdom (s : State) (d : Fin 2) (x : PtpDom) : State := { s with ptp := { s.ptp with dom := s.ptp.dom.set d x } }

/-- Port p of network time. -/
def State.pport (s : State) (p : Fin 8) : PtpPort := s.ptp.port[p]
def State.setPport (s : State) (p : Fin 8) (x : PtpPort) : State := { s with ptp := { s.ptp with port := s.ptp.port.set p x } }

/-- The engine's clockIdentity, and the identity of its port p. -/
def State.clockId (s : State) : Nat := (s.reg R.PTP_CLOCK_ID_LO.reg).toNat + 2 ^ 32 * (s.reg R.PTP_CLOCK_ID_HI.reg).toNat
def State.portId (s : State) (p : Nat) : Nat := s.clockId * 65536 + p + 1

/-! ## The servo (R253 to R255) -/

/-- A servo reset. -/
def servoReset (s : State) (d : Fin 2) : State :=
  let s := s.setPdom d { s.pdom d with rej := 0, hist := [], fresh := false }
  let s := ((s.unmark (R.PTP_DOM_STAT.mpd_ok d.val)).put (R.PTP_DOM_STAT.acc d.val) 0).unmark (R.PTP_DOM_STAT.valid d.val)
  refFollow s d.val

/-- The mean of a port's link delay measurements. (DEDUCED, log entry 54.) -/
def ldMean (x : PtpPort) : Int := if x.lds.isEmpty then 0 else x.lds.sum / x.lds.length

/-- A complete Sync gives a sample (R253), which Kiln has with the engine time of t2; its slope is taken against the LO, with Kiln's own movement
of engine time since the sample before added (R264). (DEDUCED, log entry 97.) -/
def servoSync (s : State) (d : Fin 2) (y : SyncRx) : State :=
  let s := s.setPdom d { s.pdom d with sync := some y }
  match s.slavePort d.val with
  | none => s
  | some p =>
    let p2p := s.domP2p d.val
    if (!p2p && !s.flag (R.PTP_DOM_STAT.mpd_ok d.val)) || (p2p && !s.flag (R.PTP_PORT_LDSTAT.ld_valid p)) then s
    else
      let x := s.pdom d
      let m := if p2p then ldMean (s.pport (Fin.ofNat 8 p)) else x.mpd
      let e := satS 64 (y.t1 + y.c1 + m + s.getS (R.PTP_PORT_ASYM.asym p) * 256 - y.t2)
      let acc := s.get (R.PTP_DOM_STAT.acc d.val)
      let lim := s.get (R.PTP_DOM_FILT.outlier d.val)
      let out := Nat.blt 0 acc && lim != 0 && Nat.blt (lim * 65536) (e - x.eLast).natAbs
      if out && Nat.blt (x.rej + 1) 8 then (s.setPdom d { x with rej := x.rej + 1 }).bump (R.PTP_DOM_OUTLIER.count d.val)
      else
        let now := y.t1 + y.c1
        let s := match x.rate with
          | some (m0, t0) =>
            if y.t2 = t0 then s
            else s.put (R.PTP_DOM_RATIO.ratio d.val) (toU 32 (satS 32 ((now - m0 - (y.t2 - t0)) * 2 ^ 41 / (y.t2 - t0))))
          | none => s
        let moved := match x.hist with | h :: _ => x.moved + s.kilnFreq * (y.t2 - h.1) / 1000000000 | [] => x.moved
        let s := s.setPdom d { s.pdom d with
          rej := 0, eLast := e, rate := some (now, y.t2), accUp := s.sys.up,
          hist := ((y.t2, e + moved) :: x.hist).take 8, moved := moved, fresh := true }
        let acc := min (acc + 1) 65535
        let s := s.put (R.PTP_DOM_STAT.acc d.val) acc
        if 4 ≤ acc then refFollow (s.mark (R.PTP_DOM_STAT.valid d.val)) d.val else s

/-- A matched Delay_Resp updates mpd (R253). -/
def servoDelay (s : State) (d : Fin 2) (y : SyncRx) (t3 t4 c4 : Int) : State :=
  let v := satS 64 (((y.t2 - y.t1 - y.c1) + (t4 - t3 - c4)) / 2)
  let x := s.pdom d
  let m := if s.flag (R.PTP_DOM_STAT.mpd_ok d.val) then x.mpd + (v - x.mpd) / 2 ^ s.get (R.PTP_DOM_FILT.pd_avg d.val) else v
  ((s.setPdom d { x with mpd := m }).mark (R.PTP_DOM_STAT.mpd_ok d.val)).put (R.PTP_DOM_MPD.mpd d.val) (toU 32 (satS 32 (m / 256)))

/-- What a write of PTP_DOM_CFG(d) does besides (R244, R255): it writes dom_num, profile, transport and p2p. -/
def domCfgWritten (old s : State) (d : Fin 2) : State :=
  let s := servoReset s d
  if s.domDup && !old.domDup then s.raise 1 2 2 1 else s

/-- What a write of PTP_DOM_PORTS(d) does besides (R242, R255). -/
def domPortsWritten (old s : State) (d : Fin 2) : State :=
  let s := if old.slavePort d.val ≠ s.slavePort d.val then servoReset s d else s
  if 1 < ((List.range 8).filter (fun p => s.ethOk p && s.rawPort d.val p == 3)).length then s.raise 1 2 1 d.val else s

/-- What a write of PTP_DOM_PARENT_PORT(d) does besides (R255): the three words are taken. -/
def parentWritten (s : State) (d : Fin 2) : State :=
  let id := (s.reg (R.PTP_DOM_PARENT_LO.reg d.val)).toNat + 2 ^ 32 * (s.reg (R.PTP_DOM_PARENT_HI.reg d.val)).toNat
  servoReset (s.setPdom d { s.pdom d with parent := (id, s.get (R.PTP_DOM_PARENT_PORT.port d.val)) }) d

/-- A write of PTP_DOM_CMD(d). -/
def trigServo (s : State) (d : Fin 2) (v : Word) : State := if v.getLsbD 0 then servoReset s d else s

/-- The parent's identity as ten bytes give it. -/
def PtpDom.parentId (x : PtpDom) : Nat := x.parent.1 * 65536 + x.parent.2

/-- NOFU_TIMEOUT (R251). -/
def execNofuTimeout (d : Fin 2) (s : State) : Host.Outcome State Fault Refusal :=
  Cmd.run (fun s =>
    match (s.pdom d).wait with
    | [] => s
    | _ :: t => (s.setPdom d { s.pdom d with wait := t }).bump (R.PTP_DOM_NOFU.count d.val)) s

/-- DOMAIN_VALID_TIMEOUT (R254). -/
def execDomainValidTimeout (d : Fin 2) (s : State) : Host.Outcome State Fault Refusal :=
  Cmd.run (fun s => refFollow (s.unmark (R.PTP_DOM_STAT.valid d.val)) d.val) s

/-- PTP_STEP_HOLD_EXPIRY (R257): of the domain that Kiln follows in phase, after the first take, while its e is beyond set_thr. -/
def execPtpStepHoldExpiry (d : Fin 2) (s : State) : Host.Outcome State Fault Refusal :=
  Cmd.run (fun s =>
    if s.ptp.taken && s.get R.KILN_STAT.sel == d.val
        && Nat.blt (max 1 (s.get (R.PTP_DOM_STEP.set_thr d.val)) * 65536000) (s.pdom d).eLast.natAbs then
      if s.flag (R.PTP_DOM_CFG.step_en d.val) then ptpRequest s d.val
      else (s.mark R.PTP_STAT.beyond).raise 1 2 3 d.val
    else s) s

/-! ## Messages -/

/-- A PTP message in a frame: where it starts, its transport, where its UDP header starts. -/
structure PtpAt where
  off : Nat
  tr : Nat
  udp : Nat
  deriving DecidableEq, Repr

/-- The PTP message that a frame carries: EtherType 0x88F7, or UDP to port 319 or 320 (R241). -/
def ptpAt (b : List Byte) : Option PtpAt :=
  let h := ethHdr b
  if h.etype = 0x88F7 then some ⟨h.off, 0, 0⟩
  else match udpOf b h with
    | some u => if u.direct ∧ (u.dport = 319 ∨ u.dport = 320) then some ⟨u.off + 8, if u.v6 then 2 else 1, u.off⟩ else none
    | none => none

/-- Fields of a message m: type, version, length, domain, two-step flag, correction, source, sequenceId. -/
def msgType (m : List Byte) : Nat := fbe m 0 1 % 16
def msgVersion (m : List Byte) : Nat := fbe m 1 1 % 16
def msgLen (m : List Byte) : Nat := fbe m 2 2
def msgDom (m : List Byte) : Nat := fbe m 4 1
def msgTwoStep (m : List Byte) : Bool := fbe m 6 1 / 2 % 2 == 1
def msgCorr (m : List Byte) : Int := corrOf m 8
def msgSrc (m : List Byte) : Nat := fbe m 20 10
def msgSeq (m : List Byte) : Nat := fbe m 30 2

/-- The UDP checksum of an altered message (R260): zero over IPv4; over IPv6 kept valid through the two octets behind the message, or
recomputed. -/
def udpMend (b : List Byte) (x : PtpAt) : List Byte :=
  if x.tr = 0 then b
  else if x.tr = 1 then fput b (x.udp + 6) [0, 0]
  else
    let ip := b.drop (x.udp - 40)
    let n := fbe b (x.udp + 4) 2
    let sum := fun (c : List Byte) => fold16 (pseudoSum true ip 17 n + sum16 ((c.drop x.udp).take n))
    let len := msgLen (b.drop x.off)
    if len + 2 + 8 ≤ n then
      let z := fput b (x.off + len) [0, 0]
      let v := 65535 - sum z
      fput b (x.off + len) (beBytes 2 (if len % 2 = 0 then v else v % 256 * 256 + v / 256))
    else
      let z := fput b (x.udp + 6) [0, 0]
      let v := 65535 - sum z
      fput b (x.udp + 6) (beBytes 2 (if v = 0 then 65535 else v))

/-- A message's header (PRESUMED, log entry 26). -/
def msgHead (as_ : Bool) (ty len dom flags : Nat) (corr : Int) (src seq control log : Nat) : List Byte :=
  beBytes 1 ((if as_ then 16 else 0) + ty) ++ [0x12#8] ++ beBytes 2 len ++ beBytes 1 dom ++ [0#8] ++ beBytes 2 flags ++ corrBytes corr
    ++ beBytes 4 0 ++ beBytes 10 src ++ beBytes 2 seq ++ beBytes 1 control ++ beBytes 1 (log % 256)

/-- A signed field's value clamped and as a byte. -/
def logByte (v : Int) (hi : Int) : Nat := toU 8 (max (-7) (min hi v))

/-- A message put into a frame of the transport and queued on port p in TC7. The source address of IP and the hop limit are free
(DESIGN CHOICE, log entry 2). (DEDUCED, log entry 53.) -/
def ptpSend (s : State) (p tr da : Nat) (event : Bool) (m : List Byte) (src : FrameSrc) : State :=
  let sa := s.portMac p
  let pt := if event then 319 else 320
  let (f, s) := if tr = 0 then (0, s) else s.freeNat
  let (hop, s) := if tr = 0 then (0, s) else s.freeNat
  let b :=
    if tr = 0 then ethBuild da sa none 0x88F7 ++ m
    else if tr = 1 then ethBuild 0x01005E000181 sa none 0x0800
      ++ udpBuild false (f % 2 ^ 32) 0xE0000181 pt pt (hop % 256) 0 (f / 2 ^ 32 % 65536) false m
    else ethBuild 0x333300000181 sa none 0x86DD
      ++ udpBuild true (f % 2 ^ 128) 0xFF0E0000000000000000000000000181 pt pt (hop % 256) 0 0 false (m ++ [0#8, 0#8])
  ethQueue s p 7 ⟨padFrame b, src, false⟩

/-- The destination of a domain's messages over Ethernet. -/
def State.domDa (s : State) (d : Nat) : Nat := if s.flag (R.PTP_DOM_CFG.profile d) then 0x011B19000000 else 0x0180C200000E

/-- flagField: twoStepFlag and ptpTimescale. -/
def msgFlags (two : Bool) : Nat := bit two * 0x200 + 8

/-- sync_log and dreq_log as a message carries them. -/
def State.syncLog (s : State) (d : Nat) : Nat := logByte (s.getS (R.PTP_DOM_CFG.sync_log d)) 1
def State.dreqLog (s : State) (d : Nat) : Nat := logByte (s.getS (R.PTP_DOM_CFG.dreq_log d)) 4

/-- The states in which Sync is sent (R250). -/
def State.syncs (s : State) : Bool := s.sys.state == .prepare || s.sys.state.isRun || s.sys.state == .safe

/-- SYNC_TX (R250). -/
def execSyncTx (d : Fin 2) (p : Fin 8) (s : State) : Host.Outcome State Fault Refusal :=
  Cmd.run (fun s =>
    if !s.syncs || !s.domOn d.val || !s.ethOk p.val || s.portState d.val p.val != 2 then s
    else
      let x := s.pdom d
      let seq := ((assocGet p.val x.syncSeq).getD 65535 + 1) % 65536
      let s := s.setPdom d { x with syncSeq := assocSet p.val seq x.syncSeq }
      let as_ := !s.flag (R.PTP_DOM_CFG.profile d.val)
      let two := !s.flag (R.PTP_DOM_CFG.one_step d.val)
      let m := msgHead as_ 0 44 (s.get (R.PTP_DOM_CFG.dom_num d.val)) (msgFlags two) 0 (s.portId p.val) seq 0 (s.syncLog d.val)
        ++ beBytes 10 0
      ptpSend s p.val (s.domTransport d.val) (s.domDa d.val) true m (.sync d.val)) s

/-- FOLLOW_UP_TX (R250). -/
def execFollowUpTx (d : Fin 2) (p : Fin 8) (s : State) : Host.Outcome State Fault Refusal :=
  Cmd.run (fun s =>
    let x := s.pdom d
    match x.fu.find? (fun f => f.1 == p.val) with
    | none => s
    | some (_, seq, t) =>
      let s := s.setPdom d { x with fu := x.fu.filter (fun f => !(f.1 == p.val && f.2.1 == seq)) }
      let as_ := !s.flag (R.PTP_DOM_CFG.profile d.val)
      let w := fun (k : Nat) => (s.reg (R.PTP_DOM_AS.reg d.val k)).toNat
      let tlv := if as_ then
          beBytes 2 3 ++ beBytes 2 28 ++ beBytes 3 0x0080C2 ++ beBytes 3 1 ++ beBytes 4 (s.get (R.PTP_DOM_RATIO.ratio d.val))
            ++ beBytes 2 (w 0) ++ beBytes 4 (w 1) ++ beBytes 4 (w 2) ++ beBytes 4 (w 3) ++ beBytes 4 (w 4)
        else []
      let m := msgHead as_ 8 (44 + tlv.length) (s.get (R.PTP_DOM_CFG.dom_num d.val)) (msgFlags false) (stampFrac t) (s.portId p.val)
        seq 2 (s.syncLog d.val) ++ stampBytes t ++ tlv
      ptpSend s p.val (s.domTransport d.val) (s.domDa d.val) false m .own) s

/-- DELAY_RESP_TX (R250). -/
def execDelayRespTx (d : Fin 2) (s : State) : Host.Outcome State Fault Refusal :=
  Cmd.run (fun s =>
    let x := s.pdom d
    match x.asks with
    | [] => s
    | a :: t =>
      let s := s.setPdom d { x with asks := t }
      let m := msgHead (!s.flag (R.PTP_DOM_CFG.profile d.val)) 9 54 (s.get (R.PTP_DOM_CFG.dom_num d.val)) (msgFlags false)
        (a.corr - stampFrac a.t4) (s.portId a.port) a.seq 3 (s.dreqLog d.val) ++ stampBytes a.t4 ++ beBytes 10 a.src
      ptpSend s a.port (s.domTransport d.val) (s.domDa d.val) false m .own) s

/-- DELAY_REQ_TX (R251). -/
def execDelayReqTx (d : Fin 2) (s : State) : Host.Outcome State Fault Refusal :=
  Cmd.run (fun s =>
    match s.slavePort d.val with
    | none => s
    | some p =>
      if !s.domOn d.val || s.domP2p d.val then s
      else
        let x := s.pdom d
        let seq := (x.dreqSeq + 1) % 65536
        let s := s.setPdom d { x with dreqSeq := seq, dreq := none }
        let m := msgHead false 1 44 (s.get (R.PTP_DOM_CFG.dom_num d.val)) (msgFlags false) 0 (s.portId p) seq 1 0x7F ++ beBytes 10 0
        ptpSend s p (s.domTransport d.val) (s.domDa d.val) true m (.delayReq d.val)) s

/-- The transport of a port's link delay exchange. -/
def State.portTransport (s : State) (p : Nat) : Nat := s.get (R.PTP_PORT_CFG.transport p) % 3

/-- PDELAY_REQ_TX (R252). -/
def execPdelayReqTx (p : Fin 8) (s : State) : Host.Outcome State Fault Refusal :=
  Cmd.run (fun s =>
    if !s.ethOk p.val || !s.flag (R.PTP_PORT_CFG.pdelay_en p.val) then s
    else
      let x := s.pport p
      let seq := (x.seq + 1) % 65536
      let s := s.setPport p { x with seq := seq, req := none, resp := none }
      let tr := s.portTransport p.val
      let m := msgHead (tr == 0) 2 54 (s.get (R.PTP_PORT_CFG.pdelay_dom p.val)) (msgFlags false) 0 (s.portId p.val) seq 5 0x7F
        ++ beBytes 20 0
      ptpSend s p.val tr 0x0180C200000E true m .pdelayReq) s

/-- PDELAY_LOST (R252). -/
def execPdelayLost (p : Fin 8) (s : State) : Host.Outcome State Fault Refusal :=
  Cmd.run (fun s =>
    let x := s.pport p
    if !s.flag (R.PTP_PORT_CFG.pdelay_en p.val) then s
    else
      let s := (s.setPport p { x with req := none, resp := none, losses := min (x.losses + 1) 3 }).bump (R.PTP_PORT_LDSTAT.lost p.val)
      if 2 ≤ x.losses then s.unmark (R.PTP_PORT_LDSTAT.ld_valid p.val) else s) s

/-! ## The timestamp log (R248, R249) -/

/-- log_en goes from 0 to 1: the base and the length are taken. -/
def logWritten (old s : State) : State :=
  if old.flag R.PTP_CTRL.log_en || !s.flag R.PTP_CTRL.log_en then s
  else { s with eth := { s.eth with
      logAt := ((s.reg R.PTP_LOG_BASE.reg).toNat / 16 * 16 + 2 ^ 32 * s.get R.PTP_LOG_CFG.base_hi, min 4096 (s.get R.PTP_LOG_CFG.len)) } }

/-- Where a message's record says it belongs: 0 A, 1 B, 2 another domain. -/
def State.logClass (s : State) (num tr : Nat) : Nat := match s.domOf num tr with | some d => d.val | none => 2

/-- A record of the log. cls: R249's [21:20]. -/
def tsLog (s : State) (t : Int) (p : Nat) (tx : Bool) (cls : Nat) (m : List Byte) : State :=
  if !s.flag R.PTP_CTRL.log_en || (Nat.ble 2 cls && !s.flag R.PTP_CTRL.log_other) then s
  else
    let u := t.toNat
    let w1 := u % 65536 + p * 2 ^ 16 + bit tx * 2 ^ 19 + cls * 2 ^ 20 + msgType m * 2 ^ 22
    workGo s 39 (.record .log (leBytes 4 (u / 65536) ++ leBytes 4 w1 ++ leBytes 4 (msgSeq m + msgDom m * 65536) ++ leBytes 4 0) s.sys.up)

/-! ## Reception (R250 to R253, R262) -/

/-- A link delay measured on port p (R252). -/
def ldTake (s : State) (p : Fin 8) (v : Int) : State :=
  let x := s.pport p
  let l := (v :: x.lds).take (2 ^ s.get (R.PTP_DOM_FILT.pd_avg 0))
  let x := { x with lds := l, losses := 0, req := none, resp := none }
  ((s.setPport p x).put (R.PTP_PORT_LD.ld p.val) (toU 32 (satS 32 (ldMean x / 256)))).mark (R.PTP_PORT_LDSTAT.ld_valid p.val)

/-- A peer delay message on port p (R252). -/
def pdelayReceive (s : State) (p : Fin 8) (m : List Byte) (t : Int) : State :=
  if !s.flag (R.PTP_PORT_CFG.pdelay_en p.val) then s
  else
    let x := s.pport p
    let mine := match x.req with
      | some (seq, _) => msgSeq m == seq && fbe m 44 10 == s.portId p.val
      | none => false
    let t1 := match x.req with | some (_, t1) => t1 | none => 0
    match msgType m with
    | 2 =>
      let tr := s.portTransport p.val
      let r := msgHead (tr == 0) 3 54 (msgDom m) (msgFlags false) 0 (s.portId p.val) (msgSeq m) 5 0x7F ++ beBytes 10 0
        ++ beBytes 10 (msgSrc m)
      ptpSend s p.val tr 0x0180C200000E true r (.pdelayResp t)
    | 3 =>
      if !mine then s
      else if msgTwoStep m then s.setPport p { x with resp := some (t, stampOf m 34, msgCorr m) }
      else ldTake s p ((t - t1 - msgCorr m) / 2)
    | 10 =>
      match x.resp with
      | some (t4, t2, c) => if mine then ldTake s p ((t4 - t1 - (stampOf m 34 - t2) - c - msgCorr m) / 2) else s
      | none => s
    | _ => s

/-- A message of domain d on port p whose state lets it be used. -/
def domReceive (s : State) (d : Fin 2) (p : Fin 8) (m : List Byte) (t : Int) : State :=
  let x := s.pdom d
  let slave := s.portState d.val p.val == 3
  match msgType m with
  | 0 =>
    if !slave then s
    else if msgSrc m ≠ x.parentId then s.bump (R.PTP_DOM_NOTPARENT.count d.val)
    else
      let y : SyncRx := ⟨msgSeq m, msgSrc m, stampOf m 34, msgCorr m, t⟩
      if msgTwoStep m then s.setPdom d { x with wait := x.wait ++ [y] } else servoSync s d y
  | 8 =>
    if !slave then s
    else match x.wait.find? (fun y => y.seq == msgSeq m && y.src == msgSrc m) with
      | none => s
      | some y => servoSync (s.setPdom d { x with wait := x.wait.filter (· != y) }) d { y with t1 := stampOf m 34, c1 := y.c1 + msgCorr m }
  | 1 =>
    if s.portState d.val p.val = 2 then s.setPdom d { x with asks := x.asks ++ [⟨p.val, msgSeq m, msgSrc m, msgCorr m, t⟩] } else s
  | 9 =>
    if !slave || s.domP2p d.val then s
    else match x.dreq with
      | some (seq, t3, y) =>
        if msgSeq m = seq ∧ fbe m 44 10 = s.portId p.val then
          let s := s.setPdom d { x with dreq := none }
          match y with | some y => servoDelay s d y t3 (stampOf m 34) (msgCorr m) | none => s
        else s
      | none => s
  | _ => s

/-- The network-time block takes a PTP message m received on port p at t: what goes on to the MGP's ring (R245, R262). `good`: the
frame may be used (not truncated, version and length right). A peer delay message does its work whatever the port's state for the
domain (R252). (DEDUCED, log entry 54.) -/
def ptpReceive (s : State) (p : Fin 8) (tr : Nat) (m : List Byte) (t : Int) (good : Bool) : Bool × State :=
  if !good then (false, s.bump R.PTP_BAD.count)
  else
    let ty := msgType m
    let s := if ty < 4 then tsLog s t p.val false (s.logClass (msgDom m) tr) m else s
    let peer := ty == 2 || ty == 3 || ty == 10
    let s := if peer then pdelayReceive s p m t else s
    match s.domOf (msgDom m) tr with
    | none => (false, s.bump R.PTP_FOREIGN.count)
    | some d =>
      let general := Nat.ble 8 ty && ty != 8 && ty != 9
      if s.portState d.val p.val ≤ 1 then
        if ty = 11 then (true, s) else (false, s.bump R.PTP_FOREIGN.count)
      else if peer then (general, s)
      else (general, domReceive s d p m t)

/-! ## Transmission (R199, R246, R250 to R252, R259, R260) -/

/-- The correction that a forwarded event message leaves with (R259). -/
def tcCorrect (b : List Byte) (add : Int) : List Byte :=
  match ptpAt b with
  | none => b
  | some x =>
    let c := msgCorr (b.drop x.off) + add
    let c := if c = satS 64 c then c else 2 ^ 63 - 1
    udpMend (fput b (x.off + 8) (corrBytes c)) x

/-- A frame starts on port p at time t: timestamps are written into it or taken, and logged. -/
def stampTx (s : State) (p : Fin 8) (f : QFrame) (t : Int) : QFrame × State :=
  match ptpAt f.bytes with
  | none => (f, s)
  | some x =>
    let m := f.bytes.drop x.off
    let dom := fun (s : State) => tsLog s t p.val true (s.logClass (msgDom m) x.tr) m
    match f.src with
    | .fwd rx _ tc =>
      let s := tsLog s t p.val true 3 m
      match tc with
      | some add => ({ f with bytes := tcCorrect f.bytes (t - rx + add) }, s)
      | none => (f, s)
    | .sync d =>
      let d := Fin.ofNat 2 d
      let s := (dom s).bump (R.PTP_DOM_SYNC_TX.count d.val)
      if msgTwoStep m then
        (f, s.setPdom d { s.pdom d with fu := (s.pdom d).fu ++ [(p.val, msgSeq m, t)] })
      else
        let b := fput (fput f.bytes (x.off + 34) (stampBytes t)) (x.off + 8) (corrBytes (msgCorr m + stampFrac t))
        ({ f with bytes := udpMend b x }, s)
    | .delayReq d =>
      let d := Fin.ofNat 2 d
      let s := dom s
      (f, s.setPdom d { s.pdom d with dreq := some (msgSeq m, t, (s.pdom d).sync) })
    | .pdelayReq =>
      let s := dom s
      (f, s.setPport p { s.pport p with req := some (msgSeq m, t) })
    | .pdelayResp rx =>
      let s := dom s
      ({ f with bytes := udpMend (fput f.bytes (x.off + 8) (corrBytes (t - rx))) x }, s)
    | _ => (f, s)

/-- ETH_TX_START (R199): a frame whose gate and length allow it starts, or the preempted one resumes. -/
def execEthTxStart (p : Fin 8) (ts : Nat) (s : State) : Host.Outcome State Fault Refusal :=
  Cmd.run (fun s =>
    if !s.linkUp p.val || (s.eport p).tx.isSome || s.flag (R.ETH_PSTAT.tx_lpi p.val) then s
    else match txPick s p (fabOf ts) (s.nt16 + ts) with
      | (none, s) => s
      | (some (x, again), s) =>
        let (f, s) := if again then (x.f, s)
          else
            let (f, s) := stampTx s p x.f (s.txTime p.val ts)
            match f.src with | .fwd .. => txTrunc s p.val f | _ => (f, s)
        s.setEport p { s.eport p with tx := some { x with f := f } }) s

end Sys2Proof.Machine
end

