-- ==== Sys2Proof/Machine/Streams.lean ====
section
/-!
DEFINITION. The stream engine (chapter 9): contexts and their checks, reception of native, AAF and AES67 frames, sequence
recovery, the store deadline with substitution, and the packing of egress frames. The fields of AAF and RTP that the chapter takes
from their standards stand where IEEE 1722-2016 and RFC 3550 put them (PRESUMED, log entry 20).
-/
namespace Sys2Proof.Machine

/-! ## Contexts (R219, R220, R240) -/

/-- Bytes of a sample word (SXE_IN_CTL.wid). -/
def widBytes (wid : Nat) : Nat := wid + 2

/-- Format and word width that no context may have (R220, R240). -/
def fmtBad (s : State) (fmt wid : Nat) : Bool :=
  match fmt with
  | 0 => wid != 2
  | 1 => !(wid == 1 || wid == 2) || s.fsSel == 2
  | 2 => Nat.ble 2 wid || s.fsSel == 2
  | _ => true

/-- Ingress context i is enabled; is in force. -/
def State.inEn (s : State) (i : Nat) : Bool := s.flag (R.SXE_IN_CTL.en i)
def State.inOn (s : State) (i : Nat) : Bool := s.inEn i && !s.flag (R.SXE_IN_STATE.rejected i)

/-- The ingress contexts that are enabled, ascending; those in force. -/
def State.insEn (s : State) : List Nat := (s.listed 0x90000 0x40 1024).filter s.inEn
def State.insOn (s : State) : List Nat := s.insEn.filter s.inOn

/-- Channels of an ingress context: the first and how many. -/
def State.inBase (s : State) (i : Nat) : Nat := s.get (R.SXE_IN_MAP.ch_base i)
def State.inCh (s : State) (i : Nat) : Nat := s.get (R.SXE_IN_CTL.ch_m1 i) + 1

/-- Egress context i is enabled; is in force. -/
def State.egEn (s : State) (i : Nat) : Bool := s.flag (R.SXE_EG_CTL.en i)
def State.egOn (s : State) (i : Nat) : Bool := s.egEn i && !s.flag (R.SXE_EG_STATE.rejected i)
def State.egsEn (s : State) : List Nat := (s.listed 0xB0000 0x40 1024).filter s.egEn
def State.egsOn (s : State) : List Nat := s.egsEn.filter s.egOn
def State.egBase (s : State) (i : Nat) : Nat := s.get (R.SXE_EG_MAP.ch_base i)
def State.egCh (s : State) (i : Nat) : Nat := s.get (R.SXE_EG_CTL.ch_m1 i) + 1

/-- Samples per AES67 packet. -/
def State.egSpp (s : State) (i : Nat) : Nat := min 95 (s.get (R.SXE_EG_CTL.spp_m1 i)) + 1

/-- An ingress context that R240 or R216 disables, the channels of those before it in force being `used`. -/
def inBad (s : State) (used : List (Nat × Nat)) (i : Nat) : Bool :=
  let b := s.inBase i
  let n := s.inCh i
  fmtBad s (s.get (R.SXE_IN_CTL.fmt i)) (s.get (R.SXE_IN_CTL.wid i)) || Nat.blt s.netCh (b + n)
    || (List.range 8).any (fun p => s.get (R.SXE_IN_CTL.ports i) / 2 ^ p % 2 == 1 && s.ethOk p && s.flag (R.ETH_EEE.en p))
    || used.any (fun u => Nat.blt b (u.1 + u.2) && Nat.blt u.1 (b + n))

/-- A path's port that R240 does not allow. -/
def pathBad (s : State) (p : Nat) : Bool := !s.ethOk p || s.flag (R.ETH_EEE.en p) || s.isTwinPort p

/-- An egress context that R240 disables. -/
def egBad (s : State) (i : Nat) : Bool :=
  fmtBad s (s.get (R.SXE_EG_CTL.fmt i)) (s.get (R.SXE_EG_CTL.wid i)) || Nat.blt s.netCh (s.egBase i + s.egCh i)
    || (s.get (R.SXE_EG_CTL.fmt i) == 2 && Nat.blt 768 (s.egCh i * s.egSpp i))
    || (s.flag (R.SXE_EG_CTL.a_en i) && pathBad s (s.get (R.SXE_EG_CTL.port_a i)))
    || (s.flag (R.SXE_EG_CTL.b_en i) && pathBad s (s.get (R.SXE_EG_CTL.port_b i)))

/-- The ingress contexts that are treated as disabled (R240): each is marked, with its class-1 fault. -/
def inCheck (s : State) : State :=
  let s := (s.listed 0xA0020 0x40 1024).foldl (fun s i => if s.inEn i then s else s.unmark (R.SXE_IN_STATE.rejected i)) s
  (s.insEn.foldl (fun (acc : List (Nat × Nat) × State) i =>
    let (used, s) := acc
    if inBad s used i then (used, ((s.mark (R.SXE_IN_STATE.rejected i)).mark R.SXE_STAT.rejects).raise 1 4 2 i)
    else ((s.inBase i, s.inCh i) :: used, s.unmark (R.SXE_IN_STATE.rejected i))) (([] : List (Nat × Nat)), s)).2

/-- inCheck for egress contexts. -/
def egCheck (s : State) : State :=
  let s := (s.listed 0xC000C 0x10 1024).foldl (fun s i => if s.egEn i then s else s.unmark (R.SXE_EG_STATE.rejected i)) s
  s.egsEn.foldl (fun s i =>
    if egBad s i then ((s.mark (R.SXE_EG_STATE.rejected i)).mark R.SXE_STAT.rejects).raise 1 4 2 (1024 + i)
    else s.unmark (R.SXE_EG_STATE.rejected i)) s

/-! ## Generations of egress contexts (R236) -/

/-- Context i starts: it takes the next generation number. -/
def genTake (s : State) (i : Nat) : State :=
  if s.sxe.gens.contains i then s.bump (R.SXE_EG_STATE.gen i)
  else ({ s with sxe := { s.sxe with gens := i :: s.sxe.gens } } : State).put (R.SXE_EG_STATE.gen i) s.pn

/-- running of the egress contexts follows. -/
def egRunning (s : State) : State :=
  let s := (s.listed 0xC000C 0x10 1024).foldl (fun s i => s.unmark (R.SXE_EG_STATE.running i)) s
  if s.sxe.run then s.egsOn.foldl (fun s i => s.mark (R.SXE_EG_STATE.running i)) s else s

/-! ## Start and commits (R229, R231, R238, R239) -/

/-- Bytes of a frame of egress context i from the destination address to the last before the FCS, and how many are packed at one
boundary. -/
def egLen (s : State) (i : Nat) : Nat × Nat :=
  let eth := 14 + 4 * bit (s.flag (R.SXE_EG_CTL.vlan_en i))
  let w := widBytes (s.get (R.SXE_EG_CTL.wid i))
  let N := s.nSamp
  match s.get (R.SXE_EG_CTL.fmt i) with
  | 0 => (eth + 40 + s.egCh i * N * 4, 1)
  | 1 => (max 60 (eth + 24 + s.egCh i * N * w), 1)
  | _ =>
    let S := s.egSpp i
    (max 60 (eth + (if s.flag (R.SXE_EG_MAP.ipv6 i) then 40 else 20) + 20 + s.egCh i * S * w), (N + S - 1) / S)

/-- The start check: rejected contexts, the store and staging needs (R229, R238, R240). A need beyond its field shows its low bits
(DESIGN CHOICE, log entry 99). -/
def sxeCheck (s : State) : State :=
  let s := egCheck (inCheck s)
  let ch := (s.insOn.map s.inCh).sum
  let loc := ((List.range 512).filter (fun i => s.rawFlag (R.XIO_IMAP.valid i))).length
  let br := (s.xio.bridges.filter (fun x => !s.flag (R.XIO_BR_CFG.dir x.b))).length
  let store := (ch + loc + br) * (s.dIn + 2) * s.nSamp * 4
  let stage := (s.egsOn.map (fun i => (egLen s i).1 * (egLen s i).2)).sum
  let s := (s.setReg R.SXE_STORE.reg (BitVec.ofNat 32 (store % 2 ^ 23))).setReg R.SXE_STAGE.reg (BitVec.ofNat 32 (stage % 2 ^ 21))
  let s := (s.put R.SXE_STAT.over_store (bit (Nat.blt 0x400000 store))).put R.SXE_STAT.over_stage (bit (Nat.blt 0x100000 stage))
  let s := if 0x400000 < store then s.raise 3 4 3 0 else s
  if 0x100000 < stage then s.raise 3 4 4 0 else s

/-- The stream engine starts with the data plane, unless it is over a limit. `fresh`: from PREPARE (R236). -/
def sxeStart (s : State) (fresh : Bool) : State :=
  if s.flag R.SXE_STAT.over_store || s.flag R.SXE_STAT.over_stage then s
  else
    let s := { s with sxe := { s.sxe with run := true, ins := [], chs := [], store := [], pack := [] } }
    let s := s.insEn.foldl (fun s i => s.unmark (R.SXE_IN_STATE.synced i)) (s.mark R.SXE_STAT.running)
    egRunning (if fresh then s.egsOn.foldl genTake s else s)

/-- The stream engine stops with the data plane. -/
def sxeStop (s : State) : State :=
  egRunning (({ s with sxe := { s.sxe with run := false, ins := [], chs := [], store := [], pack := [] } } : State).unmark
    R.SXE_STAT.running)

/-- A commit of group 6 (R231, R239, R240). -/
def inCommit (old s : State) : State :=
  let s := inCheck s
  let s := s.insEn.foldl (fun s i => if old.inEn i then s else s.unmark (R.SXE_IN_STATE.synced i)) s
  let on := s.insOn
  let covered := fun (ch : Nat) => on.any (fun i => Nat.ble (s.inBase i) ch && Nat.blt ch (s.inBase i + s.inCh i))
  { s with sxe := { s.sxe with
    ins := s.sxe.ins.filter (fun x => on.contains x.i && old.inOn x.i), chs := s.sxe.chs.filter (fun x => covered x.ch) } }

/-- What a change of which is a start of egress context i: fmt, ch_base, the channel count, the stream ID, the destination (R236). -/
def egIdent (s : State) (i : Nat) : List Nat :=
  let mac := s.get (R.SXE_EG_DMAC_LO.dmac i) + 2 ^ 32 * s.get (R.SXE_EG_DMAC_HI.dmac i)
  let id := fun (w : Nat) => s.get (R.SXE_EG_ID.id i w)
  [s.get (R.SXE_EG_CTL.fmt i), s.egCh i, s.egBase i, mac]
    ++ if s.get (R.SXE_EG_CTL.fmt i) = 2 then
        s.get (R.SXE_EG_DMAC_HI.udp_dst i) :: if s.flag (R.SXE_EG_MAP.ipv6 i) then 6 :: (List.range 4).map id else [4, id 0]
      else [id 0, id 1]

/-- A commit of group 7 (R236, R239, R240). -/
def egCommit (old s : State) : State :=
  let s := egCheck s
  let s := s.egsOn.foldl (fun s i => if !old.egOn i || egIdent old i != egIdent s i then genTake s i else s) s
  let keep := fun (i : Nat) => s.egOn i && old.egOn i && egIdent old i == egIdent s i && old.egSpp i == s.egSpp i
  egRunning { s with sxe := { s.sxe with pack := s.sxe.pack.filter (fun x => keep x.1) } }

/-! ## Reception (R221 to R227) -/

/-- An ingress context's recovery state. -/
def State.inCtx (s : State) (i : Nat) : InCtx :=
  match s.sxe.ins.find? (·.i == i) with
  | some x => x
  | none => ⟨i, false, 0, 0, (0, 0), (0, 0), 0, false⟩

/-- An ingress context's recovery state replaced. -/
def State.setIn (s : State) (x : InCtx) : State :=
  let l := s.sxe.ins
  { s with sxe := { s.sxe with ins := if l.any (·.i == x.i) then l.map (fun y => if y.i == x.i then x else y) else l ++ [x] } }

/-- A counter of context i and its event (R433). -/
def inCount (s : State) (l : Loc) (ev : Nat) : State := (s.bump l).count ev 1

/-- The value of an ingress word of w bytes (R221). -/
def inWord (b : List Byte) (w : Nat) : Word := BitVec.ofNat 32 (beNat (b.take w) * 2 ^ (32 - 8 * w))

/-- The samples of a payload: rows of ch words of w bytes, interleaved by sample (R221). -/
def inSamples (ch w : Nat) (pl : List Byte) (n : Nat) : List (List Word) :=
  (List.range n).map fun j => (List.range ch).map fun c => inWord (pl.drop ((j * ch + c) * w)) w

/-- Recovery of R230 for a native frame of generation g and sequence number sq on path B (pth) or A: true when its samples go
to the store. -/
def recover (s : State) (i : Nat) (pth : Bool) (g sq : Nat) : Bool × State :=
  let x := s.inCtx i
  let rogue := fun (s : State) => (false, inCount s (R.SXE_IN_ROGUE.count i) 0x25)
  let cand := if pth then x.candB else x.candA
  let setCand := fun (x : InCtx) (c : Nat × Nat) => if pth then { x with candB := c } else { x with candA := c }
  let gen := s.get (R.SXE_IN_STATE.gen i)
  let step1 : Option InCtx × InCtx × State :=
    if !s.flag (R.SXE_IN_STATE.synced i) then
      let x := { x with takeAny := true }
      (some x, x, (s.put (R.SXE_IN_STATE.gen i) g).mark (R.SXE_IN_STATE.synced i))
    else if gen ≠ g then
      let c := if cand.1 = g then (g, cand.2 + 1) else (g, 1)
      if c.2 < 3 then (none, setCand x c, s)
      else
        let x := { x with takeAny := true, candA := (x.candA.1, 0), candB := (x.candB.1, 0) }
        let x := setCand x (g, 0)
        (some x, x, s.put (R.SXE_IN_STATE.gen i) g)
    else
      let x := setCand x (cand.1, 0)
      (some x, x, s)
  match step1 with
  | (none, x, s) => rogue (s.setIn x)
  | (some x, _, s) =>
    if x.takeAny then
      (true, (s.put (R.SXE_IN_STATE.rseq i) sq).setIn { x with hist := 1, takeAny := false, rogue := 0 })
    else
      let H : Int := s.get (R.SXE_IN_CTL.hist_m1 i) + 1
      let d := sx 16 (toU 16 ((sq : Int) - s.get (R.SXE_IN_STATE.rseq i)))
      if H ≤ d ∨ d ≤ -H then
        let r := x.rogue + 1
        rogue (s.setIn (if r = 4 then { x with takeAny := true, rogue := 0 } else { x with rogue := r }))
      else
        let x := { x with rogue := 0 }
        if 0 < d then (true, (s.put (R.SXE_IN_STATE.rseq i) sq).setIn { x with hist := (x.hist <<< d.toNat) ||| 1 })
        else
          let k := (-d).toNat
          if x.hist.getLsbD k then (false, inCount (s.setIn x) (R.SXE_IN_DUP.count i) 0x21)
          else (true, s.setIn { x with hist := x.hist ||| BitVec.ofNat 32 (2 ^ k) })

/-- Rows of samples from grid sample n on go into the store (R228): counted as accepted, as duplicate. -/
def storeFrame (s : State) (i : Nat) (n : Nat) (rows : List (List Word)) : State :=
  let (ok, dup, s) := (List.range rows.length).foldl (fun (acc : Bool × Bool × State) j =>
    let row := rows.getD j []
    (List.range row.length).foldl (fun (acc : Bool × Bool × State) c =>
      let (ok, dup, s) := acc
      let (w, s) := storePut s (s.inBase i + c) (n + j) (row.getD c 0)
      (ok || w, dup || !w, s)) acc) (false, false, s)
  let s := if dup then inCount s (R.SXE_IN_DUP.count i) 0x21 else s
  if ok then (inCount s (R.SXE_IN_ACC.count i) 0x20).setIn { s.inCtx i with got := true } else s

/-- Rows of an AAF or AES67 frame: those in the window of R227 are stored. -/
def storeWindow (s : State) (i : Nat) (a : Nat) (n : Int) (rows : List (List Word)) : State :=
  let N : Int := s.nSamp
  let lo : Int := (a : Int) - s.dIn + 1
  let per := fun (j : Nat) => (n + j) / N
  let idx := List.range rows.length
  let s := if idx.any (fun j => decide (per j < lo)) then inCount s (R.SXE_IN_LATE.count i) 0x22 else s
  let s := if idx.any (fun j => decide ((a : Int) + 1 < per j)) then inCount s (R.SXE_IN_EARLY.count i) 0x23 else s
  let good := idx.filter (fun j => decide (lo ≤ per j ∧ per j ≤ (a : Int) + 1 ∧ 0 ≤ per j))
  match good with
  | [] => s
  | j0 :: _ => storeFrame s i (n + j0).toNat (good.map (fun j => rows.getD j []))

/-- A malformed frame of context i. -/
def malformed (s : State) (i : Nat) : State := inCount s (R.SXE_IN_MALFORMED.count i) 0x24

/-- u32(start_ns(k)). -/
def State.startWt (s : State) (k : Nat) : Nat := k * s.perVco * 3125 / 6144 % 2 ^ 32

/-- A native AVTPDU v for context i (R222, R224, R227, R230, R234), arrived in period a. -/
def rxNative (s : State) (i : Nat) (v : List Byte) (a : Nat) : State :=
  let N := s.nSamp
  let ch := s.inCh i
  let kI := extend32 a (fbe v 24 4)
  let k := kI.toNat
  let fl := fbe v 35 1
  let ok := fbe v 1 1 == 0x81 && fbe v 2 1 == fbe v 33 1 && fbe v 3 1 == 0 && fbe v 12 4 == fbe v 28 4
    && fbe v 16 6 == 0x7AE10C007400 && fbe v 22 2 == 16 + ch * N * 4 && fl / 16 == 0
    && fbe v 36 1 == ch - 1 + 64 * s.fsSel && fbe v 37 1 == s.get R.SYS_GRID.n_log2 && fbe v 38 2 == 0
    && Nat.ble (40 + ch * N * 4) v.length
    && decide (0 ≤ kI) && fbe v 28 4 == s.startWt k && fbe v 32 2 == k % 65536
  if !ok then malformed s i
  else if kI < (a : Int) - s.dIn + 1 then inCount s (R.SXE_IN_LATE.count i) 0x22
  else if a + 1 < k then inCount s (R.SXE_IN_EARLY.count i) 0x23
  else if s.flag (R.SXE_IN_CTL.sil_missing i) && fl / 2 % 2 == 1 then s.bump (R.SXE_IN_SILENT.count i)
  else
    match recover s i (fl % 2 == 1) (fbe v 34 1) (fbe v 32 2) with
    | (false, s) => s
    | (true, s) => storeFrame s i (k * N) (inSamples ch 4 (v.drop 40) N)

/-- An AAF AVTPDU v for context i (R220, R224, R225), arrived in period a at t16 (2^-16 ns of engine time). -/
def rxAaf (s : State) (i : Nat) (v : List Byte) (a t16 : Nat) : State :=
  let ch := s.inCh i
  let wid := s.get (R.SXE_IN_CTL.wid i)
  let w := widBytes wid
  let len := fbe v 20 2
  let S := len / (ch * w)
  let b1 := fbe v 1 1
  let q3 := 62500 / 2 ^ s.fsSel
  let t3 := 3 * extend32 (t16 / 65536 : Nat) (fbe v 12 4)
  let n0 := (2 * t3 + q3) / (2 * q3)
  let ok := b1 / 128 == 1 && b1 / 16 % 8 == 0 && b1 % 2 == 1
    && fbe v 16 1 == (if wid = 2 then 2 else 3) && fbe v 17 1 / 16 == (if s.fsSel = 0 then 5 else 7)
    && fbe v 17 2 % 1024 == ch && fbe v 19 1 == 8 * w && len % (ch * w) == 0 && Nat.ble 1 S && Nat.ble S 32
    && Nat.ble (24 + len) v.length && decide (4 * (t3 - n0 * q3).natAbs ≤ q3)
  if !ok then malformed s i
  else storeWindow s i a (n0 + s.getS (R.SXE_IN_TSOFS.ts_ofs i)) (inSamples ch w (v.drop 24) S)

/-- The payload of an RTP packet without its header extension and padding, if the packet holds them. -/
def rtpPayload (r : List Byte) : Option (List Byte) :=
  let b0 := fbe r 0 1
  let h := if b0 / 16 % 2 = 1 then 16 + 4 * fbe r 14 2 else 12
  let pad := if b0 / 32 % 2 = 1 then (r.getLastD 0).toNat else 0
  if r.length < h + pad ∨ (b0 / 32 % 2 = 1 ∧ pad = 0) then none else some ((r.drop h).take (r.length - h - pad))

/-- An RTP packet r in datagram u for context i (R220, R224, R225). -/
def rxAes67 (s : State) (i : Nat) (u : UdpPkt) (a t16 : Nat) : State :=
  let r := u.payload
  let ch := s.inCh i
  let w := widBytes (s.get (R.SXE_IN_CTL.wid i))
  let b0 := fbe r 0 1
  match rtpPayload r with
  | none => malformed s i
  | some pl =>
    let S := pl.length / (ch * w)
    let ok := u.ipOk && u.sumOk && Nat.ble 12 r.length && b0 / 64 == 2 && b0 % 16 == 0
      && fbe r 1 1 % 128 == s.get (R.SXE_IN_MAP.pt i)
      && (!s.flag (R.SXE_IN_CTL.ssrc_chk i) || fbe r 8 4 == s.get (R.SXE_IN_SSRC.ssrc i))
      && pl.length % (ch * w) == 0 && Nat.ble 1 S && Nat.ble S 96 && Nat.ble (ch * S) 768
    if !ok then malformed s i
    else
      let now := t16 * 3 / (65536 * (62500 / 2 ^ s.fsSel))
      let low := toU 32 ((fbe r 4 4 : Int) - s.get (R.SXE_IN_RTPOFS.rtp_ofs i) + s.getS (R.SXE_IN_TSOFS.ts_ofs i))
      storeWindow s i a (extend32 now low) (inSamples ch w pl S)

/-- The 64-bit stream ID, or the destination address, of ingress context i. -/
def State.inStream (s : State) (i : Nat) : Nat := s.get (R.SXE_IN_ID.id i 0) + 2 ^ 32 * s.get (R.SXE_IN_ID.id i 1)
def State.inAddr (s : State) (i : Nat) : Nat :=
  if s.flag (R.SXE_IN_CTL.ipv6 i) then ((List.range 4).map (fun w => s.get (R.SXE_IN_ID.id i w) * 2 ^ (32 * w))).sum
  else s.get (R.SXE_IN_ID.id i 0)

/-- A context claims a frame from port p, unless it arrived where the context does not admit it or truncated (R224). -/
def claim (s : State) (i p : Nat) (trunc : Bool) (f : State → State) : State :=
  if trunc || s.get (R.SXE_IN_CTL.ports i) / 2 ^ p % 2 == 0 then malformed s i else mirrorFlush (f s)

/-- The stream engine's part of local delivery (R223): true when the frame is claimed or discarded. ts: the arrival in
2^-16 ns since the period began. (DEDUCED, log entry 48.) -/
def sxeReceive (s : State) (p : Nat) (b : List Byte) (trunc : Bool) (ts : Nat) : Bool × State :=
  if !s.sxe.run then (false, s)
  else
    let h := ethHdr b
    let t16 := s.pn * s.perVco * 100000 / 3 + ts
    let a := s.pn + 3 * ts / (s.perVco * 100000)
    if h.etype = 0x22F0 then
      let v := b.drop h.off
      let sub := fbe v 0 1
      if sub ≠ 0x6F ∧ sub ≠ 0x02 then (false, s)
      else
        match s.insOn.find? (fun i => s.get (R.SXE_IN_CTL.fmt i) == (if sub = 0x6F then 0 else 1) && s.inStream i == fbe v 4 8) with
        | some i => (true, claim s i p trunc (fun s => if sub = 0x6F then rxNative s i v a else rxAaf s i v a t16))
        | none => (!s.flag R.SXE_CTRL.host_unk, s.bump R.SXE_RX_UNKNOWN.unknown)
    else match udpOf b h with
      | none => (false, s)
      | some u =>
        match s.insOn.find? (fun i => s.get (R.SXE_IN_CTL.fmt i) == 2 && s.flag (R.SXE_IN_CTL.ipv6 i) == u.v6
            && s.inAddr i == u.dst && s.get (R.SXE_IN_UDP.udp_dst i) == u.dport) with
        | some i => (true, claim s i p trunc (fun s => rxAes67 s i u a t16))
        | none => (false, s)

/-! ## The store deadline (R231 to R233) -/

/-- The substitute of a channel at the j-th consecutive missing sample (R232). -/
def substAt (mode : Nat) (v : Int) (j : Nat) : Int :=
  match mode with
  | 1 => v
  | 2 => if j < 32 then v * (32 - (j : Int)) / 32 else 0
  | _ => 0

/-- One sample of a channel: what is presented, and the channel's record (R232, R233). -/
def substStep (mode : Nat) (c : ChSub) (x : Option Word) : Int × ChSub :=
  match x with
  | none =>
    let c := if c.miss = 0 ∨ c.acc ≠ 0 then { c with v := c.last, miss := 0, acc := 0 } else c
    let y := substAt mode c.v (c.miss + 1)
    (y, { c with miss := c.miss + 1, last := y })
  | some w =>
    if c.miss = 0 ∨ 32 ≤ c.acc ∨ mode = 0 ∨ mode = 3 then (w.toInt, { c with miss := 0, acc := 0, last := w.toInt })
    else
      let j := c.acc + 1
      let sb := substAt mode c.v (c.miss + j)
      let y := sb + (w.toInt - sb) * j / 32
      (y, if j = 32 then { c with miss := 0, acc := 0, last := y } else { c with acc := j, last := y })

/-- The samples of a channel over a period. -/
def substRun (mode : Nat) : ChSub → List (Option Word) → List Int × ChSub
  | c, [] => ([], c)
  | c, x :: t =>
    let (y, c) := substStep mode c x
    let (l, c) := substRun mode c t
    (y :: l, c)

/-- A channel's record, and the record replaced. -/
def State.chSub (s : State) (ch : Nat) : ChSub :=
  match s.sxe.chs.find? (·.ch == ch) with
  | some c => c
  | none => ⟨ch, 0, 0, 0, 0⟩
def State.setChSub (s : State) (c : ChSub) : State :=
  let l := s.sxe.chs
  { s with sxe := { s.sxe with chs := if l.any (·.ch == c.ch) then l.map (fun x => if x.ch == c.ch then c else x) else l ++ [c] } }

/-- The deadline of context i for the period whose samples `store` holds: the samples of its channels, what is missing
substituted and counted. -/
def ctxDeadline (s : State) (i : Nat) (read : Nat → List (Option Word)) : List (Nat × List Int) × State :=
  let N := s.nSamp
  let mode := s.get (R.SXE_IN_CTL.subst i)
  let (l, miss, s) := (List.range (s.inCh i)).foldl (fun (acc : List (Nat × List Int) × Nat × State) c =>
    let (l, miss, s) := acc
    let ch := s.inBase i + c
    let v := read ch
    let v := (List.range N).map (fun j => v.getD j none)
    let (y, cs) := substRun mode (s.chSub ch) v
    (l ++ [(ch, y)], miss + (v.filter (·.isNone)).length, s.setChSub cs)) (([] : List (Nat × List Int)), 0, s)
  let s := s.put (R.SXE_IN_STATE.sub_now i) (bit (miss != 0))
  (l, if miss = 0 then s else ((s.bump (R.SXE_IN_SUBST.count i)).raise 1 4 1 i).count 0x26 miss)

/-- The deadline's work at a boundary (R231, R232): the network sources of the pass that starts, read through `read`. -/
def sxeDeadline (s : State) (read : Nat → List (Option Word)) : List (Nat × List Int) × State :=
  if !s.sxe.run then ([], s)
  else
    s.insOn.foldl (fun (acc : List (Nat × List Int) × State) i =>
      let (l, s) := acc
      let x := s.inCtx i
      let idle := if x.got then 0 else x.idle + 1
      let due := Nat.ble (max 1 (s.get (R.SXE_IN_UDP.reset_p i))) idle
      let s := s.setIn { x with got := false, idle := idle, takeAny := x.takeAny || due }
      let (v, s) := ctxDeadline s i read
      (l ++ v, s)) (([] : List (Nat × List Int)), s)

/-- A source's samples in the pass: a network channel as its deadline gave it; a local input or a local-to-grid bridge as the
store holds it, zero where nothing stands (DESIGN CHOICE, log entry 21). -/
def sxeSource (net : List (Nat × List Int)) (read : Nat → List (Option Word)) (src : Nat) : List Int :=
  if src < 0x1000 then (assocGet src net).getD []
  else (read src).map (fun o => match o with | some w => w.toInt | none => 0)

/-! ## Egress (R221, R226, R235 to R237) -/

/-- An egress word of w bytes (R221). -/
def outWord (w : Nat) (x : Int) : List Byte := beBytes w ((wordOut (8 * w) x).toNat / 2 ^ (32 - 8 * w))

/-- Rows of samples as a payload. -/
def outSamples (w : Nat) (rows : List (List Int)) : List Byte := rows.flatMap (fun r => r.flatMap (outWord w))

/-- Every egress frame carries zeros (R237). -/
def State.egMuted (s : State) : Bool := s.sys.state == .runUnlocked || s.sys.state == .safe

/-- The native AVTPDU of context i for presentation period k on path A or B (R222, R237). -/
def nativePdu (s : State) (i k : Nat) (pathB : Bool) (rows : List (List Int)) : List Byte :=
  let n := s.egCh i * s.nSamp * 4
  let fl := bit pathB + 2 * bit s.egMuted + 4 * bit (s.sys.state == .runUnlocked) + 8 * bit (s.sys.state == .safe)
  let wt := beBytes 4 (s.startWt k)
  [0x6F#8, 0x81#8] ++ beBytes 1 k ++ [0#8] ++ beBytes 4 (s.get (R.SXE_EG_ID.id i 1)) ++ beBytes 4 (s.get (R.SXE_EG_ID.id i 0))
    ++ wt ++ beBytes 6 0x7AE10C007400 ++ beBytes 2 (16 + n) ++ beBytes 4 k ++ wt ++ beBytes 2 k
    ++ beBytes 1 (s.get (R.SXE_EG_STATE.gen i)) ++ beBytes 1 fl ++ beBytes 1 (s.egCh i - 1 + 64 * s.fsSel)
    ++ beBytes 1 (s.get R.SYS_GRID.n_log2) ++ [0#8, 0#8] ++ outSamples 4 rows

/-- The AAF AVTPDU of context i for presentation period k (R220, R226). -/
def aafPdu (s : State) (i k : Nat) (rows : List (List Int)) : List Byte :=
  let w := widBytes (s.get (R.SXE_EG_CTL.wid i))
  let pl := outSamples w rows
  let t3 := ((k * s.nSamp : Nat) - s.getS (R.SXE_EG_TSOFS.ts_ofs i)) * (62500 / 2 ^ s.fsSel : Nat)
  [0x02#8, 0x81#8] ++ beBytes 1 k ++ [0#8] ++ beBytes 4 (s.get (R.SXE_EG_ID.id i 1)) ++ beBytes 4 (s.get (R.SXE_EG_ID.id i 0))
    ++ beBytes 4 (toU 32 (t3 / 3)) ++ [if w = 4 then 2#8 else 3#8]
    ++ beBytes 2 ((if s.fsSel = 0 then 5 else 7) * 4096 + s.egCh i) ++ beBytes 1 (8 * w) ++ beBytes 2 pl.length ++ [0#8, 0#8] ++ pl

/-- The destination or source address of an AES67 egress context. -/
def State.egAddr (s : State) (i : Nat) (dst : Bool) : Nat :=
  let word := fun (w : Nat) => if dst then s.get (R.SXE_EG_ID.id i w) else s.get (R.SXE_EG_SRC.addr i w)
  if s.flag (R.SXE_EG_MAP.ipv6 i) then ((List.range 4).map (fun w => word w * 2 ^ (32 * w))).sum else word 0

/-- The datagram of an AES67 packet whose first sample is grid sample n (R226), with RTP sequence number sq and IP
identification id. -/
def aesPacket (s : State) (i sq id : Nat) (n : Nat) (rows : List (List Int)) : List Byte :=
  let w := widBytes (s.get (R.SXE_EG_CTL.wid i))
  let ts := toU 32 ((n : Int) - s.getS (R.SXE_EG_TSOFS.ts_ofs i) + s.get (R.SXE_EG_RTPOFS.rtp_ofs i))
  let rtp := [0x80#8] ++ beBytes 1 (s.get (R.SXE_EG_MAP.pt i)) ++ beBytes 2 sq ++ beBytes 4 ts
    ++ beBytes 4 (s.get (R.SXE_EG_SSRC.ssrc i)) ++ outSamples w rows
  udpBuild (s.flag (R.SXE_EG_MAP.ipv6 i)) (s.egAddr i false) (s.egAddr i true) (s.get (R.SXE_EG_TSOFS.udp_src i))
    (s.get (R.SXE_EG_DMAC_HI.udp_dst i)) (s.get (R.SXE_EG_IP.ttl i)) (s.get (R.SXE_EG_IP.dscp i)) id false rtp

/-- A frame of context i, with its EtherType and body by path, goes to TC5 of each path's port. -/
def egSend (s : State) (i k : Nat) (et : Nat) (body : Bool → List Byte) (aOk bOk : Bool) : State :=
  let tag := if s.flag (R.SXE_EG_CTL.vlan_en i) then some (s.get (R.SXE_EG_CTL.pcp i), s.get (R.SXE_EG_MAP.vid i)) else none
  let da := s.get (R.SXE_EG_DMAC_LO.dmac i) + 2 ^ 32 * s.get (R.SXE_EG_DMAC_HI.dmac i)
  let go := fun (s : State) (p : Nat) (pathB : Bool) =>
    ethQueue s p 5 ⟨padFrame (ethBuild da (s.portMac p) tag et ++ body pathB), .stream i pathB k, false⟩
  let s := if aOk && s.flag (R.SXE_EG_CTL.a_en i) then go s (s.get (R.SXE_EG_CTL.port_a i)) false else s
  if bOk && s.flag (R.SXE_EG_CTL.b_en i) then go s (s.get (R.SXE_EG_CTL.port_b i)) true else s

/-- The rows of an AES67 context join its packet under way; complete packets are sent (R235). (DEDUCED, log entry 47.) -/
def aesRows (s : State) (i k : Nat) (aOk bOk : Bool) : Nat → List (List Int) → State
  | _, [] => s
  | n, row :: t =>
    let S := s.egSpp i
    let (sq, rows, s) := match s.sxe.pack.find? (·.1 == i) with
      | some (_, sq, rows) => (sq, rows, s)
      | none =>
        let (f, s) := s.freeNat
        (f % 65536, List.replicate (n % S) (List.replicate (s.egCh i) (0 : Int)), s)
    let rows := rows ++ [row]
    let put := fun (s : State) (sq : Nat) (rows : List (List Int)) =>
      { s with sxe := { s.sxe with pack := (i, sq, rows) :: s.sxe.pack.filter (fun x => x.1 != i) } }
    let s := if n % S + 1 = S then
        let (id, s) := s.freeNat
        let rows := if s.egMuted then rows.map (fun r => r.map (fun _ => 0)) else rows
        let pkt := aesPacket s i sq (id % 65536) (n + 1 - S) rows
        egSend (put s ((sq + 1) % 65536) []) i k (if s.flag (R.SXE_EG_MAP.ipv6 i) then 0x86DD else 0x0800) (fun _ => pkt) aOk bOk
      else put s sq rows
    aesRows s i k aOk bOk (n + 1) t

/-- The packing of a boundary (R235): presentation period k = PN + 1, from the destination samples of the pass that has ended. aOk,
bOk: the engine sends path A, path B (R287, R302). -/
def egPack (s : State) (aOk bOk : Bool) : State :=
  if !s.sxe.run then s
  else
    let k := s.pn + 1
    s.egsOn.foldl (fun s i =>
      let N := s.nSamp
      let ch := s.egCh i
      let rows := (List.range N).map fun j => (List.range ch).map fun c =>
        ((assocGet (s.egBase i + c) s.mash.out).getD []).getD j 0
      match s.get (R.SXE_EG_CTL.fmt i) with
      | 2 => aesRows s i k aOk bOk (k * N) rows
      | f =>
        let rows := if s.egMuted then rows.map (fun r => r.map (fun _ => 0)) else rows
        egSend s i k 0x22F0 (fun b => if f = 0 then nativePdu s i k b rows else aafPdu s i k rows) aOk bOk) s

/-- Stream frames that `gone` names leave the queues of every port; `tell` is done for each. -/
def egDrop (s : State) (gone : Nat → Bool) (tell : State → Nat → State) : State :=
  (List.finRange 8).foldl (fun s p =>
    let x := s.eport p
    let isGone := fun (f : QFrame) => match f.src with | .stream _ _ n => gone n | _ => false
    let l := x.queues[5].filter isGone
    if l.isEmpty then s
    else
      let s := s.setEport p { x with queues := x.queues.set 5 (x.queues[5].filter (fun f => !isGone f)) }
      l.foldl (fun s f => match f.src with | .stream i _ _ => tell s i | _ => s) s) s

/-- Frames that have not started by the boundary of their period are late (R235). -/
def egLate (s : State) : State :=
  egDrop s (fun n => Nat.ble n s.pn) (fun s i => (s.bump (R.SXE_EG_LATE.count i)).count 0x27 1)

/-- A time set (R46, R467): the store is emptied, queued egress frames go uncounted, packets under way are abandoned. -/
def sxeTimeSet (s : State) : State :=
  let s := egDrop s (fun _ => true) (fun s _ => s)
  { s with sxe := { s.sxe with store := [], pack := [] } }

end Sys2Proof.Machine
end

