-- ==== Sys2Proof/Machine/EthRx.lean ====
section
/-!
DEFINITION. Links and received frames (R188 to R191, R194, R200 to R209, R217): the checks, the bridge, local delivery and the wake
filters.
-/
namespace Sys2Proof.Machine

/-! ## Links (R189) -/

/-- A port that keeps or brings up its link: present, enabled, an image loaded; in STANDBY only a wake port. -/
def State.linkMay (s : State) (p : Nat) : Bool :=
  s.ethOk p && s.flag (R.ETH_PCFG.en p) && s.image
    && (s.sys.state != .standby || (s.flag (R.ETH_PCFG.wake_en p) && !s.isTwinPort p))

/-- ETH_LINK_UP (R189, R194, R247, R286). -/
def execEthLinkUp (p : Fin 8) (rxLat txLat : BitVec 16) (s : State) : Host.Outcome State Fault Refusal :=
  Cmd.run (fun s =>
    let q := p.val
    if s.linkUp q || !s.linkMay q then s
    else
      let s := ((s.put (R.PTP_PORT_LAT.rx q) rxLat.toNat).put (R.PTP_PORT_LAT.tx q) txLat.toNat).mark (R.ETH_PSTAT.link q)
      let s := (s.mark (R.ETH_PSTAT.blk_lock q)).put (R.ETH_PSTAT.fec_align q) (bit (s.fast q && s.flag (R.ETH_PCFG.fec q)))
      let s := ((s.unmark (R.ETH_PSTAT.lfault q)).unmark (R.ETH_PSTAT.rfault q)).mark (R.ETH_PSTAT.link_evt q)
      let s := s.put (R.ETH_PSTAT.pre_state q)
        (if s.flag (R.ETH_PREEMPT.en q) then (if s.flag (R.ETH_PREEMPT.verify_dis q) then 2 else 1) else 0)
      let s := s.setEport p { s.eport p with tries := 0 }
      let s := if s.get (R.ETH_PSTAT.pre_state q) = 1 then s.emit (.verify q) else s
      let s := s.raise 0 3 2 q
      let s := if s.isTwinPort q then { s with twin := { s.twin with lseq := 0, lack := 0, ackDue := false, unacked := [], asked := false } } else s
      refFollow s (2 + q)) s

/-- A stream context names port p. -/
def State.streamNames (s : State) (p : Nat) : Bool :=
  s.insEn.any (fun i => s.get (R.SXE_IN_CTL.ports i) / 2 ^ p % 2 == 1)
    || s.egsEn.any (fun i => s.get (R.SXE_EG_CTL.port_a i) == p || s.get (R.SXE_EG_CTL.port_b i) == p)

/-- The link of port p fails (R189, R255, R264). -/
def ethDown (s : State) (p : Fin 8) : State :=
  let q := p.val
  if !s.linkUp q then s
  else
    let s := (s.unmark (R.ETH_PSTAT.link q)).mark (R.ETH_PSTAT.link_evt q)
    let s := ((s.unmark (R.ETH_PSTAT.rx_lpi q)).unmark (R.ETH_PSTAT.tx_lpi q)).put (R.ETH_PSTAT.pre_state q) 0
    let s := linkDrop s p
    let s := s.setFdb (s.eth.fdb.filter (fun e => e.fixed || e.port != q))
    let s := if (s.flag (R.ETH_PCFG.bridge q) && !s.isTwinPort q) || s.streamNames q then s.raise 1 3 1 q else s
    let s := (List.finRange 2).foldl (fun s d => if s.slavePort d.val = some q then servoReset s d else s) s
    refFollow s (2 + q)

/-- ETH_LINK_DOWN (R189). -/
def execEthLinkDown (p : Fin 8) (blkLock fecAlign lfault rfault : Bool) (s : State) : Host.Outcome State Fault Refusal :=
  Cmd.run (fun s =>
    let q := p.val
    if !s.linkUp q then s
    else
      let s := ((s.put (R.ETH_PSTAT.blk_lock q) (bit blkLock)).put (R.ETH_PSTAT.fec_align q) (bit fecAlign)).put
        (R.ETH_PSTAT.lfault q) (bit lfault)
      ethDown (s.put (R.ETH_PSTAT.rfault q) (bit rfault)) p) s

/-! ## Waking (R217, R386) -/

/-- A wake event: STANDBY ends; Cask leaves self-refresh; the start checks are to run again. -/
def wakeUp (s : State) (source : Nat) : State :=
  if s.sys.state ≠ .standby then s
  else
    let s := xioEarly (caskWake (s.enter .prepare))
    let s := (s.put R.SYS_WAKE.source source).mark R.SYS_WAKE.woke
    { s with boot := { s.boot with checked := false, waking := true } }

/-- The wake filter that a frame (without its FCS) matches on port p: the lowest-numbered. -/
def wakeMatch (s : State) (p : Nat) (b : List Byte) : Option Nat :=
  (List.range 16).find? fun f =>
    let at_ := (List.range 128).filter (fun i => s.get (R.ETH_WAKE_MASK.mask f (i / 32)) / 2 ^ (i % 32) % 2 == 1)
    s.flag (R.ETH_WAKE_CHK.en f) && s.get (R.ETH_WAKE_CHK.ports f) / 2 ^ p % 2 == 1 && at_.all (fun i => Nat.blt i b.length)
      && (crc16 (at_.map (fun i => b.getD i 0))).toNat == s.get (R.ETH_WAKE_CHK.chk f)

/-! ## Local delivery (R209) -/

/-- An address of 01-80-C2-00-00-00 to 01-80-C2-00-00-0F. -/
def macReserved (a : Nat) : Bool := a / 16 == 0x0180C200000

/-- A frame to da in VLAN vid is accepted locally on port p. -/
def acceptsDa (s : State) (p da vid : Nat) : Bool :=
  let bcast := da == 2 ^ 48 - 1
  let bin := (crc32 (beBytes 6 da)).toNat % 512
  da == s.portMac p
    || (List.range 64).any (fun i => s.flag (R.ETH_DAF_HI.en p i)
        && s.get (R.ETH_DAF_LO.mac p i) + 2 ^ 32 * s.get (R.ETH_DAF_HI.mac p i) == da)
    || (macMulti da && !bcast && s.get (R.ETH_DAHASH.bins p (bin / 32)) / 2 ^ (bin % 32) % 2 == 1)
    || (bcast && s.flag (R.ETH_PCFG.bcast p)) || macReserved da
    || (match s.strFind da vid with | some n => s.get (R.ETH_BR_STR_W2.ports n) / 256 % 2 == 1 | none => false)

/-- A received frame as the engine holds it: its kept bytes without FCS, whether truncated, its header, its VID and PCP, its arrival
in 2^-16 ns since the period began, the PTP message in it with whether that may be used. -/
structure RxFrame where
  b : List Byte
  trunc : Bool
  h : EthHdr
  vid : Nat
  pcp : Nat
  ts : Nat
  ptp : Option (PtpAt × Bool)

/-- The message of a PTP frame, and whether its version is 2 and its length lies within the frame (R262). -/
def rxPtp (b : List Byte) : Option (PtpAt × Bool) :=
  (ptpAt b).map fun x =>
    let m := b.drop x.off
    let n := if x.tr = 0 then m.length else min m.length (fbe b (x.udp + 4) 2 - 8)
    (x, msgVersion m == 2 && Nat.ble 34 n && Nat.ble (msgLen m) n)

/-- A received frame of port p goes into receive ring q. -/
def ringPut (s : State) (q : Fin 4) (p : Nat) (f : RxFrame) : State := ringFill s q f.b p f.trunc f.h.tag f.vid f.pcp f.ts

/-- The network-time block takes the PTP message of a frame; general messages go on to the MGP (R245). -/
def ptpDeliver (s : State) (p : Fin 8) (f : RxFrame) (x : PtpAt) (good : Bool) : State :=
  let (mgp, s) := ptpReceive s p x.tr (f.b.drop x.off) (s.rxTime p.val f.ts) good
  if mgp then ringPut s 2 p.val f else s

/-- A datagram that the in-band decoder takes (R359, R360): its commands carry what it does. -/
def inbandTakes (s : State) (p : Nat) (b : List Byte) (h : EthHdr) : Bool :=
  s.sys.fuses.ibKey && s.get R.HIF_IB_CFG.ports / 2 ^ p % 2 == 1
    && (match udpOf b h with | some u => u.dport == s.get R.HIF_IB_CFG.udp_port | none => false)

/-- An accepted frame goes to the first destination that takes it (R209). -/
def deliver (s : State) (p : Fin 8) (f : RxFrame) : State :=
  let (took, s) := sxeReceive s p.val f.b f.trunc f.ts
  if took then s
  else match f.ptp with
    | some (x, good) => ptpDeliver s p f x good
    | none =>
      if f.h.etype = 0x88CC then ringPut s 2 p.val f
      else if inbandTakes s p.val f.b f.h then s
      else ringPut s 0 p.val f

/-! ## The bridge (R200) -/

/-- A PTP frame that the bridge does not forward (R243, R259), and whether tc_drop counts it. -/
def ptpHeld (s : State) (f : RxFrame) : Bool × Bool :=
  match f.ptp with
  | some (x, true) =>
    let m := f.b.drop x.off
    let ty := msgType m
    let term := match s.domOf (msgDom m) x.tr with | some d => s.terminates d.val | none => false
    if term then (true, false)
    else if s.get R.PTP_CTRL.tc_mode = 2 then
      if ty = 1 ∨ ty = 9 then (true, true) else (ty == 2 || ty == 3 || ty == 10, false)
    else (false, false)
  | _ => (false, false)

/-- What the transparent clock adds to a forwarded frame beside the residence time (R259). -/
def tcAdd (s : State) (p : Nat) (f : RxFrame) : Option Int :=
  match f.ptp with
  | some (x, true) =>
    let ty := msgType (f.b.drop x.off)
    let mode := s.get R.PTP_CTRL.tc_mode
    if 4 ≤ ty ∨ mode = 0 ∨ mode = 3 then none
    else if mode = 2 ∧ ty = 0 ∧ s.flag (R.PTP_PORT_LDSTAT.ld_valid p) then some (s.getS (R.PTP_PORT_LD.ld p) * 256)
    else some 0
  | _ => none

/-- The cycle of the period at which byte 64 of a frame whose SFD arrived at ts has been received. -/
def byte64At (s : State) (p ts : Nat) : Nat := fabOf (ts + if s.fast p then 1342177 else 3355443)

/-- The instant, in 2^-16 ns since the period began, at which the SFD of a cut-through copy leaves port e: the transmission begins within
120 ns of byte 64 (R206), a free value d says when, and its preamble goes before. -/
def cutStart (s : State) (p e ts d : Nat) : Nat :=
  ts + (if s.fast p then 1342177 else 3355443) + d % 7864321 + (if s.fast e then 167772 else 419430)

/-- A PTP message over UDP/IPv6 whose payload lacks the two octets behind it: a change of it has its checksum recomputed (R260). -/
def mustStore (b : List Byte) : Bool :=
  match ptpAt b with
  | some x => x.tr == 2 && Nat.blt (fbe b (x.udp + 4) 2) (msgLen (b.drop x.off) + 10)
  | none => false

/-- One copy of a forwarded frame, to port e: cut-through where that is allowed, else queued; a frame with an FCS error is only cut
through. -/
def forwardTo (s : State) (p : Fin 8) (f : RxFrame) (entry : Option Nat) (tc : Nat) (bad : Bool) (e : Nat) : State :=
  let add := tcAdd s p.val f
  let q : QFrame := ⟨retag s f.b f.h f.vid f.pcp e, .fwd (s.rxTime p.val f.ts) p.val add, f.trunc⟩
  let cut := match entry with
    | some n => if cutOk s p.val e n tc (byte64At s p.val f.ts) && !(add.isSome && mustStore f.b) then some n else none
    | none => none
  match cut with
  | some n =>
    let (d, s) := s.freeNat
    let (q, s) := stampTx s (Fin.ofNat 8 e) q (s.txTime e (cutStart s p.val e f.ts d))
    cutSend s e (s.get (R.ETH_BR_STR_W2.max_len n)) q bad
  | none => if bad then s else ethQueue s e tc q

/-- Steps 3 to 7 of R200 for a frame of VLAN vid from port p. `full`: its bytes before truncation; `bad`: with an FCS error. -/
def forward (s : State) (p : Fin 8) (f : RxFrame) (full : List Byte) (bad : Bool) : State :=
  let (held, count) := ptpHeld s f
  if macReserved f.h.da || f.h.da == s.portMac p.val || held then
    if count && !bad then s.bump R.PTP_TC_DROP.count else s
  else
    let r := bridgeRoute s f.h f.vid p.val
    let (go, s) := match r.storm with
      | some k =>
        if r.ports.isEmpty || bad then (!bad, s)
        else
          let (ok, s) := stormTake s p k (full.length + 4)
          (ok, if ok then s else ethCount s p.val 7 1)
      | none => (true, s)
    if !go then s
    else
      let tc := fwdClass s p.val f.ptp.isSome r.entry f.pcp
      r.ports.foldl (fun s e => forwardTo s p f r.entry tc bad e) s

/-! ## A received frame (R190, R191, R194) -/

/-- A discard at ingress. -/
def rxDrop (s : State) (p : Nat) (l : Loc) : State := ethCount (s.bump l) p 7 1

/-- A frame that the MAC merge sublayer lets through (R194), with the counters of the others. -/
def rxMerge (s : State) (p : Fin 8) (kind : RxKind) : Bool × State :=
  let en := s.flag (R.ETH_PREEMPT.en p.val)
  match kind with
  | .frame => (true, s)
  | .mpacket => if en then (true, s) else (false, rxDrop s p.val (R.ETH_RX_FCS_ERR.count p.val))
  | .smdErr => (false, rxDrop s p.val (if en then R.ETH_RX_SMD_ERR.count p.val else R.ETH_RX_FCS_ERR.count p.val))
  | .verify => (false, if en then s.emit (.respond p.val) else rxDrop s p.val (R.ETH_RX_FCS_ERR.count p.val))
  | .respond =>
    (false, if !en then rxDrop s p.val (R.ETH_RX_FCS_ERR.count p.val)
      else if s.get (R.ETH_PSTAT.pre_state p.val) = 1 then s.put (R.ETH_PSTAT.pre_state p.val) 2 else s)

/-- A frame as received on port p, cut to the port's maxlen (R191) and classified (R200, step 2). -/
def rxFrame (s : State) (p ts : Nat) (full : List Byte) (trunc : Bool) : RxFrame :=
  let b := if trunc then full.take (s.maxlen p - 4) else full
  let h := ethHdr b
  let vid := match h.tag with | some (_, v) => if v = 0 then s.get (R.ETH_PCFG.pvid p) else v | none => s.get (R.ETH_PCFG.pvid p)
  let pcp := match h.tag with | some (c, _) => c | none => s.get (R.ETH_PCP_MAP.pcp_def p)
  ⟨b, trunc, h, vid, pcp, ts, rxPtp b⟩

/-- What becomes of a frame that passes R190. -/
def rxGood (s : State) (p : Fin 8) (f : RxFrame) (full : List Byte) : State :=
  let q := p.val
  if s.isTwinPort q then s
  else if s.sys.state = .standby then
    if s.flag (R.ETH_PCFG.wake_en q) && acceptsDa s q f.h.da f.vid then
      match wakeMatch s q f.b with
      | some w => wakeUp (((s.put R.ETH_WAKE_STAT.filter w).put R.ETH_WAKE_STAT.port q).mark R.ETH_WAKE_STAT.woke) 1
      | none => s
    else s
  else
    let here := fun (s : State) => if acceptsDa s q f.h.da f.vid then deliver s p f else s
    if !s.flag (R.ETH_PCFG.bridge q) then here s
    else if s.flag (R.ETH_PCFG.ingress_filter q) && !s.vlanHas f.vid q then rxDrop s q (R.ETH_RX_VLAN_DROP.count q)
    else
      let s := if s.flag (R.ETH_PCFG.learn q) && !macMulti f.h.sa then learn s f.h.sa f.vid q else s
      let s := forward s p f full false
      match f.ptp with
      | some (x, good) => if acceptsDa s q f.h.da f.vid then deliver s p f else ptpDeliver s p f x good
      | none => here s

/-- ETH_FRAME_RECEIVE (R190). -/
def execEthFrameReceive (p : Fin 8) (frame : List Byte) (fcsOk : Bool) (kind : RxKind) (corr uncorr ts : Nat) (s : State) :
    Host.Outcome State Fault Refusal :=
  Cmd.run (fun s =>
    let q := p.val
    if !s.ethOk q || !s.linkUp q then s
    else
      let s := (s.bump (R.ETH_RX_FEC_CORR.count q) corr).bump (R.ETH_RX_FEC_UNCORR.count q) uncorr
      let (on, s) := rxMerge s p kind
      if !on then s
      else if frame.length < 64 then rxDrop s q (R.ETH_RX_RUNT.count q)
      else
        let full := frame.take (frame.length - 4)
        let trunc := Nat.blt (s.maxlen q) frame.length
        let f := rxFrame s q ts full trunc
        if !fcsOk || uncorr != 0 then
          let s := rxDrop s q (R.ETH_RX_FCS_ERR.count q)
          if s.isTwinPort q || s.sys.state == .standby || !s.flag (R.ETH_PCFG.bridge q)
              || (s.flag (R.ETH_PCFG.ingress_filter q) && !s.vlanHas f.vid q) then s
          else forward s p f full true
        else if f.h.etype = 0x8808 then rxDrop s q (R.ETH_RX_CTRL.count q)
        else
          let s := (s.bump (R.ETH_RX_FRAMES.count q)).bump (R.ETH_RX_BYTES.count q) frame.length
          let s := if trunc then s.bump (R.ETH_RX_TRUNC.count q) else s
          let s := (ethCount s q 0 1).bwAdd q frame.length
          rxGood s p f full) s

end Sys2Proof.Machine
end

