-- ==== Sys2Proof/Machine/CoreIo.lean ====
section
/-!
DEFINITION. What the engine moves for a core (chapter 5): headers, sends and returns, substitution, overruns and fades,
restart, parameter blocks, DMA rings, mailboxes; and the start of a core (R93, R137).
-/
namespace Sys2Proof.Machine

/-! ## Places in Tun (R130, R132, R133, R138, R142) -/

/-- The fabric address of local Y offset `base × 64` of core c, and of X. -/
def yAt (c base : Nat) : Nat := tunBase c + 0x28000 + base * 64
def xAt (c base : Nat) : Nat := tunBase c + 0x10000 + base * 64

/-- The interface block of core c. -/
def State.ifBlock (s : State) (c : Nat) : Nat := yAt c (s.get (R.CORE_AREA.base c))

/-- Sends and returns in the buffers, the parameter half's length in bytes. -/
def State.sendCount (s : State) (c : Nat) : Nat := min 128 (s.get (R.CORE_SEND.count c))
def State.retCount (s : State) (c : Nat) : Nat := min 128 (s.get (R.CORE_RET.count c))
def State.paramLen (s : State) (c : Nat) : Nat := 64 * min 512 (s.get (R.CORE_PARAM.len c))

/-- Half h of the parameter block. -/
def State.paramHalf (s : State) (c h : Nat) : Nat := yAt c (s.get (R.CORE_PARAM.base c)) + h * s.paramLen c

/-- The active half. -/
def State.paramActive (s : State) (c : Nat) : Nat := s.get (R.CORE_PSTAT.active c)

/-- A descriptor ring's first byte and its length: the real-time ring or the best-effort one. -/
def State.ringAt (s : State) (c : Nat) (rt : Bool) : Nat :=
  yAt c (fieldGet 0 11 (s.reg ((if rt then 0x300140 else 0x300144) + 0x10000 * c)))
def State.ringLen (s : State) (c : Nat) (rt : Bool) : Nat :=
  min 64 (fieldGet 16 7 (s.reg ((if rt then 0x300140 else 0x300144) + 0x10000 * c)))

/-- A 32-bit word of Tun as the engine reads it. -/
def State.tunRead (s : State) (a : Nat) : Word × State := (s.memWord a, s.touch a 4)

/-! ## Headers (R131, R140) -/

/-- The eight words of the header of period p. -/
def headerWords (p param first taken swaps : Nat) : List Word :=
  [BitVec.ofNat 32 p, BitVec.ofNat 32 (p / 2 ^ 32), BitVec.ofNat 32 (param + 2 * first + 4 * taken),
    BitVec.ofNat 32 (swaps % 65536), 0, 0, 0, 0]

/-- The header of period p written into half p mod 2. -/
def putHeader (s : State) (c p param first taken swaps : Nat) : State :=
  s.memWrite (s.ifBlock c + 32 * (p % 2)) ((headerWords p param first taken swaps).flatMap (fun w => leBytes 4 w.toNat))

/-- A commit of group 16 + c stands fixed for period p or an earlier one. -/
def paramDue (s : State) (c : Fin 16) (p : Nat) : Bool :=
  match (s.hif.groups[16 + c.val]'(by omega)).fixed with
  | some f => Nat.ble f.target p
  | none => false

/-- Whether a due swap happens is settled when the header of its period is written: it is postponed while the copy of the
swap before is unfinished (R140). -/
def swapSettle (s : State) (c : Fin 16) (p : Nat) : State :=
  let io := s.io c
  if !paramDue s c p then s.setIo c { io with hdr := some false }
  else if io.copying.isEmpty then s.setIo c { io with hdr := some true }
  else
    let s' := s.setIo c { io with hdr := some false, postponed := true }
    if io.postponed then s' else (s'.mark (R.CORE_PSTAT.postponed c.val)).raise 1 6 8 c.val

/-- The header of period p, later than the core's first: what param and swaps will be in it, last_taken. -/
def headerWrite (s : State) (c : Fin 16) (p : Nat) : State :=
  let s := swapSettle s c p
  let sw := if (s.io c).hdr = some true then 1 else 0
  putHeader s c.val p ((s.paramActive c.val + sw) % 2) 0 (s.get (R.CORE_RSTAT.last_taken c.val)) (s.get (R.CORE_PSTAT.swaps c.val) + sw)

/-- A core that takes part in the period: started, not stopped. -/
def Core.started (k : Core) : Bool := k.run == .running || k.run == .idle || k.run == .halted

/-- HEADER_WRITE (R131): the header of the next period. -/
def execHeaderWrite (c : Fin 16) (s : State) : Host.Outcome State Fault Refusal :=
  Cmd.run (fun s =>
    if s.sys.dataPlane && (s.core c).started && (s.io c).hdr.isNone then headerWrite s c (s.pn + 1) else s) s

/-- Period p begins: every started core whose header of it is not yet written gets it, and what a stopped core's group does is
settled. -/
def headersMissing (s : State) (p : Nat) : State :=
  (List.finRange 16).foldl (fun s c =>
    if (s.io c).hdr.isSome then s
    else if s.sys.dataPlane && (s.core c).started then headerWrite s c p
    else swapSettle s c p) s

/-! ## Parameter blocks (R138 to R141) -/

/-- A write of word o of the window: into the inactive half, cancelling the word's pending copy; the boot engine writes both
halves (R382). Words beyond the half are ignored. -/
def trigPwin (s : State) (c : Fin 16) (o : Nat) (v : Word) (boot : Bool) : State :=
  if s.paramLen c.val ≤ 4 * o then s
  else
    let s := s.memWriteWord (s.paramHalf c.val (1 - s.paramActive c.val) + 4 * o) v
    if boot then s.memWriteWord (s.paramHalf c.val (s.paramActive c.val) + 4 * o) v
    else
      let io := s.io c
      let copying := io.copying.filter (· != o)
      let s := s.setIo c { io with written := if io.written.contains o then io.written else o :: io.written, copying := copying }
      s.put (R.CORE_PSTAT.copy_busy c.val) (bit !copying.isEmpty)

/-- A read of word o of the window: from the inactive half. -/
def pwinRead (s : State) (c o : Nat) : Word :=
  if s.paramLen c ≤ 4 * o then 0 else s.memWord (s.paramHalf c (1 - s.paramActive c) + 4 * o)

/-- The swap of R139: the active half changes over, swaps increments, and the words written since the swap before are to be
copied. -/
def paramSwap (s : State) (c : Fin 16) : State :=
  let io := s.io c
  let s := (s.put (R.CORE_PSTAT.active c.val) (1 - s.paramActive c.val)).bump (R.CORE_PSTAT.swaps c.val)
  let s := s.setIo c { io with copying := io.written, written := [], postponed := false }
  s.put (R.CORE_PSTAT.copy_busy c.val) (bit !io.written.isEmpty)

/-- PARAM_COPY_DONE (R139): every word still to be copied goes from the active half into the inactive one. -/
def execParamCopyDone (c : Fin 16) (s : State) : Host.Outcome State Fault Refusal :=
  Cmd.run (fun s =>
    let io := s.io c
    let s := io.copying.foldl (fun s o =>
      let (v, s) := s.tunRead (s.paramHalf c.val (s.paramActive c.val) + 4 * o)
      s.memWriteWord (s.paramHalf c.val (1 - s.paramActive c.val) + 4 * o) v) s
    (s.setIo c { s.io c with copying := [] }).unmark (R.CORE_PSTAT.copy_busy c.val)) s

/-! ## Sends and returns (R132 to R135) -/

/-- The sends of a pass go into half h of the core's buffer. -/
def sendsWrite (s : State) (c : Nat) (p : Nat) (sends : Nat → List Int) : State :=
  let n := s.nSamp
  let cnt := s.sendCount c
  let base := xAt c (s.get (R.CORE_SEND.base c)) + p % 2 * cnt * 4 * n
  let s := s.svRt 32 2 ((cnt * 4 * n + 63) / 64)
  (List.range cnt).foldl (fun s i =>
    s.memWrite (base + i * 4 * n)
      ((List.range n).flatMap (fun j => leBytes 4 (toU 32 ((sends i).getD j 0))))) s

/-- The returns of half h as they stand. -/
def returnsRead (s : State) (c : Nat) (p : Nat) : List (List Int) × State :=
  let n := s.nSamp
  let cnt := s.retCount c
  let base := yAt c (s.get (R.CORE_RET.base c)) + p % 2 * cnt * 4 * n
  let vals := (List.range cnt).map (fun r => (List.range n).map (fun i => (s.memWord (base + (r * n + i) * 4)).toInt))
  (vals, (s.svRt 32 2 ((cnt * 4 * n + 63) / 64)).touch base (cnt * 4 * n))

/-- The fade of the returns moves on by a pass (R135, R136). -/
def fadeNext (f : RetFade) (n : Nat) : RetFade :=
  match f with
  | .out i => if 480 ≤ i + n then .zero else .out (i + n)
  | .rise i => if 480 ≤ i + n then .full else .rise (i + n)
  | x => x

/-- The returns of a core that stands halted at Q fade to zero (R135); once it goes on they stand at full level again, while those that wait
for the first seal after a restart still wait. (DEDUCED, log entry 92.) -/
def haltFade (s : State) (c : Fin 16) : State :=
  let io := s.io c
  match (s.core c).run == .halted, io.fade with
  | true, .full => s.setIo c { io with fade := .out 0 }
  | true, .rise _ => s.setIo c { io with fade := .out 0 }
  | false, .out _ => s.setIo c { io with fade := .full }
  | false, .zero => (s.setIo c { io with fade := .full }).unmark (R.CORE_RSTAT.muted c.val)
  | _, _ => s

/-- A pass's return point for core c (R133, R134): the returns are taken when the seal holds PNL of the period, the core did
not overrun at its bell and is not halted; otherwise the last pass taken stands in, counted as a miss unless by a halt. Of a stopped core
the pass whose overrun stopped it is counted, the passes of its fade are not. (DEDUCED, log entry 92.) -/
def takeReturns (s : State) (c : Fin 16) (p : Nat) : State :=
  let k := s.core c
  if !k.started then
    let s := s.unmark (R.CORE_RSTAT.last_taken c.val)
    if (s.io c).ovrNow then (s.bump (R.CORE_RSTAT.misses c.val)).raise 2 6 1 c.val else s
  else
    let (sl, s) := (haltFade s c).tunRead (s.ifBlock c.val + 0x40 + 4 * (p % 2))
    let io := s.io c
    if sl.toNat = p % 2 ^ 32 ∧ !io.ovrNow ∧ k.run ≠ .halted then
      let (vals, s) := returnsRead s c.val p
      let io := s.io c
      let fade := if io.fade = .wait then .rise 0 else io.fade
      let s := s.setIo c { io with taken := vals, cur := vals, fade := fade }
      (s.mark (R.CORE_RSTAT.last_taken c.val)).put (R.CORE_RSTAT.muted c.val) (bit (decide (fade = .zero)))
    else
      let s := (s.setIo c { io with cur := io.taken }).unmark (R.CORE_RSTAT.last_taken c.val)
      if k.run = .halted then s else (s.bump (R.CORE_RSTAT.misses c.val)).raise 2 6 1 c.val

/-- Sample i of return r of core c as Mash presents it in this pass (R134 to R136). -/
def returnSample (s : State) (c : Fin 16) (r i : Nat) : Int :=
  let io := s.io c
  match io.fade with
  | .full => (io.cur.getD r []).getD i 0
  | .out j => rshift ((io.taken.getD r []).getD i 0 * fadeOut (j + i) 480 true) 20
  | .rise j => rshift ((io.cur.getD r []).getD i 0 * fadeIn (j + i) 480 true) 20
  | _ => 0

/-- At the end of a pass the fades move on; muted while the returns are held at zero after a fade (R135). -/
def fadesNext (s : State) : State :=
  (List.finRange 16).foldl (fun s c =>
    let io := s.io c
    if io.fade = .full then s
    else
      let f := fadeNext io.fade s.nSamp
      (s.setIo c { io with fade := f }).put (R.CORE_RSTAT.muted c.val) (bit (decide (f = .zero)))) s

/-! ## Start, bell, overruns, restart (R93, R121, R128, R135 to R137) -/

/-- Regions that overlap or leave the Y bank. -/
def regionsBad : List (Nat × Nat) → Bool
  | [] => false
  | (a, b) :: t => Nat.blt 0x40000 b || t.any (fun r => Nat.blt a r.2 && Nat.blt r.1 b) || regionsBad t

/-- The checks of R137 at the start of a core. -/
def coreChecks (s : State) (c : Nat) : Bool :=
  let n4 := 4 * s.nSamp
  let y := fun (base : Nat) => 0x28000 + base * 64
  let xs := 0x10000 + s.get (R.CORE_SEND.base c) * 64
  let reg := fun (base len : Nat) => (y base, y base + len)
  let rb := fun (rt : Bool) => (s.ringAt c rt - tunBase c, s.ringAt c rt - tunBase c + 16 * s.ringLen c rt)
  let ys := [reg (s.get (R.CORE_RET.base c)) (2 * s.retCount c * n4), reg (s.get (R.CORE_AREA.base c)) 256,
    reg (s.get (R.CORE_PARAM.base c)) (2 * s.paramLen c), rb true, rb false].filter (fun r => Nat.blt r.1 r.2)
  let q := s.get R.MASH_PHASE.ph3_start * 16
  Nat.ble (xs + 2 * s.sendCount c * n4) 0x28000 && !regionsBad ys
    && decide (((s.retCount c * s.nSamp + 1) / 2 : Nat) ≤ ((s.perDsp : Int) - q) / 16 - 64)

/-- A core starts (R93), at a data-plane start or a restart: registers zero, PC at VBASE, CR from CORE_CFG, the header of
its first period with first = 1. Its rings are taken from their first descriptor (DEDUCED, log entry 92). -/
def coreBegin (s : State) (c : Fin 16) (fade : RetFade) : State :=
  let vb := BitVec.ofNat 32 (s.get (R.CORE_CFG.vbase c.val) * 256)
  let cr := BitVec.ofNat 32 (s.get (R.CORE_CFG.rnd c.val) + 4 * s.get (R.CORE_CFG.ftz c.val))
  let k := s.core c
  let s := s.setCore c { Core.off with
    run := .running, pc := vb, vbase := vb, cr := cr, lfsr := k.lfsr, tagLeft := k.tagLeft }
  let io := s.io c
  let s := s.setIo c { io with
    lastOvr := none, ovrNow := false, taken := [], cur := [], fade := fade, rtHead := 0, beHead := 0 }
  let s := (s.unmark (R.CORE_RSTAT.last_taken c.val)).unmark (R.CORE_RSTAT.muted c.val)
  putHeader s c.val s.pn (s.paramActive c.val) 1 0 (s.get (R.CORE_PSTAT.swaps c.val))

/-- The cores at the start of the data plane: each enabled one starts, unless its checks fail (R93, R137). -/
def coresStart (s : State) : State :=
  (List.finRange 16).foldl (fun s c =>
    if Nat.blt c.val s.sys.fuses.cores && s.flag (R.CORE_CTRL.enable c.val) then
      if coreChecks s c.val then coreBegin s c .full else s.raise 2 6 4 c.val
    else s) s

/-- The cores when the data plane stops. -/
def coresStop (s : State) : State :=
  (List.finRange 16).foldl (fun s c => s.setCore c { s.core c with run := .stopped, group := [], slot := none }) s

/-- A bell that finds its core at level 1, finds a bell pending, or finds the core halted is an overrun (R121, R124): counted,
raised; the second within 16 P stops the core (R135). A halted core misses its bell. (DEDUCED, log entry 22.) -/
def overrun (s : State) (c : Fin 16) : State :=
  let k := s.core c
  let halted := k.run == .halted
  let s := ((s.setCore c { k with overruns := k.overruns + 1, bell := k.bell || !halted }).mark (R.CORE_EVT.overrun c.val)).raise 2 6 2 c.val
  let io := s.io c
  let s := s.setIo c { io with ovrNow := true, lastOvr := if halted then io.lastOvr else some s.sys.bnd }
  match io.lastOvr with
  | some b => if !halted ∧ s.sys.bnd - b ≤ 16 then coreStop s c 0 else s
  | none => s

/-- The period bell of a started core (R128): the period that ended has passed for a core that issued nothing, CYC goes to 0. -/
def bell (s : State) (c : Fin 16) : State :=
  if !(s.core c).started then s
  else
    let s := ageTo s c s.perDsp
    let k := s.core c
    let s := s.setCore c { k with cyc := 0, sinceBell := some (if k.bell || k.level == 1 then k.sinceBell.getD 0 else 0) }
    if k.run = .halted ∨ k.level = 1 ∨ k.bell then overrun s c
    else s.setCore c { s.core c with bell := true }

/-- The bells of a new period; an overrun of the period before is past. -/
def bells (s : State) : State :=
  (List.finRange 16).foldl (fun s c => bell (s.setIo c { s.io c with ovrNow := false }) c) s

/-- The headers of a period stand: those of the next one are to be written. -/
def headersNext (s : State) : State := (List.finRange 16).foldl (fun s c => s.setIo c { s.io c with hdr := none }) s

/-- The trigger of CORE_RUN (R136, R464): a core in state 6 restarts at the second boundary from now. -/
def trigCoreRun (s : State) (c : Fin 16) (v : Word) : State :=
  if v.getLsbD 0 && (s.core c).run == .faulted && !s.flag (R.CORE_RUN.restart c.val) then
    ({ s with sys := { s.sys with sched := s.sys.sched ++ [(2, Action.coreRestart c)] } }).mark (R.CORE_RUN.restart c.val)
  else s

/-- The restart at its boundary (R136). -/
def coreRestart (s : State) (c : Fin 16) : State :=
  let s := s.unmark (R.CORE_RUN.restart c.val)
  if (s.core c).run == .faulted && s.sys.dataPlane then coreBegin s c .wait else s

/-! ## Core DMA (R142 to R145) -/

/-- A descriptor's four words. -/
def descWords (s : State) (a : Nat) : List Word × State :=
  ((List.range 4).map (fun i => s.memWord (a + 4 * i)), s.touch a 16)

/-- The transfer that a descriptor at address a asks for. -/
def descOf (a : Nat) (w : List Word) (bnd : Nat) : DmaX where
  desc := a
  addr := (w.getD 0 0).toNat + 2 ^ 32 * fieldGet 0 8 (w.getD 1 0)
  toFabric := (w.getD 1 0).getLsbD 8
  irq := (w.getD 1 0).getLsbD 9
  len := fieldGet 16 16 (w.getD 1 0)
  tun := fieldGet 0 18 (w.getD 2 0)
  bnd := bnd
  left := 0
  late := false

/-- A transfer that R143 refuses. -/
def dmaBad (s : State) (x : DmaX) : Bool :=
  let n := 8 * x.len
  let inL := Nat.ble larderBase x.addr && Nat.ble (x.addr + n) (larderBase + 0x1800000)
  let inC := Nat.ble caskBase x.addr && Nat.ble (x.addr + n) (caskBase + s.caskChans.length * s.caskS)
  let inXb := Nat.ble 0x10000 x.tun && Nat.ble (x.tun + n) 0x28000
  let inYb := Nat.ble 0x28000 x.tun && Nat.ble (x.tun + n) 0x40000
  x.len == 0 || !(inL || inC) || !(inXb || inYb)

/-- The descriptor's end: own cleared, word 3 written. -/
def descEnd (s : State) (a : Nat) (w3 : Nat) : State :=
  let (w1, s) := s.tunRead (a + 4)
  (s.memWriteWord (a + 4) (w1 &&& ~~~ 0x400#32)).memWriteWord (a + 12) (BitVec.ofNat 32 w3)

/-- A refused transfer (R143). -/
def dmaRefuse (s : State) (c : Nat) (x : DmaX) : State :=
  ((descEnd s x.desc 3).mark (R.CORE_DMA_STAT.err c)).raise 1 6 6 c

/-- The beats of a transfer on the fabric side and their class. -/
def dmaBeats (x : DmaX) : Nat := (lineSplit (x.len / 8 + 2) x.addr (8 * x.len)).length
def dmaClass (x : DmaX) : Nat := if caskBase ≤ x.addr then 1 else 0

/-- The descriptors of the real-time ring that are ready at a boundary are taken in order, at most len of them (R144). -/
def rtTake (c : Fin 16) : Nat → State → State
  | 0, s => s
  | n + 1, s =>
    let io := s.io c
    let a := s.ringAt c.val true + 16 * io.rtHead
    let (w, s) := descWords s a
    if !(w.getD 1 0).getLsbD 10 then s
    else
      let x := descOf a w s.sys.bnd
      let s := s.setIo c { s.io c with rtHead := (io.rtHead + 1) % s.ringLen c.val true }
      let s := s.bump (R.CORE_DMA_STAT.rt_taken c.val)
      let s := if dmaBad s x then dmaRefuse s c.val x
        else
          let s := s.svRt c.val (dmaClass x) (dmaBeats x)
          let s := s.svRt c.val 2 (dmaBeats x)
          s.setIo c { s.io c with rt := (s.io c).rt ++ [x] }
      rtTake c n s

/-- The transfers of a core's real-time ring that a boundary finds unfinished since the boundary before are late, each once (R144). -/
def dmaLate (s : State) (c : Fin 16) : State :=
  let x := s.io c
  let late := fun (t : DmaX) => Nat.blt t.bnd s.sys.bnd && !t.late
  (x.rt.filter late).foldl (fun s _ => (s.mark (R.CORE_DMA_STAT.late c.val)).raise 2 6 7 c.val)
    (s.setIo c { x with rt := x.rt.map (fun t => { t with late := t.late || late t }) })

/-- The boundary's work on a core's rings (R144): what has passed its deadline is late; the ready descriptors of a started core are
taken. -/
def dmaBoundary (s : State) (c : Fin 16) : State :=
  let s := dmaLate s c
  if !s.sys.dataPlane || !(s.core c).started || s.ringLen c.val true = 0 then s.put (R.CORE_DMA_STAT.rt_taken c.val) 0
  else rtTake c (s.ringLen c.val true) (s.put (R.CORE_DMA_STAT.rt_taken c.val) 0)

/-- What a best-effort transfer's budgets, on the fabric's side and on Tun's, and its allowance grant it now (R145, R341, R342, R346). -/
def dmaFund (s : State) (c : Fin 16) : State :=
  match (s.io c).be with
  | [] => s
  | x :: t =>
    let act := 16 + c.val
    let s := s.powerWork act
    let room := fun cls => (s.svRoom act cls).getD x.left
    let spent := s.svRoom act (dmaClass x) == some 0 || s.svRoom act 2 == some 0
    let g := if s.powerHeld act then 0 else min x.left (min (room (dmaClass x)) (room 2))
    let s := if g = 0 then s else (s.svBe act (dmaClass x) g).svBe act 2 g
    let s := if 0 < x.left ∧ spent then s.mark (svFlag 2 act) else s
    s.setIo c { s.io c with be := { x with left := x.left - g } :: t }

/-- BE_DMA_START (R145): a descriptor with own = 1 at the head of the best-effort ring, the transfer before it done. -/
def execBeDmaStart (c : Fin 16) (s : State) : Host.Outcome State Fault Refusal :=
  Cmd.run (fun s =>
    let n := s.ringLen c.val false
    if !(s.core c).started || n = 0 || !(s.io c).be.isEmpty then s
    else
      let a := s.ringAt c.val false + 16 * (s.io c).beHead
      let (w, s) := descWords s a
      if !(w.getD 1 0).getLsbD 10 then s
      else
        let x := descOf a w s.sys.bnd
        let s := s.setIo c { s.io c with beHead := ((s.io c).beHead + 1) % n }
        if dmaBad s x then dmaRefuse s c.val x
        else dmaFund (s.setIo c { s.io c with be := [{ x with left := dmaBeats x }] }) c) s

/-- The data of a transfer moves: every beat already granted. -/
def dmaMove (s : State) (c : Nat) (act : Nat) (x : DmaX) : State :=
  let n := 8 * x.len
  let t := tunBase c + x.tun
  if x.toFabric then
    let bs := s.memBytes t n
    (lineSplit (n / 64 + 2) x.addr n).foldl (fun s p =>
      (beatDo s act (.write (BitVec.ofNat 40 p.1) (((bs.drop (p.1 - x.addr)).take p.2).map some))).2) (s.touch t n)
  else
    let (bs, s) := (lineSplit (n / 64 + 2) x.addr n).foldl (fun (acc : List Byte × State) p =>
      let (b, s) := beatDo acc.2 act (.read (BitVec.ofNat 40 p.1) p.2)
      (acc.1 ++ b, s)) (([] : List Byte), s)
    s.memWrite t bs

/-- DMA_TRANSFER_DONE (R144, R145): the oldest transfer of the ring completes: its data moves, done is set and own cleared,
late where its deadline has passed; a best-effort one with irq raises the DMA-done event. -/
def execDmaTransferDone (c : Fin 16) (rt : Bool) (s : State) : Host.Outcome State Fault Refusal :=
  Cmd.run (fun s =>
    if rt then
      match (s.io c).rt with
      | [] => s
      | x :: t =>
        let s := dmaMove s c.val c.val x
        let s := s.setIo c { s.io c with rt := t }
        descEnd s x.desc (if x.bnd < s.sys.bnd then 5 else 1)
    else
      let s := dmaFund s c
      match (s.io c).be with
      | [] => s
      | x :: t =>
        if x.left ≠ 0 then s
        else
          let s := dmaMove s c.val (16 + c.val) x
          let s := descEnd (s.setIo c { s.io c with be := t }) x.desc 1
          if x.irq then (s.setCore c { s.core c with evDma := true }).bump (R.CORE_DMA_STAT.be_done c.val) else s) s

/-! ## Mailboxes (R146, R147) -/

/-- A write of inbound word i: it reaches Tun; in_ovr while in_pend; word 7 sets in_pend and raises the event. -/
def trigMboxIn (s : State) (c : Fin 16) (i : Nat) (v : Word) : State :=
  let s := s.memWriteWord (s.ifBlock c.val + 0x80 + 4 * i) v
  let s := if s.flag (R.CORE_MBOX_STAT.in_pend c.val) then s.mark (R.CORE_MBOX_STAT.in_ovr c.val) else s
  if i = 7 then (s.mark (R.CORE_MBOX_STAT.in_pend c.val)).setCore c { s.core c with evMbox := true } else s

/-- MBOX_IN_ACK (R146): the core has stored zero into inbound word 7. -/
def execMboxInAck (c : Fin 16) (s : State) : Host.Outcome State Fault Refusal :=
  Cmd.run (fun s =>
    if !s.flag (R.CORE_MBOX_STAT.in_pend c.val) then s
    else
      let (w, s) := s.tunRead (s.ifBlock c.val + 0x9C)
      if w = 0 then s.unmark (R.CORE_MBOX_STAT.in_pend c.val) else s) s

/-- MBOX_OUT_COPY (R147): a non-zero outbound word 7 is copied with its message and zeroed, unless out_full. -/
def execMboxOutCopy (c : Fin 16) (s : State) : Host.Outcome State Fault Refusal :=
  Cmd.run (fun s =>
    if s.flag (R.CORE_MBOX_STAT.out_full c.val) then s
    else
      let a := s.ifBlock c.val + 0xA0
      let (w7, s) := s.tunRead (a + 28)
      if w7 = 0 then s
      else
        let s := (List.range 8).foldl (fun (s : State) i =>
          let (w, s) := s.tunRead (a + 4 * i)
          s.setReg (R.CORE_MBOX_OUT.reg c.val i) w) s
        (s.memWriteWord (a + 28) 0).mark (R.CORE_MBOX_STAT.out_full c.val)) s

end Sys2Proof.Machine
end

