-- ==== Sys2Proof/Machine/Mash.lean ====
section
/-!
DEFINITION. Mash (chapter 3): the crosspoint table's commits, conditioning, the destination stage with its delay lines, the
three phases of a pass, the start and its checks. A pass takes the sources of its period at its start; its destination
samples stand when the next boundary ends it.
-/
namespace Sys2Proof.Machine

/-! ## Channel IDs (R28 to R31) -/

/-- A core return as a source ID, a core send as a destination ID. -/
def isCoreId (i : Nat) : Bool := Nat.ble 0x1200 i && Nat.blt i 0x1A00

/-- A source that is populated (R30). -/
def State.srcOk (s : State) (i : Nat) : Bool :=
  if i < 0x1000 then Nat.blt i s.netCh
  else if i < 0x1200 then s.flag (R.XIO_IMAP.valid (i - 0x1000))
  else if i < 0x1A00 then Nat.blt ((i - 0x1200) / 128) s.sys.fuses.cores
  else if i < 0x1B00 then true
  else if i < 0x1C00 then Nat.blt 0 s.sys.fuses.cask
  else false

/-- A destination that is populated (R30). -/
def State.dstOk (s : State) (i : Nat) : Bool :=
  if i < 0x1000 then Nat.blt i s.netCh
  else if i < 0x1200 then s.flag (R.XIO_OMAP.valid (i - 0x1000))
  else if i < 0x1A00 then Nat.blt ((i - 0x1200) / 128) s.sys.fuses.cores
  else if i < 0x1B00 then true
  else if i < 0x1C00 then Nat.blt 0 s.sys.fuses.cask
  else Nat.blt (i - 0x1C00) s.sys.fuses.pwm

/-! ## The crosspoint table (R64 to R68) -/

/-- MASH_XP_SPLIT as it acts. -/
def State.split1 (s : State) : Nat := min 16384 (s.get R.MASH_XP_SPLIT.split1)
def State.split2 (s : State) : Nat := max s.split1 (min 16384 (s.get R.MASH_XP_SPLIT.split2))

/-- The partition of an entry: 0 A, 1 B, 2 C. -/
def State.partition (s : State) (e : Nat) : Nat := if e < s.split1 then 0 else if e < s.split2 then 1 else 2

/-- An entry's committed route, enabled or not. -/
def State.xpWords (s : State) (e : Nat) : XpRoute where
  src := s.get (R.MASH_XP_W0.src e)
  dst := s.get (R.MASH_XP_W0.dst e)
  g := if s.flag (R.MASH_XP_W0.polarity e) then -(s.get (R.MASH_XP_W1.gain e) : Int) else s.get (R.MASH_XP_W1.gain e)
  T := s.get (R.MASH_XP_W2.ramp_time e)
  db := s.flag (R.MASH_XP_W0.law e)
  lin := s.flag (R.MASH_XP_W2.xf_lin e)

/-- An entry's committed route when its committed enable is 1. -/
def State.xpRoute (s : State) (e : Nat) : Option XpRoute :=
  if s.flag (R.MASH_XP_W0.enable e) then some (s.xpWords e) else none

/-- An enabled entry that names an unpopulated channel (R31) or does not fit its partition (R65). -/
def State.xpBad (s : State) (e : Nat) (r : XpRoute) : Bool :=
  !s.srcOk r.src || !s.dstOk r.dst ||
    !(match s.partition e with
      | 0 => isCoreId r.dst
      | 1 => !isCoreId r.dst && !isCoreId r.src
      | _ => !isCoreId r.dst && isCoreId r.src)

/-- The larger magnitude of an entry's gain before and after a commit. -/
def gainMax (o : Option XpRoute) (r : XpRoute) : Nat := max r.g.natAbs (match o with | some q => q.g.natAbs | none => 0)

/-- The gain test of R67 on destination d: the entries, ascending, that would carry the sum beyond the limit. `ents` are the
enabled entries with their routes before and after the commit. (DEDUCED, log entry 24.) -/
def gainTest (d : Nat) : List (Nat × Option XpRoute × XpRoute) → Nat → List Nat
  | [], _ => []
  | (e, o, r) :: t, sum =>
    let g := gainMax o r
    if sum + g < 2 ^ 32 then gainTest d t (sum + g) else e :: gainTest d t sum

/-- What the paths in transition away from d take: those in slots, those whose fade-out a dip has under way, and those the commit
moves away. -/
def gainHeld (s : State) (d : Nat) (ents : List (Nat × Option XpRoute × XpRoute)) : Nat :=
  let dips := s.mash.ents.filter (·.pend.isSome)
  ((s.mash.slots.filter (·.dst == d)).map (·.g.natAbs)).sum + ((dips.filter (·.dst == d)).map (·.r.s0.natAbs)).sum
    + (ents.map fun (e, o, r) => match o with
        | some q => if q.dst = d ∧ r.dst ≠ d ∧ r.T ≠ 0 ∧ !dips.any (·.e == e) then q.g.natAbs else 0
        | none => 0).sum

/-- A commit of group 8 (R31, R65, R67, R76 to R84, R465): `old` is the state before its content is applied. At a start
(`rest`) the entries stand at rest. -/
def mashXpCommit (old s : State) (rest : Bool) : State :=
  let en := (s.listed 0x200000 0x10 16384).filterMap fun e => (s.xpRoute e).map fun r => (e, old.xpRoute e, r)
  let bad := en.filter fun (e, _, r) => s.xpBad e r
  let dsts := (en.map fun (_, _, r) => r.dst).eraseDups
  let past := dsts.map fun d => (d, gainTest d (en.filter fun (_, _, r) => r.dst == d) (if rest then 0 else gainHeld s d en))
  let out := bad.map (·.1) ++ past.flatMap (·.2)
  let s := bad.foldl (fun s (e, _, _) =>
    let seen := s.flag (R.MASH_XP_W3.rejected e) && old.reg (R.MASH_XP_W0.reg e) == s.reg (R.MASH_XP_W0.reg e) && !rest
    if seen then s else (s.mark R.MASH_STAT.rejects).raise 1 5 1 e) s
  let s := past.foldl (fun s (d, l) => if l.isEmpty then s else (s.mark R.MASH_STAT.rejects).raise 1 5 1 (0x10000 + d)) s
  let all := ((s.listed 0x200000 0x10 16384) ++ (s.mash.ents.map (·.e)) ++ (s.listed 0x20000C 0x10 16384)).eraseDups.mergeSort
  all.foldl (fun s e =>
    let rej := out.contains e
    let w := s.xpWords e
    let new := if rej then none else s.xpRoute e
    let s := if s.flag (R.MASH_XP_W3.rejected e) = rej then s else s.put (R.MASH_XP_W3.rejected e) (bit rej)
    if rest then
      match new with
      | some r => s.setXp ⟨e, some r, r.src, r.dst, Ramp.const r.g, none, none, false, none⟩
      | none => s
    else xpChange s e new w.T w.db) s

/-- A commit of group 9 (R73, R76, R77). -/
def mashDstCommit (s : State) : State :=
  ((s.listed 0x110000 0x10 7192) ++ (s.mash.dsts.map (·.d))).eraseDups.foldl
    (fun s d => dstChange s d (s.get (R.MASH_DST_CTL.ramp_time d))) s

/-! ## Conditioning (R69 to R72) -/

/-- What dc_en and hp_en hold: dc_en + 2 × hp_en. -/
def State.condSel (s : State) (src : Nat) : Nat := bit (s.flag (R.MASH_SRC.dc_en src)) + 2 * bit (s.flag (R.MASH_SRC.hp_en src))

/-- The output that they select: 0 unfiltered, 1 DC-blocked, 2 fully filtered, whatever dc_en then holds (R69). -/
def selOut (sel : Nat) : Nat := min 2 sel

/-- The weight of output k for what dc_en and hp_en hold, at rest. -/
def weightFor (sel k : Nat) : Int := if selOut sel = k then unity else 0

/-- The weight of output k at sample count n (R70). -/
def CondU.weight (u : CondU) (n k : Nat) : Int :=
  let t := weightFor u.sel k
  let s := if k = 0 then u.w0.1 else if k = 1 then u.w0.2.1 else u.w0.2.2
  let i := n - u.t0
  if 256 ≤ i then t else s + (t - s) * i / 256

/-- cond_live (R70): the output that dc_en or hp_en selects is in use, after its crossfade. -/
def condReport (s : State) : State :=
  s.mash.conds.foldl (fun s u =>
    let live := u.sel != 0 && Nat.ble 256 (s.mash.base - u.t0)
    if s.flag (R.MASH_SRC.cond_live u.src) = live then s else s.put (R.MASH_SRC.cond_live u.src) (bit live)) s

/-- A commit of group 10 that changes dc_en or hp_en starts the crossfade of R70 from the mixture that sounds. -/
def mashCondCommit (s : State) : State :=
  let n := s.mash.base
  let l := s.mash.conds.map fun u =>
    let sel := s.condSel u.src
    if sel = u.sel then u else { u with w0 := (u.weight n 0, u.weight n 1, u.weight n 2), sel := sel, t0 := n }
  condReport { s with mash := { s.mash with conds := l } }

/-- a of R71. -/
def State.dcCoef (s : State) : Int := if s.fsSel = 0 then 4193480 else if s.fsSel = 1 then 4193892 else 4194098

/-- b0, a1 and a2 of R72 for a corner code, in Q2.22. -/
def State.hpCoef (s : State) (corner : Nat) : Int × Int × Int :=
  let c := min 64 corner
  let x := fxPi * 10 * (fxSemi.getD (c % 12) 0) * 2 ^ (c / 12) / s.fs / fxOne
  let k : Int := fxSin x * fxOne / fxCos x
  let k2 := k * k / fxOne
  let rk := ((fxRoots.getD 0 0 : Nat) : Int) * k / fxOne
  let g := (fxOne : Int) * fxOne / (fxOne + rk + k2)
  (fxRound g 22, fxRound (2 * (k2 - fxOne) * g / fxOne) 22, fxRound ((fxOne - rk + k2) * g / fxOne) 22)

/-- One sample through a conditioning unit, at sample count n: the sample that enters the crosspoints, and the unit's
state. The high-pass holds its output truncated to Q1.31, with the truncation's error fed back. (DEDUCED, log entry 25.) -/
def CondU.sample (dc : Int) (hp : Int × Int × Int) (u : CondU) (n : Nat) (x : Int) : Int × CondU :=
  let y := sx 64 (toU 64 ((x - u.x1) * 2 ^ 20 + Int.shiftRight (u.y1 * dc) 22))
  let d := satS 32 (rshift y 20)
  let acc := hp.1 * (d - 2 * u.h1 + u.h2) - hp.2.1 * u.g1 - hp.2.2 * u.g2 + u.err
  let yt := Int.shiftRight acc 22
  let h := satS 32 (rshift acc 22)
  let v := satS 32 (mul20 x (u.weight n 0) + mul20 d (u.weight n 1) + mul20 h (u.weight n 2))
  (v, { u with x1 := x, y1 := y, h1 := d, h2 := u.h1, g1 := yt, g2 := u.g1, err := acc - yt * 2 ^ 22 })

/-- A period of samples through a conditioning unit. -/
def CondU.run (dc : Int) (hp : Int × Int × Int) : CondU → Nat → List Int → List Int × CondU
  | u, _, [] => ([], u)
  | u, n, x :: t =>
    let (v, u) := u.sample dc hp n x
    let (l, u) := CondU.run dc hp u (n + 1) t
    (v :: l, u)

/-- The units that `which` names take their period; their outputs are given by source ID. -/
def condRun (s : State) (which : Nat → Bool) (src : Nat → List Int) : List (Nat × List Int) × State :=
  let l := s.mash.conds.map fun u =>
    if which u.src then
      let (v, u') := CondU.run s.dcCoef (s.hpCoef (s.get (R.MASH_SRC.hp_corner u.src))) u s.mash.base (src u.src)
      (some (u.src, v), u')
    else (none, u)
  (l.filterMap (·.1), { s with mash := { s.mash with conds := l.map (·.2) } })

/-! ## Delay (R85 to R90) -/

/-- The largest position (R86). -/
def maxDelay (s : State) (u : DlyU) : Int :=
  if s.flag (R.MASH_DST_POOL.frac_en u.d) then ((u.len : Int) * 64 - 4) * 65536 + 0xFFC0 else ((u.len : Int) * 64 - 1) * 65536

/-- The written target as it acts: with frac_en = 0 the fraction is ignored; beyond the largest position it is clamped with a
class-1 fault (R86). -/
def delayTarget (s : State) (u : DlyU) (raw : Word) : Int × State :=
  let frac := if s.flag (R.MASH_DST_POOL.frac_en u.d) then fieldGet 21 10 raw * 64 else 0
  let t : Int := fieldGet 0 21 raw * 65536 + frac
  if maxDelay s u < t then (maxDelay s u, (s.mark R.MASH_STAT.rejects).raise 1 5 4 u.d) else (t, s)

/-- A destination's unit stored. -/
def State.setDly (s : State) (u : DlyU) : State :=
  { s with mash := { s.mash with dlys := s.mash.dlys.map (fun x => if x.d == u.d then u else x) } }

/-- A pass latches the delay words, unless dly_hold holds them (R63, R90): a changed one sets a glide's target, starts a
crossfade, or is held while one runs (R88, R89). -/
def delayLatch (s : State) : State :=
  if s.flag R.MASH_CTRL.dly_hold then s
  else s.mash.dlys.foldl (fun s u =>
    let raw := s.reg (R.MASH_DST_DLY.reg u.d)
    if raw = u.raw then s
    else
      let (t, s) := delayTarget s u raw
      let T := s.get (R.MASH_DST_CTL.ramp_time u.d)
      let u := { u with raw := raw }
      if !s.flag (R.MASH_DST_GAIN.dly_xfade u.d) then s.setDly { u with tgt := t }
      else if u.xf.isSome then s.setDly { u with held := some t }
      else if T = 0 ∨ t = u.p then s.setDly { u with p := t, tgt := t }
      else s.setDly { u with tgt := t, xf := some (t, s.mash.base, T) }) s

/-- What a delayed destination's stage needs of its registers. -/
structure DlyCfg where
  frac : Bool
  xfade : Bool
  rate : Nat
  T : Nat

/-- The registers of destination d that its delay uses. -/
def State.dlyCfg (s : State) (d : Nat) : DlyCfg where
  frac := s.flag (R.MASH_DST_POOL.frac_en d)
  xfade := s.flag (R.MASH_DST_GAIN.dly_xfade d)
  rate := s.get (R.MASH_DST_CTL.glide_rate d)
  T := s.get (R.MASH_DST_CTL.ramp_time d)

/-- The position moves before the line is read (R88, R89): a glide steps, a crossfade that has ended stands at its target
and the held target starts the next. -/
def DlyU.move (c : DlyCfg) (u : DlyU) (n : Nat) : DlyU :=
  if !c.xfade then
    if !c.frac || c.rate = 0 then { u with p := u.tgt }
    else if u.p < u.tgt then { u with p := min u.tgt (u.p + c.rate) }
    else { u with p := max u.tgt (u.p - c.rate) }
  else match u.xf with
    | none => u
    | some (t, n0, T) =>
      if n - n0 < T then u
      else match u.held with
        | some h => if c.T = 0 then { u with p := h, tgt := h, xf := none, held := none }
                    else { u with p := t, tgt := h, xf := some (h, n, c.T), held := none }
        | none => { u with p := t, xf := none }

/-- The four coefficients of R87 for fraction f. -/
def lagrange (f : Nat) : List Int :=
  let m : Int := f
  [divRound (-(m * (m - 1024) * (m - 2048))) 1536, divRound ((m + 1024) * (m - 1024) * (m - 2048)) 512,
    divRound (-((m + 1024) * m * (m - 2048))) 512, divRound ((m + 1024) * m * (m - 1024)) 1536]

/-- What a pool sample that nothing has written holds. (DEDUCED, log entry 19.) -/
def poolDflt (_ : Nat) : Word := 0

/-- line[n - k]: the region is a ring of len × 64 samples. -/
def DlyU.line (pool : Sparse 32) (u : DlyU) (n k : Nat) : Int :=
  (Sparse.get poolDflt pool (u.base * 64 + (((n : Int) - k) % (u.len * 64 : Nat)).toNat)).toInt

/-- The tap at position p before the last rounding: Q1.31 with frac = 0, and Q9.49 shifted by 18 else (R73, R89). -/
def DlyU.tap (pool : Sparse 32) (c : DlyCfg) (u : DlyU) (n : Nat) (p : Int) : Int :=
  let D := (p / 65536).toNat
  if !c.frac then u.line pool n D * 16
  else
    let h := lagrange ((p / 64).toNat % 1024)
    rshift (((List.range 4).map (fun k => u.line pool n (D + k) * h.getD k 0)).sum) 18

/-! ## The destination stage (R73, R74) -/

/-- One sample of destination d from its sum of products: the output, whether a saturation altered it, and the delay. -/
def dstSample (c : DlyCfg) (x : DstW) (n : Nat) (acc : Int) (dly : Option DlyU) (pool : Sparse 32) :
    Int × Bool × Option DlyU × Sparse 32 :=
  let e := min (mul20 (x.trim.at n) (x.mute.at n)) 0xFFFFFF
  let e := mul20 e (x.reactG n)
  let v0 := mul20 acc e
  let v := satS 64 v0
  match dly with
  | none =>
    let o := rshift v 20
    (satS 32 o, v != v0 || satS 32 o != o, none, pool)
  | some u =>
    let w0 := rshift v 24
    let w := satS 32 w0
    let pool := Sparse.set poolDflt pool (u.base * 64 + n % (u.len * 64)) (BitVec.ofInt 32 w)
    let u := u.move c n
    let o := match u.xf with
      | some (t, n0, T) =>
        mul20 (u.tap pool c n u.p) (fadeOut (n - n0) T true) + mul20 (u.tap pool c n t) (fadeIn (n - n0) T true)
      | none => u.tap pool c n u.p
    (satS 32 o, v != v0 || w != w0 || satS 32 o != o, some u, pool)

/-- A period of a destination's samples: outputs, the number altered by saturation, the delay. -/
def dstRun (c : DlyCfg) (x : DstW) : Nat → List Int → Option DlyU → Sparse 32 → List Int × Nat × Option DlyU × Sparse 32
  | _, [], u, pool => ([], 0, u, pool)
  | n, a :: t, u, pool =>
    let (o, clip, u, pool) := dstSample c x n a u pool
    let (l, k, u, pool) := dstRun c x (n + 1) t u pool
    (o :: l, bit clip + k, u, pool)

/-! ## Passes (R63, R64, R66, R26) -/

/-- The samples a path of partition part takes from source src. -/
def pathSamples (m : MashS) (part src : Nat) : List Int :=
  (assocGet src (if !isCoreId src then m.src else if part = 0 then m.prevRets else m.rets)).getD []

/-- The contributions to destination d: the samples of each path and its signed gain by sample count (R66, R79). -/
def paths (s : State) (d : Nat) : List (List Int × (Nat → Int)) :=
  ((s.mash.ents.filter (·.dst == d)).map fun x => (pathSamples s.mash (s.partition x.e) x.src, x.level))
    ++ ((s.mash.slots.filter (·.dst == d)).map fun x => (pathSamples s.mash (s.partition x.e) x.src, x.level))

/-- The sums of the products of destination d over the pass, Q13.51. -/
def accSums (s : State) (d : Nat) : List Int :=
  let l := paths s d
  (List.range s.nSamp).map fun i => (l.map fun (v, g) => v.getD i 0 * g (s.mash.base + i)).sum

/-- A saturation altered samples of destination d (R74). -/
def clipMark (s : State) (d k : Nat) : State :=
  if k = 0 then s
  else ((s.mark ⟨R.MASH_CLIP.reg (d / 32), d % 32, 1⟩).mark R.MASH_STAT.clip_any).count 0x14 k

/-- The stage of destination d over the pass. -/
def dstPass (s : State) (d : Nat) : List Int × State :=
  let u := s.mash.dlys.find? (·.d == d)
  let (l, k, u, pool) := dstRun (s.dlyCfg d) (s.dstW d) s.mash.base (accSums s d) u s.mash.pool
  let s := { s with mash := { s.mash with pool := pool } }
  let s := match u with | some u => s.setDly u | none => s
  (l, clipMark s d k)

/-- The destinations that `which` names and that a path, a delay or a reaction concerns; each takes its stage. -/
def dstPasses (s : State) (which : Nat → Bool) : List (Nat × List Int) × State :=
  let ds := (((s.mash.ents.map (·.dst)) ++ (s.mash.slots.map (·.dst)) ++ (s.mash.dlys.map (·.d))).filter which).eraseDups
  ds.mergeSort.foldl (fun (acc : List (Nat × List Int) × State) d =>
    let (l, s) := dstPass acc.2 d
    (acc.1 ++ [(d, l)], s)) (([] : List (Nat × List Int)), s)

/-- The sources that a path or a conditioning unit takes, core returns aside. -/
def sourcesUsed (m : MashS) : List Nat :=
  (((m.ents.map (·.src)) ++ (m.slots.map (·.src)) ++ (m.conds.map (·.src))).filter (fun i => !isCoreId i)).eraseDups

/-- A pass starts on the samples that `src` gives: the delay words are latched; sources are conditioned; the sends are
formed (phase 1). -/
def passStart (s : State) (src : Nat → List Int) : State :=
  if !s.mash.run then s
  else
    let s := delayLatch s
    let (cond, s) := condRun s (fun i => !isCoreId i) src
    let l := (sourcesUsed s.mash).map fun i => (i, (assocGet i cond).getD (src i))
    let s := { s with mash := { s.mash with src := l, prevRets := s.mash.rets, rets := [], phase := 1 } }
    let (sends, s) := dstPasses s isCoreId
    { s with mash := { s.mash with sends := sends } }

/-- The send point S (R132): every send of the pass stands in the buffer of its core, started or not. -/
def sendPoint (s : State) : State :=
  if s.mash.phase != 1 then s
  else
    let s := (List.finRange 16).foldl (fun s c =>
      if Nat.blt c.val s.sys.fuses.cores then
        sendsWrite s c.val s.pn (fun i => (assocGet (0x1200 + 128 * c.val + i) s.mash.sends).getD [])
      else s) s
    { s with mash := { s.mash with phase := 2 } }

/-- SEND_POINT (R132). -/
def execSendPoint (s : State) : Host.Outcome State Fault Refusal := Cmd.run sendPoint s

/-- The return point Q (R133, R134). -/
def returnPoint (s : State) : State :=
  let s := sendPoint s
  if s.mash.phase != 2 then s
  else
    let s := (List.finRange 16).foldl (fun s c =>
      if s.flag (R.CORE_CTRL.enable c.val) && s.sys.dataPlane then takeReturns s c s.pn else s) s
    { s with mash := { s.mash with phase := 3 } }

/-- RETURN_POINT (R133). -/
def execReturnPoint (s : State) : Host.Outcome State Fault Refusal := Cmd.run returnPoint s

/-- The returns that Mash keeps of a pass: those that a path or a conditioning unit takes, and those that a core has delivered, which a
path of the next pass may take (R26, R65). Every other one is zero. -/
def returnsUsed (s : State) : List Nat :=
  let m := s.mash
  let given := (List.finRange 16).flatMap fun c => (List.range (s.io c).taken.length).map (fun r => 0x1200 + 128 * c.val + r)
  ((((m.ents.map (·.src)) ++ (m.slots.map (·.src)) ++ (m.conds.map (·.src))).filter isCoreId) ++ given).eraseDups

/-- Return ID i over the pass. -/
def returnVec (s : State) (i : Nat) : List Int :=
  let c := Fin.ofNat 16 ((i - 0x1200) / 128)
  (List.range s.nSamp).map (fun j => returnSample s c ((i - 0x1200) % 128) j)

/-- A playback's granule that has not come by the end of the pass reads zero, where no conditioning unit took it at the start (R330). -/
def caskMissed (s : State) : State :=
  let raw := fun (i : Nat) => Nat.ble 0x1B00 i && Nat.blt i 0x1C00 && !s.mash.conds.any (·.src == i)
  { s with mash := { s.mash with src := s.mash.src.map (fun x => if raw x.1 then (x.1, caskVec s x.1 true) else x) } }

/-- The pass ends (phases 2 and 3): returns are conditioned, every other destination takes its stage, capture channels take
their samples. -/
def passEnd (s : State) : State :=
  if s.mash.phase = 0 then s
  else
    let s := caskMissed (returnPoint s)
    let (cond, s) := condRun s isCoreId (returnVec s)
    let l := (returnsUsed s).map fun i => (i, (assocGet i cond).getD (returnVec s i))
    let s := { s with mash := { s.mash with rets := l } }
    let (out, s) := dstPasses s (fun d => !isCoreId d)
    let s := out.foldl (fun s (d, v) =>
      if 0x1B00 ≤ d ∧ d < 0x1C00 then
        (List.range s.nSamp).foldl (fun s i => capPush s (d - 0x1B00) (((s.pn + 2) * s.nSamp + i : Nat) : Int) (v.getD i 0)) s
      else s) s
    let s := s.count 0x15 (s.get R.MASH_COST.mac_per_sample * s.nSamp)
    let s := { s with mash := { s.mash with out := out, phase := 0, base := s.mash.base + s.nSamp } }
    condReport (fadesNext (dstEndPass (xpEndPass s)))

/-- A period begins: the samples of the pass that ended a period ago are presented in it (R25, R48). -/
def presRotate (s : State) : State :=
  { s with mash := { s.mash with prev := s.mash.pres, pres := s.mash.out, out := [] } }

/-- The pass under way is abandoned (R467). -/
def passAbandon (s : State) : State := { s with mash := { s.mash with phase := 0, out := [] } }

/-! ## Start (R85, R86, R91, R92) -/

/-- The work of phase ph (1 to 3) per sample (R91). -/
def mashWork (s : State) (ph : Nat) : Nat :=
  let conds := (s.listed 0x108000 4 7168).filter (fun i => s.flag (R.MASH_SRC.cond_alloc i))
  let fracs := (s.listed 0x11000C 0x10 7192).filter (fun d => s.flag (R.MASH_DST_POOL.frac_en d))
  let cost := fun d => if s.flag (R.MASH_DST_GAIN.dly_xfade d) then 8 else 4
  let ents := match ph with | 1 => s.split1 | 2 => s.split2 - s.split1 | _ => 16384 - s.split2
  let c := match ph with
    | 1 => 4 * (conds.filter (fun i => !isCoreId i)).length + ((fracs.filter isCoreId).map cost).sum
    | 2 => 0
    | _ => 4 * (conds.filter isCoreId).length + ((fracs.filter (fun d => !isCoreId d)).map cost).sum
  ents + 1024 + c

/-- The length of phase ph in CLK_FAB cycles (R64). -/
def phaseLen (s : State) (ph : Nat) : Int :=
  let p1 : Int := 8 * s.get R.MASH_PHASE.ph1_end
  let p3 : Int := 8 * s.get R.MASH_PHASE.ph3_start
  match ph with | 1 => p1 | 2 => p3 - p1 | _ => (s.perVco / 4 : Nat) - p3

/-- A phase fits (R92). -/
def phaseFits (s : State) (ph : Nat) : Bool :=
  decide ((((mashWork s ph * s.nSamp + 15) / 16 + 96 : Nat) : Int) ≤ phaseLen s ph)

/-- The start check of R92: the cost is computed; a phase that does not fit raises class 3. -/
def mashCheck (s : State) : State :=
  let s := s.put R.MASH_COST.mac_per_sample (mashWork s 1 + mashWork s 2 + mashWork s 3)
  let bad := [1, 2, 3].filter (fun ph => !phaseFits s ph)
  let s := s.put R.MASH_STAT.over_cap (bit !bad.isEmpty)
  bad.foldl (fun s ph => s.raise 3 5 5 ph) s

/-- The delay allocations in force (R85), destinations ascending. -/
def dlyAlloc (s : State) : List DlyU × State :=
  ((s.listed 0x11000C 0x10 7192).filter (fun d => s.get (R.MASH_DST_POOL.pool_len d) != 0)).foldl
    (fun (acc : List DlyU × State) d =>
      let (l, s) := acc
      let b := s.get (R.MASH_DST_POOL.pool_base d)
      let n0 := s.get (R.MASH_DST_POOL.pool_len d)
      let fix := fun (s : State) => (s.mark R.MASH_STAT.rejects).raise 1 5 3 d
      let (n, s) := if 32768 < b + n0 then (32768 - b, fix s) else (n0, s)
      if l.any (fun u => Nat.blt b (u.base + u.len) && Nat.blt u.base (b + n)) then (l, fix s)
      else
        let raw := s.reg (R.MASH_DST_DLY.reg d)
        let u : DlyU := ⟨d, b, n, 0, 0, none, none, raw⟩
        let (t, s) := delayTarget s u raw
        (l ++ [{ u with p := t, tgt := t }], s)) (([] : List DlyU), s)

/-- Mash starts (R69, R85): filters at zero, delays at their targets, entries and destinations at rest. -/
def mashStart (s : State) : State :=
  if s.flag R.MASH_STAT.over_cap then s
  else
    let conds := ((s.listed 0x108000 4 7168).filter (fun i => s.flag (R.MASH_SRC.cond_alloc i))).map fun i =>
      let sel := s.condSel i
      (⟨i, 0, 0, 0, 0, 0, 0, 0, 0, (weightFor sel 0, weightFor sel 1, weightFor sel 2), sel, 0⟩ : CondU)
    let dsts := (((s.listed 0x110000 0x10 7192) ++ (s.mash.dsts.map (·.d))).eraseDups.map fun d =>
      { (s.dstW d) with
        trim := Ramp.const (s.get (R.MASH_DST_GAIN.trim d))
        mute := Ramp.const (if s.flag (R.MASH_DST_GAIN.mute d) then 0 else unity) })
    let s := condReport { s with mash := { MashS.reset with run := true, base := s.mash.base + 256, conds := conds, dsts := dsts } }
    let (l, s) := dlyAlloc s
    let s := { s with mash := { s.mash with dlys := l } }
    mashXpCommit s (s.mark R.MASH_STAT.running) true

/-- No entry is in transition and no slot is in use: word 3 of the entries, slots_busy, cond_live. -/
def mashStill (s : State) : State :=
  let s := s.mash.ents.foldl (fun s x => s.put (R.MASH_XP_W3.phase x.e) 0) (s.put R.MASH_STAT.slots_busy 0)
  s.mash.conds.foldl (fun s u => s.unmark (R.MASH_SRC.cond_live u.src)) s

/-- Mash stops with the data plane. -/
def mashStop (s : State) : State :=
  let s := mashStill s
  ({ s with mash := { MashS.reset with dsts := s.mash.dsts, base := s.mash.base } } : State).unmark R.MASH_STAT.running

end Sys2Proof.Machine
end

