-- ==== Sys2Proof/Machine/Perf.lean ====
section
/-!
DEFINITION. The counter block (R429 to R441): what passes with time, the bandwidth monitors, the taggers, and the dump engine.
-/
namespace Sys2Proof.Machine

/-! ## What a stretch of time counts (R429, R430, R433) -/

/-- Queues of port p that hold a frame behind a closed gate. -/
def gatedQueues (s : State) (p : Fin 8) : Nat :=
  let x := s.eport p
  match x.gate with
  | none => 0
  | some g => ((List.finRange 8).filter (fun k => !(x.queues[k]).isEmpty && !g.isOpen x.gidx k.val)).length

/-- Entries whose gain, fade-in or trim ramps at sample n. -/
def rampingEnts (s : State) : Nat :=
  (s.mash.ents.filter (fun e => Nat.blt s.mash.base (e.r.t0 + e.r.T)
    || (match e.fin with | some (t0, T, _) => Nat.blt s.mash.base (t0 + T) | none => false))).length

/-- Bytes of frames that wait in queues. -/
def frameBytes (l : List QFrame) : Nat := (l.map (fun f => f.bytes.length)).sum

/-- Beats of a piece of ring work that are known to wait; at least one. -/
def RingWork.beats : RingWork → Nat
  | .write l _ => l.length
  | .fetch _ _ _ l => l.length
  | _ => 1

/-- The amount per cycle of an event that passes with time, and the VCO cycles of its clock; none: it has no such amount, or counts
occurrences. (DESIGN CHOICE, log entry 83.) -/
def timeEvent (s : State) (ev : Nat) : Option (Nat × Nat) :=
  if ev = 1 then some (1, 4)
  else if ev = 2 then some (1, 2)
  else if ev = 8 then some (s.flt.queue.length, 8)
  else if ev = 0x10 then if s.mash.run then some (s.mash.slots.length, 4) else none
  else if ev = 0x11 then if s.mash.run then some (rampingEnts s, 4) else none
  else if ev = 0x36 then some ((s.fab.waiting.flatMap Wait.beats).length + ((s.fab.dumpWork ++ s.fab.ringWork).map RingWork.beats).sum, 4)
  else if 0x40 ≤ ev ∧ ev < 0x80 then
    let p := Fin.ofNat 8 ((ev - 0x40) / 8)
    if !s.ethOk p.val then none
    else
      let x := s.eport p
      match (ev - 0x40) % 8 with
      | 2 => some (((List.finRange 8).map (fun k => frameBytes x.queues[k])).sum / 64, 4)
      | 3 => some (frameBytes x.queues[(5 : Fin 8)] / 64, 4)
      | 4 => some (gatedQueues s p, 4)
      | _ => none
  else if 0x1B0 ≤ ev ∧ ev < 0x1C5 then some (bit (s.rawFlag (R.PWRA_GRANT.stalled (ev - 0x1B0))), 4)
  else if ev = 0xC5 then
    if s.sys.dataPlane then
      some (((List.range s.sys.fuses.pwm).filter (fun c => Nat.blt (s.get (R.PWM_CH_GAIN.lim_gain c)) 0x10000)).length, 5)
    else none
  else none

/-- dt VCO cycles pass over the counters: the edges of each event's clock that fall in them. -/
def perfTime (s : State) (dt : Nat) : State :=
  if !s.rawFlag R.PERF_CTRL.run then s
  else (List.range 128).foldl (fun s i =>
    if i % 2 = 1 && s.flag (R.PERF_EVSEL.chain i) then s
    else match timeEvent s (s.get (R.PERF_EVSEL.event i)) with
      | none => s
      | some (amt, div) =>
        let per := if s.flag (R.PERF_EVSEL.thr_en i) then bit (Nat.blt (s.get (R.PERF_EVSEL.thr i)) amt) else amt
        let n := per * ((s.sys.up + dt) / div - s.sys.up / div)
        if n = 0 then s else perfAdd s i n) s

/-- PERF_CLEAR's action (R432). -/
def trigPerf (s : State) (v : Word) : State :=
  let s := s.put R.PERF_CTRL.run (bit (v.getLsbD 0))
  let s := if v.getLsbD 0 then s else { s with perf := { s.perf with stopSeen := true } }
  if !v.getLsbD 1 then s
  else
    let s := (List.range 128).foldl (fun s i => s.setReg (R.PERF_CNT.reg i) 0) s
    (List.range 4).foldl (fun s w => s.setReg (R.PERF_OVF.reg w) 0) s

/-- A read of a counter (R431). -/
def perfCntRead (s : State) (i : Nat) : Word × State :=
  let chained := s.flag (R.PERF_EVSEL.chain (i / 2 * 2 + 1))
  if i % 2 = 0 then
    let s := if chained then { s with perf := { s.perf with latch := assocSet (i + 1) (s.reg (R.PERF_CNT.reg (i + 1))) s.perf.latch } } else s
    (s.reg (R.PERF_CNT.reg i), s)
  else
    (if chained then (assocGet i s.perf.latch).getD (s.reg (R.PERF_CNT.reg i)) else s.reg (R.PERF_CNT.reg i), s)

/-- PERF_CNT_READ (R431). -/
def execPerfCntRead (i : Fin 128) (s : State) : Host.Outcome State Fault Refusal :=
  Cmd.run (fun s => let (w, s) := perfCntRead s i.val; s.emit (.word w)) s

/-! ## Bandwidth monitors (R434) -/

/-- The boundary ends the windows that end there and starts those that start there. -/
def bwBoundary (s : State) : State :=
  if (List.range 28).all (fun m => !s.rawFlag (R.PERF_BW_CFG.win m)) then s
  else (List.range 28).foldl (fun s m =>
    let win := min 4096 (s.get (R.PERF_BW_CFG.win m))
    if win = 0 || s.pn % win != 0 then s
    else
      let s := match s.perf.bw.getD m none with
        | none => s
        | some n =>
          let v := min (n / 64) (2 ^ 32 - 1)
          (s.put (R.PERF_BW_LAST.units m) v).put (R.PERF_BW_PEAK.units m) (max v (s.get (R.PERF_BW_PEAK.units m)))
      { s with perf := { s.perf with bw := s.perf.bw.set m (some 0) } }) s

/-- What a write of PERF_BW_CFG(m) does besides. -/
def bwWritten (s : State) (m : Nat) : State :=
  ({ s with perf := { s.perf with bw := s.perf.bw.set m none } }).put (R.PERF_BW_PEAK.units m) 0

/-! ## Rings -/

/-- A ring's base and length as its two registers give them. -/
def ringAt (base cfg : Word) : Nat × Nat := (base.toNat + 2 ^ 32 * fieldGet 0 8 cfg, min 4096 (fieldGet 8 13 cfg))

/-! ## Instruction tagging (R435, R436) -/

/-- What a write of PERF_TAG_CFG(c) does besides: the generator is seeded and the countdown loaded; the first en takes the ring. -/
def tagWritten (old s : State) (c : Fin 16) : State :=
  let ring := s.flag (R.PERF_TAG_CFG.en c.val) && !(List.range 16).any (fun d => old.flag (R.PERF_TAG_CFG.en d))
  let s := if ring then { s with perf := { s.perf with tagRing := ringAt (s.reg R.PERF_TAG_BASE.reg) (s.reg R.PERF_TAG_CFG_RING.reg) } }
    else s
  let seed := s.get (R.PERF_TAG_CFG.seed c.val)
  tagLoad (s.setCore c { s.core c with lfsr := if seed = 0 then 0xACE1 else BitVec.ofNat 16 seed }) c

/-- A tag record. -/
def tagRecord (c : Nat) (a : TagAcct) : List Byte :=
  leBytes 4 (a.pc + a.level * 2 ^ 16 + bit (a.level == 1) * 2 ^ 18 + c * 2 ^ 19) ++ leBytes 4 a.pnl ++ leBytes 4 a.cyc
    ++ leBytes 4 (a.fetch % 256 + a.second % 256 * 2 ^ 8 + a.fence % 256 * 2 ^ 16 + a.entry % 256 * 2 ^ 24)
    ++ leBytes 4 a.stalled ++ leBytes 4 a.idle ++ leBytes 4 (a.words + a.classes * 8 + a.exec % 256 * 2 ^ 8) ++ leBytes 4 0

/-- Work for a record's ring is under way. -/
def RingWork.isFor (k : RingSink) : RingWork → Bool
  | .record j _ _ => j == k
  | .write _ (.record j _) => j == k
  | _ => false

/-- TAG_COUNTDOWN_EXPIRY: the group issued last is tagged, where no record of the core is on its way; its record goes to the ring or is lost, and
the countdown is loaded. -/
def execTagCountdownExpiry (c : Fin 16) (s : State) : Host.Outcome State Fault Refusal :=
  Cmd.run (fun s =>
    let k := s.core c
    if !s.flag (R.PERF_TAG_CFG.en c.val) || k.tagLeft != 0 || k.run == .stopped || s.fab.dumpWork.any (RingWork.isFor (.tag c)) then s
    else workGo s 38 (.record (.tag c) (tagRecord c.val k.acct) s.sys.up)) s

/-! ## Dumps (R437 to R439) -/

/-- A range of memory within Larder or Cask. -/
def dumpRangeOk (s : State) (a n : Nat) : Bool :=
  a % 64 == 0 && (n == 0 || (Nat.ble larderBase a && Nat.ble (a + n) (larderBase + 0x1800000))
    || (Nat.ble caskBase a && (s.caskChan (a - caskBase)).isSome && (s.caskChan (a + n - 1 - caskBase)).isSome))

/-- What a write of PERF_DUMP_CTL does besides. -/
def dumpWritten (old s : State) : State :=
  if old.flag R.PERF_DUMP_CTL.en || !s.flag R.PERF_DUMP_CTL.en then s
  else
    let (base, n) := ringAt (s.reg R.PERF_DUMP_BASE.reg) (s.reg R.PERF_DUMP_CFG.reg)
    if dumpRangeOk s base (704 * n) then { s with perf := { s.perf with dumpRing := (base, n) } }
    else (s.unmark R.PERF_DUMP_CTL.en).mark R.PERF_DUMP_STAT.cfg_err

/-- The snapshot of the boundary of period b, before step 1 of R23. (DEDUCED, log entry 58.) -/
def dumpSnapshot (s : State) (b : Nat) : State :=
  let e := s.sys.state
  if !s.flag R.PERF_DUMP_CTL.en || !(e == .prepare || e.isRun || e == .safe) then s
  else if b % max 1 (s.get R.PERF_DUMP_CTL.interval) ≠ 0 then s
  else if s.perf.snap.isSome then
    ({ s with perf := { s.perf with missed := s.perf.missed + 1 } }).bump R.PERF_DUMP_STAT.missed
  else
    let s := s.bump R.PERF_DUMP_SEQ.seq
    let run := s.flag R.PERF_CTRL.run
    let p := s.perf
    let snap : Snapshot := {
      seq := s.get R.PERF_DUMP_SEQ.seq
      pn := b
      wt := b * s.perVco * 3125 / 6144 % 2 ^ 32
      flags := min p.missed 65535 + bit (e != .runLocked) * 2 ^ 16 + bit p.setSeen * 2 ^ 17 + bit (p.stopSeen || !run) * 2 ^ 18
      interval := max 1 (s.get R.PERF_DUMP_CTL.interval)
      counters := (List.range 128).map (fun i => s.reg (R.PERF_CNT.reg i))
      bw := (List.range 28).map (fun m => s.reg (R.PERF_BW_LAST.reg m))
      up := s.sys.up }
    ({ s with perf := { p with snap := some snap, missed := 0, setSeen := false, stopSeen := !run } }).mark R.PERF_DUMP_STAT.pending

/-- A dump record. -/
def dumpRecord (x : Snapshot) : List Byte :=
  leBytes 4 (0x101 + 11 * 2 ^ 16) ++ leBytes 4 x.seq ++ leBytes 8 x.pn ++ leBytes 4 x.wt ++ leBytes 4 x.flags ++ leBytes 4 x.interval
    ++ List.replicate 36 0 ++ x.counters.flatMap (fun w => leBytes 4 w.toNat) ++ x.bw.flatMap (fun w => leBytes 4 w.toNat)
    ++ List.replicate 16 0

/-- A snapshot that waits is work for its consumer (R345). -/
def dumpRequest (s : State) : State := if s.perf.snap.isSome then s.powerWork 38 else s

/-- DUMP_RECORD_WRITTEN: the record of the snapshot goes to the ring or is lost. -/
def execDumpRecordWritten (s : State) : Host.Outcome State Fault Refusal :=
  Cmd.run (fun s =>
    match s.perf.snap with
    | none => s
    | some x => if s.fab.dumpWork.any (RingWork.isFor .dump) then s else workGo s 38 (.record .dump (dumpRecord x) x.up)) s

end Sys2Proof.Machine
end

