-- ==== Sys2Proof/Machine/Pwm.lean ====
section
/-!
DEFINITION. The modulators (chapter 7): carrier cycles and the demand path, rail conversion, feed-forward and the sag
limiter, starting and stopping, overcurrent protection with latch-off, retries and give-up.
-/
namespace Sys2Proof.Machine

/-- Channel c's own state. -/
def State.pwmCh (s : State) (c : Fin 24) : PwmCh := s.pwm[c]

/-- Channel c's own state replaced. -/
def State.setPwm (s : State) (c : Fin 24) (k : PwmCh) : State := { s with pwm := s.pwm.set c k }

/-- The state of R177 by its code. -/
def State.pwmState (s : State) (c : Nat) : Nat := s.get (R.PWM_CH_STAT.state c)

/-- A channel in settle, run or stop switches. -/
def State.switching (s : State) (c : Nat) : Bool := let t := s.pwmState c; t == 2 || t == 3 || t == 4

/-- A channel that is present. -/
def State.pwmOk (s : State) (c : Nat) : Bool := Nat.blt c s.sys.fuses.pwm

/-- The channel's rail is low. -/
def State.railLow (s : State) (c : Nat) : Bool := s.flag (R.PWM_RAIL_STAT.low (c / 3))

/-! ## The gates (R169, R171) -/

/-- CLK_PWM cycles into a leg's carrier cycle of length L at which a high time of h begins: the interval is centred (R171). -/
def legRise (L h : Nat) : Nat := (L - h) / 2

/-- The time at which a leg last fell, now being up: at the end of its high interval, at once when the interval is cut short; a bridge
that was open turns its low sides on as after a fall. -/
def PwmCh.legFell (x : PwmCh) (up : Nat) (leg : Nat × Nat → Nat) : Nat :=
  match x.drive with
  | .pulse L hA hB =>
    let h := leg (hA, hB)
    let r := x.cycUp + 5 * legRise L h
    if up < r then leg x.fell else min up (r + 5 * h)
  | .off => up
  | _ => leg x.fell

/-- The bridge changes to d. -/
def PwmCh.turn (x : PwmCh) (d : PwmDrive) (up : Nat) : PwmCh :=
  { x with fell := (x.legFell up Prod.fst, x.legFell up Prod.snd), drive := d }

/-- The high and the low side of a leg with high time h, t CLK_PWM cycles into a cycle of length L; `since`: CLK_PWM cycles from its last
fall to the cycle's start. A side turns on `dead` cycles after the other has turned off (R169). After the cycle's last edge the leg is
low: past the end, the bridge is in freewheel-low (R466). -/
def legGates (dead L h t since : Nat) : Bool × Bool :=
  let r := legRise L h
  (Nat.ble (r + dead) t && Nat.blt t (r + h), if t < r then Nat.ble dead (since + t) else Nat.ble (r + h + dead) t)

/-- The gate outputs of channel c now (R169, R171, R179). -/
def State.gates (s : State) (c : Fin 24) : PwmGates :=
  let x := s.pwmCh c
  let dead := s.get (R.PWM_CH_CFG.dead c.val)
  let low := fun f => Nat.ble (f + 5 * dead) s.sys.up
  match x.drive with
  | .off => ⟨false, false, false, false⟩
  | .pulse L hA hB =>
    let t := (s.sys.up - x.cycUp) / 5
    let a := legGates dead L hA t ((x.cycUp - x.fell.1) / 5)
    let b := legGates dead L hB t ((x.cycUp - x.fell.2) / 5)
    ⟨a.1, a.2, b.1, b.2⟩
  | _ => ⟨false, low x.fell.1, false, low x.fell.2⟩

/-! ## States (R177, R178) -/

/-- The run conditions, the latch aside, with and without the rail; during the entry into STANDBY they fail (R385). -/
def State.runCondNoRail (s : State) (c : Nat) : Bool := s.flag (R.PWM_CH_CFG.en c) && s.sys.state == .runLocked && !s.sys.stbyEntry
def State.runCond (s : State) (c : Nat) : Bool := s.runCondNoRail c && !s.railLow c

/-- PWM_STAT and PWM_LATCHED follow the states. -/
def pwmReport (s : State) (c : Nat) : State :=
  (s.put ⟨R.PWM_STAT.reg, c, 1⟩ (bit (s.switching c))).put ⟨R.PWM_LATCHED.reg, c, 1⟩ (bit (Nat.ble 6 (s.pwmState c)))

/-- A state whose bridge is off. -/
def offState (t : Nat) : Bool := t == 0 || t == 6 || t == 7

/-- The start gain of a channel: in run it ramps from 0 up, in stop from where it stood down to 0 (R178). (DEDUCED, log entry 32.) -/
def startGain (s : State) (c : Nat) (x : PwmCh) : Nat :=
  let d := 65536 * x.k / (384 * max 1 (s.get R.PWM_CFG.ramp_ms))
  match s.pwmState c with
  | 3 => min 65536 d
  | 4 => x.sg0 - d
  | _ => 0

/-- Channel c enters state t: its bridge, the boot count, the limiter gain, the shaper, the ramps. -/
def pwmTo (s : State) (c : Fin 24) (t : Nat) : State :=
  let old := s.pwmState c.val
  if old = t then s
  else
    let x := s.pwmCh c
    let sg := startGain s c.val x
    let fresh := (t == 5 && old != 1) || (t == 1 && old != 5)
    let x := { x with
      bootUp := if fresh then s.sys.up else x.bootUp,
      errs := if t == 2 then [0, 0, 0, 0, 0] else x.errs,
      sg0 := if t == 4 then sg else 0, k := 0 }
    let x := if offState t then { x.turn .off s.sys.up with late := none } else if t == 1 || t == 5 then { x.turn .freewheel s.sys.up with late := none } else x
    let s := (s.setPwm c x).put (R.PWM_CH_STAT.state c.val) t
    let s := if offState old && !offState t then s.put (R.PWM_CH_GAIN.lim_gain c.val) 0x10000 else s
    pwmReport s c.val

/-- The changes of state that the run conditions make, a low rail aside (R177); a channel that stands in hold with en = 0 is off. -/
def pwmCond (s : State) (c : Fin 24) : State :=
  if !s.pwmOk c.val then s
  else match s.pwmState c.val with
    | 1 => if s.runCond c.val then s else
             let s := pwmTo s c 5
             if s.flag (R.PWM_CH_CFG.en c.val) then s else pwmTo s c 0
    | 2 | 3 => if s.runCondNoRail c.val then s else pwmTo s c 4
    | 5 => if !s.flag (R.PWM_CH_CFG.en c.val) then pwmTo s c 0 else if s.runCond c.val then pwmTo s c 1 else s
    | _ => s

/-- RUN-UNLOCKED or SAFE is entered: the channels in off with en = 1 go to hold (R177). -/
def pwmOn (s : State) : State :=
  (List.finRange 24).foldl (fun s c => if s.pwmOk c.val && s.flag (R.PWM_CH_CFG.en c.val) && s.pwmState c.val == 0 then pwmTo s c 5 else s) s

/-- The hard stop of R178: every gate at 0; latched and given up stay through STANDBY (R184). -/
def pwmHardStop (s : State) : State :=
  (List.finRange 24).foldl (fun s c => if Nat.ble 6 (s.pwmState c.val) then s else pwmTo s c 0) s

/-! ## The carrier grid (R170, R466) -/

/-- s(u) of R170. -/
def spread (u : Nat) : Int := if u ≤ 20 then u else if u ≤ 60 then 40 - (u : Int) else (u : Int) - 80

/-- The length of cycle j. -/
def State.carLen (s : State) (j : Nat) : Nat := if s.flag R.PWM_CFG.ss_en then (1024 + spread (j % 80)).toNat else 1024

/-- The start of cycle j of channel c in CLK_PWM cycles from the epoch. -/
def State.carStart (s : State) (c j : Nat) : Nat :=
  let base := if s.flag R.PWM_CFG.ss_en then j / 80 * 81920 + ((List.range (j % 80)).map s.carLen).sum else j * 1024
  base + s.get (R.PWM_CH_CFG.phase c) * 64

/-- The first cycle of channel c that starts at CLK_PWM cycle t or later. -/
def State.carFirst (s : State) (c t : Nat) : Nat :=
  let j0 := (t - s.get (R.PWM_CH_CFG.phase c) * 64) / 1024 - 12
  ((List.range 40).find? (fun i => Nat.ble t (s.carStart c (j0 + i)))).getD 0 + j0

/-- The number of the next cycle: the next on the grid, or the first of a new time. -/
def State.carNext (s : State) (c : Nat) (j : Option Nat) : Nat :=
  match j with
  | none => s.carFirst c ((s.sys.et + 4) / 5)
  | some j => max (j + 1) (s.carFirst c ((s.pn * s.perVco + 4) / 5) - 1)

/-! ## The demand path (R172, R173) -/

/-- The destination's sample that is presented at grid sample n. -/
def presSample (s : State) (d n : Nat) : Int :=
  let m := n / s.nSamp
  let l := if m = s.pn then s.mash.pres else if m = s.pn + 1 then s.mash.out else if m + 1 = s.pn then s.mash.prev else []
  ((assocGet d l).getD []).getD (n % s.nSamp) 0

/-- The sample that holds the centre of cycle j of length L, and the position within it, in 1/1,024 sample (R172). -/
def carCentre (s : State) (c j L : Nat) : Nat × Nat :=
  let t2 := 5 * (2 * s.carStart c j + L)
  (t2 / (2 * s.sampVco), t2 % (2 * s.sampVco) * 1024 / (2 * s.sampVco))

/-- The demand at sample n, f in 1/1,024 sample within it (R172). -/
def carSample (s : State) (c n f : Nat) : Int :=
  let d := 0x1C00 + c
  if f = 0 then presSample s d n
  else
    let h := lagrange (1024 - f)
    satS 32 (rshift (((List.range 4).map (fun k => presSample s d (n + 2 - k) * h.getD k 0)).sum) 22)

/-- The interpolation looks into the period after next, whose samples come with the boundary that stands before the cycle's
centre (R173). -/
def State.looksFar (s : State) (n f : Nat) : Bool := f != 0 && Nat.blt (s.pn + 1) ((n + 2) / s.nSamp)

/-- The rail scale ff of R174. -/
def State.railScale (s : State) (r : Nat) : Nat :=
  let nom := s.get (R.PWM_RAIL_CFG.rail_nom r)
  if nom = 0 then 0x10000 else min (nom * 65536 / max (s.get (R.PWM_RAIL_STAT.v r)) 1) 0x20000

/-- mp of R171. -/
def State.minPulse (s : State) (c : Nat) : Nat := max (max 2 (s.get R.PWM_CFG.min_pulse)) (s.get (R.PWM_CH_CFG.dead c) + 2)

/-- The shaper of R172: the count before the limit, and the errors after. -/
def shaper (v : Int) (errs : List Int) : Int × List Int :=
  let e := fun k => errs.getD k 0
  let u := v - 5 * e 0 + 10 * e 1 - 10 * e 2 + 5 * e 3 - e 4
  let y := rshift u 16
  (y, [sx 18 (toU 18 (y * 65536 - u)), e 0, e 1, e 2, e 3])

/-- The demand q that a cycle started with, with what computing it leaves (R172). -/
def demand (s : State) (c : Fin 24) (r : PwmLate) : Int × State :=
  let x := s.pwmCh c
  let smp := carSample s c.val r.n r.f
  let xs := Int.shiftRight (smp * r.sg) 16
  let d := Int.shiftRight (Int.shiftRight (xs * r.lg) 16 * r.ff) 16
  let (y, errs) := shaper (Int.shiftRight (d * r.L) 15) x.errs
  let qm : Int := (r.L : Int) - 2 * s.minPulse c.val
  let q := min (max y (-qm)) qm
  let pk := max x.pk (min (Int.shiftRight ((smp.natAbs * r.sg : Nat) : Int) 16).toNat (2 ^ 31 - 1))
  let s := s.setPwm c { x with errs := errs, pk := pk }
  (q, if q = y then s else (s.mark (R.PWM_CH_STAT.clip c.val)).count 0xC4 1)

/-- The legs are driven for demand q (R171). -/
def pwmPulse (s : State) (c : Fin 24) (L : Nat) (q : Int) : State :=
  let hA := (((L : Int) + q + 1) / 2).toNat
  s.setPwm c ((s.pwmCh c).turn (.pulse L hA ((hA : Int) - q).toNat) s.sys.up)

/-- The carrier cycle j of length L drives its legs: at q = 0 in settle and at the end of stop (R172), by its demand, or once the
samples are there. -/
def cycleDrive (s : State) (c : Fin 24) (j L : Nat) : State :=
  let x := s.pwmCh c
  let sg := startGain s c.val x
  if s.pwmState c.val = 2 ∨ (s.pwmState c.val = 4 ∧ sg = 0) then pwmPulse s c L 0
  else
    let (n, f) := carCentre s c.val j L
    let r : PwmLate := ⟨L, n, f, sg, s.get (R.PWM_CH_GAIN.lim_gain c.val), s.railScale (c.val / 3)⟩
    if s.looksFar n f then s.setPwm c { x.turn .begin s.sys.up with late := some r }
    else
      let (q, s) := demand s c r
      pwmPulse s c L q

/-- At a boundary, a demand that waited for samples is computed (R173). -/
def pwmLate1 (s : State) (c : Fin 24) : State :=
  match (s.pwmCh c).late with
  | none => s
  | some r =>
    let (q, s) := demand s c r
    let s := s.setPwm c { s.pwmCh c with late := none }
    if (s.pwmCh c).drive = .begin then pwmPulse s c r.L q else s

/-- Every channel. -/
def pwmLates (s : State) : State := (List.finRange 24).foldl pwmLate1 s

/-! ## Protection (R179 to R184) -/

/-- A failed retry: retries counts it, the fourth gives up (R181, R182). -/
def retryFail (s : State) (c : Fin 24) : State :=
  let n := min 4 (s.get (R.PWM_CH_STAT.retries c.val) + 1)
  let s := s.put (R.PWM_CH_STAT.retries c.val) n
  if n = 4 then (pwmTo s c 7).raise 2 8 3 c.val else s

/-- The channel's gates go to 0 and it is latched, with latch_evt and the class-2 fault (R180). -/
def latchGates (s : State) (c : Fin 24) : State :=
  let s := ((pwmTo s c 6).mark (R.PWM_CH_STAT.latch_evt c.val)).raise 2 8 2 c.val
  s.setPwm c { s.pwmCh c with trips := [], tripped := true, latchWait := true }

/-- The boundaries in n ms, rounded up (R181). -/
def State.pers (s : State) (n : Nat) : Nat := (n * 1966080 + s.perVco - 1) / s.perVco

/-- The period that begins at boundary b lies in channel c's retry window: 50 ms from the boundary at which it started (R181, R184). -/
def State.inWindow (s : State) (c : Fin 24) (b : Nat) : Bool :=
  let x := s.pwmCh c
  s.flag (R.PWM_CH_STAT.retry c.val) && !x.winWait && Nat.ble x.winBnd b && Nat.blt b (x.winBnd + s.pers 50)

/-- The decisions of a latch-off (R180, R181): its reaction falls due at the next boundary; inside a retry window, or after a
successful retry, it is a failed retry. -/
def latchDecide (s : State) (c : Fin 24) : State :=
  let x := s.pwmCh c
  let failed := s.flag (R.PWM_CH_STAT.retry c.val) || x.won
  let s := s.setPwm c { x with latchWait := false, protDue := true, won := false, winWait := false, window := [] }
  let s := s.unmark (R.PWM_CH_STAT.retry c.val)
  if failed then retryFail s c else s

/-- The latch-off of R180. In twin mode its decisions wait for the union of both twins' records (R185). -/
def latchOff (s : State) (c : Fin 24) : State :=
  if s.twinMode then latchGates s c else latchDecide (latchGates s c) c

/-- Eight trips within 384 consecutive carrier cycles: times newest first. -/
def tripLimit (l : List Nat) : Bool :=
  match l[0]?, l[7]? with
  | some a, some b => Nat.blt (a - b) 384
  | _, _ => false

/-- The cycles elapsed at the first cycle of period m. -/
def PwmCh.firstOf (x : PwmCh) (m : Nat) : Nat := (assocGet m x.firsts).getD x.elapsed

/-- In twin mode the trip of the cycle under way waits for its agreement, and is mirrored (R185, R291). -/
def tripRecord (s : State) (c : Fin 24) : State :=
  if !s.twinMode then s
  else
    let x := s.pwmCh c
    let i := x.elapsed - x.firstOf x.per
    let s := s.setPwm c { x with union := x.union ++ [(x.per, i)] }
    let first := s.carFirst c.val ((x.per * s.perVco + 4) / 5)
    let next := s.carFirst c.val (((x.per + 1) * s.perVco + 4) / 5)
    mirrorTrip s c.val x.per (next - first) i

/-- The carrier cycle under way is a trip (R179), once in a cycle. -/
def trip (s : State) (c : Fin 24) : State :=
  let x := s.pwmCh c
  if x.tripped || !s.switching c.val then s
  else
    let s := s.setPwm c { x with tripped := true, trips := (x.elapsed :: x.trips).take 8 }
    let s := ((s.mark (R.PWM_CH_STAT.trip_evt c.val)).bump (R.PWM_CH_STAT.trips c.val)).count 0xC3 1
    let s := tripRecord s c
    if s.inWindow c s.sys.bnd || tripLimit (s.pwmCh c).trips then latchOff s c else s

/-- An agreed trip, in the cycle of index i of period m: the window counts cycles as they elapse (R185, R466). -/
def tripAgreed (s : State) (c : Fin 24) (m i : Nat) : State :=
  let x := s.pwmCh c
  let w := ((x.firstOf m + i) :: x.window).take 8
  let s := s.setPwm c { x with window := w }
  if s.inWindow c (s.sys.bnd - (s.pn - m)) || tripLimit w then
    latchDecide (if Nat.ble 6 (s.pwmState c.val) then s else latchGates s c) c
  else s

/-- Twin mode: the trips of both twins up to period k are agreed, cycle by cycle, and the channel's latch-off is decided on them
(R185, R292). -/
def tripUnion1 (s : State) (c : Fin 24) (k : Nat) : State :=
  let x := s.pwmCh c
  let now := (x.union.filter (fun t => Nat.ble t.1 k)).eraseDups.mergeSort (fun a b => Nat.blt a.1 b.1 || (a.1 == b.1 && Nat.ble a.2 b.2))
  if now.isEmpty then s
  else now.foldl (fun s t => tripAgreed s c t.1 t.2) (s.setPwm c { x with union := x.union.filter (fun t => Nat.blt k t.1) })

/-- Every channel. -/
def tripUnion (s : State) (k : Nat) : State := (List.finRange 24).foldl (fun s c => tripUnion1 s c k) s

/-- OCFLT_ASSERT (R179): ocf shows it; a switching channel's high sides turn off and the bridge stays in freewheel-low until
the carrier cycle ends. -/
def execOcfltAssert (c : Fin 24) (s : State) : Host.Outcome State Fault Refusal :=
  Cmd.run (fun s =>
    if !s.pwmOk c.val then s
    else
      let s := s.mark (R.PWM_CH_STAT.ocf c.val)
      if !s.switching c.val then s
      else trip (s.setPwm c ((s.pwmCh c).turn .cut s.sys.up)) c) s

/-- OCFLT_DEASSERT (R179). -/
def execOcfltDeassert (c : Fin 24) (s : State) : Host.Outcome State Fault Refusal :=
  Cmd.run (fun s => s.unmark (R.PWM_CH_STAT.ocf c.val)) s

/-- The carrier cycle j starts at its instant on the grid, the time since power-on being up. -/
def cycleStart (s : State) (c : Fin 24) (j : Nat) : State :=
  let x := s.pwmCh c
  let e := x.elapsed + 1
  let l := match x.firsts with
    | (m, _) :: _ => if m = s.pn then x.firsts else ((s.pn, e) :: x.firsts).take 40
    | [] => [(s.pn, e)]
  s.setPwm c { x with j := some j, elapsed := e, per := s.pn, firsts := l, tripped := false }

/-- CARRIER_CYCLE (R170 to R173): the cycle before ends; a switching channel on a low rail goes to hold (R175), another computes its
demand and drives its legs; a channel that OCFLT_N still holds trips (R179). -/
def execCarrierCycle (c : Fin 24) (s : State) : Host.Outcome State Fault Refusal :=
  Cmd.run (fun s =>
    if !s.pwmOk c.val then s
    else
      let j := s.carNext c.val (s.pwmCh c).j
      let s := cycleStart s c j
      let s := if s.switching c.val && s.railLow c.val then pwmTo s c 5 else pwmCond s c
      if !s.switching c.val then s
      else
        let s := cycleDrive s c j (s.carLen j)
        let s := s.setPwm c { s.pwmCh c with cycUp := s.sys.up + 5 * s.carStart c.val j - s.sys.et, k := (s.pwmCh c).k + 1 }
        if s.flag (R.PWM_CH_STAT.ocf c.val) then trip s c else s) s

/-! ## Rails (R174 to R176) -/

/-- exp(−x) in fixed point, for x below 1: the terms of its series. -/
def fxExpNeg : Nat → Nat → Int → Nat → Int
  | 0, _, _, _ => 0
  | n + 1, x, t, k => t + fxExpNeg n x (-(t * x / (fxOne : Int) / k)) (k + 1)

/-- The coefficient of R176 for a time constant of tau / 10,000 s at 96,000 Hz, Q0.24. -/
def limCoef (tau : Nat) : Int := fxRound ((fxOne : Int) - fxExpNeg 40 (fxOne * 10 / (tau * 96)) fxOne 1) 24

/-- The limiter's update of channel c on rail r (R176). -/
def limUpdate (s : State) (r : Nat) (c : Fin 24) : State :=
  let x := s.pwmCh c
  if !s.pwmOk c.val then s
  else if offState (s.pwmState c.val) then s.setPwm c { x with pk := 0 }
  else
    let a := s.get (R.PWM_RAIL_LIM.lim_head r) * (1024 - 2 * s.minPulse c.val) * 2 ^ 31 / (256 * 1024)
    let dem := x.pk * s.railScale r / 65536
    let nom := s.get (R.PWM_RAIL_CFG.rail_nom r)
    let gt : Int :=
      if nom ≠ 0 ∧ s.get (R.PWM_RAIL_STAT.v r) < s.get (R.PWM_RAIL_CFG.sag_thr r) ∧ a < dem then (a * 65536 / dem : Nat) else 0x10000
    let lg : Int := s.get (R.PWM_CH_GAIN.lim_gain c.val)
    let ka := limCoef (max 1 (min 100 (s.get (R.PWM_RAIL_LIM.attack r))))
    let kr := limCoef (100 * max 1 (min 200 (s.get (R.PWM_RAIL_LIM.release r))))
    let lg := if gt < lg then lg - rshift ((lg - gt) * ka) 24 else lg + rshift ((gt - lg) * kr) 24
    (s.setPwm c { x with pk := 0 }).put (R.PWM_CH_GAIN.lim_gain c.val) lg.toNat

/-- low of a rail (R175). -/
def railCheck (s : State) (r : Nat) : State :=
  let v := s.get (R.PWM_RAIL_STAT.v r)
  let nom := s.get (R.PWM_RAIL_CFG.rail_nom r)
  let mn := s.get (R.PWM_RAIL_MIN.rail_min r)
  if nom = 0 then s.unmark (R.PWM_RAIL_STAT.low r)
  else if s.flag (R.PWM_RAIL_STAT.low r) then
    if mn + nom / 32 ≤ v then s.unmark (R.PWM_RAIL_STAT.low r) else s
  else if v < mn then ((s.mark (R.PWM_RAIL_STAT.low r)).mark (R.PWM_RAIL_STAT.low_evt r)).raise 1 8 1 r
  else s

/-- The channels of rail r. -/
def railChans (r : Nat) : List (Fin 24) := (List.finRange 24).filter (fun c => c.val / 3 == r)

/-- On a low rail, a retry window that is open waits for the next entry into run (R184). -/
def railWindow (s : State) (c : Fin 24) : State :=
  if s.railLow c.val && s.flag (R.PWM_CH_STAT.retry c.val) then s.setPwm c { s.pwmCh c with winWait := true } else s

/-- RAIL_CONVERSION (R174 to R176): the code, the sag and low flags, each channel's limiter; channels that the rail lets go
on start again (R177). -/
def execRailConversion (r : Fin 8) (code : BitVec 12) (s : State) : Host.Outcome State Fault Refusal :=
  Cmd.run (fun s =>
    if !s.pwmOk (3 * r.val) then s
    else
      let s := s.put (R.PWM_RAIL_STAT.v r.val) code.toNat
      let s := s.put (R.PWM_RAIL_STAT.sag r.val) (bit (Nat.blt code.toNat (s.get (R.PWM_RAIL_CFG.sag_thr r.val))))
      let s := railCheck s r.val
      let s := (railChans r.val).foldl (fun s c => railWindow (limUpdate s r.val c) c) s
      (railChans r.val).foldl pwmCond s) s

/-! ## Completions (R177, R178) -/

/-- BOOT_COMPLETE (R177): boot goes to settle once the boot count has reached boot_time. -/
def execBootComplete (c : Fin 24) (s : State) : Host.Outcome State Fault Refusal :=
  Cmd.run (fun s =>
    if s.pwmState c.val = 1 ∧ (s.pwmCh c).bootUp + 196608 * max 1 (s.get R.PWM_CFG.boot_time) ≤ s.sys.up then pwmTo s c 2 else s) s

/-- SETTLE_COMPLETE (R177): settle goes to run after 64 carrier cycles; the start ramp begins. -/
def execSettleComplete (c : Fin 24) (s : State) : Host.Outcome State Fault Refusal :=
  Cmd.run (fun s => if s.pwmState c.val = 2 ∧ 64 ≤ (s.pwmCh c).k then pwmTo s c 3 else s) s

/-- The carrier cycles of stop: the ramp from the start gain at its entry, then 64 at q = 0 (R178). -/
def stopCycles (s : State) (c : Fin 24) : Nat := ((s.pwmCh c).sg0 * (384 * max 1 (s.get R.PWM_CFG.ramp_ms)) + 65535) / 65536 + 64

/-- STOP_COMPLETE (R178): stop goes to hold, and on as the run conditions say. -/
def execStopComplete (c : Fin 24) (s : State) : Host.Outcome State Fault Refusal :=
  Cmd.run (fun s => if s.pwmState c.val = 4 ∧ stopCycles s c ≤ (s.pwmCh c).k then pwmCond (pwmTo s c 5) c else s) s

/-! ## Retries (R181 to R184) -/

/-- A retry starts at this boundary: boot; the protection factor ramps to −20 dB over the destination's ramp_time with its
law, as R181 says beside the linear ramps of R75 (DEDUCED, log entry 98); the window opens. -/
def retryGo (s : State) (c : Fin 24) : State :=
  if !s.runCond c.val then s.setPwm c { s.pwmCh c with retryDue := true }
  else
    let s := s.setPwm c { s.pwmCh c with retryDue := false, winBnd := s.sys.bnd, winWait := false, won := false }
    let s := (pwmTo s c 1).mark (R.PWM_CH_STAT.retry c.val)
    let d := 0x1C00 + c.val
    let x := s.dstW d
    let r := (x.react .prot).getD (Ramp.const 0)
    s.setDstW (x.setReact .prot (some (r.toward 0x1999A (s.get (R.MASH_DST_CTL.ramp_time d)) (s.flag (R.MASH_DST_GAIN.law d)) s.mash.base)))

/-- A channel is latched or given up by a decision that stands: not by its own trips alone while their agreement is awaited (R185). -/
def State.latchStands (s : State) (c : Fin 24) : Bool := Nat.ble 6 (s.pwmState c.val) && !(s.pwmCh c).latchWait

/-- RETRY_START (R181): a latched channel's retry falls due, PWM_HICCUP after the boundary of its latch-off reaction. -/
def execRetryStart (c : Fin 24) (s : State) : Host.Outcome State Fault Refusal :=
  Cmd.run (fun s =>
    let x := s.pwmCh c
    if s.pwmState c.val = 6 ∧ s.latchStands c ∧ !x.protDue ∧ x.latchBnd + s.pers (max 10 (s.get R.PWM_HICCUP.hiccup)) ≤ s.sys.bnd then retryGo s c
    else s) s

/-- RETRY_WINDOW_END (R181): a window that ends without a trip is a success: the protection factor is released. A window
that waits for run goes on (R184); in twin mode the trips of its last period are agreed first (R185). -/
def execRetryWindowEnd (c : Fin 24) (s : State) : Host.Outcome State Fault Refusal :=
  Cmd.run (fun s =>
    let x := s.pwmCh c
    if s.flag (R.PWM_CH_STAT.retry c.val) ∧ !x.winWait ∧ s.pwmState c.val < 6
        ∧ x.winBnd + s.pers 50 + (if s.twinMode then s.dIn else 0) ≤ s.sys.bnd then
      reactRelease ((s.unmark (R.PWM_CH_STAT.retry c.val)).setPwm c { x with won := true, runP := 0 }) .prot (0x1C00 + c.val)
    else s) s

/-- RETRY_COUNT_RESET (R181): after 10 s of run since the last successful retry. -/
def execRetryCountReset (c : Fin 24) (s : State) : Host.Outcome State Fault Refusal :=
  Cmd.run (fun s =>
    if (s.pwmCh c).won ∧ s.pers 10000 ≤ (s.pwmCh c).runP then
      (s.put (R.PWM_CH_STAT.retries c.val) 0).setPwm c { s.pwmCh c with won := false, runP := 0 }
    else s) s

/-- The trigger of PWM_CH_CMD (R183, R464): a clear of a latched or given-up channel falls due at the second boundary from
now. -/
def trigPwmClear (s : State) (c : Fin 24) (v : Word) : State :=
  if v.getLsbD 0 && s.latchStands c && !s.flag (R.PWM_CH_CMD.clear c.val) then
    ({ s with sys := { s.sys with sched := s.sys.sched ++ [(2, Action.pwmClear c.val)] } }).mark (R.PWM_CH_CMD.clear c.val)
  else s

/-- The clear at its boundary (R183). -/
def pwmClear (s : State) (c : Nat) : State :=
  let c := Fin.ofNat 24 c
  let s := s.unmark (R.PWM_CH_CMD.clear c.val)
  if s.latchStands c then retryGo (s.put (R.PWM_CH_STAT.retries c.val) 0) c else s

/-- The boundary's work on a channel: the latch-off reaction (R180, R398), a retry that waited (R181), a window that restarts
with run (R184), the periods of run since a success (R181), the run conditions (R177). -/
def pwmBoundary1 (s : State) (c : Fin 24) : State :=
  if !s.pwmOk c.val then s
  else
    let x := s.pwmCh c
    let s := if x.protDue then
        reactHold (s.setPwm c { x with protDue := false, latchBnd := s.sys.bnd }) .prot (0x1C00 + c.val) 0 (s.fs / 500)
      else s
    let s := if x.retryDue && s.latchStands c then retryGo s c else s
    let x := s.pwmCh c
    let runs := s.pwmState c.val == 3
    let again := x.winWait && runs && !s.railLow c.val
    pwmCond (s.setPwm c { x with
      winWait := x.winWait && !again, winBnd := if again then s.sys.bnd else x.winBnd,
      runP := if x.won && runs && x.wasRun then x.runP + 1 else x.runP, wasRun := runs }) c

/-- Every modulator channel at a boundary. -/
def pwmBoundary (s : State) : State := (List.finRange 24).foldl pwmBoundary1 s

/-- A time set moves the carrier grid: the cycle under way runs to its end as it started, the bridge then stands in freewheel-low
(`State.gates`) until the first cycle of the new time, which takes its number from engine time (R466). -/
def pwmTimeSet (s : State) : State :=
  (List.finRange 24).foldl (fun s c => s.setPwm c { s.pwmCh c with j := none }) s

end Sys2Proof.Machine
end

