-- ==== Sys2Proof/Machine/Twc.lean ====
section
/-!
DEFINITION. The two-wire controllers (R414 to R425): transactions, their endings, bus clears and the sequencers. A transaction runs
whole in one command, on a bus that the command describes.
-/
namespace Sys2Proof.Machine

/-- Controller k. -/
def State.twcU (s : State) (k : Fin 2) : TwcU := s.twc[k]
def State.setTwc (s : State) (k : Fin 2) (x : TwcU) : State := { s with twc := s.twc.set k x }

/-- The states in which the controllers run (R416). -/
def State.twcOpen (s : State) : Bool := s.sys.state == .prepare || s.sys.state.isRun || s.sys.state == .safe

/-- Controller k runs (R416). -/
def State.twcRuns (s : State) (k : Nat) : Bool := s.flag (R.TWC_CFG.en k) && s.twcOpen

/-- A bus clear succeeds or fails (R423). -/
def busClear (s : State) (k : Nat) (ok : Bool) : State :=
  if ok then (s.bump (R.TWC_STAT.clears k)).unmark (R.TWC_STAT.stuck k)
  else (s.mark (R.TWC_STAT.sda_stuck k)).mark (R.TWC_STAT.stuck k)

/-! ## Transactions (R414, R418 to R421, R424) -/

/-- A transaction: the target's address; with PEC; the bytes written (none: no write part); the bytes read, a block when `block`. -/
structure Xact where
  addr : Nat
  pec : Bool
  wr : Option (List Byte)
  rd : Nat
  block : Bool

/-- The transaction of a kind with data d; none: a kind, length or count outside R414. -/
def xactOf (kind addr code wlen rlen : Nat) (pec : Bool) (d : List Byte) : Option Xact :=
  let c := BitVec.ofNat 8 code
  let okW := Nat.ble 1 wlen && Nat.ble wlen 32
  let okR := Nat.ble 1 rlen && Nat.ble rlen 32
  match kind with
  | 0 => some ⟨addr, pec, some (d.take 1), 0, false⟩
  | 1 => some ⟨addr, pec, none, 1, false⟩
  | 2 => some ⟨addr, pec, some (c :: d.take 1), 0, false⟩
  | 3 => some ⟨addr, pec, some [c], 1, false⟩
  | 4 => some ⟨addr, pec, some (c :: d.take 2), 0, false⟩
  | 5 => some ⟨addr, pec, some [c], 2, false⟩
  | 6 => some ⟨addr, pec, some (c :: d.take 2), 2, false⟩
  | 7 => if okW then some ⟨addr, pec, some (c :: BitVec.ofNat 8 wlen :: d.take wlen), 0, false⟩ else none
  | 8 => some ⟨addr, pec, some [c], 0, true⟩
  | 9 => if okW then some ⟨addr, false, some (d.take wlen), 0, false⟩ else none
  | 10 => if okW && okR then some ⟨addr, false, some (d.take wlen), rlen, false⟩ else none
  | 11 => if okR then some ⟨addr, false, none, rlen, false⟩ else none
  | _ => none

/-- The transaction reads. -/
def Xact.reads (x : Xact) : Bool := x.block || x.rd != 0

/-- Every byte the controller sends, in order: address bytes, data, the PEC of a write. -/
def Xact.sent (x : Xact) : List Byte :=
  let aw := BitVec.ofNat 8 (2 * x.addr)
  let ar := BitVec.ofNat 8 (2 * x.addr + 1)
  match x.wr with
  | none => [ar]
  | some w =>
    if x.reads then aw :: w ++ [ar]
    else if x.pec then aw :: w ++ [crc8 (aw :: w)] else aw :: w

/-- The place of the repeated address byte among the bytes sent, if there is one. -/
def Xact.again (x : Xact) : Option Nat :=
  match x.wr with | some w => if x.reads then some (w.length + 1) else none | none => none

/-- The end of a transaction: its status, the bytes that go to the receive buffer, the bytes sent. -/
structure XEnd where
  status : Nat
  data : List Byte
  sent : List Byte

/-- n bytes that targets send; a bus that nobody drives reads ones. -/
def busTake (rx : List Byte) (n : Nat) : List Byte := (rx.take n) ++ List.replicate (n - rx.length) 0xFF#8

/-- A transaction that reaches its read part (R421). -/
def xactRead (x : Xact) (rx : List Byte) : XEnd :=
  let all := x.sent
  let check := fun (pre data : List Byte) =>
    let got := (busTake (rx.drop (pre.length + data.length)) 1).headD 0xFF#8
    (⟨if x.pec && crc8 (all ++ pre ++ data) != got then 4 else 0, data, all⟩ : XEnd)
  if x.block then
    let c := busTake rx 1
    let n := (c.headD 0xFF#8).toNat
    if n = 0 ∨ 32 < n then ⟨3, [], all⟩ else check c (busTake (rx.drop 1) n)
  else check [] (busTake rx x.rd)

/-- A transaction on a bus. -/
def xactRun (x : Xact) (bus : TwcBus) : XEnd :=
  let all := x.sent
  match bus.ending with
  | .nackAddr => ⟨1, [], all.take 1⟩
  | .nackData n =>
    if 1 ≤ n ∧ n < all.length then ⟨if x.again = some n then 1 else 2, [], all.take (n + 1)⟩
    else if x.reads then xactRead x bus.rx else ⟨0, [], all⟩
  | .lost n => ⟨7, [], all.take n⟩
  | .acked => if x.reads then xactRead x bus.rx else ⟨0, [], all⟩

/-- SCL at a speed of TWC_CFG; 0b11 acts as 0b00 (R417). -/
def sclTime (speed : Nat) : SclTime :=
  match speed with
  | 1 => ⟨84, 70⟩
  | 2 => ⟨32, 30⟩
  | _ => ⟨320, 295⟩

/-- A transaction at a speed, from the state of the bus on (R418, R419, R422). -/
def twcRun (s : State) (k : Fin 2) (speed : Nat) (x : Option Xact) (bus : TwcBus) : XEnd × State :=
  match x with
  | none => (⟨9, [], []⟩, s)
  | some x =>
    let s := s.setTwc k { s.twcU k with sclWait := false }
    if bus.sclLow then (⟨8, [], []⟩, s.mark (R.TWC_STAT.bus_busy k.val))
    else
      let stuck := s.flag (R.TWC_STAT.stuck k.val)
      let s := if stuck then busClear s k.val bus.clear else s
      if stuck && !bus.clear then (⟨8, [], []⟩, s)
      else
        let r := xactRun x bus
        let s := s.put (R.TWC_STAT.bus_busy k.val) (bit (r.status == 7))
        let s := if r.status = 7 then s.mark (R.TWC_STAT.arb_lost k.val) else s
        (r, s.emit (.twc k.val (sclTime speed) r.sent))

/-- The bytes of eight buffer words. -/
def State.twcTx (s : State) (k : Nat) : List Byte :=
  (List.range 8).flatMap (fun i => leBytes 4 (s.reg (R.TWC_TXBUF.reg k i)).toNat)

/-- A write of go = 1 starts the host transaction that the registers describe, unless one is under way (R16, R424). -/
def trigTwc (s : State) (k : Fin 2) (v : Word) : State :=
  if v.getLsbD 0 && !s.flag (R.TWC_CMD.go k.val) then
    let x : TwcCmd := ⟨s.get (R.TWC_CMD.kind k.val), s.get (R.TWC_CMD.addr k.val), s.get (R.TWC_CMD.code k.val), s.get (R.TWC_XFER.wlen k.val),
      s.get (R.TWC_XFER.rlen k.val), s.flag (R.TWC_CMD.pec k.val), s.twcTx k.val, s.twcRuns k.val, s.get (R.TWC_CFG.speed k.val)⟩
    (s.setTwc k { s.twcU k with cmd := x }).mark (R.TWC_CMD.go k.val)
  else s

/-- The host transaction of controller k; none: it is outside R414. -/
def State.twcHost (s : State) (k : Fin 2) : Option Xact :=
  let x := (s.twcU k).cmd
  xactOf x.kind x.addr x.code x.wlen x.rlen x.pec x.tx

/-- The host transaction is under way: go is 1, and the controller runs or has started it before en was written 0 (R416). -/
def State.twcGoes (s : State) (k : Fin 2) : Bool :=
  s.twcOpen && s.flag (R.TWC_CMD.go k.val) && (s.flag (R.TWC_CFG.en k.val) || (s.twcU k).cmd.started)

/-- The speed of the host transaction: that of its start (R416). -/
def State.hostSpeed (s : State) (k : Fin 2) : Nat :=
  if (s.twcU k).cmd.started then (s.twcU k).cmd.speed else s.get (R.TWC_CFG.speed k.val)

/-- The host transaction ends (R424). -/
def hostEnd (s : State) (k : Nat) (r : XEnd) : State :=
  let n := r.data.length
  let s := (List.range ((n + 3) / 4)).foldl (fun s i =>
    let keep := (leBytes 4 (s.reg (R.TWC_RXBUF.reg k i)).toNat).drop (n - 4 * i)
    s.setReg (R.TWC_RXBUF.reg k i) (leWord (((r.data.drop (4 * i)).take 4) ++ keep))) s
  let s := (s.put (R.TWC_RES.status k) r.status).put (R.TWC_RES.rcount k) n
  (s.mark (R.TWC_STAT.host_done k)).unmark (R.TWC_CMD.go k)

/-- The host transaction of controller k runs, if it waits and is of this kind. -/
def twcKind (k : Fin 2) (kind : Nat) (bus : TwcBus) (s : State) : State :=
  if s.twcGoes k && (s.twcU k).cmd.kind == kind then
    let (r, s) := twcRun s k (s.hostSpeed k) (s.twcHost k) bus
    hostEnd s k.val r
  else s

/-- TWC_SEND_BYTE. -/
def execTwcSendByte (k : Fin 2) (bus : TwcBus) (s : State) : Host.Outcome State Fault Refusal := Cmd.run (twcKind k 0 bus) s
/-- TWC_RECEIVE_BYTE. -/
def execTwcReceiveByte (k : Fin 2) (bus : TwcBus) (s : State) : Host.Outcome State Fault Refusal := Cmd.run (twcKind k 1 bus) s
/-- TWC_WRITE_BYTE. -/
def execTwcWriteByte (k : Fin 2) (bus : TwcBus) (s : State) : Host.Outcome State Fault Refusal := Cmd.run (twcKind k 2 bus) s
/-- TWC_READ_BYTE. -/
def execTwcReadByte (k : Fin 2) (bus : TwcBus) (s : State) : Host.Outcome State Fault Refusal := Cmd.run (twcKind k 3 bus) s
/-- TWC_WRITE_WORD. -/
def execTwcWriteWord (k : Fin 2) (bus : TwcBus) (s : State) : Host.Outcome State Fault Refusal := Cmd.run (twcKind k 4 bus) s
/-- TWC_READ_WORD. -/
def execTwcReadWord (k : Fin 2) (bus : TwcBus) (s : State) : Host.Outcome State Fault Refusal := Cmd.run (twcKind k 5 bus) s
/-- TWC_PROCESS_CALL. -/
def execTwcProcessCall (k : Fin 2) (bus : TwcBus) (s : State) : Host.Outcome State Fault Refusal := Cmd.run (twcKind k 6 bus) s
/-- TWC_BLOCK_WRITE. -/
def execTwcBlockWrite (k : Fin 2) (bus : TwcBus) (s : State) : Host.Outcome State Fault Refusal := Cmd.run (twcKind k 7 bus) s
/-- TWC_BLOCK_READ. -/
def execTwcBlockRead (k : Fin 2) (bus : TwcBus) (s : State) : Host.Outcome State Fault Refusal := Cmd.run (twcKind k 8 bus) s
/-- TWC_I2C_WRITE. -/
def execTwcI2cWrite (k : Fin 2) (bus : TwcBus) (s : State) : Host.Outcome State Fault Refusal := Cmd.run (twcKind k 9 bus) s
/-- TWC_I2C_WRITE_READ. -/
def execTwcI2cWriteRead (k : Fin 2) (bus : TwcBus) (s : State) : Host.Outcome State Fault Refusal := Cmd.run (twcKind k 10 bus) s
/-- TWC_I2C_READ. -/
def execTwcI2cRead (k : Fin 2) (bus : TwcBus) (s : State) : Host.Outcome State Fault Refusal := Cmd.run (twcKind k 11 bus) s

/-- TWC_REFUSED_KIND (R424). -/
def execTwcRefusedKind (k : Fin 2) (s : State) : Host.Outcome State Fault Refusal :=
  Cmd.run (fun s =>
    if s.twcGoes k && (s.twcHost k).isNone then hostEnd s k.val ⟨9, [], []⟩ else s) s

/-! ## The sequencer (R425) -/

/-- An entry's value is outside its limits. -/
def seqOutside (s : State) (k e v : Nat) : Bool :=
  let lo := s.get (R.TWC_SEQ_W2.lo k e)
  let hi := s.get (R.TWC_SEQ_W2.hi k e)
  if s.flag (R.TWC_SEQ_W1.sgn k e) then decide (sx 16 v < sx 16 lo) || decide (sx 16 hi < sx 16 v)
  else Nat.blt v lo || Nat.blt hi v

/-- Word 3 of an entry after a run, and the alarm. -/
def seqResult (s : State) (k e : Nat) (v : Option Nat) (status : Nat) : State :=
  let kind := s.get (R.TWC_SEQ_W0.kind k e)
  let rd := kind == 1 || kind == 3 || kind == 5
  let alarm := status != 0 || (s.flag (R.TWC_SEQ_W1.lim_en k e) && rd && (match v with | some v => seqOutside s k e v | none => false))
  let s := match v with | some v => s.put (R.TWC_SEQ_W3.value k e) v | none => s
  let s := ((s.put (R.TWC_SEQ_W3.status k e) status).put (R.TWC_SEQ_W3.alarm k e) (bit alarm)).bump (R.TWC_SEQ_W3.runs k e)
  if alarm then s.put ⟨R.TWC_ALARM.reg k (e / 32), e % 32, 1⟩ 1 else s

/-- The entry at the head of the queue ends. -/
def seqEnd (s : State) (k : Fin 2) (r : XEnd) : State :=
  let x := s.twcU k
  match x.queue with
  | [] => s
  | e :: t => seqResult (s.setTwc k { x with queue := t }) k.val e (some (leNat r.data)) r.status

/-- The transaction of entry e. -/
def State.twcEntry (s : State) (k e : Nat) : Option Xact :=
  let kind := s.get (R.TWC_SEQ_W0.kind k e)
  if 5 < kind then none
  else xactOf kind (s.get (R.TWC_SEQ_W0.addr k e)) (s.get (R.TWC_SEQ_W0.code k e)) 0 0 (s.flag (R.TWC_SEQ_W0.pec k e))
    (leBytes 2 (s.get (R.TWC_SEQ_W2.lo k e)))

/-- SEQ_ENTRY_RUN: a host transaction that waits goes ahead of it (R424). -/
def execSeqEntryRun (k : Fin 2) (bus : TwcBus) (s : State) : Host.Outcome State Fault Refusal :=
  Cmd.run (fun s =>
    match (s.twcU k).queue with
    | [] => s
    | e :: _ =>
      if !s.twcRuns k.val || s.flag (R.TWC_CMD.go k.val) then s
      else
        let (r, s) := twcRun s k (s.get (R.TWC_CFG.speed k.val)) (s.twcEntry k.val e) bus
        seqEnd s k r) s

/-- The boundary queues what is due. -/
def seqBoundary (s : State) : State :=
  (List.finRange 2).foldl (fun s k =>
    if !s.twcRuns k.val || !s.flag (R.TWC_CFG.seq_en k.val) then s
    else ((s.listed (R.TWC_SEQ_W0.reg k.val 0) 16 256)).foldl (fun s e =>
      let n := 2 ^ min 24 (s.get (R.TWC_SEQ_W1.ivl_log2 k.val e))
      if s.flag (R.TWC_SEQ_W0.en k.val e) && s.pn % n == s.get (R.TWC_SEQ_W1.phase k.val e) % n then
        let x := s.twcU k
        if x.queue.contains e then (seqResult s k.val e none 10).bump (R.TWC_SKIPS.skips k.val)
        else s.setTwc k { x with queue := x.queue ++ [e] }
      else s) s) s

/-! ## Events of the bus (R419, R420, R422) -/

/-- The transaction under way ends early: the host's, or the sequencer's. -/
def twcCut (s : State) (k : Fin 2) (status : Nat) : State :=
  if s.twcGoes k then hostEnd s k.val ⟨status, [], []⟩ else seqEnd s k ⟨status, [], []⟩

/-- A transaction is under way. (DEDUCED, log entry 56.) -/
def State.twcDue (s : State) (k : Fin 2) : Bool :=
  s.twcGoes k || (s.twcRuns k.val && !(s.twcU k).queue.isEmpty)

/-- STRETCH_TIMEOUT (R419). -/
def execStretchTimeout (k : Fin 2) (s : State) : Host.Outcome State Fault Refusal :=
  Cmd.run (fun s =>
    if !s.twcDue k then s
    else
      let s := ((twcCut s k 5).mark (R.TWC_STAT.timeout k.val)).mark (R.TWC_STAT.bus_busy k.val)
      s.setTwc k { s.twcU k with sclWait := true }) s

/-- SCL_STUCK (R419). -/
def execSclStuck (k : Fin 2) (s : State) : Host.Outcome State Fault Refusal :=
  Cmd.run (fun s =>
    if !(s.twcU k).sclWait then s
    else (s.setTwc k { s.twcU k with sclWait := false }).mark (R.TWC_STAT.scl_stuck k.val)) s

/-- BUS_ERROR (R420). -/
def execBusError (k : Fin 2) (s : State) : Host.Outcome State Fault Refusal :=
  Cmd.run (fun s =>
    if !s.twcDue k then s
    else ((twcCut s k 6).mark (R.TWC_STAT.bus_err k.val)).mark (R.TWC_STAT.bus_busy k.val)) s

/-- SDA_STUCK_DETECT (R422). -/
def execSdaStuckDetect (k : Fin 2) (clear : Bool) (s : State) : Host.Outcome State Fault Refusal :=
  Cmd.run (fun s => if s.twcRuns k.val then busClear s k.val clear else s) s

/-- The bus clear that follows a reset (R422): its outcome is what the command says of the bus; free where it says nothing. (DESIGN CHOICE, log entry 55.) -/
def resetClear (s : State) (k : Nat) (clear : Option Bool) : State :=
  match clear with
  | some ok => busClear s k ok
  | none => let (n, s) := s.freeNat; busClear s k (n % 2 == 0)

/-- What a write of TWC_CFG(k) does besides: en = 0 empties the queue; reset ends the transaction under way with status 6 and runs a
bus clear. -/
def twcCfgWritten (s : State) (k : Fin 2) (v : Word) (clear : Option Bool) : State :=
  let s := if v.getLsbD 4 then
      let s := if s.twcDue k then twcCut s k 6 else s
      resetClear (s.setTwc k { s.twcU k with sclWait := false }) k.val clear
    else s
  if v.getLsbD 0 then s else s.setTwc k { s.twcU k with queue := [] }

/-- A controller leaves the states in which it runs, or its en is 0: nothing more runs (R416). -/
def twcStop (s : State) : State :=
  (List.finRange 2).foldl (fun s k => s.setTwc k { s.twcU k with queue := [] }) s

end Sys2Proof.Machine
end

