-- ==== Sys2Proof/Machine/Start.lean ====
section
/-!
DEFINITION. Reset (R371, R373), the start checks, the start and the stop of the data plane (R383), and the engine-state and safe
reactions on the destinations they hold (R384, R399).
-/
namespace Sys2Proof.Machine

/-! ## Reset -/

/-- What a reset leaves (R371, R373): everything cleared but the fuses, the flash, BOOT_STAT's results after a reload, and what is
the model's own. (DEDUCED, log entry 79.) -/
def engineReset (s : State) (cause : Nat) : State :=
  let stat := s.reg R.BOOT_STAT.reg
  let r := { State.reset with
    tap := s.tap
    sys := { SysS.reset with straps := s.sys.straps, fuses := s.sys.fuses }
    flash := s.flash
    boot := { BootS.reset with flashSize := s.boot.flashSize }
    free := s.free
    out := s.out
    pending := s.pending }
  let r := r.setReg R.SYS_RESET_CAUSE.reg (BitVec.ofNat 32 cause)
  if cause = 5 then r.setReg R.BOOT_STAT.reg (stat &&& 0xBF#32) else r

/-- RESET_N_ASSERT. -/
def execResetNAssert (s : State) : Host.Outcome State Fault Refusal := Cmd.run (fun s => engineReset s 1) s

/-- POWER_ON_DETECT. -/
def execPowerOnDetect (s : State) : Host.Outcome State Fault Refusal := Cmd.run (fun s => engineReset s 2) s

/-! ## Destinations held by a reaction -/

/-- The destinations of R384: local outputs, rate-bridge inputs with dir = 1, modulators. -/
def State.engHeld (s : State) (d : Nat) : Bool :=
  (Nat.ble 0x1000 d && Nat.blt d 0x1200)
    || (Nat.ble 0x1A00 d && Nat.blt d 0x1B00 && s.flag (R.XIO_BR_CFG.dir (d - 0x1A00)))
    || (Nat.ble 0x1C00 d && Nat.blt (d - 0x1C00) s.sys.fuses.pwm)

/-- The destinations of R399: those of R384 and every populated network egress channel. -/
def State.safeHeld (s : State) (d : Nat) : Bool := Nat.blt d s.netCh || s.engHeld d

/-- Every destination that `held` names takes the reaction k toward target over T samples (R75, R398). -/
def reactAll (s : State) (k : React) (held : Nat → Bool) (target : Int) (T : Nat) : State :=
  let go := fun (x : DstW) =>
    let r := (x.react k).getD (Ramp.const unity)
    x.setReact k (some (if T = 0 then Ramp.const target else r.toward target T false s.mash.base))
  let old := s.mash.dsts.map (fun x => if held x.d then go x else x)
  let new := ((List.range 0x1C18).filter (fun d => held d && !s.mash.dsts.any (·.d == d))).map (fun d => go (DstW.rest d))
  { s with mash := { s.mash with dsts := old ++ new } }

/-- Every destination held by reaction k and named by `held` is released (R75). -/
def releaseAll (s : State) (k : React) (held : Nat → Bool) : State :=
  { s with mash := { s.mash with dsts := s.mash.dsts.map (fun x =>
    match x.react k with
    | none => x
    | some r =>
      if held x.d then x.setReact k (some (r.toward unity (s.get (R.MASH_DST_CTL.ramp_time x.d)) (s.flag (R.MASH_DST_GAIN.law x.d)) s.mash.base))
      else x) } }

/-- Reaction k ends at once for the destinations that `held` names. -/
def endAll (s : State) (k : React) (held : Nat → Bool) : State :=
  { s with mash := { s.mash with dsts := s.mash.dsts.map (fun x => if held x.d then x.setReact k none else x) } }

/-- Reaction k stands at its target everywhere. -/
def reactedAll (s : State) (k : React) : Bool :=
  s.mash.dsts.all (fun x => match x.react k with | some r => r.done s.mash.base | none => true)

/-- Samples in n ms; 0 acts as 1 ms. -/
def State.msSamples (s : State) (n : Nat) : Nat := max 1 n * s.fs / 1000

/-! ## Start checks (R383, R403) -/

/-- The start checks of every block that is stopped. (DEDUCED, log entry 23.) -/
def startChecks (s : State) : State :=
  let s := if s.sys.dataPlane then s else bridgesStart (mapsStart s)
  let s := if s.sxe.run then s else sxeCheck s
  let s := if s.mash.run then s else mashCheck s
  let s := if s.cask.rt then s else (caskStart s).2
  if s.sys.dataPlane then s else (powerStart s).2

/-- Cask and the power arbiter let the data plane start (R314, R328, R348). -/
def State.mayStart (s : State) : Bool := s.cask.rt && !s.flag R.PWRA_STAT.over_rt

/-- A class-3 fault has been raised in this command. -/
def State.class3 (s : State) : Bool := s.flt.raised.any (·.cls == 3)

/-! ## The class-3 reactions (R399 to R402) -/

/-- The first class-3 fault of a reaction is shown (R399). -/
def safeCause (s : State) (x : Nat × Nat) : State := (s.put R.FLT_SAFE.cause_blk x.1).put R.FLT_SAFE.cause_code x.2

/-- Entry into STANDBY is abandoned. -/
def stbyOff (s : State) : State := ({ s with sys := { s.sys with stbyEntry := false } } : State).unmark R.SYS_STBY.enter

/-- The engine enters SAFE: the safe factor stands at 0 (R400, R402). -/
def safeEnter (s : State) : State :=
  let s := stbyOff (reactAll s .safe s.safeHeld 0 0)
  pwmOn (({ s with flt := { s.flt with safeRamp := false } } : State).enter .safe)

/-- The first of class-3 faults that take effect at one boundary: by block, then code (R397). (DEDUCED, log entry 66.) -/
def firstC3 (x : Nat × Nat) (l : List (Nat × Nat)) : Nat × Nat :=
  l.foldl (fun a b => if b.1 < a.1 ∨ (b.1 = a.1 ∧ b.2 < a.2) then b else a) x

/-- The class-3 faults raised since the last boundary (R399, R400). (DEDUCED, log entry 66.) -/
def classThree (s : State) : State :=
  match s.flt.c3 with
  | [] => s
  | x :: l =>
    let x := firstC3 x l
    let s := { s with flt := { s.flt with c3 := [] } }
    match s.sys.state with
    | .prepare | .runUnlocked => safeEnter (safeCause s x)
    | .runLocked =>
      if s.flt.safeRamp then safeEnter s
      else if s.sys.stbyEntry then safeEnter (safeCause s x)
      else
        let s := reactAll (safeCause s x) .safe s.safeHeld 0 (s.msSamples (s.get R.FLT_SAFE.ramp))
        { s with flt := { s.flt with safeRamp := true } }
    | _ => s

/-! ## Start and stop -/

/-- The twin port is as R283 asks. -/
def State.twinPortOk (s : State) : Bool :=
  let p := s.sys.fuses.twinPort
  s.ethOk p && s.flag (R.ETH_PCFG.en p) && s.flag (R.ETH_PCFG.speed p)

/-- Twin operation at a data-plane start: off, or out; a twin port that breaks R283 is told. -/
def twinStart (s : State) : State :=
  if !s.sys.fuses.twin || !s.twinMode then s
  else
    let s := s.put R.TWIN_STAT.state 1
    let s := { s with twin := { TwinS.reset with lseq := s.twin.lseq, lack := s.twin.lack, ackDue := s.twin.ackDue, unacked := s.twin.unacked } }
    if s.twinPortOk then s else s.raise 2 0xB 1 0

/-- The data plane starts, or what of it is stopped starts. `fresh`: from PREPARE, or after a stop (R236). -/
def dataPlaneStart (s : State) : State :=
  if !s.mayStart then s
  else
    let was := s.sys.dataPlane
    let s := { s with sys := { s.sys with dataPlane := true } }
    let s := (List.finRange 4).foldl (fun s g => if (s.grp g).run then s else grpStart s g) s
    let s := if was then s else synthStart s true
    let s := if s.mash.run then s else mashStart s
    let s := if s.sxe.run then s else sxeStart s true
    let s := (List.finRange 16).foldl (fun s c =>
      if (s.core c).run == .stopped && Nat.blt c.val s.sys.fuses.cores && s.flag (R.CORE_CTRL.enable c.val) then
        if coreChecks s c.val then coreBegin s c .full else s.raise 2 6 4 c.val
      else s) s
    if was then s else twinStart s

/-- The data plane stops; the twin is out (R290). -/
def dataPlaneStop (s : State) : State :=
  let s := twcStop (synthStart (xioStop (sxeStop (mashStop (coresStop s)))) false)
  let s := if s.get R.TWIN_STAT.state = 0 then s else s.put R.TWIN_STAT.state 1
  { s with
    sys := { s.sys with dataPlane := false, idle := false }
    cask := { s.cask with rt := false, cap := [], play := [] } }

end Sys2Proof.Machine
end

