-- ==== Sys2Proof/Machine/Commit.lean ====
section
/-!
DEFINITION. Commits (R49 to R51, R362 to R365, R37, R140): acceptance, the cutoff, application; and the write journal (R367, R368).
-/
namespace Sys2Proof.Machine

/-! ## The journal -/

/-- An entry of eight words is appended; 1,024 are kept. -/
def journalAdd (s : State) (w : List Word) : State :=
  { s with hif := { s.hif with
    journal := (w :: s.hif.journal).take 1024
    jUp := (s.sys.up :: s.hif.jUp).take 1024
    jseq := (s.hif.jseq + 1) % 2 ^ 32 } }

/-- The code of a route in the journal and in SYS_CFG_REJECT. -/
def routeCode : Route → Nat
  | .pcie => 0 | .twt => 1 | .inband => 2 | .mgp => 3 | .twin => 4 | .boot => 5

/-- What a write forwarded over the twin link says of itself (R297): the leader's journal sequence number, the period of its
acceptance, the target of a commit. -/
structure FwdTag where
  jseq : Nat
  p : Nat
  target : Nat

/-- The journal's entry of an accepted write (R367): kind 0 write, 1 commit, 2 cancel; its data; a commit's target; the PN of acceptance.
One of the boot engine is not journalled (R382). (DEDUCED, log entry 70.) -/
def journalWrite (s : State) (route : Route) (kind a : Nat) (v : Word) (target pn : Nat) (tag : Option FwdTag) : State :=
  if route = .boot then s else
  let pn := match tag with | some t => t.p | none => pn
  let seq := BitVec.ofNat 32 s.hif.jseq
  let s := s.count 5 1
  journalAdd s [BitVec.ofNat 32 (a + routeCode route * 2 ^ 25 + kind * 2 ^ 28), v, BitVec.ofNat 32 pn, BitVec.ofNat 32 (pn / 2 ^ 32),
    BitVec.ofNat 32 s.wt, seq, BitVec.ofNat 32 target, match tag with | some t => BitVec.ofNat 32 t.jseq | none => seq]

/-- Word w of ring entry e: the entry in place e, if one is there (R368). -/
def journalRead (s : State) (e w : Nat) : Word :=
  let n := s.hif.journal.length
  let back := (s.hif.jseq + 2 ^ 32 - 1 - e) % 1024
  if back < n then (s.hif.journal.getD back []).getD w 0 else 0

/-- The entries older than 1,000 ms are marked (R56). -/
def staleJournal (s : State) : State :=
  { s with hif := { s.hif with journal := (s.hif.journal.zip s.hif.jUp).map (fun (w, u) =>
    if s.old u then match w with | h :: t => (h ||| 0x40000000#32) :: t | [] => [] else w) } }

/-! ## Acceptance -/

/-- Commit group g, and the group replaced. -/
def State.group (s : State) (g : Fin 32) : CommitGroup := s.hif.groups[g]
def State.setGroup (s : State) (g : Fin 32) (x : CommitGroup) : State := { s with hif := { s.hif with groups := s.hif.groups.set g x } }

/-- The content of group g as its shadow stands: the words of its registers. -/
def groupContent (s : State) (g : Nat) : List (Nat × Word) :=
  if 16 ≤ g then []
  else ((((s.shadow.map (·.1)) ++ (s.regs.map (·.1))).filter (fun a => groupOf a == some g)).eraseDups).map (fun a => (a, s.shReg a))

/-- The open commit of group g reaches its cutoff: it is fixed with the shadow content as it stands; a fixed commit that is still held is
merged into it (R364, R37). -/
def fixOpen (s : State) (g : Fin 32) : State :=
  match (s.group g).openC with
  | none => s
  | some (seq, t) =>
    let s := if (s.group g).fixed.isSome && (s.group g).fixed != (s.group g).merged then s.bump (R.HIF_COMMIT_STAT.superseded g.val) else s
    s.setGroup g ⟨none, some ⟨seq, t, groupContent s g.val, s.pn⟩, (s.group g).fixed⟩

/-- A commit that was fixed at a boundary after period p is open again: for a write that counts as accepted in p (R297). -/
def unfix (s : State) (g : Fin 32) (p : Nat) : State :=
  match (s.group g).fixed with
  | some f => if p < f.at_ ∧ (s.group g).openC.isNone then s.setGroup g ⟨some (f.seq, f.target), (s.group g).merged, none⟩ else s
  | none => s

/-- A commit whose cutoff lies in the past is fixed at once: one forwarded by the leader (R297). -/
def fixPast (s : State) (g : Fin 32) : State :=
  match (s.group g).openC with
  | some (_, t) => if t ≤ s.pn + 1 then fixOpen s g else s
  | none => s

/-- The target a commit names, and whether R51 moves it. -/
def commitTarget (s : State) (g : Nat) (next : Bool) : Nat × Bool :=
  if next then (s.pn + 2, false)
  else
    let t := extend32 s.pn (s.get (R.HIF_COMMIT_TGT.pnl g))
    if t < (s.pn : Int) + 2 then (s.pn + 2, true) else (t.toNat, false)

/-- What a write of v to HIF_COMMIT(g) did: a cancel, a refusal, a commit with its target. -/
inductive CommitDone where
  | cancelled
  | refused
  | committed (target : Nat)

/-- A write of HIF_COMMIT(g) (R362, R364): a cancel, a refused commit, or a commit. -/
def commitWrite (s : State) (g : Fin 32) (v : Word) (tag : Option FwdTag) : CommitDone × State :=
  if v.getLsbD 18 then (.cancelled, s.setGroup g { s.group g with openC := none })
  else
    let seq := s.get (R.HIF_COMMIT_STAT.seq g.val)
    if tag.isNone && v.getLsbD 16 && fieldGet 0 16 v != seq then
      (.refused, (s.mark (R.HIF_COMMIT_STAT.refused g.val)).raise 1 0xC 2 g.val)
    else
      let (t, late) := match tag with | some x => (x.target, false) | none => commitTarget s g.val (v.getLsbD 17)
      let s := if late then (s.mark (R.HIF_COMMIT_STAT.late g.val)).raise 1 0xC 1 g.val else s
      let s := s.bump (R.HIF_COMMIT_STAT.seq g.val)
      let s := if (s.group g).openC.isSome then s.bump (R.HIF_COMMIT_STAT.superseded g.val) else s
      (.committed t, fixPast (s.setGroup g { s.group g with openC := some ((seq + 1) % 65536, t) }) g)

/-! ## Application -/

/-- Commits are applied in this state (R37). -/
def State.mayCommit (s : State) : Bool := s.sys.state.isRun || (s.sys.state == .safe && s.image)

/-- The bits of the SH fields of the register at a. -/
def shMask (a : Nat) : Word :=
  match regFind a with
  | none => 0
  | some d => d.fields.foldl (fun m f => if f.kind = .sh then m ||| fieldMask f.lo f.w else m) 0

/-- The content of a commit comes into force. -/
def applyContent (s : State) (l : List (Nat × Word)) : State :=
  l.foldl (fun s (a, w) => let m := shMask a; s.setReg a ((s.reg a &&& ~~~ m) ||| (w &&& m))) s

/-- What the blocks do when a commit of group g applies; `old` is the state before. -/
def groupHook (old s : State) (g : Nat) : State :=
  match g with
  | 4 => gateCommit old s
  | 5 => strCommit old s
  | 6 => if s.sxe.run then inCommit old s else inCheck s
  | 7 => if s.sxe.run then egCommit old s else egCheck s
  | 8 => if s.mash.run then mashXpCommit old s false else s
  | 9 => if s.mash.run then mashDstCommit s else s
  | 10 => if s.mash.run then mashCondCommit s else s
  | g => if 16 ≤ g then paramSwap s (Fin.ofNat 16 (g - 16)) else s

/-- A fixed commit applies (R365). -/
def commitApply (s : State) (g : Fin 32) (f : Fixed) : State :=
  let old := s
  let s := groupHook old (applyContent s f.content) g.val
  let s := s.setGroup g { s.group g with fixed := none, merged := none }
  let s := (s.put (R.HIF_COMMIT_APPL_SEQ.applied_seq g.val) f.seq).put (R.HIF_COMMIT_APPL.applied_pnl g.val) s.pnl
  (s.mark ⟨R.HIF_COMMIT_DONE.reg, g.val, 1⟩).count 6 1

/-- Group g at a boundary: its fixed commit applies when it is due; a parameter swap is not, when the header of the period says so
(R140). (DEDUCED, log entry 69.) -/
def groupApply (s : State) (g : Fin 32) : State :=
  match (s.group g).fixed with
  | none => s
  | some f =>
    if s.pn < f.target then s
    else if 16 ≤ g.val ∧ (s.io (Fin.ofNat 16 (g.val - 16))).hdr ≠ some true then s
    else commitApply s g f

/-- Step 4 of R23: the commits due apply in ascending group number; the open commits of the next period are fixed. -/
def commitBoundary (s : State) : State :=
  let s := if s.mayCommit then (List.finRange 32).foldl groupApply s else s
  (List.finRange 32).foldl fixPast s

end Sys2Proof.Machine
end

