-- ==== Sys2Proof/Machine/CoreEvents.lean ====
section
/-!
DEFINITION. The events of a core (R119 to R122) and its debugger (R95, R124).
-/
namespace Sys2Proof.Machine

/-- A core that takes part in the period: not stopped. -/
def Core.live (k : Core) : Bool := k.run == .running || k.run == .idle || k.run == .halted

/-- SLICE_TIMER (R128, R121): CYC = at × 16 of an enabled slice raises the slice-timer event; one that arrives while one is
pending merges with it and sets slice_ovr. A slice at or past the period's length never fires. -/
def execSliceTimer (c : Fin 16) (i : Fin 8) (s : State) : Host.Outcome State Fault Refusal :=
  Cmd.run (fun s =>
    let cyc := 16 * s.get (R.CORE_SLICE.at_ c.val i.val)
    if !(s.flag (R.CORE_SLICE.en c.val i.val) && s.sys.dataPlane && !s.sys.idle && (s.core c).live) || s.perDsp ≤ cyc then s
    else
      let s := ageTo s c cyc
      let k := s.core c
      if k.slice then s.mark (R.CORE_EVT.slice_ovr c.val) else s.setCore c { k with slice := true }) s

/-- At a group boundary that is not a delay slot. -/
def Core.boundary (k : Core) : Bool := (k.run == .running || k.run == .idle) && k.group.isEmpty && k.slot.isNone

/-- Level-1 entry (R120): the period bell first; the address of the group that would have issued goes to EPC1; bank 1 from
the next cycle. -/
def enter1 (k : Core) : Core :=
  let vec : Word := if k.bell then 0x20#32 else 0x40#32
  let k := if k.bell then { k with bell := false } else { k with slice := false }
  Core.tick { k with epc1 := k.pc, l1from := k.level, level := 1, run := .running,
                     pc := k.vbase + vec, accEntry := k.accEntry + 1 }

/-- LEVEL1_EVENT_ENTRY (R120). -/
def execLevel1EventEntry (c : Fin 16) (s : State) : Host.Outcome State Fault Refusal :=
  Cmd.run (fun s =>
    let k := s.core c
    if k.boundary && k.takes1 then s.setCore c (enter1 k) else s) s

/-- LEVEL2_EVENT_ENTRY (R122): debug, then mailbox, then DMA done (R119); the handler's first group issues 2 cycles later. -/
def execLevel2EventEntry (c : Fin 16) (s : State) : Host.Outcome State Fault Refusal :=
  Cmd.run (fun s =>
    let k := s.core c
    if k.boundary && !k.takes1 && k.takes2 (s.stalledC c.val) then
      let (k, vec) : Core × Nat :=
        if k.evDebug then ({ k with evDebug := false }, 0x80)
        else if k.evMbox then ({ k with evMbox := false }, 0xA0)
        else ({ k with evDma := false }, 0xC0)
      let k := Core.ticks 2 (k.enter2 vec)
      (s.setCore c { k with accEntry := k.accEntry + 2 }).count (0x100 + 8 * c.val + 6) 1
    else s) s

/-! ## Debug (R124) -/

/-- A halt or step request raises the debug event: with halt_en the core halts at the next group boundary, at level 0 with ie2 = 1 the
event becomes pending, otherwise nothing happens (DEDUCED, log entry 91). `k'` is the core with the request noted until then. -/
def debugRequest (s : State) (c : Fin 16) (k' : Core) : State :=
  let k := s.core c
  if !(k.run == .running || k.run == .idle) then s
  else if s.rawFlag (R.CORE_DBG_SEL.halt_en c.val) then
    let s := s.mark (R.CORE_EVT.debug c.val)
    if k.boundary then s.setCore c { k with run := .halted, wasIdle := k.run == .idle } else s.setCore c k'
  else if k.level == 0 && k.ie2 then (s.setCore c { k with evDebug := true }).mark (R.CORE_EVT.debug c.val)
  else s

/-- CORE_CTRL.halt; it has no effect while an earlier one has not had its own (R16). -/
def debugHalt (s : State) (c : Fin 16) : State :=
  let k := s.core c
  if k.haltCmd then s else debugRequest s c { k with haltReq := true, haltCmd := true }

/-- The time that has passed for a core that issues nothing: results under way have landed (R103). -/
def coreRest (s : State) (c : Fin 16) : State :=
  let s := ageTo s c (s.sys.et % s.perVco / 2)
  s.setCore c (s.core c).settled

/-- CORE_CTRL.resume: a halted core goes on at CORE_PC. -/
def debugResume (s : State) (c : Fin 16) : State :=
  if (s.core c).run = .halted then
    let s := coreRest s c
    let k := s.core c
    s.setCore c { k with run := if k.wasIdle then .idle else .running, wasIdle := false }
  else s

/-- CORE_CTRL.step: it raises the debug event, and a halted core issues one group before that takes hold; none has an effect while an earlier
one is under way (R16, R124). -/
def debugStep (s : State) (c : Fin 16) : State :=
  let k := s.core c
  if k.stepping then s
  else if k.run = .halted then
    let s := coreRest s c
    (s.setCore c { s.core c with run := .running, stepping := true, wasIdle := false }).mark (R.CORE_EVT.debug c.val)
  else debugRequest s c { k with stepping := true }

/-- The actions of a write of data to CORE_CTRL(c): halt, resume and step. -/
def trigCoreCtrl (s : State) (c : Fin 16) (data : Word) : State :=
  let s := if data.getLsbD 1 then debugHalt s c else s
  let s := if data.getLsbD 2 then debugResume s c else s
  if data.getLsbD 3 then debugStep s c else s

/-- CORE_CTRL.halt and CORE_CTRL.step as they read: 1 until they have had their effect (R15). -/
def ctrlBits (k : Core) : Word := BitVec.ofNat 32 (2 * bit k.haltCmd + 8 * bit k.stepping)

/-- BREAKPOINT_MATCH (R124): a group at an enabled breakpoint issues; the debug event takes hold at the boundary after it
(DEDUCED, log entry 14). -/
def execBreakpointMatch (c : Fin 16) (s : State) : Host.Outcome State Fault Refusal :=
  Cmd.run (fun s =>
    let k := s.core c
    let hit := (List.range 4).any (fun i =>
      s.flag (R.CORE_BKPT.en c.val i) && 4 * s.get (R.CORE_BKPT.addr c.val i) == k.pc.toNat)
    let haltEn := s.rawFlag (R.CORE_DBG_SEL.halt_en c.val)
    if k.group.isEmpty && canIssue s c && hit && (haltEn || (k.level == 0 && k.ie2)) then
      (s.setCore c { k with haltReq := true }).mark (R.CORE_EVT.debug c.val)
    else s) s

/-- What CORE_DBG_SEL selects in a halted core (CORE_DBG_SEL.num). -/
def debugRead (s : State) (c : Fin 16) : Word :=
  let k := (coreRest s c).core c
  let b := k.bankOf (s.flag (R.CORE_DBG_SEL.bank c.val))
  let n := s.get (R.CORE_DBG_SEL.num c.val)
  if k.run ≠ .halted then 0
  else if n ≤ 0x49 then k.readCr b c.val s.pnl n
  else if 0x80 ≤ n ∧ n < 0xA0 then b.d[Fin.ofNat 32 (n - 0x80)]
  else if 0xA0 ≤ n ∧ n < 0xC0 then
    let a := b.a[Fin.ofNat 8 ((n - 0xA0) / 4)]
    match n % 4 with
    | 0 => a.acc.setWidth 32
    | 1 => (a.acc >>> 32).setWidth 32
    | 2 => a.gWord
    | _ => 0
  else 0

/-- A write of CORE_DBG_DATA in a halted core. -/
def debugWrite (s : State) (c : Fin 16) (v : Word) : State :=
  let k := (coreRest s c).core c
  let one := s.flag (R.CORE_DBG_SEL.bank c.val)
  let b := k.bankOf one
  let n := s.get (R.CORE_DBG_SEL.num c.val)
  if k.run ≠ .halted then s
  else if n ≤ 0x49 then s.setCore c (k.writeCr one n v)
  else if 0x80 ≤ n ∧ n < 0xA0 then s.setCore c (k.setBank one { b with d := b.d.set (Fin.ofNat 32 (n - 0x80)) v })
  else if 0xA0 ≤ n ∧ n < 0xC0 then
    let i := Fin.ofNat 8 ((n - 0xA0) / 4)
    let a := b.a[i]
    let x := a.acc.toNat
    let a' : Acc := match n % 4 with
      | 0 => { a with acc := BitVec.ofNat 80 (x / 2 ^ 32 * 2 ^ 32 + v.toNat) }
      | 1 => { a with acc := BitVec.ofNat 80 (x / 2 ^ 64 * 2 ^ 64 + v.toNat * 2 ^ 32 + x % 2 ^ 32) }
      | 2 => ⟨BitVec.ofNat 80 (x % 2 ^ 64 + v.toNat % 2 ^ 16 * 2 ^ 64), sx 4 (v.toNat / 2 ^ 16), v.getLsbD 20⟩
      | _ => a
    s.setCore c (k.setBank one { b with a := b.a.set i a' })
  else s

/-- CORE_STAT (R93, R121): state, bank, LSP, overruns and l1_peak. -/
def coreStat (k : Core) : Word :=
  let st := match k.run with
    | .stopped => 0
    | .running => 1 + k.level.val
    | .idle => 4
    | .halted => 5
    | .faulted => 6
  BitVec.ofNat 32 (st + 8 * bit k.useBank1 + 16 * k.bank.lsp.val + 2 ^ 8 * (k.overruns % 256) + 2 ^ 16 * (k.l1peak % 65536))

end Sys2Proof.Machine
end

