-- ==== Sys2Proof/Machine/Flash.lean ====
section
/-!
DEFINITION. The flash device and the passthrough that software uses to update the idle slot (R375, R387).
-/
namespace Sys2Proof.Machine

/-! ## The device -/

/-- The byte at flash offset a. -/
def State.flashByte (s : State) (a : Nat) : Byte := Sparse.get (w := 8) flashDflt s.flash a

/-- n bytes from offset a. -/
def State.flashBytes (s : State) (a n : Nat) : List Byte := (List.range n).map (fun i => s.flashByte (a + i))

/-- One byte of flash made b. -/
def State.setFlash (s : State) (a : Nat) (b : Byte) : State := { s with flash := Sparse.set (w := 8) flashDflt s.flash a b }

/-- The slot's first byte: A 0, B half the flash size (R375). -/
def State.slotBase (s : State) (b : Bool) : Nat := if b then s.boot.flashSize / 2 else 0

/-- n bytes of flash erased from a. -/
def flashErase (s : State) (a n : Nat) : State :=
  { s with flash := s.flash.filter (fun c => Nat.blt c.1 a || Nat.ble (a + n) c.1) }

/-- A byte programmed: an erased byte takes the data; what one that is not erased holds afterwards is not stated. -/
def flashProgram (s : State) (a : Nat) (b : Byte) : State :=
  let old := s.flashByte a
  if old = 0xFF ∨ old = b then s.setFlash a b
  else let (x, s) := s.freeByte; s.setFlash a x

/-! ## The passthrough -/

/-- The bytes an op of code op reaches from its address (R387): it is aligned to the op's size. (DEDUCED, log entry 71.) -/
def flashSpan (op a : Nat) : Nat × Nat :=
  let n := match op with | 2 => 4096 | 3 => 65536 | _ => 256
  (a / n * n, n)

/-- Byte range a to a + n - 1 lies in the idle slot: either slot while no image is loaded. -/
def State.flashIdle (s : State) (a n : Nat) : Bool :=
  let h := s.boot.flashSize / 2
  let inA := Nat.ble (a + n) h
  let inB := Nat.ble h a && Nat.ble (a + n) s.boot.flashSize
  if s.image then (if s.boot.slot then inA else inB) else inA || inB

/-- The states in which the passthrough is available. -/
def State.flashOpen (s : State) : Bool := s.sys.state.isRun || s.sys.state == .safe

/-- A write of v to BOOT_FL_CMD (R387). status: what the device would return to a status read; none: not said. -/
def trigFlash (s : State) (v : Word) (status : Option Word) : State :=
  let op := fieldGet 0 3 v
  let s := s.put R.BOOT_FL_CMD.op op
  if !v.getLsbD 3 || s.flag R.BOOT_FL_CMD.go then s
  else if !s.flashOpen || 4 < op then s.mark R.BOOT_FL_CMD.err
  else
    let (a, n) := flashSpan op (s.get R.BOOT_FL_ADDR.addr)
    if (op = 1 ∨ op = 2 ∨ op = 3) ∧ !s.flashIdle a n then (s.mark R.BOOT_FL_CMD.err).raise 1 0xD 2 a
    else
      let (w, s) := match status with | some w => (w, s) | none => s.freeWord
      let s := { s with boot := { s.boot with flOp := some (op, a, w) } }
      (s.unmark R.BOOT_FL_CMD.err).mark R.BOOT_FL_CMD.go

/-- The 256 bytes of the buffer. -/
def State.flashBuf (s : State) : List Byte := (List.range 64).flatMap (fun i => leBytes 4 (s.reg (R.BOOT_FL_BUF.reg i)).toNat)

/-- What the op under way has done when the device reports completion. -/
def flashDone (s : State) (op a : Nat) (w : Word) : State :=
  match op with
  | 0 => (List.range 64).foldl (fun s i => s.setReg (R.BOOT_FL_BUF.reg i) (leWord (s.flashBytes (a + 4 * i) 4))) s
  | 1 => s.flashBuf.zipIdx.foldl (fun s (b, i) => flashProgram s (a + i) b) s
  | 4 => s.setReg (R.BOOT_FL_BUF.reg 0) w
  | _ => flashErase s a (flashSpan op a).2

/-- What a program or an erase that failed has left where it was to write: not stated. -/
def flashFailed (s : State) (op a : Nat) : State :=
  if op = 0 ∨ op = 4 then s
  else (List.range (flashSpan op a).2).foldl (fun s i => let (x, s) := s.freeByte; s.setFlash (a + i) x) s

/-- FL_OP_COMPLETE (R387). -/
def execFlOpComplete (ok : Bool) (s : State) : Host.Outcome State Fault Refusal :=
  Cmd.run (fun s =>
    match s.boot.flOp with
    | none => s
    | some (op, a, w) =>
      let s := ({ s with boot := { s.boot with flOp := none } }).unmark R.BOOT_FL_CMD.go
      if ok then flashDone s op a w else (flashFailed s op a).mark R.BOOT_FL_CMD.err) s

end Sys2Proof.Machine
end

