-- ==== Sys2Proof/Machine/Control.lean ====
section
/-!
DEFINITION. The register space as software reads and writes it (R5, R14 to R16, R350 to R353, R366): one write and one read that
every route goes through, and what a write does besides storing.
-/
namespace Sys2Proof.Machine

/-! ## Absent instances (R5) -/

/-- Instance i of n is absent, for the register at a of a table (base, stride, count). -/
def beyond (a base stride count n : Nat) : Bool :=
  Nat.ble base a && Nat.blt a (base + stride * count) && Nat.ble n ((a - base) / stride)

/-- The register at a belongs to an absent block or instance. (DEDUCED, log entry 80.) -/
def Fuses.absent (f : Fuses) (a : Nat) : Bool :=
  beyond a 0x10120 0x10 8 f.ports || beyond a 0x10208 4 8 f.ports || beyond a 0x20800 0x20 8 f.ports
    || beyond a 0x40000 0x2000 8 f.ports || beyond a 0x300000 0x10000 16 f.cores
    || beyond a 0x400000 0x10 4 ((f.tdm + 7) / 8) || beyond a 0x400100 4 32 f.tdm
    || beyond a 0x480000 0x80000 1 f.pwm || beyond a 0x480100 0x10 24 f.pwm || beyond a 0x480400 0x10 8 ((f.pwm + 2) / 3)
    || beyond a 0x500000 0x80000 1 f.cask || (beyond a 0x500010 4 10 0 && a / 4 % 2 == 1 && f.cask == 1)
    || beyond a 0x600000 0x80000 1 (bit f.twin) || beyond a 0x780A00 4 16 f.cores

/-- The row of the map at a, when a register stands there that is not absent. -/
def State.regAt (s : State) (a : Nat) : Option RegDesc := if s.sys.fuses.absent a then none else regFind a

/-! ## What a write may do -/

/-- The word as the register takes it: bits that always read 1 or 0 (R192, R431). -/
def normWord (d : RegDesc) (a : Nat) (v : Word) : Word :=
  if d.base = R.ETH_PREEMPT.reg 0 then v ||| 0xC000#32
  else if d.base = R.PERF_EVSEL.reg 0 ∧ a / 4 % 2 = 0 then v &&& ~~~ 0x400#32
  else v

/-- A write that names a reserved encoding and is discarded whole (R61, R155). (DEDUCED, log entry 65.) -/
def reservedWord (d : RegDesc) (v : Word) : Bool :=
  let f := fun lo w => fieldGet lo w v
  if d.base = R.SYS_GRID.reg then f 0 2 == 3 || f 4 3 == 0 || Nat.blt 5 (f 4 3) || f 8 6 == 0 || Nat.blt 32 (f 8 6)
  else if d.base = R.XIO_GRP_CFG.reg 0 then f 1 2 == 3 || f 8 2 == 3 || f 10 2 == 3
  else false

/-- A field whose write is refused (R15): ST, changed, while the data plane runs; a reserved encoding of CASK_LINE_W0.writer. -/
def stRefused (s : State) (d : RegDesc) (a : Nat) (v : Word) (f : FieldDesc) : Bool :=
  f.kind == .st && ((s.sys.dataPlane && fieldGet f.lo f.w v != s.get ⟨a, f.lo, f.w⟩)
    || (d.base == R.CASK_LINE_W0.reg 0 && f.lo == 30 && fieldGet 30 2 v == 3))

/-- Every field the fields' types let a write store is stored; LV fields wait when `later`; the boot engine sets both copies of SH
fields (R15, R382). -/
def writeFields (s : State) (d : RegDesc) (a : Nat) (v : Word) (boot later : Bool) : State :=
  let s0 := s
  d.fields.foldl (fun s f =>
    let n := fieldGet f.lo f.w v
    match f.kind with
    | .rw => s.put ⟨a, f.lo, f.w⟩ n
    | .lv => if later then s else s.put ⟨a, f.lo, f.w⟩ n
    | .sh =>
      let s := s.setShReg a (fieldPut f.lo f.w (s.shReg a) n)
      if boot then s.put ⟨a, f.lo, f.w⟩ n else s
    | .st => if stRefused s0 d a v f then s else s.put ⟨a, f.lo, f.w⟩ n
    | .w1c => s.setReg a (s.reg a &&& ~~~ (v &&& fieldMask f.lo f.w))
    | _ => s) s

/-- The interrupt source whose flags stand in a W1C register (R369). -/
def sourceOf (d : RegDesc) (a : Nat) : Option Nat :=
  let b := d.base
  if b = R.HIF_COMMIT_DONE.reg then some 2
  else if b = R.SYS_CFG_REJECT.reg then some 3
  else if b = R.CORE_MBOX_STAT.reg 0 then some (4 + (a - 0x300000) / 0x10000)
  else if b = R.SYS_STATE.reg then some 21
  else if b = R.KILN_EVT.reg then some 22
  else if b = R.TWIN_EVT.reg then some 23
  else if b = R.ETH_PSTAT.reg 0 then some 25
  else if b = R.PWM_CH_STAT.reg 0 then some 27
  else if b = R.PERF_DUMP_STAT.reg then some 28
  else if b = R.PWRA_STAT.reg then some 29
  else if b = R.FAB_DECERR_INFO.reg ∨ b = R.FAB_LOCK_STAT.reg then some 30
  else if b = R.HIF_STAT.reg then some 31
  else none

/-- A write that has cleared a flag of a source makes its level count as a new rise (R370). -/
def rearm (old s : State) (d : RegDesc) (a : Nat) : State :=
  match sourceOf d a with
  | none => s
  | some i => if (old.reg a &&& ~~~ s.reg a) = 0 then s else { s with irq := { s.irq with rearm := s.irq.rearm ||| BitVec.ofNat 32 (2 ^ i) } }

/-! ## Actions of the system block -/

/-- SYS_TIME_CAP.capture (R62); it reads 1 for a cycle of CLK_PER. -/
def timeCapture (s : State) : State :=
  if s.flag R.SYS_TIME_CAP.capture then s else
  let s := s.mark R.SYS_TIME_CAP.capture
  let sec := s.nt / 1000000000
  let s := s.put R.SYS_TIME_CAP.unlocked (bit (!s.flag R.KILN_STAT.lock))
  let s := (s.put R.SYS_CAP_SEC_LO.sec_lo sec).put R.SYS_CAP_SEC_HI.sec_hi (sec / 2 ^ 32)
  let s := (s.put R.SYS_CAP_NS.ns (s.nt % 1000000000)).put R.SYS_CAP_FRAC.frac s.frac
  let s := (s.put R.SYS_CAP_PN_LO.pn_lo s.pn).put R.SYS_CAP_PN_HI.pn_hi (s.pn / 2 ^ 32)
  s.put R.SYS_CAP_OFS.ofs (s.sys.et % s.perVco / 4)

/-- Something falls due at the second boundary from now (R464). (DEDUCED, log entry 86.) -/
def State.later (s : State) (x : Action) : State := { s with sys := { s.sys with sched := s.sys.sched ++ [(2, x)] } }

/-- SYS_STBY.enter (R385). -/
def trigStandby (s : State) (v : Word) : State :=
  if v.getLsbD 0 && s.sys.state.isRun && !s.flag R.SYS_STBY.enter then (s.later .standbyEnter).mark R.SYS_STBY.enter else s

/-- FLT_SAFE.release (R403). -/
def trigRelease (s : State) (v : Word) : State :=
  if !v.getLsbD 8 || s.flag R.FLT_SAFE.release then s
  else if s.sys.state == .safe && s.image then (s.later .safeRelease).mark R.FLT_SAFE.release
  else s.mark R.FLT_SAFE.release_err

/-- TWIN_CFG with twin_en = 0: the twin is off (R287). -/
def twinCfgWritten (s : State) : State := if s.flag R.TWIN_CFG.twin_en then s else s.put R.TWIN_STAT.state 0

/-- TWIN_CMD (R307): rejoin re-arms; yield falls due at the second boundary from now. -/
def trigTwinCmd (s : State) (v : Word) : State :=
  let s := if v.getLsbD 0 && (s.twinState == 1 || s.twinState == 6) then
      ({ s with twin := { s.twin with armed := true } }).mark R.TWIN_CMD.rejoin
    else s
  if v.getLsbD 1 && !s.flag R.TWIN_CMD.yield then (s.later .twinYield).mark R.TWIN_CMD.yield else s

/-- MASH_STAT.clip_any follows MASH_CLIP (R74). -/
def clipAny (s : State) : State :=
  s.put R.MASH_STAT.clip_any (bit ((s.listed 0x104000 4 225).any (fun i => s.reg (R.MASH_CLIP.reg i) != 0)))

/-- FAB_DECERR_INFO with valid cleared: the log starts afresh (R339). -/
def decodeLogCleared (s : State) : State := if s.flag R.FAB_DECERR_INFO.valid then s else s.put R.FAB_DECERR_INFO.count 0

/-! ## What a write does besides storing -/

/-- Which instance of its table the register at a is. -/
def RegDesc.at_ (d : RegDesc) (a stride n : Nat) : Nat := (a - d.base) / stride % n

/-- The actions and consequences of a write of v to the register at a; `old` is the state before it, `clear` the outcome of a bus clear
where the command gives it. -/
def writeHook (old s : State) (d : RegDesc) (a : Nat) (v : Word) (clear : Option Bool) : State :=
  let b := d.base
  let c := Fin.ofNat 16 (d.at_ a 0x10000 16)
  if b < 0x10000 then
    if b = R.SYS_TIME_CAP.reg then (if v.getLsbD 0 then timeCapture s else s)
    else if b = R.SYS_STBY.reg then trigStandby s v
    else s
  else if b < 0x20000 then
    if b = R.KILN_SLEW_MAX.reg then slewWritten (old.get R.KILN_SLEW_MAX.slew) s
    else if b = R.KILN_DRIFT_MAX.reg then driftWritten (old.get R.KILN_DRIFT_MAX.drift) s
    else if b = R.KILN_XCHECK.reg ∨ b = R.KILN_WANDER.reg then watchRefs s
    else if b = R.KILN_FREF_NOM.reg then refReset s 12
    else if b = R.KILN_PHASE_STEP_LO.reg then { s with kiln := { s.kiln with stepLo := v } }
    else if b = R.KILN_PHASE_STEP_HI.reg then trigPhaseStep s v
    else if b = R.KILN_ALIGN.reg then trigAlign s v
    else if b = R.KILN_REF_CFG.reg 0 then refCfgWritten (old.reg a) (d.at_ a 16 14) s
    else if b = R.KILN_REF_LIM.reg 0 ∨ b = R.KILN_REF_HOLD.reg 0 then refReset s (d.at_ a 16 14)
    else s
  else if b < 0x40000 then
    let k := Fin.ofNat 2 (d.at_ a 256 2)
    if b = R.PTP_CTRL.reg then logWritten old s
    else if b = R.PTP_DOM_CFG.reg 0 then domCfgWritten old s k
    else if b = R.PTP_DOM_PORTS.reg 0 then domPortsWritten old s k
    else if b = R.PTP_DOM_PARENT_PORT.reg 0 then parentWritten s k
    else if b = R.PTP_DOM_CMD.reg 0 then trigServo s k v
    else s
  else if b < 0x100000 then
    if b = R.ETH_FDB_CMD.reg then trigFdb s v else s
  else if b < 0x300000 then
    if b = R.MASH_CLIP.reg 0 then clipAny s else s
  else if b < 0x400000 then
    if b = R.CORE_CTRL.reg 0 then trigCoreCtrl s c v
    else if b = R.CORE_DBG_DATA.reg 0 then debugWrite s c v
    else if b = R.CORE_RUN.reg 0 then trigCoreRun s c v
    else if b = R.CORE_MBOX_IN.reg 0 0 then trigMboxIn s c ((a - d.base) % 0x10000 / 4) v
    else s
  else if b < 0x600000 then
    if b = R.XIO_DOM.reg 0 then domWritten (old.reg a) s (d.at_ a 4 2)
    else if b = R.PWM_CH_CMD.reg 0 then trigPwmClear s (Fin.ofNat 24 (d.at_ a 16 24)) v
    else if b = R.FAB_DECERR_INFO.reg then decodeLogCleared s
    else s
  else if b < 0x700000 then
    if b = R.TWIN_CFG.reg then twinCfgWritten s
    else if b = R.TWIN_CMD.reg then trigTwinCmd s v
    else if b = R.FLT_POP.reg then trigFltPop s v
    else if b = R.FLT_SAFE.reg then trigRelease s v
    else if b = R.FLT_WDOG.reg then trigWdog s v
    else if b = R.FLT_WDOG_KICK.reg then trigKick s v
    else if b = R.FLT_MGP.reg then trigMgpRestart s v
    else s
  else if b < 0x780000 then
    let k := Fin.ofNat 2 (d.at_ a 0x4000 2)
    if b = R.TWC_CFG.reg 0 then twcCfgWritten s k v clear
    else if b = R.TWC_CMD.reg 0 then trigTwc s k v
    else s
  else if b < 0x800000 then
    if b = R.PERF_CTRL.reg then trigPerf s v
    else if b = R.PERF_BW_CFG.reg 0 then bwWritten s (d.at_ a 16 28)
    else if b = R.PERF_TAG_CFG.reg 0 then tagWritten old s (Fin.ofNat 16 (d.at_ a 4 16))
    else if b = R.PERF_DUMP_CTL.reg then dumpWritten old s
    else s
  else if b = R.MGP_MB_POP.reg then trigMbPop s v
  else if b = R.MGP_MB_GO.reg then trigMbGo s v
  else s

/-- A register whose write is all action: it stores nothing by the fields' types. -/
def specialWrite (s : State) (d : RegDesc) (a : Nat) (v : Word) (boot : Bool) (flStatus : Option Word) : Option State :=
  if d.base = R.CORE_PWIN.reg 0 0 then
    some (trigPwin s (Fin.ofNat 16 (d.at_ a 0x10000 16)) ((a - d.base) % 0x10000 / 4) v boot)
  else if d.base = R.MGP_MB_IN.reg 0 then some (trigMbIn s a v)
  else if d.base = R.BOOT_FL_CMD.reg then some (trigFlash s v flStatus)
  else none

/-! ## The agreed writes of twin operation (R296, R297) -/

/-- A write of v to this register is an agreed write. -/
def agreedWrite (d : RegDesc) (v : Word) : Bool :=
  let b := d.base
  d.fields.any (fun f => f.kind == .sh || f.kind == .lv) || b == R.HIF_COMMIT.reg 0 || b == R.CORE_RUN.reg 0
    || b == R.PWM_CH_CMD.reg 0 || b == R.KILN_PHASE_STEP_LO.reg || b == R.KILN_PHASE_STEP_HI.reg || b == R.KILN_ALIGN.reg
    || (b == R.TWIN_CMD.reg && v.getLsbD 1)

/-- A secondary in sync and a twin in transfer or check discard agreed writes. -/
def State.dropsAgreed (s : State) : Bool :=
  s.twinMode && ((s.twinState == 5 && s.secondary) || s.twinState == 3 || s.twinState == 4)

/-- The leader forwards agreed writes. -/
def State.forwards (s : State) : Bool := s.twinMode && s.leads && s.peerJoined

/-- An agreed write, journalled under seq, is forwarded, or acknowledged at once. (DEDUCED, log entry 44.) -/
def forwardWrite (s : State) (a : Nat) (v : Word) (target seq : Nat) : State :=
  if !s.twinMode then s
  else if s.forwards then
    let s := twinSend s s.pn (.control seq a v target)
    { s with twin := { s.twin with fwd := s.twin.fwd ++ [⟨seq, s.pn⟩] } }
  else s.put R.TWIN_JACK.seq seq

/-! ## The write (R15, R352, R353, R366, R367) -/

/-- A route takes writes: an external one as HIF_CTRL enables it. (DEDUCED, log entry 61.) -/
def State.routeOn (s : State) : Route → Bool
  | .pcie => s.flag R.HIF_CTRL.pcie_en
  | .twt => s.flag R.HIF_CTRL.twt_en
  | .inband => s.flag R.HIF_CTRL.ib_en
  | _ => true

/-- A refusal under R15: recorded, counted and raised; one of the boot engine's writes is R382's fault instead. (DEDUCED, log entry 63.) -/
def refuseWrite (s : State) (route : Route) (a : Nat) : State :=
  if route = .boot then s.raise 1 0xD 1 a
  else
    let s := s.setReg R.SYS_CFG_REJECT.reg (BitVec.ofNat 32 (a + routeCode route * 2 ^ 25 + 2 ^ 31))
    (s.bump R.SYS_CFG_REJECT_CNT.count).raise 1 0 1 a

/-- The fields of a register are stored and its actions done; whether part of it was refused, and whether anything but that part was
there to write. -/
def storeWrite (s : State) (route : Route) (d : RegDesc) (a : Nat) (v : Word) (later : Bool) (flStatus : Option Word)
    (clear : Option Bool) :
    Bool × Bool × State :=
  let v := normWord d a v
  if reservedWord d v then (true, false, refuseWrite s route a)
  else
    let bad := d.fields.any (stRefused s d a v)
    let rest := d.fields.any (fun f => f.kind != .ro && f.kind != .st)
    let s1 := match specialWrite s d a v (route == .boot) flStatus with
      | some t => t
      | none =>
        let t := writeFields s d a v (route == .boot) later
        writeHook s (rearm s t d a) d a v clear
    (bad, rest, if bad then refuseWrite s1 route a else s1)

/-- A write of v to the register at a by a route (R351: the aligned word). The status is R361's: 0 accepted, 1 a part refused, 2
discarded under R296, 3 discarded under R353. `tag`: what the twin link says of a forwarded write; `flStatus`, `clear`: what the
flash, a two-wire bus, answers, where the command gives it. -/
def regWriteAs (route : Route) (addr : Nat) (v : Word) (tag : Option FwdTag) (flStatus : Option Word) (clear : Option Bool)
    (s : State) : Nat × State :=
  let a := addr / 4 * 4
  if s.sys.state = .reset then (0, s)
  else if !s.routeOn route then (3, s)
  else match s.regAt a with
    | none => (0, if route = .boot ∧ 0x2000000 ≤ a then s.raise 1 0xD 1 a else s)
    | some d =>
      if d.fields.all (fun f => f.kind == .ro) then (0, s)
      else
        let agreed := agreedWrite d v
        if agreed && s.dropsAgreed && route != .twin && route != .boot then (2, s.bump R.TWIN_NONLEAD_DROP.count)
        else if d.base = R.HIF_CTRL.reg ∧ fieldGet 0 3 v = 0 ∧ route ≠ .boot then (3, s)
        else if d.base = R.SYS_RESET.reg then
          if fieldGet 16 16 v = 0xA5C3 then
            let r := engineReset s 3
            (0, { r with boot := { r.boot with forced := fieldGet 0 2 v } })
          else (0, journalWrite s route 0 a v 0 s.pn tag)
        else if d.base = R.HIF_COMMIT.reg 0 then
          let g := Fin.ofNat 32 (d.at_ a 16 32)
          let seq := s.hif.jseq
          match commitWrite s g v tag with
          | (.refused, t) => (0, t)
          | (.cancelled, t) => (0, forwardWrite (journalWrite t route 2 a v 0 s.pn tag) a v 0 seq)
          | (.committed x, t) =>
            let w := BitVec.ofNat 32 (t.get (R.HIF_COMMIT_STAT.seq g.val))
            (0, forwardWrite (journalWrite t route 1 a w (x % 2 ^ 32) s.pn tag) a v x seq)
        else
          let later := (agreed && s.forwards) || route == .twin
          let (bad, rest, t) := storeWrite s route d a v later flStatus clear
          if route = .boot then (bit bad, t)
          else
            let t := if later && d.fields.any (fun f => f.kind == .lv) then
                let p := match tag with | some x => x.p | none => s.pn
                { t with twin := { t.twin with lv := t.twin.lv ++ [(p, a, v)] } }
              else t
            let seq := t.hif.jseq
            let t := if bad && !rest then t else journalWrite t route 0 a v 0 s.pn tag
            (bit bad, if agreed && route != .twin then forwardWrite t a v 0 seq else t)

/-- A register write of the world outside. -/
def regWrite (route : Route) (addr : Nat) (v : Word) (s : State) : State := (regWriteAs route addr v none none none s).2

/-- The agreed writes to LV fields that have waited for the pass of period p + 2 come into force (R297). -/
def lvBoundary (s : State) : State :=
  let due := s.twin.lv.filter (fun x => Nat.ble (x.1 + 2) s.pn)
  if due.isEmpty then s
  else
    let s := { s with twin := { s.twin with lv := s.twin.lv.filter (fun x => Nat.blt s.pn (x.1 + 2)) } }
    due.foldl (fun s (_, a, v) =>
      match regFind a with
      | none => s
      | some d => d.fields.foldl (fun s f => if f.kind = .lv then s.put ⟨a, f.lo, f.w⟩ (fieldGet f.lo f.w v) else s) s) s

/-! ## The read -/

/-- The word a register shows: the shadow copy of SH fields, the value in force of the others (R15). -/
def shownWord (s : State) (d : RegDesc) (a : Nat) : Word :=
  d.fields.foldl (fun w f => if f.kind = .sh then fieldPut f.lo f.w w (fieldGet f.lo f.w (s.shReg a)) else w) (s.reg a)

/-- FLT_STAT (R391). -/
def fltStat (s : State) : Word :=
  BitVec.ofNat 32 (s.flt.queue.length + (s.flt.queue.filter (·.cls == 3)).length * 2 ^ 8 + bit s.flt.safeRamp * 2 ^ 15)

/-- TWIN_STAT: what the strap, the service state and the last agreement frame make of it; TWIN_ACT under R288. (DESIGN CHOICE, log entry 81.) -/
def twinStat (s : State) : Word :=
  let link := match s.twin.peer with | some (_, _, b) => Nat.ble (s.sys.bnd - b) 3 | none => false
  let w := fieldPut 0 1 (s.reg R.TWIN_STAT.reg) (bit s.secondary)
  let w := fieldPut 5 1 (fieldPut 4 1 w (bit (s.twinMode && s.leads))) (bit link)
  fieldPut 7 1 w (bit (s.inService && s.sys.state == .runLocked))

/-- Registers that show what is held elsewhere. -/
def computedWord (s : State) (d : RegDesc) (a : Nat) : Option Word :=
  let b := d.base
  let c := Fin.ofNat 16 (d.at_ a 0x10000 16)
  if b < 0x40000 then
    if b = R.SYS_IDENT.reg then some s.sys.fuses.ident
    else if b = R.SYS_FUSE.reg then some s.sys.fuses.word
    else if b = R.SYS_STATE.reg then some (fieldPut 0 3 (s.reg a) s.sys.state.code)
    else if b = R.SYS_STRAP.reg then
      let x := s.sys.straps
      some (BitVec.ofNat 32 (bit x.bootFlash + 2 * x.twtAddr.val + 8 * x.ctrlPort.val + 64 * bit x.twinRole))
    else if b = R.KILN_STAT.reg then some (fieldPut 14 1 (s.reg a) (bit (s.pend != 0)))
    else if b = R.KILN_FREQ.reg then some (BitVec.ofInt 32 s.kilnFreq)
    else if b = R.KILN_HO_FREQ.reg then some (BitVec.ofInt 32 (satS 32 s.hoMean))
    else if b = R.SYS_GRID.reg then some (fieldPut 16 6 (s.reg a) (s.get R.SYS_GRID.d_in + 2 + bit s.twinMode))
    else if b = R.PTP_DOM_CFG.reg 0 then some (fieldPut 12 1 (s.reg a) (bit (s.domP2p (d.at_ a 256 2))))
    else none
  else if b < 0x600000 then
    if b = R.CORE_CTRL.reg 0 then some (s.reg a ||| ctrlBits (s.core c))
    else if b = R.CORE_STAT.reg 0 then some (coreStat (s.core c))
    else if b = R.CORE_PC.reg 0 then some ((s.core c).pc &&& 0xFFFF#32)
    else if b = R.CORE_DBG_DATA.reg 0 then some (debugRead s c)
    else if b = R.CORE_PWIN.reg 0 0 then some (pwinRead s c.val ((a - d.base) % 0x10000 / 4))
    else none
  else if b < 0x800000 then
    if b = R.TWIN_STAT.reg then some (twinStat s)
    else if b = R.FLT_STAT.reg then some (fltStat s)
    else if b = R.TWC_STAT.reg 0 then
      some (fieldPut 0 1 (s.reg a) (bit (s.twcDue (Fin.ofNat 2 (d.at_ a 0x4000 2)))))
    else if b = R.TWT_STAT.reg then some (fieldPut 0 7 (s.reg a) (0x48 + s.sys.straps.twtAddr.val))
    else none
  else
    if b = R.HIF_INT_SRC.reg then some (intWord s)
    else if b = R.HIF_COMMIT_STAT.reg 0 then
      let g := s.group (Fin.ofNat 32 (d.at_ a 16 32))
      some (fieldPut 17 1 (fieldPut 16 1 (s.reg a) (bit g.openC.isSome)) (bit g.fixed.isSome))
    else if b = R.HIF_JRNL_SEQ.reg then some (BitVec.ofNat 32 s.hif.jseq)
    else if b = R.HIF_JRNL.reg 0 0 then some (journalRead s ((a - b) / 32) ((a - b) % 32 / 4))
    else if b = R.MSIX_PBA.reg then some s.irq.pba
    else if b = R.MGP_MB_STAT.reg then some (mbStat s)
    else if b = R.MGP_MB_OUT.reg 0 then some (mbOutWord s (d.at_ a 4 8))
    else none

/-- PTP_DOM_OFS_LO(d) read: HI is latched (R245). -/
def ofsRead (s : State) (k : Fin 2) : Word × State :=
  let e := s.ptp.dom[k].eLast
  (BitVec.ofInt 32 e, s.setPdom k { s.pdom k with ofsHi := BitVec.ofInt 32 (e / 2 ^ 32) })

/-- KILN_PEND_LO read: HI is latched (R274). -/
def pendRead (s : State) : Word × State :=
  (BitVec.ofInt 32 s.pend, { s with kiln := { s.kiln with pendHi := BitVec.ofInt 32 (s.pend / 2 ^ 32) } })

/-- TWIN_DIG_LO read: HI is latched. -/
def digRead (s : State) : Word × State :=
  (s.reg R.TWIN_DIG_LO.reg, { s with twin := { s.twin with digHi := s.reg R.TWIN_DIG_HI.reg } })

/-- CASK_ECC_ADDR_LO read: HI is latched (R320). -/
def eccRead (s : State) : Word × State :=
  (s.reg R.CASK_ECC_ADDR_LO.reg, { s with cask := { s.cask with eccHi := s.reg R.CASK_ECC_ADDR_HI.reg } })

/-- FLT_MEM_ADDR_LO read: HI is latched (R407). -/
def memAddrRead (s : State) : Word × State :=
  (s.reg R.FLT_MEM_ADDR_LO.reg, { s with flt := { s.flt with memHi := s.reg R.FLT_MEM_ADDR_HI.reg } })

/-- Reads that latch, or show what was latched. -/
def latchRead (s : State) (d : RegDesc) (a : Nat) : Option (Word × State) :=
  let b := d.base
  let k := Fin.ofNat 2 (d.at_ a 256 2)
  if b = R.PTP_DOM_OFS_LO.reg 0 then some (ofsRead s k)
  else if b = R.PTP_DOM_OFS_HI.reg 0 then some ((s.pdom k).ofsHi, s)
  else if b = R.KILN_PEND_LO.reg then some (pendRead s)
  else if b = R.KILN_PEND_HI.reg then some (s.kiln.pendHi, s)
  else if b = R.TWIN_DIG_LO.reg then some (digRead s)
  else if b = R.TWIN_DIG_HI.reg then some (s.twin.digHi, s)
  else if b = R.CASK_ECC_ADDR_LO.reg then some (eccRead s)
  else if b = R.CASK_ECC_ADDR_HI.reg then some (s.cask.eccHi, s)
  else if b = R.FLT_MEM_ADDR_LO.reg then some (memAddrRead s)
  else if b = R.FLT_MEM_ADDR_HI.reg then some (s.flt.memHi, s)
  else if b = R.PERF_CNT.reg 0 then some (perfCntRead s (d.at_ a 4 128))
  else none

/-- A read of the register at a (R351): the aligned word; zero where no register stands (R5). -/
def regRead (s : State) (addr : Nat) : Word × State :=
  let a := addr / 4 * 4
  match s.regAt a with
  | none => (0, s)
  | some d => match latchRead s d a with
    | some r => r
    | none => match computedWord s d a with
      | some w => (w, s)
      | none => (shownWord s d a, s)

/-! ## The read commands -/

/-- A read that puts out its word. -/
def readCmd (f : State → Word × State) (s : State) : Host.Outcome State Fault Refusal :=
  Cmd.run (fun s => let (w, s) := f s; s.emit (.word w)) s

/-- PTP_DOM_OFS_READ. -/
def execPtpDomOfsRead (d : Fin 2) (s : State) : Host.Outcome State Fault Refusal := readCmd (fun s => ofsRead s d) s
/-- KILN_PEND_READ. -/
def execKilnPendRead (s : State) : Host.Outcome State Fault Refusal := readCmd pendRead s
/-- TWIN_DIG_READ. -/
def execTwinDigRead (s : State) : Host.Outcome State Fault Refusal := readCmd digRead s
/-- CASK_ECC_ADDR_READ. -/
def execCaskEccAddrRead (s : State) : Host.Outcome State Fault Refusal := readCmd eccRead s
/-- FLT_MEM_ADDR_READ. -/
def execFltMemAddrRead (s : State) : Host.Outcome State Fault Refusal := readCmd memAddrRead s

end Sys2Proof.Machine
end

