-- ==== Sys2Proof/Machine/Boot.lean ====
section
/-!
DEFINITION. The start of the engine (R372 to R383), the wake events, and what the outside does to the system block: the ageing of
queued entries (R56), the die temperature (R454), the PCIe link (R354).
-/
namespace Sys2Proof.Machine

/-! ## Images (R376, R379) -/

/-- The number that the n flash bytes from offset o of slot b spell, little-endian. -/
def State.slotNat (s : State) (b : Bool) (o n : Nat) : Nat := leNat (s.flashBytes (s.slotBase b + o) n)

/-- The header's magic, format and hcrc are right. -/
def headerOk (s : State) (b : Bool) : Bool :=
  s.flashBytes (s.slotBase b) 4 == [0x45#8, 0x4C#8, 0x56#8, 0x41#8] && s.slotNat b 4 2 == 1
    && s.slotNat b 60 4 == (crc32c (s.flashBytes (s.slotBase b) 60)).toNat

/-- The generation of the image in slot b. -/
def slotGen (s : State) (b : Bool) : Nat := s.slotNat b 12 4

/-- The section table of slot b. -/
def slotSections (s : State) (b : Bool) : List Section :=
  (List.range (s.slotNat b 6 2)).map fun i =>
    let o := 64 + 32 * i
    ⟨s.slotNat b o 1, s.slotNat b (o + 4) 4, s.slotNat b (o + 8) 4, s.slotNat b (o + 12) 5, s.slotNat b (o + 28) 4⟩

/-- The count is one that R376 allows, and the table's CRC is right. -/
def tableOk (s : State) (b : Bool) : Bool :=
  let n := s.slotNat b 6 2
  Nat.ble 1 n && Nat.ble n 4096
    && s.slotNat b (64 + 32 * n) 4 == (crc32c (s.flashBytes (s.slotBase b + 64) (32 * n))).toNat

/-- Every section lies within length, and length within the slot. -/
def spanOk (s : State) (b : Bool) : Bool :=
  let len := s.slotNat b 16 4
  Nat.ble len (s.boot.flashSize / 2) && (slotSections s b).all (fun x => Nat.ble (x.offset + x.size) len)

/-- Every scrc is right. -/
def sectionsOk (s : State) (b : Bool) : Bool :=
  (slotSections s b).all (fun x => x.scrc == (crc32c (s.flashBytes (s.slotBase b + x.offset) x.size)).toNat)

/-- The signature table of R379. -/
def signatureOk (s : State) (b good : Bool) : Bool :=
  let signed := s.slotNat b 10 2 % 2 == 1
  if s.sys.fuses.variant.val = 10 then signed && s.sys.fuses.keyHash && good
  else !signed || !s.sys.fuses.keyHash || good

/-- The result of the checks of slot b, as BOOT_STAT encodes it. (DEDUCED, log entry 75.) -/
def slotResult (s : State) (b good : Bool) : Nat :=
  if !headerOk s b || !tableOk s b || !spanOk s b then 2
  else if s.slotNat b 8 2 / 2 ^ s.sys.fuses.variant.val % 2 = 0 then 3
  else if !sectionsOk s b then 4
  else if !signatureOk s b good then 5
  else 1

/-- The res field of slot b. -/
def resLoc (b : Bool) : Loc := if b then R.BOOT_STAT.res_b else R.BOOT_STAT.res_a

/-! ## Reset release and the choice of the slot (R372, R380) -/

/-- The slots in the order of R380: the newer generation first; a forced slot before the other. -/
def slotOrder (s : State) : List Bool :=
  match s.boot.forced with
  | 1 => [false, true]
  | 2 => [true, false]
  | _ => if headerOk s true && (!headerOk s false || newer (slotGen s true) (slotGen s false) 32) then [true, false] else [false, true]

/-- A slot that has failed, or whose header is bad, is not tried. -/
def slotTried (s : State) (b : Bool) : Bool := let r := s.get (resLoc b); !(Nat.ble 2 r && Nat.ble r 6) && headerOk s b

/-- The boot engine's first look at a slot: a bad header is reported. -/
def slotLook (s : State) (b : Bool) : State := if s.get (resLoc b) = 0 && !headerOk s b then s.put (resLoc b) 2 else s

/-- RESET_RELEASE. Every field stands at its reset value then, SYS_STATE.changed at 0 (R13); the 784-ball
package has no CTRL_PORT2 or TWIN_ROLE ball (R443). -/
def execResetRelease (bootFlash : Bool) (twtAddr : Fin 4) (ctrlPort : Fin 8) (twinRole sfdpOk clear0 clear1 : Bool) (s : State) :
    Host.Outcome State Fault Refusal :=
  Cmd.run (fun s =>
    if s.sys.state ≠ .reset then s
    else
      let f := s.sys.fuses
      let port := if f.pkg1156 then ctrlPort else Fin.ofNat 8 (ctrlPort.val % 4)
      let s := { s with sys := { s.sys with straps := ⟨bootFlash, twtAddr, port, twinRole && f.pkg1156⟩, et := 0 } }
      let s := s.put R.HIF_IB_CFG.ports (if port.val < f.ports then 2 ^ port.val else 0)
      let s := s.put R.HIF_IB_STAT.key_ok (bit f.ibKey)
      let s := s.put R.BOOT_STAT.slow_flash (bit (!sfdpOk))
      let s := busClear (busClear s 0 clear0) 1 clear1
      let s := slotLook (slotLook s false) true
      let cand := (slotOrder s).filter (slotTried s)
      { s with boot := { s.boot with cand := cand, slot := cand.headD false, forced := 0 }, sys := { s.sys with state := .load } }) s

/-- LOAD_COMPLETE: the slot has been read. -/
def execLoadComplete (s : State) : Host.Outcome State Fault Refusal :=
  Cmd.run (fun s => if s.sys.state = .load then s.enter .check else s) s

/-- CHECK_COMPLETE: a valid image goes on to PREPARE, an invalid one to LOAD of the other slot, or to SAFE. -/
def execCheckComplete (keyGood sigGood : Bool) (s : State) : Host.Outcome State Fault Refusal :=
  Cmd.run (fun s =>
    if s.sys.state ≠ .check then s
    else match s.boot.cand with
      | [] => pwmOn (s.enter .safe)
      | b :: t =>
        let r := slotResult s b (keyGood && sigGood)
        let s := s.put (resLoc b) r
        if r = 1 then
          ({ s with boot := { s.boot with slot := b, sections := slotSections s b, checked := false, waking := false } }).enter .prepare
        else match t with
          | [] => pwmOn (({ s with boot := { s.boot with cand := [] } }).enter .safe)
          | o :: _ => ({ s with boot := { s.boot with cand := t, slot := o } }).enter .load) s

/-! ## PREPARE (R381 to R383) -/

/-- The pairs of a register list. -/
def listPairs : List Byte → List (Nat × Word)
  | a0 :: a1 :: a2 :: a3 :: v0 :: v1 :: v2 :: v3 :: t => (leNat [a0, a1, a2, a3], leWord [v0, v1, v2, v3]) :: listPairs t
  | _ => []

/-- The words of a register block from address a up. -/
def blockPairs : Nat → List Byte → List (Nat × Word)
  | a, v0 :: v1 :: v2 :: v3 :: t => (a, leWord [v0, v1, v2, v3]) :: blockPairs (a + 4) t
  | _, _ => []

/-- The boot engine's register writes. (DEDUCED, log entry 64.) -/
def bootWrites (s : State) (l : List (Nat × Word)) : State := l.foldl (fun s (a, v) => (regWriteAs .boot a v none none none s).2) s

/-- A piece of a fabric section within one line, written, or undecoded (R339, R382). -/
def bootLine (bs : List Byte) (base : Nat) (s : State) (p : Nat × Nat) : State :=
  match fabTarget s p.1 with
  | none => if absentTun s p.1 then s else (decodeError s (masterOf 40) true p.1).raise 1 0xD 1 p.1
  | some _ => (beatRun s 40 (.write (BitVec.ofNat 40 p.1) (((bs.drop (p.1 - base)).take p.2).map some))).2

/-- A fabric section: a Cask section that meets an undecoded address is not written at all (R377). -/
def bootFabric (s : State) (a : Nat) (bs : List Byte) : State :=
  let l := lineSplit (bs.length / 64 + 2) a bs.length
  match if caskBase ≤ a then l.find? (fun p => (fabTarget s p.1).isNone) else none with
  | some p => s.raise 1 0xD 1 p.1
  | none => l.foldl (bootLine bs a) s

/-- The boot engine waits before a fabric section: for Cask (R382), or while its allowance has passed (R346). -/
def bootWaits (s : State) (x : Section) : Bool :=
  x.kind == 3 && (s.powerHeld 40 || (Nat.ble caskBase x.target && (s.caskPending 0 || s.caskPending 1)))

/-- A fabric section next in turn is work for the boot engine's consumer (R345). -/
def bootRequest (s : State) : State :=
  match s.boot.sections with
  | x :: _ => if x.kind = 3 then s.powerWork 40 else s
  | [] => s

/-- A section is applied. -/
def applySection (s : State) (x : Section) : State :=
  let at_ := s.slotBase s.boot.slot + x.offset
  let bs := s.flashBytes at_ x.size
  match x.kind with
  | 1 => bootWrites s (listPairs bs)
  | 2 => bootWrites s (blockPairs (x.target % 2 ^ 32) bs)
  | 3 => bootFabric s x.target bs
  | 4 => { s with boot := { s.boot with mgpFirmware := s.boot.mgpFirmware ++ [(at_, x.size)] } }
  | _ => s

/-- The image counts as loaded: the MGP starts, links may come up, early master clocks start (R156, R383); the gate lists and stream
entries that the image has set come into force. -/
def imageLoaded (s : State) : State :=
  let b := s.boot.slot
  let s := (s.mark R.SYS_STATE.image).put R.SYS_STATE.slot (bit b)
  let s := (s.setReg R.BOOT_IMG_GEN.reg (BitVec.ofNat 32 (slotGen s b))).setReg R.BOOT_IMG_HCRC.reg (BitVec.ofNat 32 (s.slotNat b 60 4))
  let blank := { s with regs := [] }
  strCommit blank (gateCommit blank (xioEarly (mgpStart s)))

/-- PREPARE_SECTION. -/
def execPrepareSection (crcOk : Bool) (s : State) : Host.Outcome State Fault Refusal :=
  Cmd.run (fun s =>
    match s.boot.sections with
    | [] => s
    | x :: t =>
      if s.sys.state ≠ .prepare then s
      else if !crcOk then engineReset ((s.put (resLoc s.boot.slot) 6).mark R.BOOT_STAT.reload_crc) 5
      else if bootWaits s x then s
      else
        let s := applySection s x
        if s.sys.state = .reset then s
        else
          let s := { s with boot := { s.boot with sections := t } }
          if t.isEmpty then imageLoaded s else s) s

/-! ## Wake and ageing -/

/-- WAKE_N_EVENT (R386). -/
def execWakeNEvent (s : State) : Host.Outcome State Fault Refusal := Cmd.run (fun s => wakeUp s 3) s

/-- Entry e stands in a ring of n entries between its consumer's and its producer's index. -/
def inRing (n sidx eidx e : Nat) : Bool := n != 0 && Nat.blt ((e + n - sidx) % n) ((eidx + n - sidx) % n)

/-- An entry of a ring of n entries that was queued at x.2 is marked when it is old, by a beat of activity act that sets bit k of the byte at
`byte` of it; one that is young, or whose beat is held, stays among the unmarked. (DEDUCED, log entry 76.) -/
def staleOne (s : State) (act n sidx eidx : Nat) (byte : Nat → Nat) (k : Nat) (x : Nat × Nat) : List (Nat × Nat) × State :=
  let a := byte x.1
  let b : Beat := .write (BitVec.ofNat 40 a) [some (s.memByte a ||| BitVec.ofNat 8 (2 ^ k))]
  if !s.old x.2 then ([x], s)
  else if !inRing n sidx eidx x.1 then ([], s)
  else if beatMay s act b then ([], (beatRun (s.powerWork act) act b).2)
  else ([x], beatStalled (s.powerWork act) act b)

/-- The old entries among those queued in a ring are marked: the entries still unmarked, and the state. -/
def staleRing (s : State) (act : Nat) (ups : List (Nat × Nat)) (n sidx eidx : Nat) (byte : Nat → Nat) (k : Nat) : List (Nat × Nat) × State :=
  ups.foldl (fun (acc : List (Nat × Nat) × State) x =>
    let (l, s) := staleOne acc.2 act n sidx eidx byte k x
    (acc.1 ++ l, s)) ([], s)

/-- Receive ring q: bit 19 of word 2. -/
def staleRx (s : State) (q : Fin 4) : State :=
  let a := s.lqBase q.val
  let (l, s) := staleRing s 39 (s.ring q).ups (s.lqLen q.val) (s.get (R.ETH_LQ_IDX.sidx q.val)) (s.get (R.ETH_LQ_IDX.eidx q.val))
    (fun e => a + 32 * e + 10) 3
  s.setRing q { s.ring q with ups := l }

/-- The timestamp log: bit 26 of word 1. -/
def staleLog (s : State) : State :=
  let (a, n) := s.eth.logAt
  let (l, s) := staleRing s 39 s.eth.logUps n (s.get R.PTP_LOG_IDX.sidx) (s.get R.PTP_LOG_IDX.eidx) (fun e => a + 16 * e + 7) 2
  { s with eth := { s.eth with logUps := l } }

/-- The dump ring: bit 19 of word 5. -/
def staleDump (s : State) : State :=
  let (a, n) := s.perf.dumpRing
  let (l, s) := staleRing s 38 s.perf.dumpUp n (s.get R.PERF_DUMP_IDX.sidx) (s.get R.PERF_DUMP_IDX.eidx) (fun e => a + 704 * e + 22) 3
  { s with perf := { s.perf with dumpUp := l } }

/-- STALE_MARK: the ages of the queued entries are looked at. -/
def execStaleMark (s : State) : Host.Outcome State Fault Refusal :=
  Cmd.run (fun s => staleDump (staleLog ((List.finRange 4).foldl staleRx (staleJournal (staleFaults s))))) s

/-! ## Temperature and the PCIe link -/

/-- SYS_TEMP_MEASURE: temp follows; the first measurement sets peak, a higher one raises it. (DEDUCED, log entry 77.) -/
def execSysTempMeasure (temp : BitVec 12) (s : State) : Host.Outcome State Fault Refusal :=
  Cmd.run (fun s =>
    if s.sys.state = .reset then s
    else
      let higher := !s.sys.tempSeen || decide (s.getS R.SYS_TEMP.peak < temp.toInt)
      let s := s.put R.SYS_TEMP.temp temp.toNat
      let s := if higher then s.put R.SYS_TEMP.peak temp.toNat else s
      { s with sys := { s.sys with tempSeen := true } }) s

/-- PCIE_LINK_UP. -/
def execPcieLinkUp (width gen : Fin 4) (msixEn : Bool) (s : State) : Host.Outcome State Fault Refusal :=
  Cmd.run (fun s =>
    if s.sys.state = .reset then s
    else (((s.mark R.HIF_STAT.pcie_up).put R.HIF_STAT.width width.val).put R.HIF_STAT.gen gen.val).put R.HIF_STAT.msix_en (bit msixEn)) s

/-- The PCIe link is not up. -/
def pcieDown (s : State) : State :=
  (((s.unmark R.HIF_STAT.pcie_up).put R.HIF_STAT.width 0).put R.HIF_STAT.gen 0).put R.HIF_STAT.msix_en 0

/-- PCIE_LINK_DOWN: it resets nothing. -/
def execPcieLinkDown (s : State) : Host.Outcome State Fault Refusal := Cmd.run pcieDown s

end Sys2Proof.Machine
end

