-- ==== Sys2Proof/Machine/Commands.lean ====
section
/-!
DEFINITION. The commands that are a write of one register: each is that write by its route (Control.lean), with the bits that
make it the command it is.
-/
namespace Sys2Proof.Machine

/-- A write of a register as a command. -/
def writeCmd (route : Route) (a : Nat) (v : Word) (s : State) : Host.Outcome State Fault Refusal := Cmd.run (regWrite route a v) s

/-- A word with the w bits from lo up made n. -/
def withField (v : Word) (lo w n : Nat) : Word := fieldPut lo w v n

/-- REGISTER_WRITE (R15, R351): a PCIe write that is not of a whole aligned word is discarded and sets bad_access. -/
def execRegisterWrite (route : Route) (addr : BitVec 25) (data : Word) (be : BitVec 4) (s : State) :
    Host.Outcome State Fault Refusal :=
  Cmd.run (fun s =>
    if route == .pcie && (be != 0xF#4 || addr.toNat % 4 != 0) then
      (if s.sys.state = .reset then s else s.mark R.HIF_STAT.bad_access)
    else regWrite route addr.toNat data s) s

/-! ## System -/

/-- SOFTWARE_RESET (R371): with key = 0xA5C3 the engine enters RESET with cause 3; the slot governs the next start (R373). -/
def execSoftwareReset (route : Route) (data : Word) (s : State) : Host.Outcome State Fault Refusal :=
  writeCmd route R.SYS_RESET.reg data s

/-- SYS_TIME_CAPTURE (R62). -/
def execSysTimeCapture (route : Route) (data : Word) (s : State) : Host.Outcome State Fault Refusal :=
  writeCmd route R.SYS_TIME_CAP.reg data s

/-- STANDBY_ENTER_CMD (R385). -/
def execStandbyEnterCmd (route : Route) (data : Word) (s : State) : Host.Outcome State Fault Refusal :=
  writeCmd route R.SYS_STBY.reg data s

/-- HIF_CTRL_WRITE (R353). -/
def execHifCtrlWrite (route : Route) (data : Word) (s : State) : Host.Outcome State Fault Refusal :=
  writeCmd route R.HIF_CTRL.reg data s

/-- COMMIT (R362): cancel is 0. -/
def execCommit (route : Route) (g : Fin 32) (data : Word) (s : State) : Host.Outcome State Fault Refusal :=
  writeCmd route (R.HIF_COMMIT.reg g.val) (withField data 18 1 0) s

/-- COMMIT_CANCEL (R364): cancel is 1. -/
def execCommitCancel (route : Route) (g : Fin 32) (data : Word) (s : State) : Host.Outcome State Fault Refusal :=
  writeCmd route (R.HIF_COMMIT.reg g.val) (withField data 18 1 1) s

/-! ## Faults, watchdogs, the MGP -/

/-- FLT_POP (R395). -/
def execFltPop (route : Route) (data : Word) (s : State) : Host.Outcome State Fault Refusal := writeCmd route R.FLT_POP.reg data s

/-- SAFE_RELEASE_CMD (R403): release is 1. -/
def execSafeReleaseCmd (route : Route) (data : Word) (s : State) : Host.Outcome State Fault Refusal :=
  writeCmd route R.FLT_SAFE.reg (withField data 8 1 1) s

/-- HOST_WDOG_WRITE (R404). -/
def execHostWdogWrite (route : Route) (data : Word) (s : State) : Host.Outcome State Fault Refusal :=
  writeCmd route R.FLT_WDOG.reg data s

/-- HOST_WDOG_KICK (R404). -/
def execHostWdogKick (route : Route) (data : Word) (s : State) : Host.Outcome State Fault Refusal :=
  writeCmd route R.FLT_WDOG_KICK.reg data s

/-- HOST_WDOG_EXPIRY (R404), timeout ms after the last start or kick, an instant of the period under way: the watchdog stops; class 1,
class 3, or a reset with cause 4. (DESIGN CHOICE, log entry 4.) -/
def execHostWdogExpiry (s : State) : Host.Outcome State Fault Refusal :=
  Cmd.run (fun s =>
    if !s.flt.wdogRun || Nat.ble (s.sys.up + s.perVco) (s.flt.wdogUp + s.get R.FLT_WDOG.timeout * msVco) then s
    else
      let s := ({ s with flt := { s.flt with wdogRun := false } }).mark R.FLT_WDOG.expired
      match s.get R.FLT_WDOG.action with
      | 1 => s.raise 3 0 3 0
      | 2 => engineReset s 4
      | _ => s.raise 1 0 3 0) s

/-- MGP_RESTART_CMD (R405): restart is 1. -/
def execMgpRestartCmd (route : Route) (data : Word) (s : State) : Host.Outcome State Fault Refusal :=
  writeCmd route R.FLT_MGP.reg (withField data 1 1 1) s

/-- MB_POP (R410). -/
def execMbPop (route : Route) (data : Word) (s : State) : Host.Outcome State Fault Refusal :=
  writeCmd route R.MGP_MB_POP.reg data s

/-- MB_GO (R411). -/
def execMbGo (route : Route) (data : Word) (s : State) : Host.Outcome State Fault Refusal :=
  writeCmd route R.MGP_MB_GO.reg data s

/-- MB_PTP_PORT_STATE (R242, R409): the running MGP writes the port states and the parent, and reports them. -/
def execMbPtpPortState (d : Fin 2) (ports : Word) (parent : BitVec 64) (parentPort : BitVec 16) (s : State) :
    Host.Outcome State Fault Refusal :=
  Cmd.run (fun s =>
    if !s.flt.mgpRun then s
    else
      let s := regWrite .mgp (R.PTP_DOM_PORTS.reg d.val) ports s
      let s := regWrite .mgp (R.PTP_DOM_PARENT_LO.reg d.val) (parent.setWidth 32) s
      let s := regWrite .mgp (R.PTP_DOM_PARENT_HI.reg d.val) ((parent >>> 32).setWidth 32) s
      let s := regWrite .mgp (R.PTP_DOM_PARENT_PORT.reg d.val) (parentPort.setWidth 32) s
      mbPtpReport s d.val (s.reg (R.PTP_DOM_PORTS.reg d.val)) parent parentPort) s

/-- MB_EEE_WAKE_TIME (R215, R409). -/
def execMbEeeWakeTime (port : Fin 8) (tw : BitVec 16) (s : State) : Host.Outcome State Fault Refusal :=
  Cmd.run (fun s =>
    if !s.flt.mgpRun || !s.ethOk port.val then s
    else
      let l := R.ETH_EEE.tw_tx port.val
      let s := regWrite .mgp (R.ETH_EEE.reg port.val) (fieldPut l.lo l.w (s.reg (R.ETH_EEE.reg port.val)) tw.toNat) s
      mbEeeReport s port.val (s.get l)) s

/-! ## Cores -/

/-- CORE_HALT (R124): halt is 1. -/
def execCoreHalt (route : Route) (c : Fin 16) (data : Word) (s : State) : Host.Outcome State Fault Refusal :=
  writeCmd route (R.CORE_CTRL.reg c.val) (withField data 1 1 1) s

/-- CORE_RESUME (R124): resume is 1. -/
def execCoreResume (route : Route) (c : Fin 16) (data : Word) (s : State) : Host.Outcome State Fault Refusal :=
  writeCmd route (R.CORE_CTRL.reg c.val) (withField data 2 1 1) s

/-- CORE_STEP (R124): step is 1. -/
def execCoreStep (route : Route) (c : Fin 16) (data : Word) (s : State) : Host.Outcome State Fault Refusal :=
  writeCmd route (R.CORE_CTRL.reg c.val) (withField data 3 1 1) s

/-- CORE_DBG_DATA_ACCESS: a read, or a write, of what CORE_DBG_SEL selects. -/
def execCoreDbgDataAccess (route : Route) (c : Fin 16) (wr : Option Word) (s : State) : Host.Outcome State Fault Refusal :=
  Cmd.run (fun s =>
    match wr with
    | some v => regWrite route (R.CORE_DBG_DATA.reg c.val) v s
    | none => let (w, s) := regRead s (R.CORE_DBG_DATA.reg c.val); s.emit (.word w)) s

/-- CORE_RESTART_CMD (R136). -/
def execCoreRestartCmd (route : Route) (c : Fin 16) (data : Word) (s : State) : Host.Outcome State Fault Refusal :=
  writeCmd route (R.CORE_RUN.reg c.val) data s

/-- CORE_PWIN_WRITE (R138). -/
def execCorePwinWrite (route : Route) (c : Fin 16) (o : Fin 8192) (data : Word) (s : State) : Host.Outcome State Fault Refusal :=
  writeCmd route (R.CORE_PWIN.reg c.val o.val) data s

/-- MBOX_IN_WRITE (R146). -/
def execMboxInWrite (route : Route) (c : Fin 16) (i : Fin 8) (data : Word) (s : State) : Host.Outcome State Fault Refusal :=
  writeCmd route (R.CORE_MBOX_IN.reg c.val i.val) data s

/-! ## Modulators, the forwarding table, network time, Kiln -/

/-- PWM_CLEAR_CMD (R183). -/
def execPwmClearCmd (route : Route) (c : Fin 24) (data : Word) (s : State) : Host.Outcome State Fault Refusal :=
  writeCmd route (R.PWM_CH_CMD.reg c.val) data s

/-- A write of ETH_FDB_CMD with go and an op. -/
def fdbWord (data : Word) (op : Nat) : Word := withField (withField data 13 3 op) 16 1 1

/-- FDB_READ_SLOT (R204). -/
def execFdbReadSlot (route : Route) (data : Word) (s : State) : Host.Outcome State Fault Refusal :=
  writeCmd route R.ETH_FDB_CMD.reg (fdbWord data 0) s

/-- FDB_WRITE_STATIC (R204). -/
def execFdbWriteStatic (route : Route) (data : Word) (s : State) : Host.Outcome State Fault Refusal :=
  writeCmd route R.ETH_FDB_CMD.reg (fdbWord data 1) s

/-- FDB_DELETE (R204). -/
def execFdbDelete (route : Route) (data : Word) (s : State) : Host.Outcome State Fault Refusal :=
  writeCmd route R.ETH_FDB_CMD.reg (fdbWord data 2) s

/-- FDB_FLUSH_PORT (R204). -/
def execFdbFlushPort (route : Route) (data : Word) (s : State) : Host.Outcome State Fault Refusal :=
  writeCmd route R.ETH_FDB_CMD.reg (fdbWord data 3) s

/-- FDB_FLUSH_DYNAMIC (R204). -/
def execFdbFlushDynamic (route : Route) (data : Word) (s : State) : Host.Outcome State Fault Refusal :=
  writeCmd route R.ETH_FDB_CMD.reg (fdbWord data 4) s

/-- FDB_INVALID_OP (R204): an op from 5 to 7. -/
def execFdbInvalidOp (route : Route) (data : Word) (s : State) : Host.Outcome State Fault Refusal :=
  writeCmd route R.ETH_FDB_CMD.reg (fdbWord data (max 5 (fieldGet 13 3 data))) s

/-- SERVO_RESET_CMD (R255): reset is 1. -/
def execServoResetCmd (route : Route) (d : Fin 2) (data : Word) (s : State) : Host.Outcome State Fault Refusal :=
  writeCmd route (R.PTP_DOM_CMD.reg d.val) (data ||| 1#32) s

/-- PARENT_PORT_WRITE (R255). -/
def execParentPortWrite (route : Route) (d : Fin 2) (data : Word) (s : State) : Host.Outcome State Fault Refusal :=
  writeCmd route (R.PTP_DOM_PARENT_PORT.reg d.val) data s

/-- KILN_PHASE_STEP_WRITE (R276): a write of KILN_PHASE_STEP_HI. -/
def execKilnPhaseStepWrite (route : Route) (data : Word) (s : State) : Host.Outcome State Fault Refusal :=
  writeCmd route R.KILN_PHASE_STEP_HI.reg data s

/-- KILN_SLEW_MAX_WRITE (R275). -/
def execKilnSlewMaxWrite (route : Route) (data : Word) (s : State) : Host.Outcome State Fault Refusal :=
  writeCmd route R.KILN_SLEW_MAX.reg data s

/-- KILN_REF_CONFIG_WRITE (R265). -/
def execKilnRefConfigWrite (route : Route) (i : Fin 14) (k : Fin 4) (data : Word) (s : State) :
    Host.Outcome State Fault Refusal :=
  let a := match k.val with
    | 0 => R.KILN_REF_CFG.reg i.val
    | 1 => R.KILN_REF_LIM.reg i.val
    | 2 => R.KILN_REF_HOLD.reg i.val
    | _ => R.KILN_FREF_NOM.reg
  writeCmd route a data s

/-- KILN_ALIGN_CMD (R278). -/
def execKilnAlignCmd (route : Route) (data : Word) (s : State) : Host.Outcome State Fault Refusal :=
  writeCmd route R.KILN_ALIGN.reg data s

/-! ## Twin operation, two-wire controllers, counters, flash -/

/-- TWIN_REJOIN_CMD (R307): rejoin is 1, yield 0. -/
def execTwinRejoinCmd (route : Route) (data : Word) (s : State) : Host.Outcome State Fault Refusal :=
  writeCmd route R.TWIN_CMD.reg (withField data 0 2 1) s

/-- TWIN_YIELD_CMD (R300, R464): yield is 1, rejoin 0. -/
def execTwinYieldCmd (route : Route) (data : Word) (s : State) : Host.Outcome State Fault Refusal :=
  writeCmd route R.TWIN_CMD.reg (withField data 0 2 2) s

/-- TWC_RESET_CMD (R422): reset is 1; the bus clear that follows succeeds or not. -/
def execTwcResetCmd (route : Route) (k : Fin 2) (data : Word) (clear : Bool) (s : State) : Host.Outcome State Fault Refusal :=
  Cmd.run (fun s => (regWriteAs route (R.TWC_CFG.reg k.val) (withField data 4 1 1) none none (some clear) s).2) s

/-- PERF_CLEAR (R432): clear is 1. -/
def execPerfClear (route : Route) (data : Word) (s : State) : Host.Outcome State Fault Refusal :=
  writeCmd route R.PERF_CTRL.reg (data ||| 2#32) s

/-- PERF_CNT_WRITE (R432). -/
def execPerfCntWrite (route : Route) (i : Fin 128) (data : Word) (s : State) : Host.Outcome State Fault Refusal :=
  writeCmd route (R.PERF_CNT.reg i.val) data s

/-- PERF_BW_CFG_WRITE (R434). -/
def execPerfBwCfgWrite (route : Route) (m : Fin 28) (data : Word) (s : State) : Host.Outcome State Fault Refusal :=
  writeCmd route (R.PERF_BW_CFG.reg m.val) data s

/-- PERF_TAG_CFG_WRITE (R435). -/
def execPerfTagCfgWrite (route : Route) (c : Fin 16) (data : Word) (s : State) : Host.Outcome State Fault Refusal :=
  writeCmd route (R.PERF_TAG_CFG.reg c.val) data s

/-- PERF_DUMP_CTL_WRITE (R438). -/
def execPerfDumpCtlWrite (route : Route) (data : Word) (s : State) : Host.Outcome State Fault Refusal :=
  writeCmd route R.PERF_DUMP_CTL.reg data s

/-- A write of BOOT_FL_CMD with go and an op; status: what the device returns to a status read. -/
def flashCmd (route : Route) (data : Word) (op : Nat) (status : Option Word) (s : State) : Host.Outcome State Fault Refusal :=
  Cmd.run (fun s => (regWriteAs route R.BOOT_FL_CMD.reg (withField (withField data 0 3 op) 3 1 1) none status none s).2) s

/-- FL_READ (R387). -/
def execFlRead (route : Route) (data : Word) (s : State) : Host.Outcome State Fault Refusal := flashCmd route data 0 none s
/-- FL_PROGRAM (R387). -/
def execFlProgram (route : Route) (data : Word) (s : State) : Host.Outcome State Fault Refusal := flashCmd route data 1 none s
/-- FL_ERASE_4K (R387). -/
def execFlErase4k (route : Route) (data : Word) (s : State) : Host.Outcome State Fault Refusal := flashCmd route data 2 none s
/-- FL_ERASE_64K (R387). -/
def execFlErase64k (route : Route) (data : Word) (s : State) : Host.Outcome State Fault Refusal := flashCmd route data 3 none s
/-- FL_READ_STATUS (R387). -/
def execFlReadStatus (route : Route) (data : Word) (status : Word) (s : State) : Host.Outcome State Fault Refusal :=
  flashCmd route data 4 (some status) s
/-- FL_INVALID_OP (R387): an op from 5 to 7. -/
def execFlInvalidOp (route : Route) (data : Word) (s : State) : Host.Outcome State Fault Refusal :=
  flashCmd route data (max 5 (fieldGet 0 3 data)) none s

end Sys2Proof.Machine
end

