-- ==== Sys2Proof/Machine/Flags.lean ====
section
/-!
DEFINITION. The arithmetic of a core and every flag it computes: saturation and the compare flags (R106), the conditions
(R126), the accumulator's wrap rule (R108), extraction and its rounding (R109), NEGA and SHA (R108, R111).
-/
namespace Sys2Proof.Machine

/-- The sticky bits of SR (R97). -/
def srSv : Word := 0x10#32
def srAov : Word := 0x20#32
def srFov : Word := 0x40#32
def srFinv : Word := 0x80#32

/-- A 32-bit result: wrapped with sat = 0, saturated with sat = 1, and whether it saturated (R106). -/
def satRes (sat : Bool) (i : Int) : Word × Bool :=
  if sat then (BitVec.ofInt 32 (satS 32 i), decide (satS 32 i ≠ i)) else (BitVec.ofInt 32 i, false)

/-- The flags z, n, c, v of a − b (R106). -/
def cmpFlags (a b : Word) : Bool × Bool × Bool × Bool :=
  (a == b, (a - b).getLsbD 31, Nat.ble b.toNat a.toNat, decide (satS 32 (a.toInt - b.toInt) ≠ a.toInt - b.toInt))

/-- A condition of R126 on SR. -/
def condHolds (sr : Word) (cond : Nat) : Bool :=
  let z := sr.getLsbD 0
  let n := sr.getLsbD 1
  let c := sr.getLsbD 2
  let v := sr.getLsbD 3
  match cond with
  | 0x0 => z
  | 0x1 => !z
  | 0x2 => n != v
  | 0x3 => n == v
  | 0x4 => z || n != v
  | 0x5 => !z && n == v
  | 0x6 => !c
  | 0x7 => c
  | 0x8 => v
  | 0x9 => !v
  | 0xA => n
  | 0xB => !n && !v
  | 0xC => z
  | 0xD => v
  | _ => true

/-- Leading zeros of a word, 0 to 32. -/
def clz32 (x : Word) : Nat := if x = 0 then 32 else 31 - Nat.log2 x.toNat

/-- The bit field of BFX and BFI: its width, ended at bit 31 (R106). -/
def bfWidth (pos len1 : Nat) : Nat := min (len1 + 1) (32 - pos)

/-! ## Accumulators -/

/-- ±7 toward the sign of i. -/
def seven (i : Int) : Int := if i < 0 then -7 else 7

/-- The rule of R108: the accumulator after an exact change delta, and whether it wrapped. -/
def accStep (a : Acc) (delta : Int) : Acc × Bool :=
  let s := a.acc.toInt + delta
  let step : Int := if 2 ^ 79 - 1 < s then 1 else if s < -(2 ^ 79) then -1 else 0
  let acc := BitVec.ofInt 80 s
  if step = 0 then (⟨acc, a.wc, a.lost⟩, false)
  else if a.lost then (⟨acc, a.wc, true⟩, true)
  else if a.wc + step > 7 ∨ a.wc + step < -7 then (⟨acc, a.wc, true⟩, true)
  else (⟨acc, a.wc + step, false⟩, true)

/-- ADDA (sg = 1) and SUBA (sg = -1) of R108. -/
def accAdd (a b : Acc) (sg : Int) : Acc × Bool :=
  let (r, aov) := accStep a (sg * b.acc.toInt)
  let r :=
    if r.lost then r
    else
      let w := r.wc + sg * b.wc
      if -7 ≤ w ∧ w ≤ 7 then { r with wc := w } else { r with wc := seven w, lost := true }
  if b.lost && !r.lost then
    (⟨r.acc, if r.wc = 7 ∨ r.wc = -7 then r.wc else if r.wc = 0 then seven r.acc.toInt else seven r.wc, true⟩, aov)
  else (r, aov)

/-- NEGA of R108. -/
def accNeg (a : Acc) : Acc × Bool :=
  let edge := a.acc == BitVec.ofInt 80 (-(2 ^ 79))
  let acc := if edge then a.acc else -a.acc
  if a.lost then (⟨acc, -a.wc, true⟩, edge)
  else
    let w := if edge then 1 - a.wc else -a.wc
    if -7 ≤ w ∧ w ≤ 7 then (⟨acc, w, false⟩, edge) else (⟨acc, seven w, true⟩, edge)

/-- SHA of R111: the new accumulator and the sticky bits it sets. -/
def accShift (a : Acc) (n : Int) (sat : Bool) : Acc × Word :=
  let v := a.acc.toInt + a.wc * 2 ^ 80
  if n < 0 then
    if a.lost then ({ a with acc := BitVec.ofInt 80 (Int.shiftRight a.acc.toInt n.natAbs) }, 0)
    else
      let r := Int.shiftRight v n.natAbs
      let acc := BitVec.ofInt 80 r
      (⟨acc, (r - acc.toInt) / 2 ^ 80, false⟩, 0)
  else if n = 0 then (a, 0)
  else
    let r := v * 2 ^ n.natAbs
    if satS 80 r = r then (⟨BitVec.ofInt 80 r, 0, false⟩, 0)
    else if sat then (⟨BitVec.ofInt 80 (satS 80 r), 0, false⟩, srSv)
    else (⟨BitVec.ofInt 80 r, seven r, true⟩, srAov)

/-- The rounding of R109 at bit k under CR.rnd. -/
def accRound (rnd : Nat) (a : Int) (k : Nat) : Int :=
  if k = 0 then a
  else if rnd = 1 then Int.shiftRight a k
  else
    let h := Int.shiftRight a (k - 1)
    if rnd = 2 ∧ a % (2 ^ (k - 1) : Nat) = 0 ∧ h % 4 = 1 then Int.shiftRight h 1 else Int.shiftRight (h + 1) 1

/-- The extraction of R109 to w bits at bit k: the result modulo 2^w and the sticky bits it sets. -/
def extract (rnd : Nat) (a : Acc) (k w : Nat) (sat : Bool) : Nat × Word :=
  let r := accRound rnd a.acc.toInt k
  if a.wc = 0 then (toU w (satS w r), if satS w r = r then 0 else srSv)
  else if sat then (toU w (if 0 < a.wc then (2 ^ (w - 1) : Nat) - 1 else -(2 ^ (w - 1) : Nat)), srSv)
  else (toU w r, srAov)

end Sys2Proof.Machine
end

