-- ==== Sys2Proof/Machine/Operands.lean ====
section
/-!
DEFINITION. Every operand form of the core instructions: the register keys by which R102 compares destinations, effective
addresses and pointer updates (R113 to R115), the access checks of R99, the lanes of R107 and R125, the floating-point
pairs of R125.
-/
namespace Sys2Proof.Machine

/-- The key of D register n among a group's destinations. -/
def keyD (n : Nat) : Nat := n
/-- The key of accumulator n. -/
def keyA (n : Nat) : Nat := 0x100 + n
/-- The key of control register cr (pointers are 0 to 15, R96). -/
def keyC (cr : Nat) : Nat := 0x200 + cr

/-- The destination of an MTC: none for a reserved or read-only number, whose write is ignored (R96). -/
def crDests (cr : Nat) : List Nat :=
  if Nat.blt cr 0x33 || Nat.ble 0x34 cr && Nat.blt cr 0x37 || Nat.ble 0x38 cr && Nat.blt cr 0x3C || Nat.ble 0x40 cr && Nat.blt cr 0x46
  then [keyC cr] else []

/-- Sticky bits as a write of latency l; none when no bit is set. -/
def stickyAt (l : Nat) (m : Word) : List (Nat × CWrite) := if m = 0 then [] else [(l, .sticky m)]

/-- An ALU result in D register d, with sv when it saturated (R103, R106). -/
def effAlu (d : Fin 32) (r : Word × Bool) : WordEff :=
  { cls := .alu, dests := [keyD d.val], writes := (1, .d d r.1) :: stickyAt 1 (if r.2 then srSv else 0) }

/-- An ALU instruction that writes the flags. -/
def effFlags (f : Bool × Bool × Bool × Bool) : WordEff :=
  { cls := .alu, dests := [], flagW := true, writes := [(1, .flags f.1 f.2.1 f.2.2.1 f.2.2.2)] }

/-! ## Effective addresses -/

/-- The effective address of a load or store: the address, the pointer afterward, the circular buffer of modes 0b011 and
0b100, and whether the mode is illegal or its buffer an access fault. -/
structure EaRes where
  ea : Nat
  upd : Option Word := none
  circ : Option (Nat × Nat) := none
  illegal : Bool := false
  bad : Bool := false

/-- The circular step of R114. -/
def circStep (p : Word) (m : Int) (b l : Word) : Word :=
  let q := p + BitVec.ofInt 32 m
  if b.toNat + l.toNat ≤ q.toNat then q - l else if q.toNat < b.toNat then q + l else q

/-- The low w bits of n in reverse order. -/
def bitrev : Nat → Nat → Nat
  | 0, _ => 0
  | w + 1, n => (n % 2) * 2 ^ w + bitrev w (n / 2)

/-- The bit-reversed step of R115. -/
def brevStep (p m b l : Word) : Word :=
  let w := Nat.log2 l.toNat
  b + BitVec.ofNat 32 (bitrev w (bitrev w (p - b).toNat + bitrev w m.toNat) % l.toNat)

/-- The effective address under the mode field (R113); scale is 4, or 2 for 16-bit accesses. -/
def effAddr (v : CView) (p m : Fin 16) (mode : Fin 8) (imm : BitVec 9) (scale : Int) : EaRes :=
  let pv := v.p p
  let i := imm.toInt * scale
  let cb := v.bank.cb[Fin.ofNat 8 p.val]
  let cl := v.bank.cl[Fin.ofNat 8 p.val]
  match mode with
  | 0 => { ea := (pv + BitVec.ofInt 32 i).toNat }
  | 1 => { ea := pv.toNat, upd := some (pv + BitVec.ofInt 32 i) }
  | 2 => { ea := pv.toNat, upd := some (pv + v.m m) }
  | 3 => { ea := pv.toNat, upd := some (circStep pv (v.m m).toInt cb cl), circ := some (cb.toNat, cl.toNat), illegal := Nat.ble 8 p.val }
  | 4 => { ea := pv.toNat, upd := some (circStep pv i cb cl), circ := some (cb.toNat, cl.toNat), illegal := Nat.ble 8 p.val }
  | 5 => { ea := pv.toNat, upd := some (brevStep pv (v.m m) cb cl), illegal := Nat.ble 8 p.val,
           bad := Nat.blt cl.toNat 8 || cl.toNat != 2 ^ Nat.log2 cl.toNat }
  | _ => { ea := pv.toNat, illegal := true }

/-- R99: an access of n bytes at ea faults. -/
def accessBad (ea n : Nat) : Bool :=
  !(inX ea || inY ea) || ea % (if n = 2 then 2 else 4) != 0 || (inX ea && Nat.blt 0x28000 (ea + n)) || (inY ea && Nat.blt 0x40000 (ea + n))

/-- The pieces of an access: a 64-bit access in a circular mode at b + l - 4 takes its second word from b (R114). -/
def accessParts (r : EaRes) (n : Nat) : List (Nat × Nat) :=
  match r.circ with
  | some (b, l) => if n = 8 ∧ r.ea + 4 = b + l then [(r.ea, 4), (b, 4)] else [(r.ea, n)]
  | none => [(r.ea, n)]

/-- The bytes of a store dealt out to the pieces of its access. -/
def dealStore (bs : List Byte) : List (Nat × Nat) → List (Nat × List Byte)
  | [] => []
  | (a, n) :: t => (a, bs.take n) :: dealStore (bs.drop n) t

/-- The pointer's update (R103: one cycle). -/
def EaRes.updWrites (r : EaRes) (p : Fin 16) : List (Nat × CWrite) :=
  match r.upd with | some x => [(1, .ctl p.val x)] | none => []

/-- The pointer as a destination. -/
def EaRes.updDests (r : EaRes) (p : Fin 16) : List Nat := match r.upd with | some _ => [keyC p.val] | none => []

/-- A load of n bytes: f turns the bytes into results; dests are its destinations, ill whether an operand is misaligned. -/
def effLoad (v : CView) (p m : Fin 16) (mode : Fin 8) (imm : BitVec 9) (n : Nat) (dests : List Nat) (ill : Bool)
    (f : List Byte → List (Nat × CWrite)) : WordEff :=
  let r := effAddr v p m mode imm (if n = 2 then 2 else 4)
  let parts := if n = 16 then [(r.ea, 8), (r.ea + 8, 8)] else accessParts r n
  { cls := .ls, dests := dests ++ r.updDests p, illegal := r.illegal || ill, twoCycle := n == 16,
    access := r.bad || parts.any (fun a => accessBad a.1 a.2), loads := parts,
    writes := f (parts.flatMap (fun a => v.load a.1 a.2)) ++ r.updWrites p }

/-- A store of bytes; sticky bits go with it. -/
def effStore (v : CView) (p m : Fin 16) (mode : Fin 8) (imm : BitVec 9) (bs : List Byte) (ill : Bool) (st : Word) : WordEff :=
  let n := bs.length
  let r := effAddr v p m mode imm (if n = 2 then 2 else 4)
  let parts := if n = 16 then [(r.ea, 8), (r.ea + 8, 8)] else accessParts r n
  { cls := .ls, dests := r.updDests p, illegal := r.illegal || ill, twoCycle := n == 16,
    access := r.bad || parts.any (fun a => accessBad a.1 a.2), stores := dealStore bs parts,
    writes := stickyAt 1 st ++ r.updWrites p }

/-! ## Lanes -/

/-- The number of lanes of the field of R125; 0 for the reserved code. -/
def laneCount (lanes : Fin 4) : Nat := match lanes with | 0 => 1 | 1 => 2 | 2 => 4 | _ => 0

/-- R107: the accumulator and operands are aligned for the lanes. -/
def lanesBad (A : Fin 8) (x y : Fin 32) (lanes : Fin 4) : Bool :=
  match lanes with
  | 0 => false
  | 1 => A.val % 2 != 0 || x.val % 2 != 0 || y.val % 2 != 0
  | 2 => A.val % 4 != 0 || x.val % 4 != 0 || y.val % 4 != 0
  | _ => true

/-- One lane's change of its accumulator: f old product gives the new accumulator and whether it wrapped. -/
def effMac (A : Fin 8) (x y : Fin 32) (lanes : Fin 4) (f : Fin 8 → Fin 32 → Fin 32 → Acc × Bool) : WordEff :=
  let n := laneCount lanes
  let rs := (List.range n).map (fun i =>
    let a := Fin.ofNat 8 (A.val + i)
    (a, f a (Fin.ofNat 32 (x.val + i)) (Fin.ofNat 32 (y.val + i))))
  { cls := .mac, dests := rs.map (fun r => keyA r.1.val), illegal := lanesBad A x y lanes, lanes := n,
    writes := rs.map (fun r => (3, .acc r.1 r.2.1 true)) ++ stickyAt 3 (if rs.any (fun r => r.2.2) then srAov else 0) }

/-- A MAC-group instruction of one lane that writes accumulator A. -/
def effAcc (A : Fin 8) (r : Acc) (st : Word) (fwd : Bool) : WordEff :=
  { cls := .mac, dests := [keyA A.val], lanes := 1, writes := (3, .acc A r fwd) :: stickyAt 3 st }

/-- A MAC-group instruction that writes D register d. -/
def effMacD (d : Fin 32) (r : Word) (st : Word) : WordEff :=
  { cls := .mac, dests := [keyD d.val], lanes := 1, writes := (3, .d d r) :: stickyAt 3 st }

/-! ## Floating point -/

/-- CR.ftz (R98). -/
def CView.ftz (v : CView) : Bool := v.core.cr.getLsbD 2

/-- CR.rnd (R98). -/
def CView.rnd (v : CView) : Nat := v.core.cr.toNat % 4

/-- A register of the second lane. -/
def nextReg (n : Fin 32) : Fin 32 := Fin.ofNat 32 (n.val + 1)

/-- The odd registers that `two` makes misaligned (R102, R125). -/
def pairBad (two : Bool) (ns : List (Fin 32)) : Bool := two && ns.any (fun n => n.val % 2 != 0)

/-- Control instructions that only steer (R127). -/
def effCtl (e : CtlEff) (branching : Bool) (dests : List Nat := []) : WordEff :=
  { cls := .ctl, dests := dests, branching := branching, ctl := e }

end Sys2Proof.Machine
end

