-- ==== Sys2Proof/Machine/CoreAlu.lean ====
section
/-!
DEFINITION. The ALU, immediate, control-register and pointer instructions of R127.
-/
namespace Sys2Proof.Machine

/-- ADD d, a, b (R127, R106). -/
def execAdd (c : Fin 16) (last : Bool) (sat : Bool) (d a b : Fin 32) (s : State) : Host.Outcome State Fault Refusal :=
  coreCmd c last (fun v => effAlu d (satRes sat ((v.d a).toInt + (v.d b).toInt))) s

/-- SUB d, a, b. -/
def execSub (c : Fin 16) (last : Bool) (sat : Bool) (d a b : Fin 32) (s : State) : Host.Outcome State Fault Refusal :=
  coreCmd c last (fun v => effAlu d (satRes sat ((v.d a).toInt - (v.d b).toInt))) s

/-- NEG d, a. -/
def execNeg (c : Fin 16) (last : Bool) (sat : Bool) (d a : Fin 32) (s : State) : Host.Outcome State Fault Refusal :=
  coreCmd c last (fun v => effAlu d (satRes sat (-(v.d a).toInt))) s

/-- ABS d, a. -/
def execAbs (c : Fin 16) (last : Bool) (sat : Bool) (d a : Fin 32) (s : State) : Host.Outcome State Fault Refusal :=
  coreCmd c last (fun v => effAlu d (satRes sat ((v.d a).toInt.natAbs : Int))) s

/-- MIN d, a, b: the signed minimum. -/
def execMin (c : Fin 16) (last : Bool) (d a b : Fin 32) (s : State) : Host.Outcome State Fault Refusal :=
  coreCmd c last (fun v => effAlu d (if (v.d a).toInt ≤ (v.d b).toInt then v.d a else v.d b, false)) s

/-- MAX d, a, b: the signed maximum. -/
def execMax (c : Fin 16) (last : Bool) (d a b : Fin 32) (s : State) : Host.Outcome State Fault Refusal :=
  coreCmd c last (fun v => effAlu d (if (v.d a).toInt ≤ (v.d b).toInt then v.d b else v.d a, false)) s

/-- MINU d, a, b: the unsigned minimum. -/
def execMinu (c : Fin 16) (last : Bool) (d a b : Fin 32) (s : State) : Host.Outcome State Fault Refusal :=
  coreCmd c last (fun v => effAlu d (if (v.d a).toNat ≤ (v.d b).toNat then v.d a else v.d b, false)) s

/-- MAXU d, a, b: the unsigned maximum. -/
def execMaxu (c : Fin 16) (last : Bool) (d a b : Fin 32) (s : State) : Host.Outcome State Fault Refusal :=
  coreCmd c last (fun v => effAlu d (if (v.d a).toNat ≤ (v.d b).toNat then v.d b else v.d a, false)) s

/-- AND d, a, b. -/
def execAnd (c : Fin 16) (last : Bool) (d a b : Fin 32) (s : State) : Host.Outcome State Fault Refusal :=
  coreCmd c last (fun v => effAlu d (v.d a &&& v.d b, false)) s

/-- OR d, a, b. -/
def execOr (c : Fin 16) (last : Bool) (d a b : Fin 32) (s : State) : Host.Outcome State Fault Refusal :=
  coreCmd c last (fun v => effAlu d (v.d a ||| v.d b, false)) s

/-- XOR d, a, b. -/
def execXor (c : Fin 16) (last : Bool) (d a b : Fin 32) (s : State) : Host.Outcome State Fault Refusal :=
  coreCmd c last (fun v => effAlu d (v.d a ^^^ v.d b, false)) s

/-- NOT d, a. -/
def execNot (c : Fin 16) (last : Bool) (d a : Fin 32) (s : State) : Host.Outcome State Fault Refusal :=
  coreCmd c last (fun v => effAlu d (~~~ v.d a, false)) s

/-- LSL d, a, b: by b[5:0]; 32 and more give 0 (R106). -/
def execLsl (c : Fin 16) (last : Bool) (d a b : Fin 32) (s : State) : Host.Outcome State Fault Refusal :=
  coreCmd c last (fun v => effAlu d (v.d a <<< ((v.d b).toNat % 64), false)) s

/-- LSR d, a, b: by b[5:0]; 32 and more give 0 (R106). -/
def execLsr (c : Fin 16) (last : Bool) (d a b : Fin 32) (s : State) : Host.Outcome State Fault Refusal :=
  coreCmd c last (fun v => effAlu d (v.d a >>> ((v.d b).toNat % 64), false)) s

/-- ASR d, a, b: by b[5:0]; 32 and more give the sign (R106). -/
def execAsr (c : Fin 16) (last : Bool) (d a b : Fin 32) (s : State) : Host.Outcome State Fault Refusal :=
  coreCmd c last (fun v => effAlu d ((v.d a).sshiftRight ((v.d b).toNat % 64), false)) s

/-- ASL d, a, b: by b[5:0], saturating with sat = 1 (R106). -/
def execAsl (c : Fin 16) (last : Bool) (sat : Bool) (d a b : Fin 32) (s : State) : Host.Outcome State Fault Refusal :=
  coreCmd c last (fun v => effAlu d (satRes sat ((v.d a).toInt * 2 ^ ((v.d b).toNat % 64)))) s

/-- ROR d, a, b: by b[4:0] (R106). -/
def execRor (c : Fin 16) (last : Bool) (d a b : Fin 32) (s : State) : Host.Outcome State Fault Refusal :=
  coreCmd c last (fun v => effAlu d ((v.d a).rotateRight ((v.d b).toNat % 32), false)) s

/-- CLS d, a: leading sign bits minus 1. -/
def execCls (c : Fin 16) (last : Bool) (d a : Fin 32) (s : State) : Host.Outcome State Fault Refusal :=
  coreCmd c last (fun v => effAlu d (BitVec.ofNat 32 (clz32 (if (v.d a).getLsbD 31 then ~~~ v.d a else v.d a) - 1), false)) s

/-- CLZ d, a: leading zeros. -/
def execClz (c : Fin 16) (last : Bool) (d a : Fin 32) (s : State) : Host.Outcome State Fault Refusal :=
  coreCmd c last (fun v => effAlu d (BitVec.ofNat 32 (clz32 (v.d a)), false)) s

/-- CMP a, b: flags from a − b (R106). -/
def execCmp (c : Fin 16) (last : Bool) (a b : Fin 32) (s : State) : Host.Outcome State Fault Refusal :=
  coreCmd c last (fun v => effFlags (cmpFlags (v.d a) (v.d b))) s

/-- CMPU a, b: flags from a − b, n and v as for CMP (R127). -/
def execCmpu (c : Fin 16) (last : Bool) (a b : Fin 32) (s : State) : Host.Outcome State Fault Refusal :=
  coreCmd c last (fun v => effFlags (cmpFlags (v.d a) (v.d b))) s

/-- SEL d, a, b, cond (R126). -/
def execSel (c : Fin 16) (last : Bool) (d a b : Fin 32) (cond : Fin 16) (s : State) : Host.Outcome State Fault Refusal :=
  coreCmd c last (fun v => effAlu d (if condHolds v.bank.sr cond.val then v.d a else v.d b, false)) s

/-- MOV d, a. -/
def execMov (c : Fin 16) (last : Bool) (d a : Fin 32) (s : State) : Host.Outcome State Fault Refusal :=
  coreCmd c last (fun v => effAlu d (v.d a, false)) s

/-- ADDI d, a, #s15. -/
def execAddi (c : Fin 16) (last : Bool) (sat : Bool) (d a : Fin 32) (imm : BitVec 15) (s : State) : Host.Outcome State Fault Refusal :=
  coreCmd c last (fun v => effAlu d (satRes sat ((v.d a).toInt + imm.toInt))) s

/-- ANDI d, a, #u15: the immediate zero-extended. -/
def execAndi (c : Fin 16) (last : Bool) (d a : Fin 32) (imm : BitVec 15) (s : State) : Host.Outcome State Fault Refusal :=
  coreCmd c last (fun v => effAlu d (v.d a &&& imm.setWidth 32, false)) s

/-- ORI d, a, #u15. -/
def execOri (c : Fin 16) (last : Bool) (d a : Fin 32) (imm : BitVec 15) (s : State) : Host.Outcome State Fault Refusal :=
  coreCmd c last (fun v => effAlu d (v.d a ||| imm.setWidth 32, false)) s

/-- XORI d, a, #u15. -/
def execXori (c : Fin 16) (last : Bool) (d a : Fin 32) (imm : BitVec 15) (s : State) : Host.Outcome State Fault Refusal :=
  coreCmd c last (fun v => effAlu d (v.d a ^^^ imm.setWidth 32, false)) s

/-- LSLI d, a, #u5. -/
def execLsli (c : Fin 16) (last : Bool) (d a : Fin 32) (n : Fin 32) (s : State) : Host.Outcome State Fault Refusal :=
  coreCmd c last (fun v => effAlu d (v.d a <<< n.val, false)) s

/-- LSRI d, a, #u5. -/
def execLsri (c : Fin 16) (last : Bool) (d a : Fin 32) (n : Fin 32) (s : State) : Host.Outcome State Fault Refusal :=
  coreCmd c last (fun v => effAlu d (v.d a >>> n.val, false)) s

/-- ASRI d, a, #u5. -/
def execAsri (c : Fin 16) (last : Bool) (d a : Fin 32) (n : Fin 32) (s : State) : Host.Outcome State Fault Refusal :=
  coreCmd c last (fun v => effAlu d ((v.d a).sshiftRight n.val, false)) s

/-- ASLI d, a, #u5, saturating with sat = 1 (R106). -/
def execAsli (c : Fin 16) (last : Bool) (sat : Bool) (d a : Fin 32) (n : Fin 32) (s : State) : Host.Outcome State Fault Refusal :=
  coreCmd c last (fun v => effAlu d (satRes sat ((v.d a).toInt * 2 ^ n.val))) s

/-- BFX d, a, #pos, #len; a field past bit 31 ends there (R106). -/
def execBfx (c : Fin 16) (last : Bool) (d a : Fin 32) (pos len1 : Fin 32) (sx : Bool) (s : State) : Host.Outcome State Fault Refusal :=
  coreCmd c last (fun v => effAlu d
    (let w := bfWidth pos.val len1.val
     let x := (v.d a).toNat / 2 ^ pos.val % 2 ^ w
     if sx then BitVec.ofInt 32 (Sys2Proof.Machine.sx w x) else BitVec.ofNat 32 x, false)) s

/-- BFI d, a, #pos, #len; a field past bit 31 ends there (R106). -/
def execBfi (c : Fin 16) (last : Bool) (d a : Fin 32) (pos len1 : Fin 32) (s : State) : Host.Outcome State Fault Refusal :=
  coreCmd c last (fun v => effAlu d (fieldPut pos.val (bfWidth pos.val len1.val) (v.d d) (v.d a).toNat, false)) s

/-- MOVI d, #s16. -/
def execMovi (c : Fin 16) (last : Bool) (d : Fin 32) (imm : BitVec 16) (s : State) : Host.Outcome State Fault Refusal :=
  coreCmd c last (fun _ => effAlu d (imm.signExtend 32, false)) s

/-- MOVHI d, #u16: d[15:0] is kept. -/
def execMovhi (c : Fin 16) (last : Bool) (d : Fin 32) (imm : BitVec 16) (s : State) : Host.Outcome State Fault Refusal :=
  coreCmd c last (fun v => effAlu d (imm.setWidth 32 <<< 16 ||| v.d d &&& 0xFFFF#32, false)) s

/-- CMPI a, #s15. -/
def execCmpi (c : Fin 16) (last : Bool) (a : Fin 32) (imm : BitVec 15) (s : State) : Host.Outcome State Fault Refusal :=
  coreCmd c last (fun v => effFlags (cmpFlags (v.d a) (imm.signExtend 32))) s

/-- MFC d, cr (R96). -/
def execMfc (c : Fin 16) (last : Bool) (d : Fin 32) (cr : Fin 256) (s : State) : Host.Outcome State Fault Refusal :=
  coreCmd c last (fun v => effAlu d (v.core.readCr v.bank v.c.val v.s.pnl cr.val, false)) s

/-- MTC cr, d (R96); MTC of SR writes the flags. -/
def execMtc (c : Fin 16) (last : Bool) (cr : Fin 256) (d : Fin 32) (s : State) : Host.Outcome State Fault Refusal :=
  coreCmd c last (fun v => { cls := .alu, dests := crDests cr.val, flagW := cr.val == 0x40, writes := [(1, .ctl cr.val (v.d d))] }) s

/-- ADDP p, #s16. -/
def execAddp (c : Fin 16) (last : Bool) (p : Fin 16) (imm : BitVec 16) (s : State) : Host.Outcome State Fault Refusal :=
  coreCmd c last (fun v => { cls := .alu, dests := [keyC p.val], writes := [(1, .ctl p.val (v.p p + imm.signExtend 32))] }) s

end Sys2Proof.Machine
end

