-- ==== Sys2Proof/Machine/CoreCtl.lean ====
section
/-!
DEFINITION. The control instructions of R127, and the illegal instruction of R102.
-/
namespace Sys2Proof.Machine

/-- The registers that a LOOP writes when n levels are active. -/
def loopDests (n : Nat) : List Nat := [keyC 0x3B, keyC (0x30 + n), keyC (0x34 + n), keyC (0x38 + n)]

/-- LOOP and LOOPR (R117): a fourth level is a loop overflow (R118). -/
def effLoop (v : CView) (cnt : Word) (lend : Word) : WordEff :=
  let n := v.bank.lsp.val
  { effCtl (.loop cnt lend) false (loopDests n) with loopOvf := n == 3 }

/-- BR cond, label: the condition on the flags at issue (R105); off is in words from the branch's own address (R125). -/
def execBr (c : Fin 16) (last : Bool) (cond : Fin 15) (off : BitVec 22) (s : State) : Host.Outcome State Fault Refusal :=
  coreCmd c last (fun v => if condHolds v.bank.sr cond.val then effCtl (.jump (v.addr + BitVec.ofInt 32 (4 * off.toInt)) true false) true else effCtl .notTaken true) s

/-- CALL label: LR takes the address after the delay slot. -/
def execCall (c : Fin 16) (last : Bool) (off : BitVec 22) (s : State) : Host.Outcome State Fault Refusal :=
  coreCmd c last (fun v => effCtl (.jump (v.addr + BitVec.ofInt 32 (4 * off.toInt)) false true) true [keyC 0x42]) s

/-- RET: PC := LR. -/
def execRet (c : Fin 16) (last : Bool) (s : State) : Host.Outcome State Fault Refusal :=
  coreCmd c last (fun v => effCtl (.jump (v.bank.lr.setWidth 32) true false) true) s

/-- BRR pn: PC := pn[15:0]. -/
def execBrr (c : Fin 16) (last : Bool) (pn : Fin 16) (s : State) : Host.Outcome State Fault Refusal :=
  coreCmd c last (fun v => effCtl (.jump (v.p pn &&& 0xFFFF#32) true false) true) s

/-- NOP. -/
def execNop (c : Fin 16) (last : Bool) (s : State) : Host.Outcome State Fault Refusal :=
  coreCmd c last (fun _ => effCtl .none false) s

/-- LOOP #count, end (R117, R118). -/
def execLoop (c : Fin 16) (last : Bool) (count : Fin 4096) (endw : Fin 1024) (s : State) : Host.Outcome State Fault Refusal :=
  coreCmd c last (fun v => effLoop v (BitVec.ofNat 32 count.val) (v.addr + BitVec.ofNat 32 (4 * endw.val))) s

/-- LOOPR dn, end (R117, R118). -/
def execLoopr (c : Fin 16) (last : Bool) (dn : Fin 32) (endw : Fin 1024) (s : State) : Host.Outcome State Fault Refusal :=
  coreCmd c last (fun v => effLoop v (v.d dn) (v.addr + BitVec.ofNat 32 (4 * endw.val))) s

/-- BRK: the debug event (R124). -/
def execBrk (c : Fin 16) (last : Bool) (s : State) : Host.Outcome State Fault Refusal :=
  coreCmd c last (fun _ => effCtl .brk false) s

/-- RTE1: return from level 1 (R120); illegal at another level (R122). -/
def execRte1 (c : Fin 16) (last : Bool) (s : State) : Host.Outcome State Fault Refusal :=
  coreCmd c last (fun v => { effCtl .rte1 true with illegal := v.core.level != 1 }) s

/-- RTE2: return from level 2 (R122); illegal at another level. -/
def execRte2 (c : Fin 16) (last : Bool) (s : State) : Host.Outcome State Fault Refusal :=
  coreCmd c last (fun v => { effCtl .rte2 true with illegal := v.core.level != 2 }) s

/-- IDLE: nothing issues until an event is taken. -/
def execIdle (c : Fin 16) (last : Bool) (s : State) : Host.Outcome State Fault Refusal :=
  coreCmd c last (fun _ => effCtl .idle false) s

/-- FENCE: the next group waits until every store has reached Tun (R100). -/
def execFence (c : Fin 16) (last : Bool) (s : State) : Host.Outcome State Fault Refusal :=
  coreCmd c last (fun _ => effCtl .fence false) s

/-! ## Illegal instructions -/

/-- What R125 and R127 say of one instruction word apart from its operands' values: its class, its destinations (keys),
whether it writes the flags, whether it branches; none when the word is illegal by itself (R102). lsp: the active loop levels. FCMP takes one
lane whatever `two` holds (DEDUCED, log entry 91). -/
def wordShape (lsp : Nat) (w : Word) : Option WordEff :=
  let n := w.toNat
  let f := fun lo wd => n / 2 ^ lo % 2 ^ wd
  let ok := fun (b : Bool) (e : WordEff) => if b then some e else none
  let d := f 21 5
  match f 26 5 with
  | 0x00 => ok (Nat.ble (f 0 5) 0x16 && f 9 1 == 0)
      (if f 0 5 = 0x13 ∨ f 0 5 = 0x14 then { cls := .alu, dests := [], flagW := true } else { cls := .alu, dests := [keyD d] })
  | 0x01 | 0x02 | 0x03 | 0x04 | 0x05 | 0x06 => some { cls := .alu, dests := [keyD d] }
  | 0x07 => ok (f 16 4 == 0) { cls := .alu, dests := [keyD d] }
  | 0x08 => some { cls := .alu, dests := [], flagW := true }
  | 0x09 => ok (f 0 12 == 0) (if f 12 1 = 0 then { cls := .alu, dests := [keyD d] }
      else { cls := .alu, dests := crDests (f 13 8), flagW := f 13 8 == 0x40 })
  | 0x0A => ok (f 16 6 == 0) { cls := .alu, dests := [keyC (f 22 4)] }
  | 0x1A => ok (f 0 13 == 0) { cls := .tapm, dests := [keyA (f 23 3), keyC (f 19 4), keyC (f 15 4)] }
  | 0x18 =>
    let l := laneCount (Fin.ofNat 4 (f 10 2))
    if f 6 4 = 6 then ok (f 10 2 == 0) { cls := .mac, dests := [keyD (f 0 5)] }
    else ok (Nat.ble (f 6 4) 5 && !lanesBad (Fin.ofNat 8 (f 23 3)) (Fin.ofNat 32 (f 18 5)) (Fin.ofNat 32 (f 13 5)) (Fin.ofNat 4 (f 10 2)))
      { cls := .mac, dests := (List.range l).map (fun i => keyA (f 23 3 + i)) }
  | 0x19 => ok (Nat.ble (f 6 4) 9 && f 10 2 == 0 && !(f 6 4 == 9 && f 18 1 == 1))
      (if 5 ≤ f 6 4 ∧ f 6 4 ≤ 8 then { cls := .mac, dests := [keyD (f 18 5)] } else { cls := .mac, dests := [keyA (f 23 3)] })
  | 0x1C =>
    let two := f 4 1 == 1
    let regs := match f 0 4 with
      | 3 | 4 => [d, f 16 5, f 11 5, f 6 5]
      | 0 | 1 | 2 | 5 | 6 => [d, f 16 5, f 11 5]
      | 9 => []
      | _ => [d, f 16 5]
    ok (!(two && regs.any (fun r => r % 2 != 0)))
      (if f 0 4 = 9 then { cls := .fp, dests := [], flagW := true }
       else { cls := .fp, dests := if two then [keyD d, keyD (d + 1)] else [keyD d] })
  | 0x1E => some { cls := .ctl, dests := if f 22 4 = 15 then [keyC 0x42] else [], branching := true }
  | 0x1F => match f 22 4 with
    | 0 | 5 | 8 | 9 => ok (f 0 22 == 0) { cls := .ctl, dests := [] }
    | 1 | 6 | 7 => ok (f 0 22 == 0) { cls := .ctl, dests := [], branching := true }
    | 2 => ok (f 0 18 == 0) { cls := .ctl, dests := [], branching := true }
    | 3 => some { cls := .ctl, dests := loopDests lsp }
    | 4 => ok (f 0 7 == 0) { cls := .ctl, dests := loopDests lsp }
    | _ => none
  | m =>
    if 0x10 ≤ m ∧ m ≤ 0x17 then
      let mode := f 9 3
      let upd := if mode = 0 then [] else [keyC (f 17 4)]
      let modeOk := Nat.ble mode 5 && !(Nat.ble 3 mode && Nat.ble 8 (f 17 4))
      let ds := match m with
        | 0x10 | 0x12 | 0x13 => [keyD d]
        | 0x11 => [keyD d, keyD (d + 1)]
        | 0x17 => if f 24 2 = 0 ∨ f 24 2 = 3 then [keyA (f 21 3)] else []
        | _ => []
      ok (modeOk && !((m == 0x11 || m == 0x15) && d % 2 != 0)) { cls := .ls, dests := ds ++ upd }
    else none

/-- The words form one group, or begin one that is too long: p = 1 in every word but the last, or in the first four
(R102). -/
def formsGroup (ws : List Word) : Bool :=
  let ps := ws.map (fun w => w.getLsbD 31)
  if Nat.blt 4 ws.length then (ps.take 4).all id
  else match ps.reverse with
    | [] => false
    | l :: t => !l && t.all id

/-- The group is illegal under R102, R105, R118 or R122. -/
def wordsIllegal (k : Core) (ws : List Word) : Bool :=
  let shapes := ws.map (wordShape k.bank.lsp.val)
  let es := shapes.filterMap id
  shapes.any (·.isNone) || groupIllegal es k.slot.isSome k.atEnd
    || ws.any (fun w => w.toNat / 2 ^ 22 % 2 ^ 9 == 0x1F * 16 + 6 && k.level != 1)
    || ws.any (fun w => w.toNat / 2 ^ 22 % 2 ^ 9 == 0x1F * 16 + 7 && k.level != 2)

/-- ILLEGAL_INSTRUCTION (R102, R123): a core that would issue these words as a group faults when the group is illegal, or when one of
them would be fetched outside program memory (R99); words that are no illegal group change nothing. -/
def execIllegalInstruction (c : Fin 16) (words : List Word) (s : State) : Host.Outcome State Fault Refusal :=
  Cmd.run (fun s =>
    let k := s.core c
    if !(k.group.isEmpty && canIssue s c) then s
    else if k.fetchOut || Nat.blt 0x10000 (k.pc.toNat + 4 * min 4 words.length) then coreFault s c 1
    else if formsGroup words && wordsIllegal k words then coreFault s c 0
    else s) s

end Sys2Proof.Machine
end

