-- ==== Sys2Proof/Machine/Float.lean ====
section
/-!
DEFINITION. Binary32 arithmetic as R112 gives it: exact integers in units of 2^-149 and below, rounded once to nearest
with ties to even, with the ftz, NaN, saturation and flag rules of R112.
-/
namespace Sys2Proof.Machine

/-- The largest r with r·r ≤ n, found bit by bit from bit k - 1 down. -/
def isqrtFrom (n : Nat) : Nat → Nat → Nat
  | 0, r => r
  | k + 1, r => isqrtFrom n k (if (r + 2 ^ k) * (r + 2 ^ k) ≤ n then r + 2 ^ k else r)

/-- The integer square root. -/
def isqrt (n : Nat) : Nat := isqrtFrom n (Nat.log2 n / 2 + 1) 0

/-- A binary32 value: a NaN (signalling or not), an infinity, or ± m · 2^-149. -/
inductive FNum where
  | nan (signalling : Bool)
  | inf (neg : Bool)
  | fin (neg : Bool) (m : Nat)
  deriving DecidableEq, Repr

/-- A binary32 word read; with ftz a subnormal input is a zero of its sign (R112). -/
def fdec (ftz : Bool) (x : Word) : FNum :=
  let neg := x.getLsbD 31
  let e := x.toNat / 2 ^ 23 % 256
  let f := x.toNat % 2 ^ 23
  if e = 255 then (if f = 0 then .inf neg else .nan (!x.getLsbD 22))
  else if e = 0 then .fin neg (if ftz then 0 else f)
  else .fin neg ((2 ^ 23 + f) * 2 ^ (e - 1))

/-- A result: the word and the sticky flags it sets. -/
structure FRes where
  v : Word
  fov : Bool := false
  finv : Bool := false
  sv : Bool := false
  deriving DecidableEq, Repr

/-- n / 2^r rounded to nearest, ties to even. -/
def rne (n r : Nat) : Nat :=
  if r = 0 then n
  else
    let q := n / 2 ^ r
    let rem := n % 2 ^ r
    if rem > 2 ^ (r - 1) || rem == 2 ^ (r - 1) && q % 2 == 1 then q + 1 else q

/-- The word of a sign and 31 bits. -/
def fword (neg : Bool) (bits : Nat) : Word := BitVec.ofNat 32 (bits + bit neg * 2 ^ 31)

/-- A NaN result: the quiet NaN, or +0.0 with sat; finv either way (R112). -/
def fnan (sat : Bool) : FRes := { v := if sat then 0 else 0x7FC00000#32, finv := true }

/-- An infinite result, the largest finite one with sat (R112). -/
def finf (sat neg fov : Bool) : FRes := { v := fword neg (if sat then 0x7F7FFFFF else 0x7F800000), fov := fov }

/-- The value ± n · 2^-(149 + s) rounded to `bits` significant bits (24 in full), ties to even, and encoded; overflow gives
an infinity and fov, ftz flushes a subnormal result (R112). -/
def fround (ftz sat neg : Bool) (n s bits : Nat) : FRes :=
  if n = 0 then { v := fword neg 0 }
  else
    let r := max s (Nat.log2 n + 1 - bits)
    let m := rne n r * 2 ^ (r - s)
    if 2 ^ 277 ≤ m then finf sat neg true
    else if m < 2 ^ 23 then { v := fword neg (if ftz then 0 else m) }
    else
      let l := Nat.log2 m
      { v := fword neg ((l - 22) * 2 ^ 23 + (m / 2 ^ (l - 23) - 2 ^ 23)) }

/-- A signed exact value i · 2^-(149 + s) rounded; a zero has the sign given. -/
def froundI (ftz sat zneg : Bool) (i : Int) (s : Nat) : FRes :=
  if i = 0 then { v := fword zneg 0 } else fround ftz sat (decide (i < 0)) i.natAbs s 24

/-- ± m as an integer. -/
def fint (neg : Bool) (m : Nat) : Int := if neg then -(m : Int) else m

/-- a × b + c, rounded once (R112); the exact zero sum of unlike signs is +0. -/
def ffma (ftz sat : Bool) (a b c : FNum) : FRes :=
  match a, b, c with
  | .nan _, _, _ | _, .nan _, _ | _, _, .nan _ => fnan sat
  | .inf x, .inf y, .inf z => if (x != y) == z then finf sat z false else fnan sat
  | .inf x, .inf y, .fin _ _ => finf sat (x != y) false
  | .inf x, .fin y m, .inf z => if m = 0 then fnan sat else if (x != y) == z then finf sat z false else fnan sat
  | .inf x, .fin y m, .fin _ _ => if m = 0 then fnan sat else finf sat (x != y) false
  | .fin x m, .inf y, .inf z => if m = 0 then fnan sat else if (x != y) == z then finf sat z false else fnan sat
  | .fin x m, .inf y, .fin _ _ => if m = 0 then fnan sat else finf sat (x != y) false
  | .fin _ _, .fin _ _, .inf z => finf sat z false
  | .fin x m, .fin y n, .fin z k =>
    froundI ftz sat ((x != y) && z) (fint (x != y) (m * n) + fint z (k * 2 ^ 149)) 149

/-- a + b. -/
def fadd (ftz sat : Bool) (a b : FNum) : FRes :=
  match a, b with
  | .nan _, _ | _, .nan _ => fnan sat
  | .inf x, .inf y => if x = y then finf sat x false else fnan sat
  | .inf x, .fin _ _ => finf sat x false
  | .fin _ _, .inf y => finf sat y false
  | .fin x m, .fin y n => froundI ftz sat (x && y) (fint x m + fint y n) 0

/-- The sign of a value turned. -/
def FNum.neg : FNum → FNum
  | .nan q => .nan q
  | .inf x => .inf (!x)
  | .fin x m => .fin (!x) m

/-- a × b. -/
def fmul (ftz sat : Bool) (a b : FNum) : FRes :=
  match a, b with
  | .nan _, _ | _, .nan _ => fnan sat
  | .inf x, .inf y => finf sat (x != y) false
  | .inf x, .fin y m | .fin y m, .inf x => if m = 0 then fnan sat else finf sat (x != y) false
  | .fin x m, .fin y n => fround ftz sat (x != y) (m * n) 149 24

/-- The encoding of a value. -/
def FNum.enc (sat : Bool) : FNum → FRes
  | .nan _ => fnan sat
  | .inf x => finf sat x false
  | .fin x m => fround false sat x m 0 24

/-- The order of FMIN and FMAX on numbers, -0.0 below +0.0. -/
def fless (a b : FNum) : Bool :=
  match a, b with
  | .nan _, _ | _, .nan _ => false
  | .inf x, .inf y => x && !y
  | .inf x, .fin _ _ => x
  | .fin _ _, .inf y => !y
  | .fin x m, .fin y n => decide (fint x m < fint y n) || (m == 0 && n == 0 && x && !y)

/-- Whether a value is a signalling NaN. -/
def FNum.snan : FNum → Bool
  | .nan q => q
  | _ => false

/-- FMIN (up = false) and FMAX (up = true): with one NaN the other operand (R112). -/
def fminmax (up sat : Bool) (a b : FNum) : FRes :=
  let r := match a, b with
    | .nan _, .nan _ => fnan sat
    | .nan _, y => y.enc sat
    | x, .nan _ => x.enc sat
    | x, y => if fless x y != up then x.enc sat else y.enc sat
  { r with finv := r.finv || a.snan || b.snan }

/-- FCMP: the flags z, n, c, v (R112) and whether an operand is a signalling NaN. -/
def fcompare (a b : FNum) : Bool × Bool × Bool × Bool × Bool :=
  match a, b with
  | .nan _, _ | _, .nan _ => (false, false, false, true, a.snan || b.snan)
  | .inf x, .inf y => (x == y, x && !y, !x && y, false, false)
  | .inf x, .fin _ _ => (false, x, !x, false, false)
  | .fin _ _, .inf y => (false, !y, y, false, false)
  | .fin x m, .fin y n =>
    (fint x m == fint y n, decide (fint x m < fint y n), decide (fint y n < fint x m), false, false)

/-- FCVTFQ (sh = 118) and FCVTFI (sh = 149): the value in units of 2^(sh-149), to nearest even, saturated to s32 with sv;
a NaN gives 0 and finv (R112). -/
def ftoint (a : FNum) (sh : Nat) : FRes :=
  match a with
  | .nan _ => { v := 0, finv := true }
  | .inf x => { v := if x then 0x80000000#32 else 0x7FFFFFFF#32, sv := true }
  | .fin x m =>
    let q := rne m sh
    if x then (if 2 ^ 31 < q then { v := 0x80000000#32, sv := true } else { v := BitVec.ofInt 32 (-(q : Int)) })
    else if 2 ^ 31 ≤ q then { v := 0x7FFFFFFF#32, sv := true } else { v := BitVec.ofNat 32 q }

/-- FCVTQF (sh = 118) and FCVTIF (sh = 149): the integer i in units of 2^(sh-149), to binary32. -/
def fofint (ftz sat : Bool) (i : Int) (sh : Nat) : FRes := froundI ftz sat false (i * 2 ^ sh) 0

/-- FRCP: 1 / a to 12 significant bits (R112). -/
def frcp (ftz sat : Bool) (a : FNum) : FRes :=
  match a with
  | .nan _ => fnan sat
  | .inf x => { v := fword x 0 }
  | .fin x m =>
    if m = 0 then finf sat x false
    else fround ftz sat x (2 * (2 ^ 362 / m) + bit (2 ^ 362 % m != 0)) 65 12

/-- FRSQ: 1 / √a to 12 significant bits (R112). -/
def frsq (ftz sat : Bool) (a : FNum) : FRes :=
  match a with
  | .nan _ => fnan sat
  | .inf x => if x then fnan sat else { v := 0 }
  | .fin x m =>
    if m = 0 then finf sat x false
    else if x then fnan sat
    else
      let q := isqrt (2 ^ 575 / m)
      fround ftz sat false (2 * q + bit (q * q * m != 2 ^ 575)) 65 12

end Sys2Proof.Machine
end

