-- ==== Sys2Proof/Machine/CoreFp.lean ====
section
/-!
DEFINITION. The binary32 instructions of R127 under R112.
-/
namespace Sys2Proof.Machine

/-- The sticky bits of a floating-point result. -/
def FRes.st (r : FRes) : Word :=
  (if r.fov then srFov else 0) ||| (if r.finv then srFinv else 0) ||| (if r.sv then srSv else 0)

/-- A floating-point instruction of latency lat (R103): one lane, or with `two` both lanes of the even-odd pairs (R125).
f computes a lane from the choice of its registers. -/
def effFp (two : Bool) (lat : Nat) (d : Fin 32) (srcs : List (Fin 32)) (f : (Fin 32 → Fin 32) → FRes) : WordEff :=
  let r0 := f id
  if two then
    let r1 := f nextReg
    { cls := .fp, dests := [keyD d.val, keyD (nextReg d).val], illegal := pairBad two (d :: srcs),
      writes := (lat, .d d r0.v) :: (lat, .d (nextReg d) r1.v) :: stickyAt lat (r0.st ||| r1.st) }
  else { cls := .fp, dests := [keyD d.val], writes := (lat, .d d r0.v) :: stickyAt lat r0.st }

/-- FADD d, a, b (R112). -/
def execFadd (c : Fin 16) (last : Bool) (two sat : Bool) (d a b : Fin 32) (s : State) : Host.Outcome State Fault Refusal :=
  coreCmd c last (fun v => effFp two 4 d [a, b] (fun sel => let x := fun n => fdec v.ftz (v.d (sel n)); fadd v.ftz sat (x a) (x b))) s

/-- FSUB d, a, b (R112). -/
def execFsub (c : Fin 16) (last : Bool) (two sat : Bool) (d a b : Fin 32) (s : State) : Host.Outcome State Fault Refusal :=
  coreCmd c last (fun v => effFp two 4 d [a, b] (fun sel => let x := fun n => fdec v.ftz (v.d (sel n)); fadd v.ftz sat (x a) (x b).neg)) s

/-- FMUL d, a, b (R112). -/
def execFmul (c : Fin 16) (last : Bool) (two sat : Bool) (d a b : Fin 32) (s : State) : Host.Outcome State Fault Refusal :=
  coreCmd c last (fun v => effFp two 4 d [a, b] (fun sel => let x := fun n => fdec v.ftz (v.d (sel n)); fmul v.ftz sat (x a) (x b))) s

/-- FMIN d, a, b (R112). -/
def execFmin (c : Fin 16) (last : Bool) (two sat : Bool) (d a b : Fin 32) (s : State) : Host.Outcome State Fault Refusal :=
  coreCmd c last (fun v => effFp two 4 d [a, b] (fun sel => let x := fun n => fdec v.ftz (v.d (sel n)); fminmax false sat (x a) (x b))) s

/-- FMAX d, a, b (R112). -/
def execFmax (c : Fin 16) (last : Bool) (two sat : Bool) (d a b : Fin 32) (s : State) : Host.Outcome State Fault Refusal :=
  coreCmd c last (fun v => effFp two 4 d [a, b] (fun sel => let x := fun n => fdec v.ftz (v.d (sel n)); fminmax true sat (x a) (x b))) s

/-- FMA d, a, b, c: a × b + c, rounded once (R112). -/
def execFma (c : Fin 16) (last : Bool) (two sat : Bool) (d a b e : Fin 32) (s : State) : Host.Outcome State Fault Refusal :=
  coreCmd c last (fun v => effFp two 4 d [a, b, e] (fun sel => let x := fun n => fdec v.ftz (v.d (sel n)); ffma v.ftz sat (x a) (x b) (x e))) s

/-- FMS d, a, b, c: c − a × b, rounded once (R112). -/
def execFms (c : Fin 16) (last : Bool) (two sat : Bool) (d a b e : Fin 32) (s : State) : Host.Outcome State Fault Refusal :=
  coreCmd c last (fun v => effFp two 4 d [a, b, e] (fun sel => let x := fun n => fdec v.ftz (v.d (sel n)); ffma v.ftz sat (x a).neg (x b) (x e))) s

/-- FABS d, a: the sign bit cleared, no flags. -/
def execFabs (c : Fin 16) (last : Bool) (two : Bool) (d a : Fin 32) (s : State) : Host.Outcome State Fault Refusal :=
  coreCmd c last (fun v => effFp two 4 d [a] (fun sel => { v := v.d (sel a) &&& 0x7FFFFFFF#32 })) s

/-- FNEG d, a: the sign bit turned, no flags. -/
def execFneg (c : Fin 16) (last : Bool) (two : Bool) (d a : Fin 32) (s : State) : Host.Outcome State Fault Refusal :=
  coreCmd c last (fun v => effFp two 4 d [a] (fun sel => { v := v.d (sel a) ^^^ 0x80000000#32 })) s

/-- FCMP a, b (R112). -/
def execFcmp (c : Fin 16) (last : Bool) (a b : Fin 32) (s : State) : Host.Outcome State Fault Refusal :=
  coreCmd c last (fun v => 
    let r := fcompare (fdec v.ftz (v.d a)) (fdec v.ftz (v.d b))
    { cls := .fp, dests := [], flagW := true,
      writes := (4, .flags r.1 r.2.1 r.2.2.1 r.2.2.2.1) :: stickyAt 4 (if r.2.2.2.2 then srFinv else 0) }) s

/-- FCVTQF d, a (R112). -/
def execFcvtqf (c : Fin 16) (last : Bool) (two sat : Bool) (d a : Fin 32) (s : State) : Host.Outcome State Fault Refusal :=
  coreCmd c last (fun v => effFp two 4 d [a] (fun sel => fofint v.ftz sat (v.d (sel a)).toInt 118)) s

/-- FCVTFQ d, a (R112). -/
def execFcvtfq (c : Fin 16) (last : Bool) (two : Bool) (d a : Fin 32) (s : State) : Host.Outcome State Fault Refusal :=
  coreCmd c last (fun v => effFp two 4 d [a] (fun sel => ftoint (fdec v.ftz (v.d (sel a))) 118)) s

/-- FCVTIF d, a (R112). -/
def execFcvtif (c : Fin 16) (last : Bool) (two sat : Bool) (d a : Fin 32) (s : State) : Host.Outcome State Fault Refusal :=
  coreCmd c last (fun v => effFp two 4 d [a] (fun sel => fofint v.ftz sat (v.d (sel a)).toInt 149)) s

/-- FCVTFI d, a (R112). -/
def execFcvtfi (c : Fin 16) (last : Bool) (two : Bool) (d a : Fin 32) (s : State) : Host.Outcome State Fault Refusal :=
  coreCmd c last (fun v => effFp two 4 d [a] (fun sel => ftoint (fdec v.ftz (v.d (sel a))) 149)) s

/-- FRCP d, a (R112). -/
def execFrcp (c : Fin 16) (last : Bool) (two sat : Bool) (d a : Fin 32) (s : State) : Host.Outcome State Fault Refusal :=
  coreCmd c last (fun v => effFp two 6 d [a] (fun sel => frcp v.ftz sat (fdec v.ftz (v.d (sel a))))) s

/-- FRSQ d, a (R112). -/
def execFrsq (c : Fin 16) (last : Bool) (two sat : Bool) (d a : Fin 32) (s : State) : Host.Outcome State Fault Refusal :=
  coreCmd c last (fun v => effFp two 6 d [a] (fun sel => frsq v.ftz sat (fdec v.ftz (v.d (sel a))))) s

end Sys2Proof.Machine
end

