-- ==== Sys2Proof/Machine/CoreMac.lean ====
section
/-!
DEFINITION. The MAC-group instructions of R127.
-/
namespace Sys2Proof.Machine

/-- TAPM and TAPM.Z (R116): two taps of a filter and the move of the two samples one word up. -/
def effTapm (v : CView) (A : Fin 8) (pi pj : Fin 16) (z : Bool) : WordEff :=
  let a := (v.p pi).toNat
  let c := (v.p pj).toNat
  let bad := !(Nat.ble 0x10004 a && Nat.blt (a + 4) 0x28000) || !(Nat.ble 0x28004 c && Nat.blt c 0x40000)
    || a % 4 != 0 || c % 4 != 0
  let s0 := v.load a 4
  let s1 := v.load (a - 4) 4
  let t := (leWord s0).toInt * (leWord (v.load c 4)).toInt + (leWord s1).toInt * (leWord (v.load (c - 4) 4)).toInt
  let r := if z then (⟨BitVec.ofInt 80 t, 0, false⟩, false) else accStep (v.accIn A) t
  { cls := .tapm, dests := [keyA A.val, keyC pi.val, keyC pj.val], access := bad, lanes := 2,
    loads := [(a - 4, 8), (c - 4, 8)], stores := [(a, s1 ++ s0)],
    writes := (3, .acc A r.1 true) :: (1, .ctl pi.val (v.p pi - 8)) :: (1, .ctl pj.val (v.p pj - 8))
      :: stickyAt 3 (if r.2 then srAov else 0) }

/-- MPY A, x, y: A := x × y (R107, R108). -/
def execMpy (c : Fin 16) (last : Bool) (A : Fin 8) (x y : Fin 32) (lanes : Fin 4) (s : State) : Host.Outcome State Fault Refusal :=
  coreCmd c last (fun v => effMac A x y lanes (fun _ x y => (⟨BitVec.ofInt 80 ((v.d x).toInt * (v.d y).toInt), 0, false⟩, false))) s

/-- MAC A, x, y. -/
def execMac (c : Fin 16) (last : Bool) (A : Fin 8) (x y : Fin 32) (lanes : Fin 4) (s : State) : Host.Outcome State Fault Refusal :=
  coreCmd c last (fun v => effMac A x y lanes (fun a x y => accStep (v.accIn a) ((v.d x).toInt * (v.d y).toInt))) s

/-- MSU A, x, y. -/
def execMsu (c : Fin 16) (last : Bool) (A : Fin 8) (x y : Fin 32) (lanes : Fin 4) (s : State) : Host.Outcome State Fault Refusal :=
  coreCmd c last (fun v => effMac A x y lanes (fun a x y => accStep (v.accIn a) (-((v.d x).toInt * (v.d y).toInt)))) s

/-- MPYSU A, x, y: y unsigned. -/
def execMpysu (c : Fin 16) (last : Bool) (A : Fin 8) (x y : Fin 32) (lanes : Fin 4) (s : State) : Host.Outcome State Fault Refusal :=
  coreCmd c last (fun v => effMac A x y lanes (fun _ x y => (⟨BitVec.ofInt 80 ((v.d x).toInt * ((v.d y).toNat : Int)), 0, false⟩, false))) s

/-- MACSU A, x, y: y unsigned. -/
def execMacsu (c : Fin 16) (last : Bool) (A : Fin 8) (x y : Fin 32) (lanes : Fin 4) (s : State) : Host.Outcome State Fault Refusal :=
  coreCmd c last (fun v => effMac A x y lanes (fun a x y => accStep (v.accIn a) ((v.d x).toInt * ((v.d y).toNat : Int)))) s

/-- MACUU A, x, y: both unsigned. -/
def execMacuu (c : Fin 16) (last : Bool) (A : Fin 8) (x y : Fin 32) (lanes : Fin 4) (s : State) : Host.Outcome State Fault Refusal :=
  coreCmd c last (fun v => effMac A x y lanes (fun a x y => accStep (v.accIn a) (((v.d x).toNat : Int) * ((v.d y).toNat : Int)))) s

/-- MULL d, x, y. -/
def execMull (c : Fin 16) (last : Bool) (sat : Bool) (d x y : Fin 32) (s : State) : Host.Outcome State Fault Refusal :=
  coreCmd c last (fun v => 
    let r := satRes sat ((v.d x).toInt * (v.d y).toInt)
    effMacD d r.1 (if r.2 then srSv else 0)) s

/-- CLRA A. -/
def execClra (c : Fin 16) (last : Bool) (A : Fin 8) (s : State) : Host.Outcome State Fault Refusal :=
  coreCmd c last (fun _ => effAcc A Acc.zero 0 false) s

/-- ADDA A, Am (R108). -/
def execAdda (c : Fin 16) (last : Bool) (A Am : Fin 8) (s : State) : Host.Outcome State Fault Refusal :=
  coreCmd c last (fun v => 
    let r := accAdd (v.a A) (v.a Am) 1
    effAcc A r.1 (if r.2 then srAov else 0) false) s

/-- SUBA A, Am (R108). -/
def execSuba (c : Fin 16) (last : Bool) (A Am : Fin 8) (s : State) : Host.Outcome State Fault Refusal :=
  coreCmd c last (fun v => 
    let r := accAdd (v.a A) (v.a Am) (-1)
    effAcc A r.1 (if r.2 then srAov else 0) false) s

/-- NEGA A (R108). -/
def execNega (c : Fin 16) (last : Bool) (A : Fin 8) (s : State) : Host.Outcome State Fault Refusal :=
  coreCmd c last (fun v => 
    let r := accNeg (v.a A)
    effAcc A r.1 (if r.2 then srAov else 0) false) s

/-- SHA A, #s (R111). -/
def execSha (c : Fin 16) (last : Bool) (sat : Bool) (A : Fin 8) (n : BitVec 6) (s : State) : Host.Outcome State Fault Refusal :=
  coreCmd c last (fun v => 
    let r := accShift (v.a A) n.toInt sat
    effAcc A r.1 r.2 false) s

/-- EXT d, A, #k: extract to 32 bits (R109). -/
def execExt (c : Fin 16) (last : Bool) (sat : Bool) (d : Fin 32) (A : Fin 8) (k : Fin 64) (s : State) : Host.Outcome State Fault Refusal :=
  coreCmd c last (fun v => 
    let r := extract v.rnd (v.a A) k.val 32 sat
    effMacD d (BitVec.ofNat 32 r.1) r.2) s

/-- MVAL d, A: acc[31:0] (R110). -/
def execMval (c : Fin 16) (last : Bool) (d : Fin 32) (A : Fin 8) (s : State) : Host.Outcome State Fault Refusal :=
  coreCmd c last (fun v => effMacD d ((v.a A).acc.setWidth 32) 0) s

/-- MVAH d, A: acc[63:32] (R110). -/
def execMvah (c : Fin 16) (last : Bool) (d : Fin 32) (A : Fin 8) (s : State) : Host.Outcome State Fault Refusal :=
  coreCmd c last (fun v => effMacD d (((v.a A).acc >>> 32).setWidth 32) 0) s

/-- MVAG d, A: acc[79:64], wc and LOST (R110). -/
def execMvag (c : Fin 16) (last : Bool) (d : Fin 32) (A : Fin 8) (s : State) : Host.Outcome State Fault Refusal :=
  coreCmd c last (fun v => effMacD d (v.a A).gWord 0) s

/-- MOVA A, x: x + 1:x sign-extended, x even. -/
def execMova (c : Fin 16) (last : Bool) (A : Fin 8) (x : Fin 32) (s : State) : Host.Outcome State Fault Refusal :=
  coreCmd c last (fun v => { effAcc A ⟨BitVec.ofInt 80 ((v.d (nextReg x)).toInt * 2 ^ 32 + (v.d x).toNat), 0, false⟩ 0 false with
      illegal := x.val % 2 != 0 }) s

/-- TAPM A, pi, pj (R116). -/
def execTapm (c : Fin 16) (last : Bool) (A : Fin 8) (pi pj : Fin 16) (s : State) : Host.Outcome State Fault Refusal :=
  coreCmd c last (fun v => effTapm v A pi pj false) s

/-- TAPM.Z A, pi, pj (R116). -/
def execTapmZ (c : Fin 16) (last : Bool) (A : Fin 8) (pi pj : Fin 16) (s : State) : Host.Outcome State Fault Refusal :=
  coreCmd c last (fun v => effTapm v A pi pj true) s

end Sys2Proof.Machine
end

