-- ==== Sys2Proof/Machine/CoreMem.lean ====
section
/-!
DEFINITION. The load and store instructions of R127.
-/
namespace Sys2Proof.Machine

/-- LD.W d, EA. -/
def execLdW (c : Fin 16) (last : Bool) (d : Fin 32) (p m : Fin 16) (mode : Fin 8) (imm : BitVec 9) (s : State) : Host.Outcome State Fault Refusal :=
  coreCmd c last (fun v => effLoad v p m mode imm 4 [keyD d.val] false (fun bs => [(2, .d d (leWord bs))])) s

/-- LD.D d, EA: d + 1:d, d even. -/
def execLdD (c : Fin 16) (last : Bool) (d : Fin 32) (p m : Fin 16) (mode : Fin 8) (imm : BitVec 9) (s : State) : Host.Outcome State Fault Refusal :=
  coreCmd c last (fun v => effLoad v p m mode imm 8 [keyD d.val, keyD (d.val + 1)] (d.val % 2 != 0) (fun bs =>
    [(2, .d d (leWord (bs.take 4))), (2, .d (nextReg d) (leWord (bs.drop 4)))])) s

/-- LD.H d, EA: 16 bits to Q1.31. -/
def execLdH (c : Fin 16) (last : Bool) (d : Fin 32) (p m : Fin 16) (mode : Fin 8) (imm : BitVec 9) (s : State) : Host.Outcome State Fault Refusal :=
  coreCmd c last (fun v => effLoad v p m mode imm 2 [keyD d.val] false (fun bs => [(2, .d d (leWord bs <<< 16))])) s

/-- LD.HS d, EA: 16 bits sign-extended. -/
def execLdHs (c : Fin 16) (last : Bool) (d : Fin 32) (p m : Fin 16) (mode : Fin 8) (imm : BitVec 9) (s : State) : Host.Outcome State Fault Refusal :=
  coreCmd c last (fun v => effLoad v p m mode imm 2 [keyD d.val] false (fun bs => [(2, .d d (BitVec.ofInt 32 (sx 16 (leNat bs))))])) s

/-- ST.W EA, d. -/
def execStW (c : Fin 16) (last : Bool) (d : Fin 32) (p m : Fin 16) (mode : Fin 8) (imm : BitVec 9) (s : State) : Host.Outcome State Fault Refusal :=
  coreCmd c last (fun v => effStore v p m mode imm (leBytes 4 (v.d d).toNat) false 0) s

/-- ST.D EA, d: d + 1:d, d even. -/
def execStD (c : Fin 16) (last : Bool) (d : Fin 32) (p m : Fin 16) (mode : Fin 8) (imm : BitVec 9) (s : State) : Host.Outcome State Fault Refusal :=
  coreCmd c last (fun v => effStore v p m mode imm (leBytes 4 (v.d d).toNat ++ leBytes 4 (v.d (nextReg d)).toNat) (d.val % 2 != 0) 0) s

/-- ST.H EA, d: d[31:16]; with sat = 1 rounded at bit 15, ties upward, and saturated (R127). -/
def execStH (c : Fin 16) (last : Bool) (sat : Bool) (d : Fin 32) (p m : Fin 16) (mode : Fin 8) (imm : BitVec 9) (s : State) : Host.Outcome State Fault Refusal :=
  coreCmd c last (fun v => 
    let r := rshift (v.d d).toInt 16
    if sat then effStore v p m mode imm (leBytes 2 (toU 16 (satS 16 r))) false (if satS 16 r = r then 0 else srSv)
    else effStore v p m mode imm (leBytes 2 ((v.d d).toNat / 2 ^ 16)) false 0) s

/-- LDA A, EA: 64 bits sign-extended, wc and LOST cleared (R108). -/
def execLda (c : Fin 16) (last : Bool) (A : Fin 8) (p m : Fin 16) (mode : Fin 8) (imm : BitVec 9) (s : State) : Host.Outcome State Fault Refusal :=
  coreCmd c last (fun v => effLoad v p m mode imm 8 [keyA A.val] false (fun bs => [(3, .acc A ⟨BitVec.ofInt 80 (sx 64 (leNat bs)), 0, false⟩ false)])) s

/-- STA EA, A: extract with k = 0, w = 64 (R109). -/
def execSta (c : Fin 16) (last : Bool) (sat : Bool) (A : Fin 8) (p m : Fin 16) (mode : Fin 8) (imm : BitVec 9) (s : State) : Host.Outcome State Fault Refusal :=
  coreCmd c last (fun v => 
    let r := extract v.rnd (v.a A) 0 64 sat
    effStore v p m mode imm (leBytes 8 r.1) false r.2) s

/-- SAVA EA, A: the raw accumulator in 128 bits (R110). Its two words stand one after the other in a circular mode too. (DEDUCED, log entry 91.) -/
def execSava (c : Fin 16) (last : Bool) (A : Fin 8) (p m : Fin 16) (mode : Fin 8) (imm : BitVec 9) (s : State) : Host.Outcome State Fault Refusal :=
  coreCmd c last (fun v => effStore v p m mode imm (leBytes 8 ((v.a A).acc.toNat % 2 ^ 64) ++ leBytes 8 (v.a A).gWord.toNat) false 0) s

/-- RSTA A, EA: the accumulator read back (R110), from two words one after the other in a circular mode too. (DEDUCED, log entry 91.) -/
def execRsta (c : Fin 16) (last : Bool) (A : Fin 8) (p m : Fin 16) (mode : Fin 8) (imm : BitVec 9) (s : State) : Host.Outcome State Fault Refusal :=
  coreCmd c last (fun v => effLoad v p m mode imm 16 [keyA A.val] false (fun bs =>
    let g := leNat (bs.drop 8)
    [(3, .acc A ⟨BitVec.ofNat 80 (leNat (bs.take 8) + g % 2 ^ 16 * 2 ^ 64), sx 4 (g / 2 ^ 16), g / 2 ^ 20 % 2 == 1⟩ false)])) s

end Sys2Proof.Machine
end

