-- ==== Sys2Proof/Machine/HostIf.lean ====
section
/-!
DEFINITION. The two-wire target (R357, R358, R426 to R428) and the in-band decoder (R359 to R361).
-/
namespace Sys2Proof.Machine

/-! ## The two-wire target -/

/-- The address TWT answers (R372, R426). -/
def State.twtAddr (s : State) : Nat := 0x48 + s.sys.straps.twtAddr.val

/-- TWT does not acknowledge the wake transaction (R428). -/
def twtWake (s : State) : State := ((wakeUp s 2).mark R.TWT_STAT.wake_nack).emit .nack

/-- A transaction to TWT's address: not acknowledged in RESET, the wake event in STANDBY, else f. -/
def twtGate (f : State → State) (s : State) : State :=
  match s.sys.state with
  | .reset => s.emit .nack
  | .standby => twtWake s
  | _ => f s

/-- An error that TWT counts with its cause (R427). -/
def twtError (s : State) (cause : Nat) : State := (s.bump R.TWT_ERR.count).put R.TWT_STAT.last_cause cause

/-- A byte not acknowledged under R357. -/
def twtRefuse (s : State) : State := (twtError s 1).emit .nack

/-- The pointer advances by n bytes; it holds 25 bits. (DEDUCED, log entry 72.) -/
def twtAdvance (s : State) (n : Nat) : State := s.bump R.TWT_PTR.ptr n

/-- TWT_SET_POINTER. -/
def execTwtSetPointer (a : Word) (s : State) : Host.Outcome State Fault Refusal :=
  Cmd.run (twtGate fun s => if Nat.blt 0x1FFFFFC a.toNat then twtRefuse s else s.put R.TWT_PTR.ptr a.toNat) s

/-- One word of a block is written at the pointer; status bit 0 follows it. -/
def twtWriteWord (s : State) (v : Word) : State :=
  let (st, s) := regWriteAs .twt (s.get R.TWT_PTR.ptr) v none none none s
  if s.sys.state = .reset then s
  else twtAdvance { s with hif := { s.hif with twtRefused := st == 1 || st == 3 } } 4

/-- The PEC of a block write of these words (R358). -/
def twtPec (s : State) (words : List Word) : Byte :=
  crc8 (BitVec.ofNat 8 (2 * s.twtAddr) :: 0x02#8 :: BitVec.ofNat 8 (4 * words.length) :: words.flatMap (fun w => leBytes 4 w.toNat))

/-- TWT_WRITE_BLOCK. -/
def execTwtWriteBlock (words : List Word) (pec : Option Byte) (s : State) : Host.Outcome State Fault Refusal :=
  Cmd.run (twtGate fun s =>
    if words.isEmpty || Nat.blt 8 words.length then twtRefuse s
    else match pec with
      | some p =>
        if p = twtPec s words then words.foldl twtWriteWord s
        else twtError { s with hif := { s.hif with twtPec := true } } 3
      | none => words.foldl twtWriteWord s) s

/-- What a read of command code puts on the bus: the data, and the PEC for a controller that acknowledges the last data byte
(R358). -/
def twtAnswer (s : State) (code : Byte) (count : List Byte) (data : List Byte) : List Byte :=
  let w := BitVec.ofNat 8 (2 * s.twtAddr)
  count ++ data ++ [crc8 ([w, code, w + 1#8] ++ count ++ data)]

/-- n words read at the pointer, which advances past them. -/
def twtWords : Nat → State → List Byte × State
  | 0, s => ([], s)
  | n + 1, s =>
    let (v, s) := regRead s (s.get R.TWT_PTR.ptr)
    let (t, s) := twtWords n (twtAdvance s 4)
    (leBytes 4 v.toNat ++ t, s)

/-- A block read of n words. -/
def twtRead (code : Byte) (n : Nat) : State → State := twtGate fun s =>
  let (b, s) := twtWords n s
  s.emit (.bytes (twtAnswer s code [BitVec.ofNat 8 (4 * n)] b))

/-- TWT_READ_WORD. -/
def execTwtReadWord (s : State) : Host.Outcome State Fault Refusal := Cmd.run (twtRead 0x03#8 1) s

/-- TWT_READ_BLOCK. -/
def execTwtReadBlock (s : State) : Host.Outcome State Fault Refusal := Cmd.run (twtRead 0x04#8 8) s

/-- TWT_READ_STATUS: both bits are cleared. -/
def execTwtReadStatus (s : State) : Host.Outcome State Fault Refusal :=
  Cmd.run (twtGate fun s =>
    let b := BitVec.ofNat 8 (bit s.hif.twtRefused + 2 * bit s.hif.twtPec)
    let s := s.emit (.bytes (twtAnswer s 0x05#8 [] [b]))
    { s with hif := { s.hif with twtRefused := false, twtPec := false } }) s

/-- A command code with a count that R357 allows for it. -/
def twtValid (code count : Byte) : Bool :=
  match code.toNat with
  | 1 => count == 4
  | 2 => count.toNat % 4 == 0 && Nat.ble 4 count.toNat && Nat.ble count.toNat 32
  | 3 | 4 | 5 => true
  | _ => false

/-- TWT_INVALID_COMMAND. -/
def execTwtInvalidCommand (code count : Byte) (s : State) : Host.Outcome State Fault Refusal :=
  Cmd.run (twtGate fun s => if twtValid code count then s else twtRefuse s) s

/-- TWT_ABANDON. -/
def execTwtAbandon (shortBlock : Bool) (s : State) : Host.Outcome State Fault Refusal :=
  Cmd.run (twtGate fun s => twtError s (if shortBlock then 4 else 2)) s

/-- TWT_SCL_TIMEOUT. -/
def execTwtSclTimeout (s : State) : Host.Outcome State Fault Refusal := Cmd.run (twtGate fun s => twtError s 5) s

/-- TWT_STANDBY_WAKE: an address byte in STANDBY that names TWT wakes the engine; one that names another does not. -/
def execTwtStandbyWake (addr : Fin 128) (s : State) : Host.Outcome State Fault Refusal :=
  Cmd.run (fun s => if s.sys.state = .standby ∧ addr.val = s.twtAddr then twtWake s else s) s

/-! ## In-band control -/

/-- The fields of a request's payload (R359). -/
structure IbReq where
  ver : Nat
  op : Nat
  n : Nat
  ctr : Nat
  pnl : Nat
  rid : Nat

/-- The header of a payload. -/
def ibReq (b : List Byte) : IbReq := ⟨fbe b 0 1, fbe b 1 1, fbe b 2 2, fbe b 4 4, fbe b 8 4, fbe b 12 4⟩

/-- The length matches n and op, and the version is 1. -/
def IbReq.formed (r : IbReq) (len : Nat) : Bool :=
  r.ver == 1 && Nat.ble 1 r.n && Nat.ble r.n 64 && ((r.op == 1 && len == 32 + 8 * r.n) || (r.op == 2 && len == 32 + 4 * r.n))

/-- The request is not fresh (R360). -/
def ibStale (s : State) (r : IbReq) : Bool :=
  !s.ptp.taken || Nat.blt (max 1 (s.get R.HIF_IB_CFG.fresh) * 256) (extend32 s.pn r.pnl - s.pn).natAbs

/-- The counter has been used, or lies too far back (R360). -/
def ibReplay (s : State) (ctr : Nat) : Bool :=
  match s.hif.ibHigh with
  | none => false
  | some h =>
    let back := (h + 2 ^ 32 - ctr) % 2 ^ 32
    !newer ctr h 32 && (back == 0 || Nat.blt 63 back || s.hif.ibSeen.contains ctr)

/-- A counter is accepted: the highest moves up, and what lies more than 63 below it is forgotten. -/
def ibAccept (s : State) (ctr : Nat) : State :=
  let h := match s.hif.ibHigh with | none => ctr | some h => if newer ctr h 32 then ctr else h
  { s with hif := { s.hif with
    ibHigh := some h
    ibSeen := (ctr :: s.hif.ibSeen).filter (fun c => Nat.ble ((h + 2 ^ 32 - c) % 2 ^ 32) 63) } }

/-- The entries of an accepted request are taken in order: address and status, or address and data (R361). -/
def ibTake (op : Nat) : List Nat → List Byte → State → List (Nat × Word) × State
  | [], _, s => ([], s)
  | i :: t, b, s =>
    let (x, s) := if op = 1 then
        let a := fbe b (16 + 8 * i) 4
        let (st, s) := regWriteAs .inband a (BitVec.ofNat 32 (fbe b (20 + 8 * i) 4)) none none none s
        ((a, BitVec.ofNat 32 st), s)
      else
        let a := fbe b (16 + 4 * i) 4
        let (v, s) := regRead s a
        ((a, v), s)
    let (l, s) := ibTake op t b s
    (x :: l, s)

/-- A request is discarded and counted under cause k (1 bad_tag, 2 stale, 3 replay, 4 malformed). -/
def ibDiscard (s : State) (k : Nat) : State := (s.bump (R.HIF_IB_CNT.count k)).emit .discarded

/-- A datagram to the in-band decoder, in a frame without its FCS on this port, whose op is `op`, or neither op (R359 to R361). -/
def ibRequest (op : Nat) (port : Fin 8) (frame : List Byte) (tagOk : Bool) (s : State) : State :=
  let f := rxFrame s port.val 0 frame false
  if s.sys.state = .reset ∨ s.sys.state = .standby ∨ ¬ s.linkUp port.val ∨ s.isTwinPort port.val ∨ ¬ acceptsDa s port.val f.h.da f.vid
      ∨ ¬ inbandTakes s port.val frame f.h then s
  else match udpOf frame f.h with
    | none => s
    | some u =>
      let b := u.payload
      let r := ibReq b
      if r.op = 3 - op then s
      else if !r.formed b.length then ibDiscard s 4
      else if !tagOk then (ibDiscard s 1).raise 1 0xC 4 port.val
      else if ibStale s r then ibDiscard s 2
      else if ibReplay s r.ctr then ibDiscard s 3
      else
        let s := (ibAccept s r.ctr).bump (R.HIF_IB_CNT.count 0)
        let (l, s) := ibTake op (List.range r.n) b s
        if s.sys.state = .reset then s
        else
          let peer : IbPeer := ⟨f.h.sa, f.h.tag, u.v6, u.src, u.dst, u.sport⟩
          { s with hif := { s.hif with answers := s.hif.answers ++ [⟨port.val, peer, op, r.ctr, r.rid, l⟩] } }

/-- INBAND_WRITE. -/
def execInbandWrite (port : Fin 8) (frame : List Byte) (tagOk : Bool) (s : State) : Host.Outcome State Fault Refusal :=
  Cmd.run (ibRequest 1 port frame tagOk) s

/-- INBAND_READ. -/
def execInbandRead (port : Fin 8) (frame : List Byte) (tagOk : Bool) (s : State) : Host.Outcome State Fault Refusal :=
  Cmd.run (ibRequest 2 port frame tagOk) s

/-- The payload of an answer before its tag (R361). -/
def IbAnswer.bytes (x : IbAnswer) (pnl : Nat) : List Byte :=
  beBytes 1 1 ++ beBytes 1 (x.op + 0x80) ++ beBytes 2 x.entries.length ++ beBytes 4 x.ctr ++ beBytes 4 pnl ++ beBytes 4 x.rid
    ++ x.entries.flatMap (fun e => beBytes 4 e.1 ++ beBytes 4 e.2.toNat)

/-- The frame of an answer with this payload, to whom the request came from; hop limit, DSCP and identification are free. (DEDUCED, log entry 74.) -/
def IbAnswer.frame (x : IbAnswer) (s : State) (free : Nat) (pl : List Byte) : List Byte :=
  ethBuild x.peer.mac (s.portMac x.port) x.peer.tag (if x.peer.v6 then 0x86DD else 0x0800)
    ++ udpBuild x.peer.v6 x.peer.me x.peer.ip (s.get R.HIF_IB_CFG.udp_port) x.peer.udp (free % 256) (free / 2 ^ 8 % 64) (free / 2 ^ 14 % 2 ^ 16) false pl

/-- INBAND_ANSWER: the oldest answer goes to TC6 of its port with the engine's PNL (R192, R361). -/
def execInbandAnswer (tag : BitVec 128) (s : State) : Host.Outcome State Fault Refusal :=
  Cmd.run (fun s =>
    match s.hif.answers with
    | [] => s
    | x :: t =>
      let (f, s) := s.freeNat
      let pl := x.bytes s.pnl ++ beBytes 16 tag.toNat
      ethQueue { s with hif := { s.hif with answers := t } } x.port 6 ⟨padFrame (x.frame s f pl), .own, false⟩) s

end Sys2Proof.Machine
end

