-- ==== Sys2Proof/Machine/Twin.lean ====
section
/-!
DEFINITION. Twin operation (chapter 12): reception on the twin link, ingress agreement, digests, service states, re-join.
-/
namespace Sys2Proof.Machine

/-! ## Service states (R287) -/

/-- The twin enters out. `half`: it leaves a transfer or check that is not complete. -/
def enterOut (s : State) (half : Bool) : State :=
  let s := (s.put R.TWIN_STAT.state 1).put R.TWIN_STAT.match_run 0
  { s with twin := { s.twin with
    armed := false, asked := false, start := none, todo := [], skipped := [], own := [], waits := [], batches := []
    xferDone := false, copy := none, muted := false, yielding := false, peerYields := false, failed := false, gone := false, late := false
    half := s.twin.half || half, highB := 0 } }

/-- The twin enters alone. -/
def enterAlone (s : State) : State :=
  let s := (s.put R.TWIN_STAT.state 2).put R.TWIN_STAT.match_run 0
  { s with twin := { s.twin with peerYields := false, start := none, highB := 0 } }

/-- The twin enters sync: the re-joiner completes its re-join, the active twin follows it at the same boundary (R306). (DEDUCED, log entry 43.) -/
def enterSync (s : State) (rejoiner : Bool) : State :=
  let s := s.put R.TWIN_STAT.state 5
  let s := { s with twin := { s.twin with start := none, half := false, peerYields := false } }
  if rejoiner then (s.mark R.TWIN_EVT.synced).bump R.TWIN_REJOINS.count else s

/-! ## Digests (R298, R299) -/

/-- The destinations that the digest takes, ascending. -/
def digestDsts (s : State) : List Nat :=
  ((List.range 0x1C18).filter (fun d => (Nat.blt d 0x1200 || Nat.ble 0x1A00 d) && s.dstOk d)).filter
    (fun d => !(Nat.ble 0x1A00 d && Nat.blt d 0x1B00) || s.flag (R.XIO_BR_CFG.dir (d - 0x1A00)))

/-- n bit steps of the CRC-64. -/
def crc64Bits : Nat → BitVec 64 → BitVec 64
  | 0, c => c
  | n + 1, c => crc64Bits n (if c.getLsbD 63 then (c <<< 1) ^^^ 0x42F0E1EBA9EA3693#64 else c <<< 1)

/-- The CRC-64 of a byte string. -/
def crc64 (b : List Byte) : BitVec 64 :=
  b.foldl (fun c x => crc64Bits 8 (c ^^^ ((x.setWidth 64 : BitVec 64) <<< 56))) (BitVec.allOnes 64)

/-- The digest of pass p, whose output samples have just been formed. -/
def passDigest (s : State) (p : Nat) : BitVec 64 :=
  let smp := fun (d : Nat) => let v := (assocGet d s.mash.out).getD []
    (List.range s.nSamp).flatMap (fun i => beBytes 4 (toU 32 (v.getD i 0)))
  crc64 (beBytes 8 p ++ (digestDsts s).flatMap smp ++ s.egsEn.map (fun i => BitVec.ofNat 8 (s.get (R.SXE_EG_STATE.gen i))))

/-- A local fault is on record for the pass under way: in it or the 64 P before it. -/
def State.faultRec (s : State) : Bool := match s.twin.faultBnd with | some b => Nat.ble s.sys.bnd (b + 64) | none => false

/-- The input period of pass p. -/
def State.inputOf (s : State) (p : Nat) : Nat := p - s.dIn - 1

/-- The agreement for the input period of pass p was incomplete here. -/
def State.passFlagged (s : State) (p : Nat) : Bool := s.twin.bad.contains (s.inputOf p)

/-- At the end of a pass its digest is taken, with its flag and whether a local fault is on record (R298, R299). -/
def digestTake (s : State) : State :=
  if !s.twinMode || s.twinState == 0 || !s.sys.dataPlane then s
  else
    let d := passDigest s s.pn
    let s := (s.setReg R.TWIN_DIG_LO.reg (d.setWidth 32)).setReg R.TWIN_DIG_HI.reg ((d >>> 32).setWidth 32)
    { s with twin := { s.twin with dig := some (s.pn, d, s.passFlagged s.pn, s.faultRec) } }

/-- A mismatch of pass p (R299): who yields. -/
def mismatch (s : State) (p : Nat) (own peerRec : Bool) : State :=
  let s := (s.mark R.TWIN_EVT.mismatch).bump R.TWIN_MISMATCHES.count
  let s := (s.setReg R.TWIN_MM_PNL.reg (BitVec.ofNat 32 p)).raise 2 0xB 5 (p % 2 ^ 32)
  if own != peerRec then (if own then selfYield s else { s with twin := { s.twin with peerYields := true } })
  else if s.secondary then selfYield s else { s with twin := { s.twin with peerYields := true } }

/-- Both digests of a pass are compared when the second arrives: a mismatch in sync, match_run in check (R299, R306). -/
def digCompare (s : State) : State :=
  match s.twin.dig, s.twin.peerDig with
  | some (p, d, fl, own), some x =>
    if x.pass ≠ p then s
    else
      let s := ({ s with twin := { s.twin with peerDig := none } } : State).count 0x3D 1
      let flagged := fl || x.flagged
      if s.twinState = 5 then (if flagged || d == x.digest then s else mismatch s p own x.faultRec)
      else if s.twinState = 4 || (s.serving && x.check) then
        s.put R.TWIN_STAT.match_run (if flagged || d != x.digest then 0 else min 64 (s.get R.TWIN_STAT.match_run + 1))
      else s
  | _, _ => s

/-! ## The link (R285, R286) -/

/-- A frame that R285 discards: an FCS error, a wrong version, a length that does not match. -/
def TwinFrame.bad (f : TwinFrame) : Bool := !f.fcsOk || f.field 1 1 != 1 || f.field 2 2 != f.plen || Nat.blt 9160 f.plen

/-- A frame of this kind arrives on the twin port: a bad one is counted; lack acknowledges; kinds 0x02 to 0x05 are taken in lseq order. -/
def twinRx (f : TwinFrame) (kind : Nat) (body : State → State) (s : State) : State :=
  if !s.twinMode || s.sys.state == .reset || !s.linkUp s.sys.fuses.twinPort then s
  else if !f.fcsOk then s.bump R.TWIN_RX_BAD.count
  else if fbe f.head 12 2 ≠ 0x88B5 ∨ f.field 0 1 ≠ kind then s
  else if f.bad then s.bump R.TWIN_RX_BAD.count
  else
    let s := { s with twin := { s.twin with ackDue := true, unacked := s.twin.unacked.filter (fun x => newer x.lseq f.lack 32) } }
    if kind < 2 ∨ 5 < kind then body s
    else if f.lseq ≠ (s.twin.lack + 1) % 2 ^ 32 then s
    else body { s with twin := { s.twin with lack := f.lseq } }

/-! ## Agreement (R291 to R294) -/

/-- What an agreement frame says of the other twin goes to TWIN_PEER. -/
def peerShow (s : State) (a : Agree) : State :=
  let sel := s.get R.KILN_STAT.sel
  let s := (s.put R.TWIN_PEER.state a.state.val).put R.TWIN_PEER.role (bit a.role)
  let s := s.put R.TWIN_PEER.same_variant (bit (a.variant.toNat == s.sys.fuses.digits))
  let s := s.put R.TWIN_PEER.same_image (bit (a.gen == s.reg R.BOOT_IMG_GEN.reg && a.hcrc == s.reg R.BOOT_IMG_HCRC.reg))
  let s := s.put R.TWIN_PEER.same_domain (bit (a.sel.val == sel && Nat.ble sel 1))
  s.put R.TWIN_PEER.fault_rec (bit a.faultRec)

/-- Forwarded writes that the other twin has applied up to jseq are acknowledged (R297). -/
def fwdAck (s : State) (jseq : Nat) : State :=
  let done := s.twin.fwd.filter (fun x => !newer x.jseq jseq 32)
  match done.getLast? with
  | none => s
  | some x => ({ s with twin := { s.twin with fwd := s.twin.fwd.filter (fun x => newer x.jseq jseq 32) } } : State).put R.TWIN_JACK.seq x.jseq

/-- What the other twin's state makes this one do at the next boundary: a twin in sync whose peer has left is alone; a re-joiner whose
active twin has left is out; a re-join whose re-joiner has left is over. -/
def peerLeft (s : State) (a : Agree) (b : Nat) : State :=
  let st := a.state.val
  let joined := st == 3 || st == 4 || st == 5
  match s.twinState with
  | 5 => if Nat.ble s.pn b && st != 5 then { s with twin := { s.twin with peerYields := true } } else s
  | 3 | 4 => if st == 2 || st == 5 then s else { s with twin := { s.twin with gone := true } }
  | 2 => match s.twin.start with
    | some r => if Nat.blt r b && !joined then { s with twin := { s.twin with start := none } } else s
    | none => s
  | _ => s

/-- The other twin has raised class 3 in the pass before boundary b, for which this twin yields or has left service: neither twin
yields, and this one is back in sync, where it reacts as a single engine (R301, R401). (DEDUCED, log entry 45.) -/
def yieldBack (s : State) (b : Nat) : State :=
  if s.twinState = 5 ∧ s.twin.yielding ∧ (!s.flt.c3.isEmpty ∨ s.cask.rtErr) ∧ b = s.pn + 1 then
    { s with twin := { s.twin with muted := false, yielding := false } }
  else match s.twin.undo with
    | some (r, c3) =>
      if s.twinState ≠ 1 ∨ r ≠ b ∨ b ≠ s.pn then s
      else
        let s := { s with twin := { s.twin with undo := none } }.put R.TWIN_STAT.state 5
        match c3 with
        | [] => s
        | _ => classThree (endAll ({ s with flt := { s.flt with c3 := c3 } }.enter .runLocked) .safe s.safeHeld)
    | none => s

/-- TWIN_AGREEMENT_RX. -/
def execTwinAgreementRx (f : TwinFrame) (a : Agree) (s : State) : Host.Outcome State Fault Refusal :=
  Cmd.run (twinRx f 1 fun s =>
    let s := if a.c3 then yieldBack s f.pn else s
    let s := peerShow { s with twin := { s.twin with
      peer := some (a, f.pn, s.sys.bnd)
      closed := assocSet (f.pn - s.dIn) a.count s.twin.closed
      peerDig := some ⟨f.pn - 1, a.digest, a.flagged, a.faultRec, a.state.val == 4⟩ } } a
    digCompare (peerLeft (fwdAck s a.jseq) a f.pn)) s

/-- The samples that a record carries. -/
def MirRec.samples (r : MirRec) (n : Nat) : List (Option Word) :=
  (List.range n).map (fun i => if r.mask.getLsbD i then some (r.words.getD i 0) else none)

/-- The later of two copies where it holds a sample. -/
def overlay (a b : List (Option Word)) : List (Option Word) := (a.zip b).map (fun (x, y) => match y with | some _ => y | none => x)

/-- A mirror record (R291, R292): one that arrives after the deadline of its period is late. -/
def mirTake (s : State) (r : MirRec) : State :=
  let m := (extend32 s.pn r.pnl.toNat).toNat
  if m + s.dIn + 1 ≤ s.pn then s.bump R.TWIN_MIRROR_LATE.count
  else
    let s := { s with twin := { s.twin with got := assocSet m ((assocGet m s.twin.got).getD 0 + 1) s.twin.got } }
    match r.kind with
    | 0 =>
      let v := r.samples s.nSamp
      let l := s.twin.peerStore
      let l := match l.find? (fun x => x.src == r.id && x.m == m) with
        | some x => ⟨r.id, m, overlay x.v v⟩ :: l.filter (fun y => !(y.src == r.id && y.m == m))
        | none => ⟨r.id, m, v⟩ :: l
      { s with twin := { s.twin with peerStore := l } }
    | 1 =>
      if h : r.id < 24 then
        let c : Fin 24 := ⟨r.id, h⟩
        let js := (List.range r.mask.toNat).filter (fun j => (r.words.getD (j / 32) 0).getLsbD (j % 32))
        s.setPwm c { s.pwmCh c with union := (s.pwmCh c).union ++ js.map (fun j => (m, j)) }
      else s
    | _ => s

/-- TWIN_MIRROR_RX. -/
def execTwinMirrorRx (f : TwinFrame) (payload : List Byte) (s : State) : Host.Outcome State Fault Refusal :=
  Cmd.run (twinRx { f with plen := payload.length } 2 fun s =>
    (mirDecode s.nSamp payload.length payload).foldl mirTake (s.count 0x39 1)) s

/-- One slot of n samples of the agreed store: the item that one twin holds, the leader's where both hold one (R292). -/
def agreeSlot (n : Nat) (lead : Bool) (own peer : List (Option Word)) : List (Option Word) :=
  let full := fun (l : List (Option Word)) => (List.range n).map (fun i => l.getD i none)
  if lead then overlay (full peer) (full own) else overlay (full own) (full peer)

/-- The other twin's items for period k join the store. -/
def agreeStore (s : State) (k : Nat) : State :=
  let theirs := s.twin.peerStore.filter (fun x => x.m == k)
  let lead := s.leads
  let s := theirs.foldl (fun s x =>
    let own := storeRead s.sxe.store x.src k
    let l := s.sxe.store.filter (fun y => !(y.src == x.src && y.m == k))
    { s with sxe := { s.sxe with store := ⟨x.src, k, agreeSlot s.nSamp lead own x.v⟩ :: l } }) s
  { s with twin := { s.twin with peerStore := s.twin.peerStore.filter (fun x => Nat.blt k x.m) } }

/-- The agreement deadline of period k (R292, R293): items and trips are agreed, an incomplete agreement is counted. -/
def agreement (s : State) (k : Nat) : State :=
  if !s.mirrors then tripUnion s k
  else
    let t := s.twin
    let whole := match assocGet k t.closed with | some n => Nat.ble n ((assocGet k t.got).getD 0) | none => false
    let s := tripUnion (agreeStore s k) k
    let keep := fun (l : List (Nat × Nat)) => l.filter (fun x => Nat.blt k x.1)
    let s := { s with twin := { s.twin with got := keep t.got, closed := keep t.closed, bad := t.bad.filter (fun x => Nat.ble k (x + 2)) } }
    if whole then s
    else
      let s := (s.bump R.TWIN_INCOMPLETE.count).count 0x3B 1
      { s with twin := { s.twin with bad := k :: s.twin.bad } }

/-- The paths on which the engine sends the frames of the pass that has ended (R287, R294, R300, R302). -/
def State.egressPaths (s : State) : Bool × Bool :=
  if !s.twinMode then (true, true)
  else if !s.inService || s.twin.muted then (false, false)
  else if s.secondary then
    (false, !(s.twinState == 5 && s.flag R.TWIN_STAT.peer_act && s.passFlagged (s.pn - 1)))
  else (true, false)

/-- The agreement frame of boundary PN (R293), with the digest of the pass that has ended; c3: it raised class 3. -/
def agreementSend (s : State) (c3 : Bool) : State :=
  match s.twin.dig with
  | none => s
  | some (_, d, fl, own) =>
    let b := s.pn
    let a : Agree := {
      count := (assocGet (b - s.dIn) s.twin.sent).getD 0
      digest := d
      flagged := fl
      state := Fin.ofNat 7 s.twinState
      role := s.secondary
      leader := s.leads
      faultRec := own
      c3 := c3
      variant := BitVec.ofNat 16 s.sys.fuses.digits
      gen := s.reg R.BOOT_IMG_GEN.reg
      hcrc := s.reg R.BOOT_IMG_HCRC.reg
      sel := Fin.ofNat 16 (s.get R.KILN_STAT.sel)
      jseq := s.twin.applied }
    let s := { s with twin := { s.twin with sent := s.twin.sent.filter (fun x => Nat.blt (b - s.dIn) x.1) } }
    digCompare (twinSend s b (.agreement a))

/-! ## Forwarded writes (R297) -/

/-- What a forwarded write schedules counts from the period of its acceptance. -/
def schedFrom (old : List (Nat × Action)) (s : State) (p : Nat) : State :=
  { s with sys := { s.sys with sched := old ++ (s.sys.sched.drop old.length).map (fun x => (p + 2 - s.pn, x.2)) } }

/-- The commit group that a write of the register at a bears on. -/
def groupNamed (a : Nat) : Option (Fin 32) :=
  if R.HIF_COMMIT.reg 0 ≤ a ∧ a < R.HIF_COMMIT.reg 0 + 512 ∧ a % 16 = R.HIF_COMMIT.reg 0 % 16 then some (Fin.ofNat 32 ((a - R.HIF_COMMIT.reg 0) / 16))
  else (groupOf a).map (Fin.ofNat 32)

/-- A forwarded write, applied as if accepted in period p: a commit that was fixed at a boundary after p is fixed anew with it (R297, R364). -/
def forwardedWrite (s : State) (a : Nat) (data : Word) (tag : FwdTag) : State :=
  match groupNamed a with
  | none => (regWriteAs .twin a data (some tag) none none s).2
  | some g => fixPast (regWriteAs .twin a data (some tag) none none (unfix s g tag.p)).2 g

/-- TWIN_CONTROL_RX. -/
def execTwinControlRx (f : TwinFrame) (jseq : Word) (addr : BitVec 25) (data : Word) (target : Nat) (s : State) :
    Host.Outcome State Fault Refusal :=
  Cmd.run (twinRx f 3 fun s =>
    if !(s.twinState == 3 || s.twinState == 4 || s.twinState == 5) then s
    else
      let late := Nat.ble (f.pn + 2) s.pn
      let s := if late then
          ({ s with twin := { s.twin with late := true } } : State).mark R.TWIN_EVT.ctrl_late |>.raise 1 0xB 4 jseq.toNat
        else s
      let s := schedFrom s.sys.sched (forwardedWrite s addr.toNat data ⟨jseq.toNat, f.pn, target⟩) f.pn
      { s with twin := { s.twin with applied := jseq.toNat } }) s

/-! ## The transfer set (R304, R305) -/

/-- The offsets that dims lays out. -/
def dimOffsets : List (Nat × Nat) → List Nat
  | [] => [0]
  | (st, n) :: t => (List.range n).flatMap (fun i => (dimOffsets t).map (· + st * i))

/-- The registers with an SH or LV field. -/
def sharedRegs : List Nat :=
  regPieces.flatMap fun (_, _, l) =>
    (l.filter (fun d => d.fields.any (fun f => f.kind == .sh || f.kind == .lv))).flatMap (fun d => (dimOffsets d.dims).map (· + d.base))

/-- A line of Larder in a dump ring or the tag ring. -/
def inDumpRing (s : State) (a : Nat) : Bool :=
  let hit := fun (r : Nat × Nat) (n : Nat) => r.2 != 0 && Nat.blt r.1 (a + 64) && Nat.blt a (r.1 + n * r.2)
  hit s.perf.dumpRing 704 || hit s.perf.tagRing 32

/-- The 64-byte lines of the regions of Cask that the image marks as real-time (R304, R327). -/
def rtLines (s : State) : List Nat :=
  (s.lines.filter (fun l => s.flag (R.CASK_LINE_W0.rt l))).flatMap (fun l =>
    (List.range ((s.lineEnd l - s.lineBase l) / 64)).map (fun i => caskBase + s.lineBase l + 64 * i))

/-- The read-only fields that hold state of the cores, the modulators, Mash and the stream engine (R304). -/
def stateFields (f : Fuses) : List Loc :=
  ((List.range f.cores).flatMap fun c =>
      [R.CORE_PSTAT.active c, R.CORE_PSTAT.copy_busy c, R.CORE_PSTAT.swaps c, R.CORE_DMA_STAT.rt_taken c, R.CORE_RSTAT.last_taken c,
        R.CORE_RSTAT.muted c, R.CORE_MBOX_STAT.in_pend c])
    ++ ((List.range f.pwm).flatMap fun c =>
      [R.PWM_CH_STAT.state c, R.PWM_CH_STAT.retry c, R.PWM_CH_STAT.retries c, R.PWM_CH_GAIN.lim_gain c, ⟨R.PWM_STAT.reg, c, 1⟩,
        ⟨R.PWM_LATCHED.reg, c, 1⟩])
    ++ [R.MASH_STAT.slots_busy] ++ (List.range 7168).map R.MASH_SRC.cond_live ++ (List.range 16384).map (fun e => ⟨R.MASH_XP_W3.reg e, 0, 14⟩)
    ++ ((List.range 1024).flatMap fun i =>
      [⟨R.SXE_IN_STATE.reg i, 0, 32⟩, R.SXE_EG_STATE.running i, R.SXE_EG_STATE.rejected i])

/-- A channel whose times since power-on and boundary numbers count from another origin. -/
def PwmCh.moved (x : PwmCh) (up bnd : Int) : PwmCh :=
  { x with
    cycUp := (x.cycUp + up).toNat, fell := ((x.fell.1 + up).toNat, (x.fell.2 + up).toNat), bootUp := (x.bootUp + up).toNat
    latchBnd := (x.latchBnd + bnd).toNat, winBnd := (x.winBnd + bnd).toNat }

/-- The names of the transfer set's items, those of Cask last (R305). -/
def xferKeys (s : State) : List XferKey :=
  let f := s.sys.fuses
  let r := fun (n : Nat) (k : Nat → XferKey) => (List.range n).map k
  [.base] ++ r 7192 .dst ++ sharedRegs.map .reg ++ r 32 .group ++ r f.cores .core ++ r f.cores .cio
    ++ r 16384 .ent ++ r 1024 .slot ++ r 7168 .cond ++ r 7192 .dly ++ r 2097152 .pool ++ r 1024 .ctx ++ r 4096 .chan ++ r 1024 .eg
    ++ r f.pwm .pwm ++ (stateFields f).map (fun l => .field l.addr l.lo l.w) ++ (List.range f.cores).flatMap (fun c => r 4096 (fun i => .mem (tunBase c + 64 * i)))
    ++ (r 393216 (fun i => .mem (larderBase + 64 * i))).filter (fun k => match k with | .mem a => !inDumpRing s a | _ => true)
    ++ (rtLines s).map .mem

/-- A core's index from an item's number. -/
def coreOf (c : Nat) : Fin 16 := Fin.ofNat 16 c

/-- An item as it stands. -/
def xferGet (s : State) : XferKey → XferVal
  | .base => .base ((s.mash.base : Int) - s.pn * s.nSamp)
  | .mem a => .mem ((List.range 64).map (fun i => Sparse.get (w := 8) memDflt s.mem (a + i)))
  | .reg a => .reg (s.reg a) (s.shReg a)
  | .group g => .group (s.get (R.HIF_COMMIT_STAT.seq g)) (s.group (Fin.ofNat 32 g))
  | .core c => .core (s.core (coreOf c))
  | .cio c => .cio (s.io (coreOf c))
  | .ent e => .ent (s.mash.ents.find? (·.e == e))
  | .slot k => .slot (s.mash.slots.find? (·.slot == k))
  | .dst d => .dst (s.mash.dsts.find? (·.d == d))
  | .cond i => .cond (s.mash.conds.find? (·.src == i))
  | .dly d => .dly (s.mash.dlys.find? (·.d == d))
  | .pool i => .pool (Sparse.get poolDflt s.mash.pool i)
  | .ctx i => .ctx (s.sxe.ins.find? (·.i == i))
  | .chan c => .chan (s.sxe.chs.find? (·.ch == c))
  | .eg i => .eg (s.get (R.SXE_EG_STATE.gen i)) (s.sxe.gens.contains i) ((s.sxe.pack.find? (·.1 == i)).map (·.2))
  | .pwm c => .pwm ((s.pwmCh (Fin.ofNat 24 c)).moved (s.sys.et - s.sys.up) (s.pn - s.sys.bnd))
  | .field a lo w => .field (s.get ⟨a, lo, w⟩)

/-- The element that `at_` names is replaced by x, or taken away. -/
def swapIn {α : Type} (l : List α) (at_ : α → Bool) (x : Option α) : List α := l.filter (fun y => !at_ y) ++ x.toList

/-- The bits of SH and LV fields of the register at a. -/
def sharedMask (a : Nat) : Word :=
  match regFind a with
  | none => 0
  | some d => d.fields.foldl (fun m f => if f.kind = .sh ∨ f.kind = .lv then m ||| fieldMask f.lo f.w else m) 0

/-- Mash, or the stream engine, replaced. -/
def State.setMash (s : State) (m : MashS) : State := { s with mash := m }
def State.setSxe (s : State) (x : SxeS) : State := { s with sxe := x }

/-- An item is installed. -/
def xferPut (s : State) : XferKey → XferVal → State
  | .base, .base d => s.setMash { s.mash with base := (s.pn * s.nSamp + d).toNat }
  | .mem a, .mem b => s.poke a (b.take 64)
  | .reg a, .reg cur sh =>
    let m := sharedMask a
    (s.setReg a ((s.reg a &&& ~~~ m) ||| (cur &&& m))).setShReg a sh
  | .group g, .group seq x => (s.setGroup (Fin.ofNat 32 g) x).put (R.HIF_COMMIT_STAT.seq g) seq
  | .core c, .core k => s.setCore (coreOf c) k
  | .cio c, .cio k => s.setIo (coreOf c) k
  | .ent e, .ent x => s.setMash { s.mash with ents := swapIn s.mash.ents (·.e == e) x }
  | .slot k, .slot x => s.setMash { s.mash with slots := swapIn s.mash.slots (·.slot == k) x }
  | .dst d, .dst x => s.setMash { s.mash with dsts := swapIn s.mash.dsts (·.d == d) x }
  | .cond i, .cond x => s.setMash { s.mash with conds := swapIn s.mash.conds (·.src == i) x }
  | .dly d, .dly x => s.setMash { s.mash with dlys := swapIn s.mash.dlys (·.d == d) x }
  | .pool i, .pool w => s.setMash { s.mash with pool := Sparse.set poolDflt s.mash.pool i w }
  | .ctx i, .ctx x => s.setSxe { s.sxe with ins := swapIn s.sxe.ins (·.i == i) x }
  | .chan c, .chan x => s.setSxe { s.sxe with chs := swapIn s.sxe.chs (·.ch == c) x }
  | .eg i, .eg gen taken pack =>
    (s.setSxe { s.sxe with
      gens := swapIn s.sxe.gens (· == i) (if taken then some i else none)
      pack := swapIn s.sxe.pack (·.1 == i) (pack.map (fun p => (i, p))) }).put (R.SXE_EG_STATE.gen i) gen
  | .pwm c, .pwm x => s.setPwm (Fin.ofNat 24 c) (x.moved (s.sys.up - s.sys.et) (s.sys.bnd - s.pn))
  | .field a lo w, .field v => s.put ⟨a, lo, w⟩ v
  | _, _ => s

/-- The parts of the state that the transfer set lies in, as they stand. -/
def State.xferCopy (s : State) : XferCopy :=
  ⟨s.sys.et, s.regs, s.shadow, s.mem, s.cores, s.cio, s.hif, s.mash, s.sxe, s.pwm⟩

/-- s with those parts as a copy has them. -/
def State.atCopy (s : State) (c : XferCopy) : State :=
  { s with sys := { s.sys with et := c.et }, regs := c.regs, shadow := c.shadow, mem := c.mem, cores := c.cores, cio := c.cio, hif := c.hif,
           mash := c.mash, sxe := c.sxe, pwm := c.pwm }

/-- TWIN_TRANSFER_RX: the re-joiner keeps the batch, with what it held itself at the batch's boundary. -/
def execTwinTransferRx (f : TwinFrame) (items : List (XferKey × XferVal)) (s : State) : Host.Outcome State Fault Refusal :=
  Cmd.run (twinRx f 4 fun s =>
    if s.twinState ≠ 3 then s
    else
      let was := match s.twin.copy with | some c => if c.et = f.pn * s.perVco then s.atCopy c else s | none => s
      let l := items.map (fun (k, v) => (k, v, xferGet was k))
      { s with twin := { s.twin with batches := s.twin.batches ++ [(f.pn, l)] } }) s

/-- The items of batch q are installed, but for those that either twin has written; those that this twin alone has written are
reported (R305). (DESIGN CHOICE, log entry 42.) -/
def batchInstall (s : State) (q : Nat) (written : List XferKey) : State :=
  let l := (s.twin.batches.filter (·.1 == q)).flatMap (·.2)
  let clean := fun (x : XferKey × XferVal × XferVal) => decide (xferGet s x.1 = x.2.2)
  let s' := (l.filter (fun x => !written.contains x.1 && clean x)).foldl (fun s x => xferPut s x.1 x.2.1) s
  let s' := { s' with twin := { s'.twin with batches := s'.twin.batches.filter (fun b => b.1 != q) } }
  twinSend s' s'.pn (.xferCtrl (.written q ((l.filter (fun x => !written.contains x.1 && !clean x)).map (·.1))))

/-- A transfer-control message (R303, R305). A request repeated before its start has the same answer. -/
def xferMsg (s : State) : XferCtrl → State
  | .request =>
    if s.twinState ≠ 2 then s
    else match s.twin.start with
      | some r => if s.pn < r then twinSend s s.pn (.xferCtrl (.start r)) else s
      | none =>
        let (n, s) := s.freeNat
        let r := s.pn + 3 + n
        let s := { s with twin := { s.twin with
          start := some r, todo := xferKeys s, skipped := [], own := [], waits := [], xferDone := false } }
        twinSend ((s.put R.TWIN_XFER.pass 0).put R.TWIN_STAT.match_run 0) s.pn (.xferCtrl (.start r))
  | .start r => if s.twinState == 1 && s.twin.asked then { s with twin := { s.twin with start := some r } } else s
  | .written q keys =>
    if s.twinState = 3 then batchInstall s q keys
    else { s with twin := { s.twin with waits := s.twin.waits.filter (· != q), skipped := s.twin.skipped ++ keys } }
  | .progress pass left => (s.put R.TWIN_XFER.pass pass).put R.TWIN_XFER.items_left left
  | .done => if s.twinState = 3 then { s with twin := { s.twin with xferDone := true } } else s

/-- TWIN_XFER_CTRL_RX. -/
def execTwinXferCtrlRx (f : TwinFrame) (m : XferCtrl) (s : State) : Host.Outcome State Fault Refusal :=
  Cmd.run (twinRx f 5 fun s => xferMsg s m) s

/-- The items of a batch leave in frames that hold as many items of 64 bytes as R285 allows. -/
def transferSend (s : State) (l : List (XferKey × XferVal)) : State :=
  (chunks l.length 143 l).foldl (fun s x => twinSend s s.pn (.transfer x)) s

/-- What the active twin does for a transfer at a boundary: batches two boundaries old are reported with what has been written since,
the next batch is captured, as large as the link's free capacity allows; the pass, and the transfer, end (R305). -/
def xferServe (s : State) : State :=
  if !s.serving || s.twin.xferDone then s
  else
    let q := s.pn
    let (old, own) := (s.twin.own.filter (fun b => Nat.ble (b.1 + 2) q), s.twin.own.filter (fun b => Nat.blt q (b.1 + 2)))
    let s := old.foldl (fun s (q0, l) =>
      let w := (l.filter (fun (k, v) => decide (xferGet s k ≠ v))).map (·.1)
      let s := { s with twin := { s.twin with skipped := s.twin.skipped ++ w, waits := s.twin.waits ++ [q0] } }
      twinSend s q (.xferCtrl (.written q0 w))) s
    let s := { s with twin := { s.twin with own := own } }
    let passDone := s.twin.todo.isEmpty && own.isEmpty && s.twin.waits.isEmpty
    if passDone && (s.twin.skipped.isEmpty || s.get R.TWIN_XFER.pass == 3) then
      twinSend ({ s with twin := { s.twin with xferDone := true } } : State) q (.xferCtrl .done)
    else
      let s := if passDone then
          ({ s with twin := { s.twin with todo := s.twin.skipped, skipped := [] } } : State).bump R.TWIN_XFER.pass
        else s
      let (n, s) := s.freeNat
      let l := (s.twin.todo.take n).map (fun k => (k, xferGet s k))
      let s := { s with twin := { s.twin with todo := s.twin.todo.drop n } }
      let s := if l.isEmpty then s
        else transferSend ({ s with twin := { s.twin with own := s.twin.own ++ [(q, l)] } } : State) l
      let left := s.twin.todo.length + (s.twin.own.map (fun b => b.2.length)).sum
      let s := s.put R.TWIN_XFER.items_left left
      twinSend s q (.xferCtrl (.progress (s.get R.TWIN_XFER.pass) left))

/-! ## Acknowledgements, resends, re-join and the peer's line -/

/-- TWIN_ACK_RX. -/
def execTwinAckRx (f : TwinFrame) (s : State) : Host.Outcome State Fault Refusal := Cmd.run (twinRx f 6 id) s

/-- TWIN_ACK_TX: a reception that no other frame has acknowledged. -/
def execTwinAckTx (s : State) : Host.Outcome State Fault Refusal :=
  Cmd.run (fun s => if !s.twinMode || s.sys.state == .reset || !s.twin.ackDue then s else twinSend s s.pn .ack) s

/-- TWIN_RETRANSMIT: a frame has not been acknowledged within 8 µs: it goes again with every later one. -/
def execTwinRetransmit (s : State) : Host.Outcome State Fault Refusal :=
  Cmd.run (fun s =>
    if s.sys.state == .reset || !s.twin.unacked.any (fun x => Nat.ble (x.up + 15729) s.sys.up) then s
    else
      let l := s.twin.unacked.dropWhile (fun x => Nat.blt s.sys.up (x.up + 15729))
      let s := { s with twin := { s.twin with unacked := s.twin.unacked.map (fun x => if l.contains x then { x with up := s.sys.up } else x) } }
      l.foldl (fun s x => twinOut s x.lseq x.pn x.msg x.payload) ((s.bump R.TWIN_RETX.count).count 0x3A l.length)) s

/-- The conditions of R303. -/
def State.mayRejoin (s : State) : Bool :=
  s.twinMode && s.twinState == 1 && (s.flag R.TWIN_CFG.auto_rejoin || s.twin.armed) && s.sys.state == .runLocked
    && s.peerState == 2 && s.flag R.TWIN_PEER.same_variant && s.flag R.TWIN_PEER.same_image && s.flag R.TWIN_PEER.same_domain

/-- REJOIN_REQUEST: not while one waits for its acknowledgement, or the start is named. -/
def execRejoinRequest (s : State) : Host.Outcome State Fault Refusal :=
  Cmd.run (fun s =>
    if !s.mayRejoin || s.twin.start.isSome || s.twin.unacked.any (fun x => x.msg == .xferCtrl .request) then s
    else twinSend ({ s with twin := { s.twin with asked := true } } : State) s.pn (.xferCtrl .request)) s

/-- REJOIN_TIMEOUT: the attempt fails; the state follows at the boundary. -/
def execRejoinTimeout (s : State) : Host.Outcome State Fault Refusal :=
  Cmd.run (fun s =>
    if !(s.twinState == 3 || s.twinState == 4) || s.twin.failed then s
    else
      let s := ((s.mark R.TWIN_EVT.rejoin_fail).bump R.TWIN_REJOIN_FAILS.count).bumpSat R.TWIN_STAT.attempts
      { s with twin := { s.twin with failed := true } }) s

/-- TWIN_PEER_ACT_CHANGE. -/
def execTwinPeerActChange (level : Bool) (s : State) : Host.Outcome State Fault Refusal :=
  Cmd.run (fun s => if s.sys.state = .reset || !s.sys.fuses.twin then s else s.put R.TWIN_STAT.peer_act (bit level)) s

/-! ## The boundary's transitions -/

/-- Heartbeats: the third missed in a row is a loss (R293, R295). -/
def heartbeat (s : State) : State :=
  match s.twin.peer with
  | none => s
  | some (_, b, _) =>
    let n := if s.pn ≤ b + 1 then 0 else s.twin.missed + 1
    let s := { s with twin := { s.twin with missed := n } }
    if n ≠ 3 then s
    else
      let s := ((s.mark R.TWIN_EVT.lost).bump R.TWIN_LOSSES.count).raise 1 0xB 3 0
      let s := match s.twin.fwd.getLast? with
        | some x => ({ s with twin := { s.twin with fwd := [] } } : State).put R.TWIN_JACK.seq x.jseq
        | none => s
      match s.twinState with
      | 5 => if !s.secondary || !s.flag R.TWIN_STAT.peer_act then enterAlone s else enterOut s false
      | 2 => { s with twin := { s.twin with start := none } }
      | 3 | 4 => enterOut s true
      | _ => s

/-- The boundaries for which TWIN_PEER_ACT has stood at its level (R289). -/
def peerLine (s : State) : State :=
  let act := s.flag R.TWIN_STAT.peer_act
  let t := s.twin
  { s with twin := { t with
    lowB := if act then 0 else t.lowB + 1
    lowUp := if act || t.lowB == 0 then s.sys.up else t.lowUp
    highB := if act && s.twinState == 2 then t.highB + 1 else 0 } }

/-- The line has been low for long enough (R289). -/
def lowEnough (s : State) : Bool :=
  if s.secondary then
    Nat.ble 8 s.twin.lowB && Nat.ble (max 1 (s.get R.TWIN_CFG.alone_wait) * 100 * msVco) (s.sys.up - s.twin.lowUp)
  else Nat.ble 2 s.twin.lowB

/-- The other twin is not in service, or not heard (R289). -/
def peerAway (s : State) : Bool :=
  match s.twin.peer with
  | none => true
  | some (a, _, b) => !(a.state.val == 2 || a.state.val == 5) || Nat.blt 3 (s.sys.bnd - b)

/-- A twin in out (R289, R303); one whose port breaks R283 stays there. -/
def fromOut (s : State) : State :=
  if !s.twinPortOk then s
  else if s.sys.state == .runLocked && lowEnough s && peerAway s then
    let half := s.twin.half
    let s := enterAlone s
    if half then ({ s with twin := { s.twin with half := false } } : State).raise 2 0xB 7 0 else s
  else match s.twin.start with
    | some r =>
      if s.pn < r then s
      else if s.sys.state == .runLocked && s.peerState == 2 then
        (s.put R.TWIN_STAT.state 3).put R.TWIN_STAT.match_run 0
      else { s with twin := { s.twin with start := none, asked := false } }
    | none => s

/-- A twin in transfer or check (R297, R305 to R307). -/
def fromJoin (s : State) : State :=
  if s.twin.gone || s.twin.late then enterOut s true
  else if s.twin.failed then
    let s := enterOut s true
    if s.get R.TWIN_STAT.attempts = 3 then (s.put R.TWIN_STAT.state 6).raise 2 0xB 6 0 else s
  else if s.twinState = 3 then (if s.twin.xferDone then (s.put R.TWIN_STAT.state 4).put R.TWIN_STAT.match_run 0 else s)
  else if s.get R.TWIN_STAT.match_run = 64 then enterSync s true
  else s

/-- A twin in alone: both serve alone (R289), or the re-joiner has matched (R306). -/
def fromAlone (s : State) : State :=
  if Nat.ble 2 s.twin.highB && s.secondary then (enterOut (s.mark R.TWIN_EVT.conflict) false).raise 1 0xB 2 0
  else if s.get R.TWIN_STAT.match_run = 64 && s.serving then enterSync s false
  else s

/-- A twin in sync: it leaves service, or the other has left it (R297, R299, R300). -/
def fromSync (s : State) : State :=
  if s.twin.yielding || s.twin.late then enterOut s false
  else if s.twin.peerYields then enterAlone s
  else s

/-- The command of R307 is taken. -/
def rejoinTaken (s : State) : State :=
  if !s.flag R.TWIN_CMD.rejoin then s
  else
    let s := (s.unmark R.TWIN_CMD.rejoin).put R.TWIN_STAT.attempts 0
    if s.twinState = 6 then s.put R.TWIN_STAT.state 1 else s

/-- The transitions of a boundary, after the engine's own (R287 to R290). -/
def twinStep (s : State) : State :=
  if !s.twinMode || s.twinState == 0 then s
  else
    let s := rejoinTaken (heartbeat (peerLine s))
    let s := match s.twinState with
      | 1 => fromOut s
      | 2 => fromAlone s
      | 3 | 4 => fromJoin s
      | 5 => fromSync s
      | _ => s
    if s.inService && s.sys.state != .runLocked then enterOut s false else s

/-- The named twin leaves service when both are in sync (R464). -/
def twinYieldNow (s : State) : State :=
  let s := s.unmark R.TWIN_CMD.yield
  if s.twinState ≠ 5 then s
  else if s.flag R.TWIN_CMD.which == s.secondary then enterOut s false
  else enterAlone s

/-- A twin in sync leaves service for its class-3 fault or memory error, unless the other twin has reported class 3 for the same pass
(R301); s.pn is the period that begins. -/
def twinYields (s : State) : Bool :=
  s.twinMode && s.twinState == 5 && (s.cask.rtErr || !s.flt.c3.isEmpty) && !s.peerClass3 (s.pn - 1)

/-- The class-3 faults of the ended period: a twin in sync that yields leaves service and takes the reaction without a ramp (R301, R401);
what the other twin's frame may yet take back is noted. -/
def classThreeTwin (s : State) : State :=
  if twinYields s then
    let c3 := s.flt.c3
    let s := enterOut { s with flt := { s.flt with c3 := [] } } false
    let s := { s with twin := { s.twin with undo := some (s.pn, c3) } }
    match c3 with
    | [] => s
    | x :: l => safeEnter (safeCause s (firstC3 x l))
  else classThree s

end Sys2Proof.Machine
end

