-- ==== Sys2Proof/Machine/Period.lean ====
section
/-!
DEFINITION. The period boundary (R23): the end of the period, a time set, and the boundary's five steps, with the engine states
(R35), the class-3 reactions (R399 to R403) and the entry into STANDBY (R385).
-/
namespace Sys2Proof.Machine

/-! ## The end of a period -/

/-- A time set takes place at the end of this period (R275). -/
def State.setDue (s : State) : Bool :=
  s.sys.state == .runUnlocked && (match s.kiln.req with | some (_ + 1) => true | _ => false)

/-- What is under way at a time set is abandoned (R467). -/
def abandonWork (s : State) : State :=
  headersNext (pwmTimeSet (sxeTimeSet (passAbandon s)))

/-- The period under way ends: time passes to its end, the samples of its pass are formed. -/
def periodEnd (s : State) : State :=
  let dt := s.perVco - s.sys.et % s.perVco
  let s := bridgesPresent (presRotate (xioPeriodEnd (perfTime (s.unmark R.SYS_TIME_CAP.capture) dt)))
  let s := flushFaults (if s.setDue then abandonWork s else passEnd s)
  let s := digestTake s
  pulsesDue (pwmLates { s with sys := { s.sys with et := s.sys.et + dt, up := s.sys.up + dt } })

/-- What the counters and the dumps note of a time set. -/
def setNoted (s : State) : State := ({ s with perf := { s.perf with setSeen := true } } : State).count 7 1

/-! ## What falls due (R464) -/

/-- The actions due at this boundary; the others come one boundary nearer. -/
def schedTake (s : State) : List Action × State :=
  ((s.sys.sched.filter (fun x => Nat.ble x.1 1)).map (·.2),
    { s with sys := { s.sys with sched := (s.sys.sched.filter (fun x => Nat.blt 1 x.1)).map (fun x => (x.1 - 1, x.2)) } })

/-- The phase steps among the actions due. -/
def phaseSteps (due : List Action) : Int := (due.map (fun x => match x with | .phaseStep d => d | _ => 0)).sum

/-! ## Engine states -/

/-- A ramp of Whisk has ended; a Mash that does not run has nothing to ramp. (DEDUCED, log entry 68.) -/
def State.ramped (s : State) (k : React) : Bool := !s.mash.run || reactedAll s k

/-- The safe ramp is complete (R399). -/
def safeComplete (s : State) : State := if s.flt.safeRamp && s.ramped .safe then safeEnter s else s

/-- Kiln's lock moves the engine between the RUN states (R35, R384). -/
def followLock (s : State) : State :=
  let lock := s.flag R.KILN_STAT.lock
  match s.sys.state with
  | .runUnlocked =>
    if lock then
      let s := s.enter .runLocked
      if s.sys.stbyEntry then s else releaseAll s .eng s.engHeld
    else s
  | .runLocked =>
    if lock || s.flt.safeRamp then s
    else reactAll (pwmOn (s.enter .runUnlocked)) .eng s.engHeld 0 (s.msSamples (s.get R.SYS_MUTE.ramp))
  | _ => s

/-- Entry into STANDBY begins (R385). -/
def stbyStart (s : State) : State :=
  if s.sys.state.isRun then
    reactAll { s with sys := { s.sys with stbyEntry := true } } .eng s.engHeld 0 (s.msSamples (s.get R.SYS_MUTE.ramp))
  else s.unmark R.SYS_STBY.enter

/-- No channel is in settle, run or stop. -/
def State.noneSwitching (s : State) : Bool := (List.finRange 24).all (fun c => !s.switching c.val)

/-- The links that STANDBY does not keep go down. -/
def stbyLinks (s : State) : State :=
  (List.finRange 8).foldl (fun s p => if s.flag (R.ETH_PCFG.wake_en p.val) && !s.isTwinPort p.val then s else ethDown s p) s

/-- STANDBY is entered once the ramp is complete and no channel switches (R385). (DEDUCED, log entry 78.) -/
def stbyEnd (s : State) : State :=
  if s.sys.stbyEntry && s.sys.state.isRun && s.ramped .eng && s.noneSwitching then
    pcieDown (stbyLinks (caskSleep (pwmHardStop (dataPlaneStop ((stbyOff s).enter .standby)))))
  else s

/-- RUN-UNLOCKED is entered with the outputs held at 0 (R384, R403). -/
def runEnter (s : State) : State := reactAll (pwmOn (s.enter .runUnlocked)) .eng s.engHeld 0 0

/-- PREPARE with an image and Cask ready: the start checks run, and let the engine into RUN-UNLOCKED at this boundary unless one of
them raises class 3 (R383, R386). Whether the data plane starts. -/
def prepareEnd (s : State) : Bool × State :=
  if s.sys.state ≠ .prepare || !s.image || s.boot.checked || s.caskPending 0 || s.caskPending 1 then (false, s)
  else
    let s := startChecks s
    let s := { s with boot := { s.boot with checked := true, waking := false } }
    if s.class3 then (false, s) else (true, runEnter s)

/-- SAFE with an image loaded: the data plane starts at the boundary of its entry from PREPARE, once Cask is ready and the start checks have
run, unless a failed channel is in use (R35, R314). Whether it starts. -/
def safeStart (s : State) (was : EngState) : Bool × State :=
  if s.sys.state ≠ .safe || !s.image then (false, s)
  else if s.boot.checked then (was == .prepare, s)
  else if s.caskPending 0 || s.caskPending 1 then (false, s)
  else
    let s := { s with boot := { s.boot with checked := true, waking := false } }
    if s.caskLost.isEmpty then (true, startChecks s) else (false, s)

/-- The release of SAFE (R403). Whether the data plane starts. -/
def safeRelease (s : State) : Bool × State :=
  let s := s.unmark R.FLT_SAFE.release
  if s.sys.state ≠ .safe || !s.image then (false, s)
  else
    let s := startChecks { s with boot := { s.boot with checked := true } }
    if s.class3 then (false, s)
    else
      let s := endAll (runEnter s) .safe s.engHeld
      (true, releaseAll s .safe (fun d => Nat.blt d s.netCh))

/-- An action that falls due in step 3. -/
def actionTake (s : State) (x : Action) : State :=
  match x with
  | .pwmClear c => pwmClear s c
  | .standbyEnter => stbyStart s
  | .twinYield => twinYieldNow s
  | _ => s

/-- Step 3: reactions, engine states, twin states; whether the data plane starts at this boundary. -/
def stepThree (s : State) (due : List Action) : Bool × State :=
  let was := s.sys.state
  let s := classThreeTwin s
  let s := { s with cask := { s.cask with rtErr := false } }
  let s := due.foldl actionTake (followLock (safeComplete s))
  let (go1, s) := prepareEnd s
  let (go2, s) := if due.contains .safeRelease then safeRelease s else (false, s)
  let s := pwmBoundary (twinStep (stbyEnd s))
  let (go3, s) := safeStart s was
  (go1 || go2 || go3, s)

/-! ## The data plane's work (step 5) -/

/-- The network, local and Cask sources of the pass that starts: input period k. -/
def passSources (s : State) : (Nat → List Int) × State :=
  let back := s.dIn + bit s.twinMode
  let store := s.sxe.store
  let read := fun (src : Nat) => if s.pn < back then [] else storeRead store src (s.pn - back)
  let (net, s) := sxeDeadline s read
  (fun src => if 0x1B00 ≤ src ∧ src < 0x1C00 then caskVec s src false else sxeSource net read src, s)

/-- Twin operation's part: agreement, the frame that goes to the other twin, the transfer (R292, R293, R305). -/
def twinWork (s : State) (c3 : Bool) : State :=
  if !s.twinMode || s.twinState == 0 then s
  else
    let s := if s.dIn + 1 ≤ s.pn then agreement s (s.pn - s.dIn - 1) else s
    let s := agreementSend s c3
    xferServe { s with twin := { s.twin with copy := if s.twinState = 3 then some s.xferCopy else none } }

/-- The streams and Mash in the period that begins. -/
def passWork (s : State) : State :=
  let (a, b) := s.egressPaths
  let s := egPack (egLate s) a b
  let (src, s) := passSources s
  passStart s src

/-- Step 5 of R23. `ran`: the data plane has run in the period that ended; `go`: it starts. -/
def stepFive (s : State) (due : List Action) (ran go c3 : Bool) : State :=
  let s := headersNext s
  let s := if go then dataPlaneStart s else s
  let s := if ran && s.sys.dataPlane then bells s else s
  let s := due.foldl (fun s x => match x with | .coreRestart c => coreRestart s c | _ => s) s
  let s := (List.finRange 16).foldl dmaBoundary s
  let s := caskBoundary s s.pn (!ran)
  let s := ethBoundary s
  let s := if s.sys.dataPlane then passWork (twinWork s c3) else s
  kilnPulses (seqBoundary s)

/-! ## The boundary -/

/-- The states in which Kiln and network time run. (DEDUCED, log entry 67.) -/
def State.timed (s : State) : Bool := s.sys.state == .prepare || s.sys.state.isRun || s.sys.state == .safe

/-- Steps 1 and 2: the period number has advanced; what is counted and snapshot; Kiln, crosspoint; budgets and credits (R23). -/
def stepOneTwo (s : State) (due : List Action) : State :=
  let s := { s with sys := { s.sys with bnd := s.sys.bnd + 1, idle := false } }
  let s := (dumpSnapshot (headersMissing s s.pn) s.pn).count 3 1
  let s := if s.timed then kilnBoundary s (phaseSteps due) (due.contains .kilnAlign) else kilnIdle s (phaseSteps due) (due.contains .kilnAlign)
  let s := xpBoundary (bwBoundary s)
  let s := powerGrant (sieveRenew (bootRequest (dumpRequest (ringsRequest s))))
  (List.finRange 16).foldl dmaFund (ringDrain (ringDrain (waitDrain s) 38) 39)

/-- A boundary of the grid. -/
def boundary (s : State) : State :=
  let ran := s.sys.dataPlane
  let c3 := !s.flt.c3.isEmpty
  let (due, s) := schedTake s
  let (go, s) := stepThree (stepOneTwo s due) due
  stepFive (lvBoundary (commitBoundary s)) due ran go c3

/-- The period's end, and the boundary unless a time set has moved the grid away from it (R42). -/
def periodBoundary (s : State) : State :=
  if s.sys.state = .reset then s
  else
    match kilnSet (periodEnd s) with
    | (none, s) => boundary s
    | (some true, s) => boundary (setNoted s)
    | (some false, s) => let s := setNoted s; { s with sys := { s.sys with idle := true } }

/-! ## Between commands -/

/-- One cycle of CLK_PER passes: engine time and the counters advance, never up to the next boundary, which is a command. (DESIGN CHOICE, log entry 29.) -/
def tick (s : State) : State :=
  if s.tap.testEn = true ∨ s.sys.state = .reset ∨ s.perVco ≤ s.sys.et % s.perVco + 8 then s
  else
    let s := perfTime ((({ s with out := [] } : State)).unmark R.SYS_TIME_CAP.capture) 8
    pulsesDue { s with sys := { s.sys with et := s.sys.et + 8, up := s.sys.up + 8 } }

/-- PERIOD_BOUNDARY. (DESIGN CHOICE, log entry 4.) -/
def execPeriodBoundary (s : State) : Host.Outcome State Fault Refusal := Cmd.run periodBoundary s

end Sys2Proof.Machine
end

