-- ==== Sys2Proof/Machine/Dispatch.lean ====
section
/-!
DEFINITION. The dispatch: one arm per command, each a direct call of the command's meaning.
-/
namespace Sys2Proof.Machine

def exec (i : Instr) (s : State) : Host.Outcome State Fault Refusal :=
  match i with
  | .resetNAssert => Sys2Proof.Machine.execResetNAssert s
  | .powerOnDetect => Sys2Proof.Machine.execPowerOnDetect s
  | .softwareReset route data => Sys2Proof.Machine.execSoftwareReset route data s
  | .resetRelease bootFlash twtAddr ctrlPort twinRole sfdpOk clear0 clear1 => Sys2Proof.Machine.execResetRelease bootFlash twtAddr ctrlPort twinRole sfdpOk clear0 clear1 s
  | .loadComplete => Sys2Proof.Machine.execLoadComplete s
  | .checkComplete keyGood sigGood => Sys2Proof.Machine.execCheckComplete keyGood sigGood s
  | .prepareSection crcOk => Sys2Proof.Machine.execPrepareSection crcOk s
  | .periodBoundary => Sys2Proof.Machine.execPeriodBoundary s
  | .sysTimeCapture route data => Sys2Proof.Machine.execSysTimeCapture route data s
  | .standbyEnterCmd route data => Sys2Proof.Machine.execStandbyEnterCmd route data s
  | .wakeNEvent => Sys2Proof.Machine.execWakeNEvent s
  | .twtStandbyWake addr => Sys2Proof.Machine.execTwtStandbyWake addr s
  | .staleMark => Sys2Proof.Machine.execStaleMark s
  | .sysTempMeasure temp => Sys2Proof.Machine.execSysTempMeasure temp s
  | .pcieLinkUp width gen msixEn => Sys2Proof.Machine.execPcieLinkUp width gen msixEn s
  | .registerWrite route addr data be => Sys2Proof.Machine.execRegisterWrite route addr data be s
  | .hifCtrlWrite route data => Sys2Proof.Machine.execHifCtrlWrite route data s
  | .commit route g data => Sys2Proof.Machine.execCommit route g data s
  | .commitCancel route g data => Sys2Proof.Machine.execCommitCancel route g data s
  | .bar2Read w len => Sys2Proof.Machine.execBar2Read w len s
  | .bar2Write w bytes => Sys2Proof.Machine.execBar2Write w bytes s
  | .atomicFetchadd w wide broken v => Sys2Proof.Machine.execAtomicFetchadd w wide broken v s
  | .atomicSwap w wide broken v => Sys2Proof.Machine.execAtomicSwap w wide broken v s
  | .atomicCas w wide broken cmp v => Sys2Proof.Machine.execAtomicCas w wide broken cmp v s
  | .twtSetPointer a => Sys2Proof.Machine.execTwtSetPointer a s
  | .twtWriteBlock words pec => Sys2Proof.Machine.execTwtWriteBlock words pec s
  | .twtReadWord => Sys2Proof.Machine.execTwtReadWord s
  | .twtReadBlock => Sys2Proof.Machine.execTwtReadBlock s
  | .twtReadStatus => Sys2Proof.Machine.execTwtReadStatus s
  | .twtInvalidCommand code count => Sys2Proof.Machine.execTwtInvalidCommand code count s
  | .twtAbandon shortBlock => Sys2Proof.Machine.execTwtAbandon shortBlock s
  | .twtSclTimeout => Sys2Proof.Machine.execTwtSclTimeout s
  | .inbandWrite port frame tagOk => Sys2Proof.Machine.execInbandWrite port frame tagOk s
  | .inbandRead port frame tagOk => Sys2Proof.Machine.execInbandRead port frame tagOk s
  | .inbandAnswer tag => Sys2Proof.Machine.execInbandAnswer tag s
  | .ptpDomOfsRead d => Sys2Proof.Machine.execPtpDomOfsRead d s
  | .kilnPendRead => Sys2Proof.Machine.execKilnPendRead s
  | .twinDigRead => Sys2Proof.Machine.execTwinDigRead s
  | .caskEccAddrRead => Sys2Proof.Machine.execCaskEccAddrRead s
  | .fltMemAddrRead => Sys2Proof.Machine.execFltMemAddrRead s
  | .fltPop route data => Sys2Proof.Machine.execFltPop route data s
  | .mgpDrainPop => Sys2Proof.Machine.execMgpDrainPop s
  | .safeReleaseCmd route data => Sys2Proof.Machine.execSafeReleaseCmd route data s
  | .hostWdogWrite route data => Sys2Proof.Machine.execHostWdogWrite route data s
  | .hostWdogKick route data => Sys2Proof.Machine.execHostWdogKick route data s
  | .hostWdogExpiry => Sys2Proof.Machine.execHostWdogExpiry s
  | .mgpWdogExpiry => Sys2Proof.Machine.execMgpWdogExpiry s
  | .mgpRestartCmd route data => Sys2Proof.Machine.execMgpRestartCmd route data s
  | .mbPop route data => Sys2Proof.Machine.execMbPop route data s
  | .mbGo route data => Sys2Proof.Machine.execMbGo route data s
  | .mbIdentify => Sys2Proof.Machine.execMbIdentify s
  | .mbSetClockAttr => Sys2Proof.Machine.execMbSetClockAttr s
  | .mbReadClockState gm steps cls prio => Sys2Proof.Machine.execMbReadClockState gm steps cls prio s
  | .mbUnknownType => Sys2Proof.Machine.execMbUnknownType s
  | .mbPtpPortState d ports parent parentPort => Sys2Proof.Machine.execMbPtpPortState d ports parent parentPort s
  | .mbEeeWakeTime port tw => Sys2Proof.Machine.execMbEeeWakeTime port tw s
  | .rapidTransaction act beat struck => Sys2Proof.Machine.execRapidTransaction act beat struck s
  | .lockedSequence mgp beats => Sys2Proof.Machine.execLockedSequence mgp beats s
  | .lockBreak mgp granted beats => Sys2Proof.Machine.execLockBreak mgp granted beats s
  | .allowanceExpiry c => Sys2Proof.Machine.execAllowanceExpiry c s
  | .pwrWarnAssert => Sys2Proof.Machine.execPwrWarnAssert s
  | .pwrWarnDeassert => Sys2Proof.Machine.execPwrWarnDeassert s
  | .sendPoint => Sys2Proof.Machine.execSendPoint s
  | .returnPoint => Sys2Proof.Machine.execReturnPoint s
  | .sliceTimer c ix => Sys2Proof.Machine.execSliceTimer c ix s
  | .level1EventEntry c => Sys2Proof.Machine.execLevel1EventEntry c s
  | .level2EventEntry c => Sys2Proof.Machine.execLevel2EventEntry c s
  | .headerWrite c => Sys2Proof.Machine.execHeaderWrite c s
  | .coreHalt route c data => Sys2Proof.Machine.execCoreHalt route c data s
  | .coreResume route c data => Sys2Proof.Machine.execCoreResume route c data s
  | .coreStep route c data => Sys2Proof.Machine.execCoreStep route c data s
  | .breakpointMatch c => Sys2Proof.Machine.execBreakpointMatch c s
  | .coreDbgDataAccess route c wr => Sys2Proof.Machine.execCoreDbgDataAccess route c wr s
  | .coreRestartCmd route c data => Sys2Proof.Machine.execCoreRestartCmd route c data s
  | .corePwinWrite route c o data => Sys2Proof.Machine.execCorePwinWrite route c o data s
  | .paramCopyDone c => Sys2Proof.Machine.execParamCopyDone c s
  | .beDmaStart c => Sys2Proof.Machine.execBeDmaStart c s
  | .dmaTransferDone c rt => Sys2Proof.Machine.execDmaTransferDone c rt s
  | .mboxInWrite route c ix data => Sys2Proof.Machine.execMboxInWrite route c ix data s
  | .mboxInAck c => Sys2Proof.Machine.execMboxInAck c s
  | .mboxOutCopy c => Sys2Proof.Machine.execMboxOutCopy c s
  | .add c last sat d a b => Sys2Proof.Machine.execAdd c last sat d a b s
  | .sub c last sat d a b => Sys2Proof.Machine.execSub c last sat d a b s
  | .neg c last sat d a => Sys2Proof.Machine.execNeg c last sat d a s
  | .abs c last sat d a => Sys2Proof.Machine.execAbs c last sat d a s
  | .min c last d a b => Sys2Proof.Machine.execMin c last d a b s
  | .max c last d a b => Sys2Proof.Machine.execMax c last d a b s
  | .minu c last d a b => Sys2Proof.Machine.execMinu c last d a b s
  | .maxu c last d a b => Sys2Proof.Machine.execMaxu c last d a b s
  | .and c last d a b => Sys2Proof.Machine.execAnd c last d a b s
  | .or c last d a b => Sys2Proof.Machine.execOr c last d a b s
  | .xor c last d a b => Sys2Proof.Machine.execXor c last d a b s
  | .not c last d a => Sys2Proof.Machine.execNot c last d a s
  | .lsl c last d a b => Sys2Proof.Machine.execLsl c last d a b s
  | .lsr c last d a b => Sys2Proof.Machine.execLsr c last d a b s
  | .asr c last d a b => Sys2Proof.Machine.execAsr c last d a b s
  | .asl c last sat d a b => Sys2Proof.Machine.execAsl c last sat d a b s
  | .ror c last d a b => Sys2Proof.Machine.execRor c last d a b s
  | .cls c last d a => Sys2Proof.Machine.execCls c last d a s
  | .clz c last d a => Sys2Proof.Machine.execClz c last d a s
  | .cmp c last a b => Sys2Proof.Machine.execCmp c last a b s
  | .cmpu c last a b => Sys2Proof.Machine.execCmpu c last a b s
  | .sel c last d a b cond => Sys2Proof.Machine.execSel c last d a b cond s
  | .mov c last d a => Sys2Proof.Machine.execMov c last d a s
  | .addi c last sat d a imm => Sys2Proof.Machine.execAddi c last sat d a imm s
  | .andi c last d a imm => Sys2Proof.Machine.execAndi c last d a imm s
  | .ori c last d a imm => Sys2Proof.Machine.execOri c last d a imm s
  | .xori c last d a imm => Sys2Proof.Machine.execXori c last d a imm s
  | .lsli c last d a n => Sys2Proof.Machine.execLsli c last d a n s
  | .lsri c last d a n => Sys2Proof.Machine.execLsri c last d a n s
  | .asri c last d a n => Sys2Proof.Machine.execAsri c last d a n s
  | .asli c last sat d a n => Sys2Proof.Machine.execAsli c last sat d a n s
  | .bfx c last d a pos len1 sx => Sys2Proof.Machine.execBfx c last d a pos len1 sx s
  | .bfi c last d a pos len1 => Sys2Proof.Machine.execBfi c last d a pos len1 s
  | .movi c last d imm => Sys2Proof.Machine.execMovi c last d imm s
  | .movhi c last d imm => Sys2Proof.Machine.execMovhi c last d imm s
  | .cmpi c last a imm => Sys2Proof.Machine.execCmpi c last a imm s
  | .mfc c last d cr => Sys2Proof.Machine.execMfc c last d cr s
  | .mtc c last cr d => Sys2Proof.Machine.execMtc c last cr d s
  | .addp c last p imm => Sys2Proof.Machine.execAddp c last p imm s
  | .ldW c last d p m mode imm => Sys2Proof.Machine.execLdW c last d p m mode imm s
  | .ldD c last d p m mode imm => Sys2Proof.Machine.execLdD c last d p m mode imm s
  | .ldH c last d p m mode imm => Sys2Proof.Machine.execLdH c last d p m mode imm s
  | .ldHs c last d p m mode imm => Sys2Proof.Machine.execLdHs c last d p m mode imm s
  | .stW c last d p m mode imm => Sys2Proof.Machine.execStW c last d p m mode imm s
  | .stD c last d p m mode imm => Sys2Proof.Machine.execStD c last d p m mode imm s
  | .stH c last sat d p m mode imm => Sys2Proof.Machine.execStH c last sat d p m mode imm s
  | .lda c last A p m mode imm => Sys2Proof.Machine.execLda c last A p m mode imm s
  | .sta c last sat A p m mode imm => Sys2Proof.Machine.execSta c last sat A p m mode imm s
  | .sava c last A p m mode imm => Sys2Proof.Machine.execSava c last A p m mode imm s
  | .rsta c last A p m mode imm => Sys2Proof.Machine.execRsta c last A p m mode imm s
  | .mpy c last A x y lanes => Sys2Proof.Machine.execMpy c last A x y lanes s
  | .mac c last A x y lanes => Sys2Proof.Machine.execMac c last A x y lanes s
  | .msu c last A x y lanes => Sys2Proof.Machine.execMsu c last A x y lanes s
  | .mpysu c last A x y lanes => Sys2Proof.Machine.execMpysu c last A x y lanes s
  | .macsu c last A x y lanes => Sys2Proof.Machine.execMacsu c last A x y lanes s
  | .macuu c last A x y lanes => Sys2Proof.Machine.execMacuu c last A x y lanes s
  | .mull c last sat d x y => Sys2Proof.Machine.execMull c last sat d x y s
  | .clra c last A => Sys2Proof.Machine.execClra c last A s
  | .adda c last A Am => Sys2Proof.Machine.execAdda c last A Am s
  | .suba c last A Am => Sys2Proof.Machine.execSuba c last A Am s
  | .nega c last A => Sys2Proof.Machine.execNega c last A s
  | .sha c last sat A n => Sys2Proof.Machine.execSha c last sat A n s
  | .ext c last sat d A k => Sys2Proof.Machine.execExt c last sat d A k s
  | .mval c last d A => Sys2Proof.Machine.execMval c last d A s
  | .mvah c last d A => Sys2Proof.Machine.execMvah c last d A s
  | .mvag c last d A => Sys2Proof.Machine.execMvag c last d A s
  | .mova c last A x => Sys2Proof.Machine.execMova c last A x s
  | .tapm c last A pi pj => Sys2Proof.Machine.execTapm c last A pi pj s
  | .tapmZ c last A pi pj => Sys2Proof.Machine.execTapmZ c last A pi pj s
  | .fadd c last two sat d a b => Sys2Proof.Machine.execFadd c last two sat d a b s
  | .fsub c last two sat d a b => Sys2Proof.Machine.execFsub c last two sat d a b s
  | .fmul c last two sat d a b => Sys2Proof.Machine.execFmul c last two sat d a b s
  | .fma c last two sat d a b e => Sys2Proof.Machine.execFma c last two sat d a b e s
  | .fms c last two sat d a b e => Sys2Proof.Machine.execFms c last two sat d a b e s
  | .fmin c last two sat d a b => Sys2Proof.Machine.execFmin c last two sat d a b s
  | .fmax c last two sat d a b => Sys2Proof.Machine.execFmax c last two sat d a b s
  | .fabs c last two d a => Sys2Proof.Machine.execFabs c last two d a s
  | .fneg c last two d a => Sys2Proof.Machine.execFneg c last two d a s
  | .fcmp c last a b => Sys2Proof.Machine.execFcmp c last a b s
  | .fcvtqf c last two sat d a => Sys2Proof.Machine.execFcvtqf c last two sat d a s
  | .fcvtfq c last two d a => Sys2Proof.Machine.execFcvtfq c last two d a s
  | .fcvtif c last two sat d a => Sys2Proof.Machine.execFcvtif c last two sat d a s
  | .fcvtfi c last two d a => Sys2Proof.Machine.execFcvtfi c last two d a s
  | .frcp c last two sat d a => Sys2Proof.Machine.execFrcp c last two sat d a s
  | .frsq c last two sat d a => Sys2Proof.Machine.execFrsq c last two sat d a s
  | .br c last cond off => Sys2Proof.Machine.execBr c last cond off s
  | .call c last off => Sys2Proof.Machine.execCall c last off s
  | .ret c last => Sys2Proof.Machine.execRet c last s
  | .brr c last pn => Sys2Proof.Machine.execBrr c last pn s
  | .nop c last => Sys2Proof.Machine.execNop c last s
  | .loop c last count endw => Sys2Proof.Machine.execLoop c last count endw s
  | .loopr c last dn endw => Sys2Proof.Machine.execLoopr c last dn endw s
  | .brk c last => Sys2Proof.Machine.execBrk c last s
  | .rte1 c last => Sys2Proof.Machine.execRte1 c last s
  | .rte2 c last => Sys2Proof.Machine.execRte2 c last s
  | .idle c last => Sys2Proof.Machine.execIdle c last s
  | .fence c last => Sys2Proof.Machine.execFence c last s
  | .illegalInstruction c words => Sys2Proof.Machine.execIllegalInstruction c words s
  | .tdmFrame g slots bits onTime took phase ratio => Sys2Proof.Machine.execTdmFrame g slots bits onTime took phase ratio s
  | .tdmClockLoss g => Sys2Proof.Machine.execTdmClockLoss g s
  | .bridgeLock b ratio => Sys2Proof.Machine.execBridgeLock b ratio s
  | .domainSynthLock d => Sys2Proof.Machine.execDomainSynthLock d s
  | .domainSynthUnlock d => Sys2Proof.Machine.execDomainSynthUnlock d s
  | .carrierCycle c => Sys2Proof.Machine.execCarrierCycle c s
  | .ocfltAssert c => Sys2Proof.Machine.execOcfltAssert c s
  | .railConversion r code => Sys2Proof.Machine.execRailConversion r code s
  | .bootComplete c => Sys2Proof.Machine.execBootComplete c s
  | .settleComplete c => Sys2Proof.Machine.execSettleComplete c s
  | .stopComplete c => Sys2Proof.Machine.execStopComplete c s
  | .retryStart c => Sys2Proof.Machine.execRetryStart c s
  | .retryWindowEnd c => Sys2Proof.Machine.execRetryWindowEnd c s
  | .retryCountReset c => Sys2Proof.Machine.execRetryCountReset c s
  | .pwmClearCmd route c data => Sys2Proof.Machine.execPwmClearCmd route c data s
  | .ethLinkUp p rxLat txLat => Sys2Proof.Machine.execEthLinkUp p rxLat txLat s
  | .ethLinkDown p blkLock fecAlign lfault rfault => Sys2Proof.Machine.execEthLinkDown p blkLock fecAlign lfault rfault s
  | .ethFrameReceive p frame fcsOk kind corr uncorr ts => Sys2Proof.Machine.execEthFrameReceive p frame fcsOk kind corr uncorr ts s
  | .fdbAgeing slot => Sys2Proof.Machine.execFdbAgeing slot s
  | .fdbReadSlot route data => Sys2Proof.Machine.execFdbReadSlot route data s
  | .fdbWriteStatic route data => Sys2Proof.Machine.execFdbWriteStatic route data s
  | .fdbDelete route data => Sys2Proof.Machine.execFdbDelete route data s
  | .fdbFlushPort route data => Sys2Proof.Machine.execFdbFlushPort route data s
  | .fdbFlushDynamic route data => Sys2Proof.Machine.execFdbFlushDynamic route data s
  | .fdbInvalidOp route data => Sys2Proof.Machine.execFdbInvalidOp route data s
  | .gateEntryChange p => Sys2Proof.Machine.execGateEntryChange p s
  | .ethTxStart p ts => Sys2Proof.Machine.execEthTxStart p ts s
  | .preemption p ts => Sys2Proof.Machine.execPreemption p ts s
  | .preemptVerifyTimeout p => Sys2Proof.Machine.execPreemptVerifyTimeout p s
  | .txRingDescriptor mgp => Sys2Proof.Machine.execTxRingDescriptor mgp s
  | .lpiEntry p => Sys2Proof.Machine.execLpiEntry p s
  | .lpiWake p => Sys2Proof.Machine.execLpiWake p s
  | .syncTx d p => Sys2Proof.Machine.execSyncTx d p s
  | .followUpTx d p => Sys2Proof.Machine.execFollowUpTx d p s
  | .delayRespTx d => Sys2Proof.Machine.execDelayRespTx d s
  | .delayReqTx d => Sys2Proof.Machine.execDelayReqTx d s
  | .pdelayReqTx p => Sys2Proof.Machine.execPdelayReqTx p s
  | .pdelayLost p => Sys2Proof.Machine.execPdelayLost p s
  | .nofuTimeout d => Sys2Proof.Machine.execNofuTimeout d s
  | .domainValidTimeout d => Sys2Proof.Machine.execDomainValidTimeout d s
  | .servoResetCmd route d data => Sys2Proof.Machine.execServoResetCmd route d data s
  | .parentPortWrite route d data => Sys2Proof.Machine.execParentPortWrite route d data s
  | .ptpStepHoldExpiry d => Sys2Proof.Machine.execPtpStepHoldExpiry d s
  | .refMeasurement ix f dt ph => Sys2Proof.Machine.execRefMeasurement ix f dt ph s
  | .refActivityLoss ix => Sys2Proof.Machine.execRefActivityLoss ix s
  | .lockDeclare => Sys2Proof.Machine.execLockDeclare s
  | .freerunReturn => Sys2Proof.Machine.execFreerunReturn s
  | .holdoverExpiry => Sys2Proof.Machine.execHoldoverExpiry s
  | .slewComplete => Sys2Proof.Machine.execSlewComplete s
  | .kilnPhaseStepWrite route data => Sys2Proof.Machine.execKilnPhaseStepWrite route data s
  | .kilnSlewMaxWrite route data => Sys2Proof.Machine.execKilnSlewMaxWrite route data s
  | .kilnRefConfigWrite route ix k data => Sys2Proof.Machine.execKilnRefConfigWrite route ix k data s
  | .kilnAlignCmd route data => Sys2Proof.Machine.execKilnAlignCmd route data s
  | .twinAgreementRx f a => Sys2Proof.Machine.execTwinAgreementRx f a s
  | .twinMirrorRx f payload => Sys2Proof.Machine.execTwinMirrorRx f payload s
  | .twinControlRx f jseq addr data target => Sys2Proof.Machine.execTwinControlRx f jseq addr data target s
  | .twinTransferRx f items => Sys2Proof.Machine.execTwinTransferRx f items s
  | .twinXferCtrlRx f m => Sys2Proof.Machine.execTwinXferCtrlRx f m s
  | .twinAckRx f => Sys2Proof.Machine.execTwinAckRx f s
  | .twinAckTx => Sys2Proof.Machine.execTwinAckTx s
  | .twinRetransmit => Sys2Proof.Machine.execTwinRetransmit s
  | .rejoinRequest => Sys2Proof.Machine.execRejoinRequest s
  | .rejoinTimeout => Sys2Proof.Machine.execRejoinTimeout s
  | .twinRejoinCmd route data => Sys2Proof.Machine.execTwinRejoinCmd route data s
  | .twinYieldCmd route data => Sys2Proof.Machine.execTwinYieldCmd route data s
  | .caskTrainingDone k ok => Sys2Proof.Machine.execCaskTrainingDone k ok s
  | .caskEccFillDone k => Sys2Proof.Machine.execCaskEccFillDone k s
  | .caskRefresh k => Sys2Proof.Machine.execCaskRefresh k s
  | .caskTempPoll k quarters => Sys2Proof.Machine.execCaskTempPoll k quarters s
  | .caskRetrain k => Sys2Proof.Machine.execCaskRetrain k s
  | .caskZqCal k => Sys2Proof.Machine.execCaskZqCal k s
  | .caskScrubRead k struck => Sys2Proof.Machine.execCaskScrubRead k struck s
  | .captureWrite c => Sys2Proof.Machine.execCaptureWrite c s
  | .captureLate c => Sys2Proof.Machine.execCaptureLate c s
  | .playbackFetch c struck => Sys2Proof.Machine.execPlaybackFetch c struck s
  | .playbackLate c => Sys2Proof.Machine.execPlaybackLate c s
  | .twcSendByte k bus => Sys2Proof.Machine.execTwcSendByte k bus s
  | .twcReceiveByte k bus => Sys2Proof.Machine.execTwcReceiveByte k bus s
  | .twcWriteByte k bus => Sys2Proof.Machine.execTwcWriteByte k bus s
  | .twcReadByte k bus => Sys2Proof.Machine.execTwcReadByte k bus s
  | .twcWriteWord k bus => Sys2Proof.Machine.execTwcWriteWord k bus s
  | .twcReadWord k bus => Sys2Proof.Machine.execTwcReadWord k bus s
  | .twcProcessCall k bus => Sys2Proof.Machine.execTwcProcessCall k bus s
  | .twcBlockWrite k bus => Sys2Proof.Machine.execTwcBlockWrite k bus s
  | .twcBlockRead k bus => Sys2Proof.Machine.execTwcBlockRead k bus s
  | .twcI2cWrite k bus => Sys2Proof.Machine.execTwcI2cWrite k bus s
  | .twcI2cWriteRead k bus => Sys2Proof.Machine.execTwcI2cWriteRead k bus s
  | .twcI2cRead k bus => Sys2Proof.Machine.execTwcI2cRead k bus s
  | .twcRefusedKind k => Sys2Proof.Machine.execTwcRefusedKind k s
  | .stretchTimeout k => Sys2Proof.Machine.execStretchTimeout k s
  | .sclStuck k => Sys2Proof.Machine.execSclStuck k s
  | .busError k => Sys2Proof.Machine.execBusError k s
  | .twcResetCmd route k data clear => Sys2Proof.Machine.execTwcResetCmd route k data clear s
  | .sdaStuckDetect k clear => Sys2Proof.Machine.execSdaStuckDetect k clear s
  | .seqEntryRun k bus => Sys2Proof.Machine.execSeqEntryRun k bus s
  | .perfClear route data => Sys2Proof.Machine.execPerfClear route data s
  | .perfCntWrite route ix data => Sys2Proof.Machine.execPerfCntWrite route ix data s
  | .perfCntRead ix => Sys2Proof.Machine.execPerfCntRead ix s
  | .perfBwCfgWrite route m data => Sys2Proof.Machine.execPerfBwCfgWrite route m data s
  | .perfTagCfgWrite route c data => Sys2Proof.Machine.execPerfTagCfgWrite route c data s
  | .tagCountdownExpiry c => Sys2Proof.Machine.execTagCountdownExpiry c s
  | .perfDumpCtlWrite route data => Sys2Proof.Machine.execPerfDumpCtlWrite route data s
  | .dumpRecordWritten => Sys2Proof.Machine.execDumpRecordWritten s
  | .flRead route data => Sys2Proof.Machine.execFlRead route data s
  | .flProgram route data => Sys2Proof.Machine.execFlProgram route data s
  | .flErase4k route data => Sys2Proof.Machine.execFlErase4k route data s
  | .flErase64k route data => Sys2Proof.Machine.execFlErase64k route data s
  | .flReadStatus route data status => Sys2Proof.Machine.execFlReadStatus route data status s
  | .flInvalidOp route data => Sys2Proof.Machine.execFlInvalidOp route data s
  | .flOpComplete ok => Sys2Proof.Machine.execFlOpComplete ok s
  | .pcieLinkDown => Sys2Proof.Machine.execPcieLinkDown s
  | .ethTxFrameSent p => Sys2Proof.Machine.execEthTxFrameSent p s
  | .rxLpiChange p on => Sys2Proof.Machine.execRxLpiChange p on s
  | .ocfltDeassert c => Sys2Proof.Machine.execOcfltDeassert c s
  | .twinPeerActChange level => Sys2Proof.Machine.execTwinPeerActChange level s

end Sys2Proof.Machine
end

