-- ==== Sys2Proof/Machine/Tap.lean ====
section
/-!
DEFINITION. The TAP (R448, IEEE 1149.1): the controller, its instructions, IDCODE. The spec gives neither the instructions' codes nor
the boundary-scan register's order, and the opcode table has no command for TCK (log entry 100).
-/
namespace Sys2Proof.Machine

/-- The controller's next state at a rising edge of TCK. (PRESUMED of IEEE 1149.1, log entry 100.) -/
def TapState.next (tms : Bool) : TapState → TapState
  | .testLogicReset => if tms then .testLogicReset else .runTestIdle
  | .runTestIdle => if tms then .selectDr else .runTestIdle
  | .selectDr => if tms then .selectIr else .captureDr
  | .captureDr => if tms then .exit1Dr else .shiftDr
  | .shiftDr => if tms then .exit1Dr else .shiftDr
  | .exit1Dr => if tms then .updateDr else .pauseDr
  | .pauseDr => if tms then .exit2Dr else .pauseDr
  | .exit2Dr => if tms then .updateDr else .shiftDr
  | .updateDr => if tms then .selectDr else .runTestIdle
  | .selectIr => if tms then .testLogicReset else .captureIr
  | .captureIr => if tms then .exit1Ir else .shiftIr
  | .shiftIr => if tms then .exit1Ir else .shiftIr
  | .exit1Ir => if tms then .updateIr else .pauseIr
  | .pauseIr => if tms then .exit2Ir else .pauseIr
  | .exit2Ir => if tms then .updateIr else .shiftIr
  | .updateIr => if tms then .selectDr else .runTestIdle

/-- IDCODE (R448). -/
def Fuses.idcode (f : Fuses) : Word := BitVec.ofNat 32 (f.stepMinor.val * 2 ^ 28 + f.digits * 2 ^ 12 + 1)

/-- The bits of a word, the least significant first. -/
def wordBits (w : Word) : List Bool := (List.range 32).map w.getLsbD

/-- The instruction that a shifted code names; the codes are not the spec's, so it is free. (DESIGN CHOICE, log entry 100.) -/
def tapInstr (code : List Bool) (n : Nat) : TapInstr :=
  match (Config.tapCode code n) % 4 with | 0 => .bypass | 1 => .idcode | 2 => .samplePreload | _ => .extest

/-- What the selected register captures: 0, IDCODE, or the balls' levels, which are free. -/
def tapCapture (s : State) : List Bool :=
  match s.tap.ir with
  | .bypass => [false]
  | .idcode => wordBits s.sys.fuses.idcode
  | _ => Config.tapPins s.free

/-- A rising edge of TCK with TMS and TDI: held in reset while TRST_N is low; the state it stands in acts, then the controller moves. -/
def tapClock (tms tdi : Bool) (s : State) : State :=
  if !s.tap.trstN then { s with tap := { s.tap with state := .testLogicReset, ir := .idcode } }
  else
    let t := s.tap
    let t := match t.state with
      | .testLogicReset => { t with ir := .idcode }
      | .captureDr => { t with shift := tapCapture s }
      | .captureIr => { t with shift := Config.tapPins s.free }
      | .shiftDr | .shiftIr => { t with shift := t.shift.drop 1 ++ [tdi] }
      | .updateIr => { t with ir := tapInstr t.shift s.free }
      | .updateDr => if t.ir = TapInstr.samplePreload ∨ t.ir = TapInstr.extest then { t with cells := t.shift } else t
      | _ => t
    { s with tap := { t with state := t.state.next tms }, free := s.free + 1 }

end Sys2Proof.Machine
end

