-- ==== Sys2Proof/Safety.lean ====
section
/-!
DEFINITION. What a safe run is, in the terms the statements use: the canonical forms of the sparse data, the fault queue's
form, and what every command leaves alone.
-/
namespace Sys2Proof.Machine

/-- The sparse data of a state are in canonical form. -/
def State.canonical (s : State) : Bool :=
  Memory.wf s.mem && Sparse.wf regReset s.regs && Sparse.wf regReset s.shadow && Sparse.wf flashDflt s.flash

/-- One record of the fault queue stands in one of the 64 slots, counts at most 65,535, and is of class 3 in the eight slots kept
for class 3 (R393, R394). -/
def FaultRec.ok (r : FaultRec) : Bool :=
  decide (r.slot < 64) && decide (r.count ≤ 65535) && (decide (r.slot < 56) || r.cls == 3)

/-- The fault queue: no two records in one slot, and every record ok (R394). -/
def queueOk (q : List FaultRec) : Prop := (q.map (·.slot)).Nodup ∧ q.all FaultRec.ok = true

/-- TEST_EN is low, as it must be tied (R448). -/
abbrev State.on (s : State) : Prop := s.tap.testEn = false

/-- The engine operates, and no fault that a command raised stands outside the queue; so it is between any two commands. -/
structure State.quiet (s : State) : Prop where
  raised : s.flt.raised = []
  on : s.on

/-- The counters do not run (PERF_CTRL.run is 0), so that nothing a command does is counted. -/
def State.perfOff (s : State) : Prop := s.rawFlag R.PERF_CTRL.run = false

/-- The invariant of the engine: canonical data, a legal fault queue, and no fault raised that has not entered it. -/
def State.Inv (s : State) : Prop := s.canonical = true ∧ queueOk s.flt.queue ∧ s.flt.raised = []

/-! ## Frames -/

/-- The parts of a state beside the register map, what is put out and the interrupt lines. -/
inductive Part where
  | sys | shadow | mem | flash | boot | flt | hif | cores | cio | fab | cask | mash | xio | pwm | eth | ptp | sxe | kiln | twin
  | twc | perf | free | tap | pending
  deriving DecidableEq, Repr

/-- Part p is the same in s and t. -/
def Part.same (s t : State) : Part → Prop
  | .sys => t.sys = s.sys
  | .shadow => t.shadow = s.shadow
  | .mem => t.mem = s.mem
  | .flash => t.flash = s.flash
  | .boot => t.boot = s.boot
  | .flt => t.flt = s.flt
  | .hif => t.hif = s.hif
  | .cores => t.cores = s.cores
  | .cio => t.cio = s.cio
  | .fab => t.fab = s.fab
  | .cask => t.cask = s.cask
  | .mash => t.mash = s.mash
  | .xio => t.xio = s.xio
  | .pwm => t.pwm = s.pwm
  | .eth => t.eth = s.eth
  | .ptp => t.ptp = s.ptp
  | .sxe => t.sxe = s.sxe
  | .kiln => t.kiln = s.kiln
  | .twin => t.twin = s.twin
  | .twc => t.twc = s.twc
  | .perf => t.perf = s.perf
  | .free => t.free = s.free
  | .tap => t.tap = s.tap
  | .pending => t.pending = s.pending

/-- A register of PERF_CNT or PERF_OVF: an event that a command makes counts there (R429, R431). -/
def counterAt (a : Nat) : Bool := decide (0x780400 ≤ a ∧ a < 0x780610)

/-- From s to t nothing changed but the parts ps, the registers at rs, the counters of events, what is put out and the interrupt
lines. -/
structure Only (ps : List Part) (rs : List Nat) (s t : State) : Prop where
  parts : ∀ p, p ∉ ps → p.same s t
  regs : ∀ a, a ∉ rs → counterAt a = false → t.reg a = s.reg a

/-- The registers that count lost fault records (R394). -/
def lostRegs : List Nat := (List.range 3).map R.FLT_LOST.reg

/-- The registers that show that a twin yielded (R301). -/
def yieldRegs : List Nat := [R.TWIN_EVT.reg, R.TWIN_YIELDS.reg]

/-- A fault of class 3 may make a twin in sync yield (R301): where twin mode is off, what yielding changes stands as it was. (That a local
fault is on record, R299, may change all the same.) -/
def YieldsOnly (s t : State) : Prop :=
  s.twinMode = false → t.eth = s.eth ∧ { t.twin with faultBnd := s.twin.faultBnd } = s.twin ∧ ∀ a ∈ yieldRegs, t.reg a = s.reg a

/-- The queue of faults after fault x entered it, raised in state s (R392 to R394). -/
def State.queueWith (s : State) (cls blk code detail : Nat) : List FaultRec := (enqueue s ⟨cls, blk, code, detail⟩).flt.queue

/-- The host interface after an accepted write was journalled (R367); one of the boot engine is not (R382). -/
def State.journalled (s : State) (route : Route) (kind a : Nat) (v : Word) (target : Nat := 0) : HifS :=
  if route = .boot then s.hif
  else { s.hif with
    journal := ([BitVec.ofNat 32 (a + routeCode route * 2 ^ 25 + kind * 2 ^ 28), v, BitVec.ofNat 32 s.pn, BitVec.ofNat 32 (s.pn / 2 ^ 32),
      BitVec.ofNat 32 s.wt, BitVec.ofNat 32 s.hif.jseq, BitVec.ofNat 32 target, BitVec.ofNat 32 s.hif.jseq] :: s.hif.journal).take 1024
    jUp := (s.sys.up :: s.hif.jUp).take 1024
    jseq := (s.hif.jseq + 1) % 2 ^ 32 }

/-- A write by this route is taken: the engine is out of RESET, and the route is enabled (R353). No fault waits to enter the queue. -/
structure TakesWrite (s : State) (route : Route) : Prop where
  up : s.sys.state ≠ .reset
  on : s.routeOn route = true
  quiet : s.quiet

/-- The tables whose registers do more, when they are written, than store by their fields' types; each has a command of its own, or one
of the block that it belongs to. -/
def actingBases : List Nat :=
  [R.SYS_TIME_CAP.reg, R.SYS_STBY.reg, R.SYS_RESET.reg, R.KILN_SLEW_MAX.reg, R.KILN_DRIFT_MAX.reg, R.KILN_XCHECK.reg, R.KILN_WANDER.reg, R.KILN_FREF_NOM.reg, R.KILN_PHASE_STEP_LO.reg,
    R.KILN_PHASE_STEP_HI.reg, R.KILN_ALIGN.reg, R.KILN_REF_CFG.reg 0, R.KILN_REF_LIM.reg 0, R.KILN_REF_HOLD.reg 0, R.PTP_CTRL.reg,
    R.PTP_DOM_CFG.reg 0, R.PTP_DOM_PORTS.reg 0, R.PTP_DOM_PARENT_PORT.reg 0, R.PTP_DOM_CMD.reg 0, R.ETH_FDB_CMD.reg,
    R.MASH_CLIP.reg 0, R.CORE_CTRL.reg 0, R.CORE_DBG_DATA.reg 0, R.CORE_RUN.reg 0, R.CORE_MBOX_IN.reg 0 0, R.CORE_PWIN.reg 0 0]
  ++ [R.XIO_DOM.reg 0, R.PWM_CH_CMD.reg 0, R.TWIN_CFG.reg, R.TWIN_CMD.reg, R.FLT_POP.reg, R.FLT_SAFE.reg, R.FLT_WDOG.reg, R.FLT_WDOG_KICK.reg, R.FLT_MGP.reg,
    R.TWC_CFG.reg 0, R.TWC_CMD.reg 0, R.PERF_CTRL.reg, R.PERF_BW_CFG.reg 0, R.PERF_TAG_CFG.reg 0, R.PERF_DUMP_CTL.reg, R.FAB_DECERR_INFO.reg,
    R.MGP_MB_POP.reg, R.MGP_MB_GO.reg, R.MGP_MB_IN.reg 0, R.BOOT_FL_CMD.reg, R.HIF_CTRL.reg, R.HIF_COMMIT.reg 0]

/-- What a write of v makes of field f of the register at a, by the field's type (R15): from the word in force x and the shadow copy
y to those after; a write of the boot engine sets both copies of an SH field (R382). -/
def FieldDesc.written (f : FieldDesc) (boot : Bool) (v x y : Word) : Nat × Nat :=
  let n := fieldGet f.lo f.w v
  match f.kind with
  | .rw | .lv | .st => (n, fieldGet f.lo f.w y)
  | .sh => (if boot then n else fieldGet f.lo f.w x, n)
  | .w1c => (fieldGet f.lo f.w (x &&& ~~~ v), fieldGet f.lo f.w y)
  | .ro | .wo | .sc => (fieldGet f.lo f.w x, fieldGet f.lo f.w y)

/-! ## The fabric -/

/-- Memory after a beat: the enabled bytes of a write stand at its address. -/
def beatOnto (b : Beat) (m : Nat → Byte) : Nat → Byte :=
  match b with
  | .read _ _ => m
  | .write a bs => fun x => if a.toNat ≤ x ∧ x < a.toNat + bs.length then (bs.getD (x - a.toNat) none).getD (m x) else m x

/-- What a beat's completion shows, of memory before it. -/
def beatShows (b : Beat) (m : Nat → Byte) : Out :=
  match b with
  | .read a n => .bytes ((List.range n).map (fun i => m (a.toNat + i)))
  | .write _ _ => .ok

/-- What the completions of beats in order show. -/
def beatsShow : List Beat → (Nat → Byte) → List Out
  | [], _ => []
  | b :: t, m => beatShows b m :: beatsShow t (beatOnto b m)

/-- A write of this beat at target t is not discarded: it is no write to a line under capture (R326), or to the program memory of a
core that runs (R101). -/
def beatTakes (s : State) (t : Nat) (b : Beat) : Prop :=
  b.isWrite = true → ((t = 8 ∨ t = 9) → s.captureLineAt (b.addr - caskBase) = none)
    ∧ (16 ≤ t → (b.addr - tunBase 0) % 0x100000 < 0x10000 → (s.core (Fin.ofNat 16 (t - 16))).runs = false)

/-- An activity may issue n beats of a class within its budget and its allowance: Sieve acts only while the data plane runs (R341), and
the power arbiter holds no real-time activity (R346). -/
def mayNow (s : State) (act cls n : Nat) : Prop :=
  (isRt act = true ∨ s.powerHeld act = false)
    ∧ (s.sys.dataPlane = false ∨ s.svUsed act cls + n ≤ s.get (R.FAB_SV_BUD.budget act cls))

/-- The registers that a served beat may change: the peak of outstanding transactions, and the bits of spent budgets. -/
def beatRegs : List Nat := [R.FAB_STAT.reg, R.FAB_SV_STALLED.reg 0, R.FAB_SV_STALLED.reg 1]

/-- The registers that a decode error may change (R339). -/
def decodeRegs : List Nat := R.FAB_DECERR_INFO.reg :: R.FAB_DECERR_ADDR_LO.reg :: R.FAB_DECERR_ADDR_HI.reg :: lostRegs

/-- Nothing of activity 38 or 39 waits, and it may issue n beats of any class. -/
def ringMay (s : State) (act n : Nat) : Prop := s.ringQ act = [] ∧ ∀ cls, cls < 3 → mayNow s act cls n

/-- Every byte of the n from address a up is backed by Larder or Cask, and by no line under capture (R326, R333). -/
def State.backs (s : State) (a n : Nat) : Prop :=
  ∀ i, i < n → ∃ t, fabTarget s (a + i) = some t ∧ t < 10 ∧ (8 ≤ t → s.captureLineAt (a + i - caskBase) = none)

/-- Memory after bytes were put from address a up. -/
def putAt (a : Nat) (bs : List Byte) (m : Nat → Byte) : Nat → Byte :=
  fun x => if a ≤ x ∧ x < a + bs.length then bs.getD (x - a) 0 else m x

/-! ## The twin link -/

/-- The twin link is live (R285): twin mode is on, the engine is out of RESET, and the twin port's link is up. -/
def State.twinLive (s : State) : Prop :=
  s.twinMode = true ∧ s.sys.state ≠ .reset ∧ s.flag (R.ETH_PSTAT.link s.sys.fuses.twinPort) = true

/-- A frame of kind k that R285 does not discard. -/
structure TwinFrame.Good (f : TwinFrame) (k : Nat) : Prop where
  fcs : f.fcsOk = true
  etype : fbe f.head 12 2 = 0x88B5
  kind : fbe f.head 14 1 = k
  version : fbe f.head 15 1 = 1
  length : fbe f.head 16 2 = f.plen
  fits : f.plen ≤ 9160

/-- The twin after a good frame (R286): a reception to acknowledge; what the frame acknowledges is kept no longer. -/
def TwinS.heard (tw : TwinS) (f : TwinFrame) : TwinS :=
  { tw with ackDue := true, unacked := tw.unacked.filter (fun y => newer y.lseq f.lack 32) }

/-- The twin after a good frame of kinds 0x02 to 0x05 that is taken in order (R286). -/
def TwinS.linked (tw : TwinS) (f : TwinFrame) : TwinS := { tw.heard f with lack := f.lseq }

/-- The bytes of a frame of the twin link to address da (R285). -/
def State.twinFrame (s : State) (da kind lseq lack pn : Nat) (payload : List Byte) : List Byte :=
  padFrame (ethBuild (da % 2 ^ 48) (s.portMac s.sys.fuses.twinPort) none 0x88B5 ++ beBytes 1 kind ++ [1#8] ++ beBytes 2 payload.length
    ++ beBytes 4 lseq ++ beBytes 4 lack ++ beBytes 8 pn ++ payload)

/-- The twin port's queues have room for n bytes more (R193). -/
def State.twinRoom (s : State) (n : Nat) : Prop :=
  let x := s.eport (Fin.ofNat 8 s.sys.fuses.twinPort)
  qBytes x true + qBytes x false + n ≤ 131072 ∧ qAll s + n ≤ 524288

/-- The frames fs joined TC7 of the twin port (R192); else the ports are as they were. -/
def TwinQueued (s t : State) (fs : List QFrame) : Prop :=
  let p := Fin.ofNat 8 s.sys.fuses.twinPort
  let x := s.eport p
  t.eth = { s.eth with port := s.eth.port.set p { x with queues := x.queues.set (7 : Fin 8) (x.queues[(7 : Fin 8)] ++ fs) } }

/-- A twin that is else tw has sent message m in the frame that follows its last (R286): the frame is queued, and kept till it is acknowledged. -/
def TwinSends (s t : State) (tw : TwinS) (m : TwinMsg) : Prop :=
  let k := (s.twin.lseq + 1) % 2 ^ 32
  ∃ da payload, payload.length ≤ 9160
    ∧ t.twin = { tw with lseq := k, ackDue := false, unacked := tw.unacked ++ [⟨k, s.pn, m, payload, s.sys.up⟩] }
    ∧ TwinQueued s t [⟨s.twinFrame da m.kind k tw.lack s.pn payload, .twin m, false⟩]

/-! ## Cores -/

/-- Core c can issue a group now: it runs, no event comes first, power does not stall it (R119 to R124, R346); no group is begun, its
pc lies in program memory (R99), the debugger asks nothing, and no fault waits to enter the queue. -/
structure CoreFree (s : State) (c : Fin 16) : Prop where
  quiet : s.quiet
  fetch : (s.core c).pc.toNat < 0x10000
  issue : canIssue s c = true
  group : (s.core c).group = []
  haltReq : (s.core c).haltReq = false
  haltCmd : (s.core c).haltCmd = false
  stepping : (s.core c).stepping = false

/-- Core c issues a group that waits n cycles, and nothing else happens at that group: it is not in a delay slot (R105), and it is
not the last of a loop's body (R117). -/
structure CoreReady (s : State) (c : Fin 16) (n : Nat) : Prop extends CoreFree s c where
  slot : (s.core c).slot = none
  notEnd : ∀ l, (Core.ticks n (s.core c)).bank.loop = some l → (Core.ticks n (s.core c)).pc ≠ l.2.2.2.setWidth 32

/-- Core k' is core k after the cycle in which a word issues that changes the bank in use to b and leaves the results fl on
their way, later ones behind those of earlier groups. All else is as that cycle leaves it with no word issued (`k.tick`, in which
results of earlier groups land, R103), but for the pc, one instruction word further where nothing else is said, and, where it is
said, the delay slot that is pending and whether the core runs. -/
structure CoreNext (k k' : Core) (b : Bank) (fl : List InFlight) (slot : Option SlotTo := none) (pc : Word := k.pc + 4)
    (run : CoreRun := k.run) : Prop where
  used : k'.bankOf k.useBank1 = b
  other : k'.bankOf (!k.useBank1) = k.tick.bankOf (!k.useBank1)
  flight : k'.flight = k.tick.flight ++ fl
  pc : k'.pc = pc
  run : k'.run = run
  level : k'.level = k.level
  cr : k'.cr = k.tick.cr
  epc1 : k'.epc1 = k.tick.epc1
  epc2 : k'.epc2 = k.tick.epc2
  esr2 : k'.esr2 = k.tick.esr2
  vbase : k'.vbase = k.vbase
  cyc : k'.cyc = k.cyc + 1
  group : k'.group = []
  slot : k'.slot = slot

/-- A command of core c leaves the rest of the engine: every other core, flash, the shadow copies, and every block but its
own power consumer's request; the registers of the register map, too, where the counters do not run. -/
structure CoreAlone (s t : State) (c : Fin 16) : Prop where
  cores : ∀ j, j ≠ c → t.core j = s.core j
  flash : t.flash = s.flash
  shadow : t.shadow = s.shadow
  sys : t.sys = s.sys
  boot : t.boot = s.boot
  cio : t.cio = s.cio
  mash : t.mash = s.mash
  xio : t.xio = s.xio
  pwm : t.pwm = s.pwm
  eth : t.eth = s.eth
  ptp : t.ptp = s.ptp
  sxe : t.sxe = s.sxe
  kiln : t.kiln = s.kiln
  cask : t.cask = s.cask
  twc : t.twc = s.twc
  tap : t.tap = s.tap
  hif : t.hif = s.hif
  perf : t.perf = s.perf
  fab : { t.fab with req := s.fab.req } = s.fab
  pending : t.pending = s.pending
  flt : t.flt = s.flt
  twin : t.twin = s.twin
  regs : s.perfOff → t.regs = s.regs

/-- A word of a ready core that waits n cycles has done just this: the bank in use went from what the cycle would leave to
b of it, the results fl are on their way, and nothing else of the engine changed (memory is said apart). -/
structure CoreStep (s t : State) (c : Fin 16) (n : Nat) (b : Bank → Bank) (fl : List InFlight) : Prop where
  core : CoreNext (Core.ticks n (s.core c)) (t.core c) (b ((Core.ticks n (s.core c)).tick.bankOf (s.core c).useBank1)) fl
  alone : CoreAlone s t c

/-- No byte of fabric memory reads otherwise. -/
def SameMemory (s t : State) : Prop := ∀ a, t.memByte a = s.memByte a

/-- D register n of core c, as an instruction reads it. -/
def dReg (s : State) (c : Fin 16) (n : Fin 32) : Word := (s.core c).bank.d[n]

/-- The nearest signed number of w bits (w > 0). -/
def clamp (w : Nat) (x : Int) : Int :=
  if x < -(2 ^ (w - 1)) then -(2 ^ (w - 1)) else if 2 ^ (w - 1) - 1 < x then 2 ^ (w - 1) - 1 else x

/-- D register d written with x, and the sticky bits m of SR set. -/
def Bank.putD (d : Fin 32) (x : Word) (m : Word) (b : Bank) : Bank := { b with d := b.d.set d x, sr := b.sr ||| m }

/-- The four flags of SR written; its other bits stay. -/
def Bank.putFlags (z n c v : Bool) (b : Bank) : Bank :=
  { b with sr := (b.sr &&& 0xFFFFFFF0#32) ||| ((if z then 1#32 else 0) ||| (if n then 2#32 else 0)
      ||| (if c then 4#32 else 0) ||| (if v then 8#32 else 0)) }

/-- The pieces of an access of n bytes: SAVA and RSTA take two of 8 bytes (R110), a 64-bit circular access may wrap (R114). -/
def EaRes.pieces (r : EaRes) (n : Nat) : List (Nat × Nat) := if n = 16 then [(r.ea, 8), (r.ea + 8, 8)] else accessParts r n

/-- The bank after an addressing mode's update of pointer p (R113). -/
def EaRes.move (r : EaRes) (p : Fin 16) (b : Bank) : Bank :=
  match r.upd with
  | some x => { b with p := b.p.set p x }
  | none => b

/-- The CLK_DSP cycles that an access of n bytes waits before it issues in a cycle cyc (R101, R127): one that one cycle serves waits
for a cycle that is not 15 mod 16; SAVA and RSTA, of 16 bytes, issue in the second of two such cycles. -/
def accessWait (n cyc : Nat) : Nat :=
  if n = 16 then (if cyc % 16 < 14 then 1 else 16 - cyc % 16 + 1)
  else if cyc % 16 = 15 then 1 else 0

/-- The operands of core c after n cycles. -/
def viewAt (s : State) (c : Fin 16) (n : Nat) : CView := ⟨c, Core.ticks n (s.core c), s⟩

/-- Sticky bits of SR on their way, when there are any. -/
def stickyLate (left : Nat) (one : Bool) (m : Word) : List InFlight := if m = 0 then [] else [⟨left, one, .sticky m⟩]

/-- The word is a binary32 NaN. -/
def isNan (x : Word) : Bool := decide (0x7F800000 < x.toNat % 2 ^ 31)

end Sys2Proof.Machine
end

