-- ==== Sys2Proof/Certificates/Slice0/Obligations.lean ====
section
/-!
DEFINITION. The statements for the provers. An obligation of several parts is the conjunction of claims, each stated before it.
-/
open Sys2Proof Sys2Proof.Machine

/-! ## Core: arithmetic and logic -/

/-- R106: with sat = 0 ADD, SUB, NEG, ABS, ASL, ADDI and ASLI wrap modulo 2^32; with sat = 1 they saturate to -2^31 and 2^31 - 1 and
set sv when they do. The result stands in D[d] after the cycle (R103), and nothing else changes. -/
def Claim.SaturatingAluWritesClampedOrWrapped : Prop :=
  ∀ (s : State) (c : Fin 16) (sat : Bool) (d a b n : Fin 32) (imm : BitVec 15), CoreReady s c 0 →
    let x := (dReg s c a).toInt
    let y := (dReg s c b).toInt
    let does := fun (i : Instr) (exact : Int) => ∃ t, exec i s = .next t ∧ SameMemory s t ∧
      CoreStep s t c 0 (Bank.putD d (BitVec.ofInt 32 (if sat then clamp 32 exact else exact))
        (if sat ∧ clamp 32 exact ≠ exact then 0x10#32 else 0)) []
    does (.add c true sat d a b) (x + y) ∧ does (.sub c true sat d a b) (x - y) ∧ does (.neg c true sat d a) (-x)
      ∧ does (.abs c true sat d a) x.natAbs ∧ does (.asl c true sat d a b) (x * 2 ^ ((dReg s c b).toNat % 64))
      ∧ does (.addi c true sat d a imm) (x + imm.toInt) ∧ does (.asli c true sat d a n) (x * 2 ^ n.val)

/-- R127: the ALU's minima and maxima, logic and moves write D[d] and nothing else. -/
def Claim.PlainAluWritesItsResult : Prop :=
  ∀ (s : State) (c : Fin 16) (d a b : Fin 32) (cond : Fin 16) (imm : BitVec 15) (imm16 : BitVec 16), CoreReady s c 0 →
    let x := dReg s c a
    let y := dReg s c b
    let does := fun (i : Instr) (v : Word) => ∃ t, exec i s = .next t ∧ SameMemory s t ∧ CoreStep s t c 0 (Bank.putD d v 0) []
    does (.min c true d a b) (if x.toInt ≤ y.toInt then x else y) ∧ does (.max c true d a b) (if y.toInt ≤ x.toInt then x else y)
      ∧ does (.minu c true d a b) (if x.toNat ≤ y.toNat then x else y) ∧ does (.maxu c true d a b) (if y.toNat ≤ x.toNat then x else y)
      ∧ does (.and c true d a b) (x &&& y) ∧ does (.or c true d a b) (x ||| y) ∧ does (.xor c true d a b) (x ^^^ y)
      ∧ does (.not c true d a) (~~~ x) ∧ does (.mov c true d a) x
      ∧ does (.sel c true d a b cond) (if condHolds (s.core c).bank.sr cond.val then x else y)
      ∧ does (.andi c true d a imm) (x &&& imm.zeroExtend 32) ∧ does (.ori c true d a imm) (x ||| imm.zeroExtend 32)
      ∧ does (.xori c true d a imm) (x ^^^ imm.zeroExtend 32) ∧ does (.movi c true d imm16) (imm16.signExtend 32)
      ∧ does (.movhi c true d imm16) (imm16 ++ (dReg s c d).extractLsb' 0 16)

/-- ADD, SUB, NEG, ABS, ASL and the plain ALU words write their one result, saturated or wrapped. -/
def Obligations.AluWritesItsResultSaturatedOrWrapped : Prop := Claim.SaturatingAluWritesClampedOrWrapped ∧ Claim.PlainAluWritesItsResult

/-- R106, R127: shifts, counts and bit fields write D[d] and nothing else. A shift by b takes b[5:0]; 32 and more give 0, and the
sign for ASR. CLS counts the bits after the sign that equal it, CLZ the zeros from bit 31 down. A field past bit 31 ends there. -/
def Obligations.ShiftAndFieldAluWritesItsResult : Prop :=
  ∀ (s : State) (c : Fin 16) (d a b n pos len1 : Fin 32) (sx : Bool), CoreReady s c 0 →
    let x := dReg s c a
    let k := (dReg s c b).toNat % 64
    let wd := if pos.val + len1.val + 1 ≤ 32 then len1.val + 1 else 32 - pos.val
    let does := fun (i : Instr) (ok : Word → Prop) => ∃ t v, exec i s = .next t ∧ ok v ∧ SameMemory s t
      ∧ CoreStep s t c 0 (Bank.putD d v 0) []
    does (.lsl c true d a b) (fun v => v = if k < 32 then x <<< k else 0)
      ∧ does (.lsr c true d a b) (fun v => v = if k < 32 then x >>> k else 0)
      ∧ does (.asr c true d a b) (fun v => v.toInt = if k < 32 then x.toInt / 2 ^ k else if x.toInt < 0 then -1 else 0)
      ∧ does (.ror c true d a b) (fun v => v = x.rotateRight ((dReg s c b).toNat % 32))
      ∧ does (.lsli c true d a n) (fun v => v = x <<< n.val) ∧ does (.lsri c true d a n) (fun v => v = x >>> n.val)
      ∧ does (.asri c true d a n) (fun v => v.toInt = x.toInt / 2 ^ n.val)
      ∧ does (.clz c true d a) (fun v => v.toNat ≤ 32 ∧ (∀ j < v.toNat, x.getLsbD (31 - j) = false)
          ∧ (v.toNat < 32 → x.getLsbD (31 - v.toNat) = true))
      ∧ does (.cls c true d a) (fun v => v.toNat ≤ 31 ∧ (∀ j < v.toNat, x.getLsbD (30 - j) = x.getLsbD 31)
          ∧ (v.toNat < 31 → x.getLsbD (30 - v.toNat) ≠ x.getLsbD 31))
      ∧ does (.bfx c true d a pos len1 sx) (fun v => ∀ j < 32, v.getLsbD j =
          if j < wd then x.getLsbD (pos.val + j) else sx && x.getLsbD (pos.val + wd - 1))
      ∧ does (.bfi c true d a pos len1) (fun v => ∀ j < 32, v.getLsbD j =
          if pos.val ≤ j ∧ j < pos.val + wd then x.getLsbD (j - pos.val) else (dReg s c d).getLsbD j)

/-- R106: CMP, CMPU and CMPI write the four flags of SR from a - b, and nothing else. -/
def Claim.ComparesWriteTheFlagsAlone : Prop :=
  ∀ (s : State) (c : Fin 16) (a b : Fin 32) (imm : BitVec 15), CoreReady s c 0 →
    let does := fun (i : Instr) (x y : Word) => ∃ t, exec i s = .next t ∧ SameMemory s t ∧
      CoreStep s t c 0 (Bank.putFlags (decide (x = y)) ((x - y).getLsbD 31) (decide (y.toNat ≤ x.toNat))
        (decide (x.toInt - y.toInt < -(2 ^ 31) ∨ 2 ^ 31 - 1 < x.toInt - y.toInt))) []
    does (.cmp c true a b) (dReg s c a) (dReg s c b) ∧ does (.cmpu c true a b) (dReg s c a) (dReg s c b)
      ∧ does (.cmpi c true a imm) (dReg s c a) (imm.signExtend 32)

/-- R126: the sixteen conditions of BR and SEL on the flags z, n, c, v of SR. -/
def Claim.ConditionsReadTheFlags : Prop :=
  ∀ sr : Word,
    let z := sr.getLsbD 0
    let n := sr.getLsbD 1
    let c := sr.getLsbD 2
    let v := sr.getLsbD 3
    (List.range 16).map (condHolds sr) = [z, !z, n ^^ v, !(n ^^ v), z || (n ^^ v), !z && !(n ^^ v), !c, c, v, !v, n, !n && !v, z, v,
      true, true]

/-- R96, R97, R98: MTC writes the bits that control register cr has; a read-only or reserved number ignores the write. Every other
control register, the D registers, the accumulators, the other bank, memory and the rest of the engine are as the cycle leaves them. -/
def Claim.MtcWritesOneControlRegister : Prop :=
  ∀ (s : State) (c : Fin 16) (cr : Fin 256) (d : Fin 32), CoreReady s c 0 →
    let v := dReg s c d
    let k := (s.core c).tick
    let one := (s.core c).useBank1
    ∃ t, exec (.mtc c true cr d) s = .next t ∧ SameMemory s t ∧ CoreAlone s t c
      ∧ (t.core c).readCr ((t.core c).bankOf one) c.val s.pnl cr.val =
          (if cr.val < 0x33 then v
           else if 0x34 ≤ cr.val ∧ cr.val ≤ 0x36 ∨ 0x38 ≤ cr.val ∧ cr.val ≤ 0x3A ∨ cr.val = 0x42 then v &&& 0xFFFF#32
           else if cr.val = 0x3B then v &&& 3#32
           else if cr.val = 0x40 then v &&& (if one then 0xFF#32 else 0x1FF#32)
           else if cr.val = 0x41 then v &&& 7#32
           else if 0x43 ≤ cr.val ∧ cr.val ≤ 0x45 then v
           else k.readCr (k.bankOf one) c.val s.pnl cr.val)
      ∧ (∀ cr' : Fin 256, cr' ≠ cr →
          (t.core c).readCr ((t.core c).bankOf one) c.val s.pnl cr'.val = k.readCr (k.bankOf one) c.val s.pnl cr'.val)
      ∧ ((t.core c).bankOf one).d = (k.bankOf one).d ∧ ((t.core c).bankOf one).a = (k.bankOf one).a
      ∧ (t.core c).bankOf (!one) = k.bankOf (!one) ∧ (t.core c).flight = k.flight ∧ (t.core c).pc = (s.core c).pc + 4

/-- R96: MFC reads the control register of the table into D[d]; ADDP adds its immediate to a pointer. -/
def Claim.MfcAndAddpWriteOneRegister : Prop :=
  ∀ (s : State) (c : Fin 16) (d : Fin 32) (p : Fin 16) (cr : Fin 256) (imm : BitVec 16), CoreReady s c 0 →
    let k := s.core c
    (∃ t v, exec (.mfc c true d cr) s = .next t ∧ SameMemory s t ∧ CoreStep s t c 0 (Bank.putD d v 0) []
      ∧ (∀ h : cr.val < 16, v = k.bank.p[cr.val]) ∧ (∀ h : 16 ≤ cr.val ∧ cr.val - 16 < 16, v = k.bank.m[cr.val - 16]'h.2)
      ∧ (∀ h : 32 ≤ cr.val ∧ cr.val - 32 < 8, v = k.bank.cb[cr.val - 32]'h.2)
      ∧ (∀ h : 40 ≤ cr.val ∧ cr.val - 40 < 8, v = k.bank.cl[cr.val - 40]'h.2)
      ∧ (∀ h : 48 ≤ cr.val ∧ cr.val - 48 < 3, v = k.bank.lcnt[cr.val - 48]'h.2)
      ∧ (∀ h : 52 ≤ cr.val ∧ cr.val - 52 < 3, v.toNat = (k.bank.ltop[cr.val - 52]'h.2).toNat)
      ∧ (∀ h : 56 ≤ cr.val ∧ cr.val - 56 < 3, v.toNat = (k.bank.lend[cr.val - 56]'h.2).toNat)
      ∧ (cr.val = 0x3B → v.toNat = k.bank.lsp.val) ∧ (cr.val = 0x40 → v = k.bank.sr) ∧ (cr.val = 0x41 → v = k.cr)
      ∧ (cr.val = 0x42 → v.toNat = k.bank.lr.toNat) ∧ (cr.val = 0x43 → v = k.epc1) ∧ (cr.val = 0x44 → v = k.epc2)
      ∧ (cr.val = 0x45 → v = k.esr2) ∧ (cr.val = 0x46 → v = k.vbase) ∧ (cr.val = 0x47 → v.toNat = k.cyc % 2 ^ 32)
      ∧ (cr.val = 0x48 → v.toNat = c.val) ∧ (cr.val = 0x49 → v.toNat = s.pnl % 2 ^ 32)
      ∧ (cr.val = 0x33 ∨ cr.val = 0x37 ∨ 0x3C ≤ cr.val ∧ cr.val ≤ 0x3F ∨ 0x4A ≤ cr.val → v = 0))
    ∧ ∃ t, exec (.addp c true p imm) s = .next t ∧ SameMemory s t
      ∧ CoreStep s t c 0 (fun b => { b with p := b.p.set p (k.bank.p[p] + imm.signExtend 32) }) []

/-- CMP, CMPU and CMPI write the flags that conditions read; MTC, MFC and ADDP write one register. -/
def Obligations.ComparesAndRegisterMovesWriteTheirOneTarget : Prop := Claim.ComparesWriteTheFlagsAlone ∧ Claim.ConditionsReadTheFlags ∧ Claim.MtcWritesOneControlRegister ∧ Claim.MfcAndAddpWriteOneRegister

/-! ## Core: loads, stores, accumulators, binary32 -/

/-- R99, R113, R127: a load whose pieces lie in X and Y and are aligned completes. Its bytes, read at its issue, are on their way to
the registers; the pointer is updated at once; memory and the rest of the engine are unchanged. The load waits as R100 and R101 say. -/
def Obligations.LoadsDeliverTheBytesAtTheirAddress : Prop :=
  ∀ (s : State) (c : Fin 16) (d : Fin 32) (A : Fin 8) (p m : Fin 16) (mode : Fin 8) (imm : BitVec 9), s.fab.upsets = [] →
    let one := (s.core c).useBank1
    let load := fun (i : Instr) (bytes : Nat) (even : Bool) (lat : Nat) (res : List Byte → List CWrite) =>
      let ea := fun (v : CView) => effAddr v p m mode imm (if bytes = 2 then 2 else 4)
      let n := accessWait bytes (s.core c).cyc
      let r := ea (viewAt s c n)
      CoreReady s c n → (even = true → d.val % 2 = 0) → r.illegal = false → r.bad = false →
      (∀ q ∈ r.pieces bytes, accessBad q.1 q.2 = false) →
      ∃ t, exec i s = .next t ∧ SameMemory s t ∧ CoreStep s t c n (r.move p)
        ((res ((r.pieces bytes).flatMap (fun q => s.memBytes (tunBase c.val + q.1) q.2))).map (fun w => ⟨lat - 1, one, w⟩))
    load (.ldW c true d p m mode imm) 4 false 2 (fun b => [.d d (leWord b)])
      ∧ load (.ldD c true d p m mode imm) 8 true 2 (fun b => [.d d (leWord (b.take 4)), .d (nextReg d) (leWord (b.drop 4))])
      ∧ load (.ldH c true d p m mode imm) 2 false 2 (fun b => [.d d (BitVec.ofNat 32 (leNat b * 2 ^ 16))])
      ∧ load (.ldHs c true d p m mode imm) 2 false 2 (fun b => [.d d ((BitVec.ofNat 16 (leNat b)).signExtend 32)])
      ∧ load (.lda c true A p m mode imm) 8 false 3 (fun b => [.acc A ⟨(BitVec.ofNat 64 (leNat b)).signExtend 80, 0, false⟩ false])
      ∧ load (.rsta c true A p m mode imm) 16 false 3 (fun b =>
          let g := BitVec.ofNat 64 (leNat (b.drop 8))
          [.acc A ⟨(g.extractLsb' 0 16) ++ BitVec.ofNat 64 (leNat (b.take 8)), (g.extractLsb' 16 4).toInt, g.getLsbD 20⟩ false])

/-- R99, R113, R127: a store whose pieces lie in X and Y and are aligned completes. It writes its bytes at the address that its
addressing mode gives, no other byte of memory changes; the pointer is updated, the sticky bits of a narrowing are set. -/
def Obligations.StoresWriteTheBytesAtTheirAddressAlone : Prop :=
  ∀ (s : State) (c : Fin 16) (sat : Bool) (d : Fin 32) (A : Fin 8) (p m : Fin 16) (mode : Fin 8) (imm : BitVec 9), s.fab.upsets = [] →
    let store := fun (i : Instr) (bytes : Nat) (even : Bool) (val : CView → List Byte × Word) =>
      let ea := fun (v : CView) => effAddr v p m mode imm (if bytes = 2 then 2 else 4)
      let n := accessWait bytes (s.core c).cyc
      let v := viewAt s c n
      let r := ea v
      CoreReady s c n → (even = true → d.val % 2 = 0) → r.illegal = false → r.bad = false →
      (∀ q ∈ r.pieces bytes, accessBad q.1 q.2 = false) →
      ∃ t, exec i s = .next t ∧ CoreStep s t c n (fun b => let b := r.move p b; { b with sr := b.sr ||| (val v).2 }) []
        ∧ (∀ a, (∀ q ∈ r.pieces bytes, a < tunBase c.val + q.1 ∨ tunBase c.val + q.1 + q.2 ≤ a) → t.memByte a = s.memByte a)
        ∧ (((r.pieces bytes).map (·.1)).Nodup →
            (r.pieces bytes).flatMap (fun q => t.memBytes (tunBase c.val + q.1) q.2) = (val v).1)
    store (.stW c true d p m mode imm) 4 false (fun v => (leBytes 4 (v.d d).toNat, 0))
      ∧ store (.stD c true d p m mode imm) 8 true (fun v => (leBytes 4 (v.d d).toNat ++ leBytes 4 (v.d (nextReg d)).toNat, 0))
      ∧ store (.stH c true sat d p m mode imm) 2 false (fun v =>
          let r := ((v.d d).toInt + 2 ^ 15) / 2 ^ 16
          if sat then (leBytes 2 (BitVec.ofInt 16 (clamp 16 r)).toNat, if clamp 16 r = r then 0 else 0x10#32)
          else (leBytes 2 ((v.d d).extractLsb' 16 16).toNat, 0))
      ∧ store (.sta c true sat A p m mode imm) 8 false (fun v =>
          let r := extract (v.core.cr.toNat % 4) (v.a A) 0 64 sat
          (leBytes 8 r.1, r.2))
      ∧ store (.sava c true A p m mode imm) 16 false (fun v =>
          (leBytes 8 ((v.a A).acc.extractLsb' 0 64).toNat ++ leBytes 8 (v.a A).gWord.toNat, 0))

/-- R107, R108, R127: the multiplying instructions act lane by lane; a lane's accumulator is on its way for three cycles, with aov
when it wrapped. An accumulating instruction takes the accumulator as R104 says. -/
def Obligations.MultipliesActLaneByLane : Prop :=
  ∀ (s : State) (c : Fin 16) (A : Fin 8) (x y : Fin 32) (lanes : Fin 4), CoreReady s c 0 → lanes ≠ 3 →
    let n := if lanes = 0 then 1 else if lanes = 1 then 2 else 4
    A.val % n = 0 → x.val % n = 0 → y.val % n = 0 →
    let one := (s.core c).useBank1
    let acc := fun (j : Nat) => Fin.ofNat 8 (A.val + j)
    let X := fun (j : Nat) => dReg s c (Fin.ofNat 32 (x.val + j))
    let Y := fun (j : Nat) => dReg s c (Fin.ofNat 32 (y.val + j))
    let does := fun (i : Instr) (lane : Nat → Acc × Bool) => ∃ t, exec i s = .next t ∧ SameMemory s t
      ∧ CoreStep s t c 0 id (((List.range n).map (fun j => ⟨2, one, .acc (acc j) (lane j).1 true⟩))
          ++ stickyLate 2 one (if (List.range n).any (fun j => (lane j).2) then 0x20#32 else 0))
    let adds := fun (delta : Nat → Int) (j : Nat) => accStep ((viewAt s c 0).accIn (acc j)) (delta j)
    does (.mpy c true A x y lanes) (fun j => (⟨BitVec.ofInt 80 ((X j).toInt * (Y j).toInt), 0, false⟩, false))
      ∧ does (.mpysu c true A x y lanes) (fun j => (⟨BitVec.ofInt 80 ((X j).toInt * (Y j).toNat), 0, false⟩, false))
      ∧ does (.mac c true A x y lanes) (adds (fun j => (X j).toInt * (Y j).toInt))
      ∧ does (.msu c true A x y lanes) (adds (fun j => -((X j).toInt * (Y j).toInt)))
      ∧ does (.macsu c true A x y lanes) (adds (fun j => (X j).toInt * (Y j).toNat))
      ∧ does (.macuu c true A x y lanes) (adds (fun j => (X j).toNat * (Y j).toNat))

/-- R108: while LOST stays 0, an accumulating step keeps V = acc + wc × 2^80 exact; it wraps exactly when acc leaves the 80-bit
range, LOST is never cleared, and wc stays within ±7. -/
def Claim.AccumulatorStaysExactUntilLost : Prop :=
  ∀ (a : Acc) (delta : Int), -(2 ^ 80) ≤ delta → delta < 2 ^ 80 → -7 ≤ a.wc → a.wc ≤ 7 →
    let r := (accStep a delta).1
    (r.lost = false → r.acc.toInt + r.wc * 2 ^ 80 = a.acc.toInt + a.wc * 2 ^ 80 + delta)
      ∧ ((accStep a delta).2 = true ↔ a.acc.toInt + delta < -(2 ^ 79) ∨ 2 ^ 79 - 1 < a.acc.toInt + delta)
      ∧ (a.lost = true → r.lost = true ∧ r.wc = a.wc) ∧ -7 ≤ r.wc ∧ r.wc ≤ 7

/-- R108 to R111, R127: the other instructions of the MAC group put one result on its way for three cycles, with the sticky bits
that it sets, and change nothing else. -/
def Claim.AccumulatorGroupDeliversInThreeCycles : Prop :=
  ∀ (s : State) (c : Fin 16) (sat : Bool) (d x y : Fin 32) (A Am : Fin 8) (k : Fin 64) (n : BitVec 6), CoreReady s c 0 →
    let one := (s.core c).useBank1
    let v := viewAt s c 0
    let does := fun (i : Instr) (w : CWrite) (m : Word) => ∃ t, exec i s = .next t ∧ SameMemory s t
      ∧ CoreStep s t c 0 id (⟨2, one, w⟩ :: stickyLate 2 one m)
    let put := fun (r : Acc) => CWrite.acc A r false
    let aov := fun (b : Bool) => if b then 0x20#32 else 0
    let prod := (dReg s c x).toInt * (dReg s c y).toInt
    does (.mull c true sat d x y) (.d d (BitVec.ofInt 32 (if sat then clamp 32 prod else prod)))
        (if sat ∧ clamp 32 prod ≠ prod then 0x10#32 else 0)
      ∧ does (.clra c true A) (put ⟨0, 0, false⟩) 0
      ∧ does (.adda c true A Am) (put (accAdd (v.a A) (v.a Am) 1).1) (aov (accAdd (v.a A) (v.a Am) 1).2)
      ∧ does (.suba c true A Am) (put (accAdd (v.a A) (v.a Am) (-1)).1) (aov (accAdd (v.a A) (v.a Am) (-1)).2)
      ∧ does (.nega c true A) (put (accNeg (v.a A)).1) (aov (accNeg (v.a A)).2)
      ∧ does (.sha c true sat A n) (put (accShift (v.a A) n.toInt sat).1) (accShift (v.a A) n.toInt sat).2
      ∧ does (.ext c true sat d A k) (.d d (BitVec.ofNat 32 (extract ((s.core c).cr.toNat % 4) (v.a A) k.val 32 sat).1))
          (extract ((s.core c).cr.toNat % 4) (v.a A) k.val 32 sat).2
      ∧ does (.mval c true d A) (.d d ((v.a A).acc.extractLsb' 0 32)) 0
      ∧ does (.mvah c true d A) (.d d ((v.a A).acc.extractLsb' 32 32)) 0
      ∧ does (.mvag c true d A) (.d d (v.a A).gWord) 0
      ∧ (x.val % 2 = 0 → does (.mova c true A x)
          (put ⟨((dReg s c (nextReg x)) ++ (dReg s c x)).signExtend 80, 0, false⟩) 0)

/-- An accumulator stays exact until LOST, and the accumulator words deliver in three cycles. -/
def Obligations.AccumulatorStaysExactAndDelivers : Prop := Claim.AccumulatorStaysExactUntilLost ∧ Claim.AccumulatorGroupDeliversInThreeCycles

/-- R109: with wc = 0 an extraction delivers the accumulator rounded at k and clamped to w bits, and sets sv when it clamped;
otherwise with sat = 1 the limit toward the sign of wc, with sv; with sat = 0 the low bits, with aov. -/
def Claim.ExtractionRoundsAndClamps : Prop :=
  ∀ (rnd : Nat) (a : Acc) (k w : Nat) (sat : Bool), 0 < w →
    let r := if k = 0 then a.acc.toInt
      else if rnd = 1 then a.acc.toInt / 2 ^ k
      else if rnd = 2 ∧ a.acc.toInt % 2 ^ k = 2 ^ (k - 1) ∧ a.acc.toInt / 2 ^ k % 2 = 0 then a.acc.toInt / 2 ^ k
      else (a.acc.toInt + 2 ^ (k - 1)) / 2 ^ k
    (a.wc = 0 → extract rnd a k w sat = ((BitVec.ofInt w (clamp w r)).toNat, if clamp w r = r then 0 else 0x10#32))
      ∧ (a.wc ≠ 0 → sat = true →
          extract rnd a k w sat = ((BitVec.ofInt w (if 0 < a.wc then 2 ^ (w - 1) - 1 else -(2 ^ (w - 1)))).toNat, 0x10#32))
      ∧ (a.wc ≠ 0 → sat = false → extract rnd a k w sat = ((BitVec.ofInt w r).toNat, 0x20#32))

/-- R116: TAPM reads two samples and two coefficients, accumulates both products (TAPM.Z starts anew), moves the two samples one
word up, and steps both pointers by 8. Nothing else of memory changes.
(The pointers do not change in the cycle that the word may wait for the fabric.) -/
def Claim.TapmFiltersAndMovesTheDelayLine : Prop :=
  ∀ (s : State) (c : Fin 16) (A : Fin 8) (pi pj : Fin 16) (z : Bool), s.fab.upsets = [] →
    let n := if (s.core c).cyc % 16 = 15 then 1 else 0
    CoreReady s c n →
    let v := viewAt s c n
    v.p pi = (viewAt s c 0).p pi → v.p pj = (viewAt s c 0).p pj →
    let one := (s.core c).useBank1
    let a := (v.p pi).toNat
    let e := (v.p pj).toNat
    0x10004 ≤ a → a + 4 < 0x28000 → 0x28004 ≤ e → e < 0x40000 → a % 4 = 0 → e % 4 = 0 →
    let w := fun (o : Nat) => s.memWord (tunBase c.val + o)
    let sum := (w a).toInt * (w e).toInt + (w (a - 4)).toInt * (w (e - 4)).toInt
    let r := if z then (⟨BitVec.ofInt 80 sum, 0, false⟩, false) else accStep (v.accIn A) sum
    ∃ t, exec (if z then .tapmZ c true A pi pj else .tapm c true A pi pj) s = .next t
      ∧ CoreStep s t c n (fun b => { b with p := (b.p.set pi (v.p pi - 8)).set pj (v.p pj - 8) })
          (⟨2, one, .acc A r.1 true⟩ :: stickyLate 2 one (if r.2 then 0x20#32 else 0))
      ∧ t.memWord (tunBase c.val + a + 4) = w a ∧ t.memWord (tunBase c.val + a) = w (a - 4)
      ∧ ∀ o, (o < tunBase c.val + a ∨ tunBase c.val + a + 8 ≤ o) → t.memByte o = s.memByte o

/-- EXT and STA round and clamp an accumulator; TAPM filters two taps and moves the delay line. -/
def Obligations.ExtractionRoundsAndTapmFilters : Prop := Claim.ExtractionRoundsAndClamps ∧ Claim.TapmFiltersAndMovesTheDelayLine

/-- R112, R103, R125, R127: the binary32 instructions put a lane's result on its way, or both lanes' of the even-odd pairs, with the
sticky bits that the lanes set; four cycles, six for FRCP and FRSQ. FCMP's flags are on their way likewise. -/
def Claim.FloatingPointDeliversItsLanes : Prop :=
  ∀ (s : State) (c : Fin 16) (two sat : Bool) (d a b e : Fin 32), CoreReady s c 0 →
    (two = true → d.val % 2 = 0 ∧ a.val % 2 = 0 ∧ b.val % 2 = 0 ∧ e.val % 2 = 0) →
    let one := (s.core c).useBank1
    let ftz := (s.core c).cr.getLsbD 2
    let val := fun (k : Bool) (r : Fin 32) => dReg s c (if k then nextReg r else r)
    let num := fun (k : Bool) (r : Fin 32) => fdec ftz (val k r)
    let bits := fun (r : FRes) => (if r.fov then 0x40#32 else 0) ||| (if r.finv then 0x80#32 else 0) ||| (if r.sv then 0x10#32 else 0)
    let does := fun (i : Instr) (lat : Nat) (lane : Bool → FRes) => ∃ t, exec i s = .next t ∧ SameMemory s t
      ∧ CoreStep s t c 0 id (if two then ⟨lat - 1, one, .d d (lane false).v⟩ :: ⟨lat - 1, one, .d (nextReg d) (lane true).v⟩
            :: stickyLate (lat - 1) one (bits (lane false) ||| bits (lane true))
          else ⟨lat - 1, one, .d d (lane false).v⟩ :: stickyLate (lat - 1) one (bits (lane false)))
    does (.fadd c true two sat d a b) 4 (fun k => fadd ftz sat (num k a) (num k b))
      ∧ does (.fsub c true two sat d a b) 4 (fun k => fadd ftz sat (num k a) (num k b).neg)
      ∧ does (.fmul c true two sat d a b) 4 (fun k => fmul ftz sat (num k a) (num k b))
      ∧ does (.fma c true two sat d a b e) 4 (fun k => ffma ftz sat (num k a) (num k b) (num k e))
      ∧ does (.fms c true two sat d a b e) 4 (fun k => ffma ftz sat (num k a).neg (num k b) (num k e))
      ∧ does (.fmin c true two sat d a b) 4 (fun k => fminmax false sat (num k a) (num k b))
      ∧ does (.fmax c true two sat d a b) 4 (fun k => fminmax true sat (num k a) (num k b))
      ∧ does (.fabs c true two d a) 4 (fun k => { v := val k a &&& 0x7FFFFFFF#32 })
      ∧ does (.fneg c true two d a) 4 (fun k => { v := val k a ^^^ 0x80000000#32 })
      ∧ does (.fcvtqf c true two sat d a) 4 (fun k => fofint ftz sat (val k a).toInt 118)
      ∧ does (.fcvtfq c true two d a) 4 (fun k => ftoint (num k a) 118)
      ∧ does (.fcvtif c true two sat d a) 4 (fun k => fofint ftz sat (val k a).toInt 149)
      ∧ does (.fcvtfi c true two d a) 4 (fun k => ftoint (num k a) 149)
      ∧ does (.frcp c true two sat d a) 6 (fun k => frcp ftz sat (num k a))
      ∧ does (.frsq c true two sat d a) 6 (fun k => frsq ftz sat (num k a))
      ∧ ∃ t, exec (.fcmp c true a b) s = .next t ∧ SameMemory s t
          ∧ (let r := fcompare (num false a) (num false b)
             CoreStep s t c 0 id (⟨3, one, .flags r.1 r.2.1 r.2.2.1 r.2.2.2.1⟩
               :: stickyLate 3 one (if r.2.2.2.2 then 0x80#32 else 0)))

/-- R112: a NaN operand of FADD, FSUB, FMUL, FMA, FMS, FRCP or FRSQ gives the quiet NaN 0x7FC0_0000, with sat = 1 +0.0, and sets
finv; FMIN and FMAX of one NaN operand deliver the other, when that is a finite number; FCVTFQ and FCVTFI of a NaN give 0 and set
finv. -/
def Claim.NanOperandsGiveTheStatedResults : Prop :=
  ∀ (ftz sat up : Bool) (x y z : Word), isNan x = true →
    let n := fun w => fdec ftz w
    let out : FRes := { v := if sat then 0 else 0x7FC00000#32, finv := true }
    fadd ftz sat (n x) (n y) = out ∧ fadd ftz sat (n y) (n x) = out ∧ fadd ftz sat (n y) (n x).neg = out
      ∧ fmul ftz sat (n x) (n y) = out ∧ fmul ftz sat (n y) (n x) = out
      ∧ ffma ftz sat (n x) (n y) (n z) = out ∧ ffma ftz sat (n y) (n x) (n z) = out ∧ ffma ftz sat (n y) (n z) (n x) = out
      ∧ frcp ftz sat (n x) = out ∧ frsq ftz sat (n x) = out
      ∧ (∀ sh, ftoint (n x) sh = { v := 0, finv := true })
      ∧ (y.toNat % 2 ^ 31 < 0x7F800000 → (ftz = true → 0x800000 ≤ y.toNat % 2 ^ 31 ∨ y.toNat % 2 ^ 31 = 0) →
          (fminmax up sat (n x) (n y)).v = y ∧ (fminmax up sat (n y) (n x)).v = y)

/-- Floating-point words deliver each lane after their latency; a NaN operand gives what is stated. -/
def Obligations.FloatingPointDeliversItsLanes : Prop := Claim.FloatingPointDeliversItsLanes ∧ Claim.NanOperandsGiveTheStatedResults

/-! ## Core: control -/

/-- R105, R118, R127: BR with its condition true, RET and BRR go to their target after one delay slot, and pop the innermost loop
level when the target lies outside its body; BR with its condition false falls through after the delay slot. CALL goes to its
target likewise, pops nothing, and puts the address after the delay slot in LR. -/
def Claim.BranchesGoToTheirTargetAfterADelaySlot : Prop :=
  ∀ (s : State) (c : Fin 16) (cond : Fin 15) (off : BitVec 22) (pn : Fin 16), CoreReady s c 0 →
    let k := s.core c
    let one := k.useBank1
    let target := k.pc + BitVec.ofInt 32 (4 * off.toInt)
    let turn := fun (i : Instr) (slot : SlotTo) (b : Bank) => ∃ t, exec i s = .next t ∧ SameMemory s t ∧ CoreAlone s t c
      ∧ (let k0 := k.setBank one b
         CoreNext k0 (t.core c) (k0.tick.bankOf one) [] (some slot))
    let goes := fun (i : Instr) (a : Word) => turn i (.goto a)
      (match k.bank.loop with
       | some (_, _, top, last) => if top.toNat ≤ a.toNat ∧ a.toNat ≤ last.toNat then k.bank else k.bank.pop
       | none => k.bank)
    (condHolds k.bank.sr cond.val = true → goes (.br c true cond off) target)
      ∧ (condHolds k.bank.sr cond.val = false → turn (.br c true cond off) .fall k.bank)
      ∧ goes (.ret c true) (k.bank.lr.setWidth 32) ∧ goes (.brr c true pn) (k.bank.p[pn] &&& 0xFFFF#32)
      ∧ ∃ t, exec (.call c true off) s = .next t ∧ SameMemory s t ∧ CoreAlone s t c
          ∧ CoreNext k (t.core c)
              { k.tick.bankOf one with lr := (k.pc + 4 + BitVec.ofNat 32 (4 * groupWords s c (k.pc + 4))).setWidth 16 } []
              (some (.goto target))

/-- R105, R120, R122: the group in a delay slot takes its own effect, and the core is then where the branch, or the return from an
event, put it: RTE1 goes to the handler of a pending level-1 event, else back to EPC1 at the level it came from; RTE2 goes to EPC2 at
level 0 with SR from ESR2. -/
def Claim.DelaySlotGroupIssuesBeforeTheTurn : Prop :=
  ∀ (s : State) (c : Fin 16) (d a : Fin 32) (dst : SlotTo), CoreFree s c → (s.core c).slot = some dst → (s.core c).flight = [] →
    (s.core c).bank.loop = none →
    let k := s.core c
    let one := k.useBank1
    ∃ t, exec (.mov c true d a) s = .next t ∧ SameMemory s t ∧ CoreAlone s t c
      ∧ ((t.core c).bankOf one).d = k.bank.d.set d (dReg s c a)
      ∧ (t.core c).bankOf (!one) = (if dst = .rte2 ∧ one = true then
            { k.bankOf (!one) with sr := k.esr2 &&& 0x1FF#32 } else k.bankOf (!one))
      ∧ (t.core c).slot = none ∧ (t.core c).group = [] ∧ (t.core c).flight = [] ∧ (t.core c).run = k.run
      ∧ (t.core c).epc1 = k.epc1 ∧ (t.core c).epc2 = k.epc2
      ∧ (dst = .fall → (t.core c).pc = k.pc + 4 ∧ (t.core c).level = k.level)
      ∧ (∀ x, dst = .goto x → (t.core c).pc = x ∧ (t.core c).level = k.level)
      ∧ (dst = .rte1 → k.bell = true → (t.core c).pc = k.vbase + 0x20#32 ∧ (t.core c).level = k.level
            ∧ (t.core c).bell = false)
      ∧ (dst = .rte1 → k.bell = false → k.slice = true → (t.core c).pc = k.vbase + 0x40#32
            ∧ (t.core c).level = k.level ∧ (t.core c).slice = false)
      ∧ (dst = .rte1 → k.bell = false → k.slice = false → (t.core c).pc = k.epc1 ∧ (t.core c).level = k.l1from)
      ∧ (dst = .rte2 → (t.core c).pc = k.epc2 ∧ (t.core c).level = 0
            ∧ (t.core c).bank0.sr = k.esr2 &&& 0x1FF#32)

/-- A branch goes to its target after the group in its delay slot, which always issues. -/
def Obligations.BranchesTurnAfterTheirDelaySlot : Prop := Claim.BranchesGoToTheirTargetAfterADelaySlot ∧ Claim.DelaySlotGroupIssuesBeforeTheTurn

/-- R120, R122, R127: RTE1 at level 1 and RTE2 at level 2 issue, and leave a delay slot after which they return; NOP does nothing; IDLE
stops issue; FENCE passes the cycles until every store has reached Tun. -/
def Claim.ReturnsIdleFenceAndNopIssue : Prop :=
  ∀ (s : State) (c : Fin 16), CoreReady s c 0 →
    let k := s.core c
    let one := k.useBank1
    let does := fun (i : Instr) (slot : Option SlotTo) (run : CoreRun) => ∃ t, exec i s = .next t ∧ SameMemory s t ∧ CoreAlone s t c
      ∧ CoreNext k (t.core c) (k.tick.bankOf one) [] slot (k.pc + 4) run
    (k.level = 1 → does (.rte1 c true) (some .rte1) k.run) ∧ (k.level = 2 → does (.rte2 c true) (some .rte2) k.run)
      ∧ does (.nop c true) none k.run ∧ does (.idle c true) none .idle
      ∧ ∃ t, exec (.fence c true) s = .next t ∧ SameMemory s t ∧ CoreAlone s t c
          ∧ (let k' := Core.ticks (1 + k.stLeft) k
             (t.core c).bank0 = k'.bank0 ∧ (t.core c).bank1 = k'.bank1 ∧ (t.core c).flight = k'.flight ∧ (t.core c).cyc = k'.cyc
               ∧ (t.core c).pc = k.pc + 4 ∧ (t.core c).stLeft = 0 ∧ (t.core c).run = k.run ∧ (t.core c).level = k.level)

/-- R124: BRK halts the core at the end of its group with halt_en = 1; with halt_en = 0 at level 0 with ie2 = 1 the debug event becomes
pending; otherwise it acts as NOP. -/
def Claim.BreakHaltsOrRaisesTheDebugEvent : Prop :=
  ∀ (s : State) (c : Fin 16), CoreReady s c 0 → (s.core c).flight = [] →
    let k := s.core c
    let haltEn := s.rawFlag (R.CORE_DBG_SEL.halt_en c.val)
    ∃ t, exec (.brk c true) s = .next t ∧ SameMemory s t
      ∧ (t.core c).pc = k.pc + 4 ∧ (t.core c).bank0 = k.bank0 ∧ (t.core c).bank1 = k.bank1 ∧ (t.core c).level = k.level
      ∧ (haltEn = true → (t.core c).run = .halted ∧ (t.core c).evDebug = k.evDebug)
      ∧ (haltEn = false → (t.core c).run = k.run
          ∧ (t.core c).evDebug = (k.evDebug || (k.level == 0 && k.bank0.sr.getLsbD 8)))

/-- RTE, IDLE, FENCE and NOP have their effect; BRK halts the core or raises the debug event. -/
def Obligations.ReturnsIdleFenceNopAndBreak : Prop := Claim.ReturnsIdleFenceAndNopIssue ∧ Claim.BreakHaltsOrRaisesTheDebugEvent

/-- R117: LOOP and LOOPR push a loop level with their count, the address of the next group and their end; with a count of 0 they skip
the body, which costs one more cycle. -/
def Claim.LoopsPushALevelOrSkipTheBody : Prop :=
  ∀ (s : State) (c : Fin 16) (count : Fin 4096) (dn : Fin 32) (endw : Fin 1024), CoreReady s c 0 →
    let k := s.core c
    let one := k.useBank1
    let last := k.pc + BitVec.ofNat 32 (4 * endw.val)
    let pushes := fun (i : Instr) (n : Word) => n ≠ 0 → ∀ _ : k.bank.lsp.val < 3,
      ∃ t, exec i s = .next t ∧ SameMemory s t ∧ CoreAlone s t c
        ∧ (let b := k.bank
           let k0 := k.setBank one { b with
             lcnt := b.lcnt.set b.lsp.val n, ltop := b.ltop.set b.lsp.val ((k.pc + 4).setWidth 16)
             lend := b.lend.set b.lsp.val (last.setWidth 16)
             lsp := Fin.ofNat 4 (b.lsp.val + 1) }
           CoreNext k0 (t.core c) (k0.tick.bankOf one) [])
    let skips := fun (i : Instr) => k.bank.lsp.val < 3 → ∃ t, exec i s = .next t ∧ SameMemory s t ∧ CoreAlone s t c
        ∧ (t.core c).pc = last + BitVec.ofNat 32 (4 * groupWords s c last) ∧ (t.core c).cyc = k.cyc + 2
        ∧ (t.core c).bank0 = (Core.ticks 2 k).bank0 ∧ (t.core c).bank1 = (Core.ticks 2 k).bank1
        ∧ (t.core c).slot = none ∧ (t.core c).run = k.run ∧ (t.core c).level = k.level
    pushes (.loop c true count endw) (BitVec.ofNat 32 count.val) ∧ pushes (.loopr c true dn endw) (dReg s c dn)
      ∧ (count.val = 0 → skips (.loop c true count endw)) ∧ (dReg s c dn = 0 → skips (.loopr c true dn endw))

/-- R117: a group at LEND of the innermost level goes back to LTOP with LCNT one less while LCNT is above 1, and otherwise pops the
level and goes on. -/
def Claim.LoopEndCountsOrPops : Prop :=
  ∀ (s : State) (c : Fin 16) (d a : Fin 32) (i : Fin 3) (n : Word) (top last : BitVec 16), CoreFree s c → (s.core c).slot = none →
    (s.core c).flight = [] → (s.core c).bank.loop = some (i, n, top, last) → (s.core c).pc = last.setWidth 32 →
    let k := s.core c
    let one := k.useBank1
    ∃ t, exec (.mov c true d a) s = .next t ∧ SameMemory s t ∧ CoreAlone s t c
      ∧ (1 < n.toNat → (t.core c).bankOf one = { k.bank with lcnt := k.bank.lcnt.set i (n - 1), d := k.bank.d.set d (dReg s c a) }
          ∧ (t.core c).pc = top.setWidth 32)
      ∧ (n.toNat ≤ 1 → ((t.core c).bankOf one).lsp.val = k.bank.lsp.val - 1 ∧ ((t.core c).bankOf one).d = k.bank.d.set d (dReg s c a)
          ∧ (t.core c).pc = k.pc + 4)

/-- LOOP pushes a level or skips its body; the group at LEND counts or pops. -/
def Obligations.LoopsPushCountAndPop : Prop := Claim.LoopsPushALevelOrSkipTheBody ∧ Claim.LoopEndCountsOrPops

/-- R99, R102, R123: a core that fetches an illegal group, or a word outside program memory, takes none of it: at level 0 with ie2 = 1
it takes the fault event, with the group's address in EPC2 and in CORE_FAULT_PC beside the cause; otherwise it stops. Memory is
unchanged. -/
def Obligations.IllegalGroupTakesTheFaultEventOrStops : Prop :=
  ∀ (s : State) (c : Fin 16) (words : List Word), CoreFree s c → (s.core c).flight = [] →
    let k := s.core c
    let out := 0x10000 < k.pc.toNat + 4 * min 4 words.length
    let cause := if out then 1 else 0
    (out ∨ formsGroup words = true ∧ wordsIllegal k words = true) →
    ∃ t, exec (.illegalInstruction c words) s = .next t ∧ SameMemory s t
      ∧ (t.core c).bank1 = k.bank1 ∧ (t.core c).bank0.d = k.bank0.d ∧ (t.core c).bank0.a = k.bank0.a ∧ (t.core c).bank0.p = k.bank0.p
      ∧ (∀ j, j ≠ c → t.core j = s.core j)
      ∧ (k.level = 0 → k.bank0.sr.getLsbD 8 = true →
          (t.core c).run = .running ∧ (t.core c).level = 2 ∧ (t.core c).epc2 = k.pc ∧ (t.core c).esr2 = k.bank0.sr
            ∧ (t.core c).bank0.sr = k.bank0.sr &&& ~~~ 0x100#32 ∧ (t.core c).pc = k.vbase + 0x60#32
            ∧ (t.core c).cyc = k.cyc + 2
            ∧ (s.perfOff → t.get (R.CORE_FAULT_PC.pc c.val) = k.pc.toNat ∧ t.get (R.CORE_FAULT_PC.cause c.val) = cause
                ∧ t.rawFlag ⟨R.CORE_EVT.reg c.val, cause, 1⟩ = true))
      ∧ (k.level ≠ 0 ∨ k.bank0.sr.getLsbD 8 = false → (t.core c).run = .faulted ∧ (t.core c).pc = k.pc)

/-- R102: a word that is not its group's last only joins the group: no register, pc, cycle or byte of memory changes until the group
issues. -/
def Claim.WordBeforeTheLastOnlyJoinsTheGroup : Prop :=
  ∀ (s : State) (c : Fin 16) (sat : Bool) (d a b : Fin 32) (A : Fin 8) (p m : Fin 16) (mode : Fin 8) (imm : BitVec 9) (off : BitVec 22),
    CoreFree s c →
    let k := s.core c
    let joins := fun (i : Instr) => ∃ t w, exec i s = .next t ∧ SameMemory s t ∧ CoreAlone s t c ∧ t.core c = { k with group := [w] }
    joins (.add c false sat d a b) ∧ joins (.ldW c false d p m mode imm) ∧ joins (.stW c false d p m mode imm)
      ∧ joins (.mac c false A a b 0) ∧ joins (.fadd c false false sat d a b) ∧ joins (.br c false 0 off) ∧ joins (.nop c false)

/-- R102, R103: the words of a group issue in one cycle, each reading its operands before any result of the group is written. -/
def Claim.GroupReadsBeforeItWrites : Prop :=
  ∀ (s : State) (c : Fin 16) (d a b d' a' b' : Fin 32), CoreReady s c 0 → (s.core c).flight = [] → (s.core c).pc.toNat + 4 < 0x10000 →
    d ≠ d' →
    ∃ u t, exec (.xor c false d a b) s = .next u ∧ exec (.and c true d' a' b') u = .next t ∧ SameMemory s t
      ∧ ((t.core c).bankOf (s.core c).useBank1).d
          = ((s.core c).bank.d.set d (dReg s c a ^^^ dReg s c b)).set d' (dReg s c a' &&& dReg s c b')
      ∧ (t.core c).pc = (s.core c).pc + 8 ∧ (t.core c).cyc = (s.core c).cyc + 1

/-- A word before the last only joins its group; a group reads every operand before it writes. -/
def Obligations.WordsGatherIntoGroupsThatReadFirst : Prop := Claim.WordBeforeTheLastOnlyJoinsTheGroup ∧ Claim.GroupReadsBeforeItWrites

/-! ## Reset and start -/

/-- R371, R373: RESET_N, the power-on detector, a software write with the key 0xA5C3 and a watchdog whose action is 0b10 each leave the
engine in RESET with their cause: every register at its reset value but SYS_RESET_CAUSE, every memory but the flash cleared, and
the slot of SYS_RESET kept for the next start of a software reset alone. -/
def Claim.ResetClearsTheEngine : Prop :=
  ∀ (s : State) (route : Route) (data : Word),
    s.on →
    let resets := fun (i : Instr) (cause forced : Nat) => ∃ t, exec i s = .next t
      ∧ (∀ a, t.reg a = if a = R.SYS_RESET_CAUSE.reg then BitVec.ofNat 32 cause else regReset a)
      ∧ t.sys = { SysS.reset with straps := s.sys.straps, fuses := s.sys.fuses }
      ∧ t.boot = { BootS.reset with flashSize := s.boot.flashSize, forced := forced }
      ∧ t.flash = s.flash ∧ t.free = s.free ∧ t.tap = s.tap ∧ t.pending = s.pending
      ∧ ∀ p, p ∉ [Part.sys, .boot, .flash, .free, .tap, .pending] → p.same State.reset t
    resets .resetNAssert 1 0 ∧ resets .powerOnDetect 2 0
      ∧ (s.sys.state ≠ .reset → s.routeOn route = true → fieldGet 16 16 data = 0xA5C3 →
          resets (.softwareReset route data) 3 (fieldGet 0 2 data))
      ∧ (s.flt.wdogRun = true → s.flt.wdogUp + s.get R.FLT_WDOG.timeout * msVco < s.sys.up + s.perVco → s.get R.FLT_WDOG.action = 2 → resets .hostWdogExpiry 4 0)

/-- R371: a write to SYS_RESET with any other key is journalled and does nothing else. -/
def Claim.SoftwareResetNeedsItsKey : Prop :=
  ∀ (s : State) (route : Route) (data : Word), TakesWrite s route → fieldGet 16 16 data ≠ 0xA5C3 →
    ∃ t, exec (.softwareReset route data) s = .next t ∧ Only [.hif] [] s t
      ∧ t.hif = s.journalled route 0 R.SYS_RESET.reg data

/-- Every reset source clears the engine and records its cause; a software reset needs its key. -/
def Obligations.ResetClearsTheEngineAndNeedsItsKey : Prop := Claim.ResetClearsTheEngine ∧ Claim.SoftwareResetNeedsItsKey

/-- R372, R380, R422, R443: the release of reset takes the straps (CTRL_PORT2 and TWIN_ROLE where the package has them), sets engine time to 0, clears both two-wire buses and enters LOAD of the
first slot to try: the newer generation first, slot A where neither is newer, the forced slot first after a software reset; a
slot whose header is bad, or whose result shows a failure, is not tried. -/
def Claim.ReleaseOfResetChoosesTheSlot : Prop :=
  ∀ (s : State) (bootFlash : Bool) (twtAddr : Fin 4) (ctrlPort : Fin 8) (twinRole sfdpOk clear0 clear1 : Bool),
    s.quiet → s.sys.state = .reset →
    let f := s.sys.fuses
    let port := if f.pkg1156 then ctrlPort.val else ctrlPort.val % 4
    let failed := fun (b : Bool) => s.get (resLoc b) ∈ [2, 3, 4, 5, 6]
    let tried := fun (b : Bool) => headerOk s b = true ∧ ¬ failed b
    let bFirst := newer (slotGen s true) (slotGen s false) 32
    ∃ t, exec (.resetRelease bootFlash twtAddr ctrlPort twinRole sfdpOk clear0 clear1) s = .next t
      ∧ Only [.sys, .boot] [R.HIF_IB_CFG.reg, R.HIF_IB_STAT.reg, R.BOOT_STAT.reg, R.TWC_STAT.reg 0, R.TWC_STAT.reg 1] s t
      ∧ t.sys.state = .load ∧ t.sys.et = 0 ∧ t.sys.fuses = f
      ∧ t.sys.straps.bootFlash = bootFlash ∧ t.sys.straps.twtAddr = twtAddr ∧ t.sys.straps.ctrlPort.val = port
      ∧ t.sys.straps.twinRole = (twinRole && f.pkg1156)
      ∧ t.get R.HIF_IB_CFG.ports = (if port < f.ports then 2 ^ port else 0)
      ∧ t.get R.BOOT_STAT.slow_flash = (if sfdpOk then 0 else 1)
      ∧ (∀ b, t.get (resLoc b) = if s.get (resLoc b) = 0 ∧ headerOk s b = false then 2 else s.get (resLoc b))
      ∧ (∀ k : Fin 2, (if k = 0 then clear0 else clear1) = true → t.get (R.TWC_STAT.stuck k.val) = 0
          ∧ t.get (R.TWC_STAT.clears k.val) = (s.get (R.TWC_STAT.clears k.val) + 1) % 65536)
      ∧ (∀ k : Fin 2, (if k = 0 then clear0 else clear1) = false → t.get (R.TWC_STAT.stuck k.val) = 1
          ∧ t.get (R.TWC_STAT.sda_stuck k.val) = 1)
      ∧ t.boot.forced = 0
      ∧ (∀ b, b ∈ t.boot.cand ↔ tried b)
      ∧ (tried false → tried true → t.boot.cand = (if s.boot.forced = 1 then [false, true] else if s.boot.forced = 2 then [true, false]
          else if bFirst then [true, false] else [false, true]))
      ∧ t.boot.slot = t.boot.cand.headD false

/-- R379: the boot engine's result for a slot is "valid" just when magic, format, hcrc and the table's CRC are right, the variant's bit
is set, every section lies within length and length within the slot, every scrc is right, and the signature meets the table. -/
def Claim.SlotIsValidByItsChecks : Prop :=
  ∀ (s : State) (b good : Bool),
    let at_ := s.slotBase b
    let n := s.slotNat b 6 2
    let f := s.sys.fuses
    let signed := s.slotNat b 10 2 % 2 = 1
    (slotResult s b good = 1 ↔
      s.flashBytes at_ 4 = [0x45#8, 0x4C#8, 0x56#8, 0x41#8] ∧ s.slotNat b 4 2 = 1
        ∧ s.slotNat b 60 4 = (crc32c (s.flashBytes at_ 60)).toNat
        ∧ 1 ≤ n ∧ n ≤ 4096 ∧ s.slotNat b (64 + 32 * n) 4 = (crc32c (s.flashBytes (at_ + 64) (32 * n))).toNat
        ∧ (s.slotNat b 8 2).testBit f.variant.val = true
        ∧ s.slotNat b 16 4 ≤ s.boot.flashSize / 2
        ∧ (∀ x ∈ slotSections s b, x.offset + x.size ≤ s.slotNat b 16 4
            ∧ x.scrc = (crc32c (s.flashBytes (at_ + x.offset) x.size)).toNat)
        ∧ (if f.variant.val = 10 then signed ∧ f.keyHash = true ∧ good = true
           else signed → f.keyHash = true → good = true))

/-- Release of reset samples the straps and chooses a slot; a slot is valid by its checks. -/
def Obligations.ReleaseChoosesASlotValidByItsChecks : Prop := Claim.ReleaseOfResetChoosesTheSlot ∧ Claim.SlotIsValidByItsChecks

/-- R35, R177, R380, R381: LOAD passes to CHECK; a valid slot passes to PREPARE with its sections to apply; an invalid one passes to LOAD of
the other slot to try, or with none left to SAFE. The slot's res field takes the result; in SAFE
the modulators in off with en = 1 go to hold. -/
def Claim.CheckLeadsToPrepareOrTheOtherSlot : Prop :=
  ∀ (s : State) (keyGood sigGood b : Bool) (rest : List Bool), s.quiet →
    let good := keyGood && sigGood
    let r := slotResult s b good
    let pwmRegs := R.PWM_STAT.reg :: R.PWM_LATCHED.reg :: (List.range 24).flatMap (fun c => [R.PWM_CH_STAT.reg c, R.PWM_CH_GAIN.reg c])
    let checks := fun (e : EngState) (boot : BootS) => ∃ t, exec (.checkComplete keyGood sigGood) s = .next t
      ∧ Only (if e = .safe then [.sys, .boot, .pwm] else [.sys, .boot])
          (R.BOOT_STAT.reg :: R.SYS_STATE.reg :: if e = .safe then pwmRegs else []) s t
      ∧ t.sys = { s.sys with state := e } ∧ t.boot = boot
      ∧ (e = .safe → ∀ c : Fin 24, t.pwmState c.val = if c.val < s.sys.fuses.pwm ∧ s.flag (R.PWM_CH_CFG.en c.val) = true ∧ s.pwmState c.val = 0
          then 5 else s.pwmState c.val)
      ∧ t.flag R.SYS_STATE.changed = true ∧ t.get (resLoc b) = r ∧ t.get (resLoc !b) = s.get (resLoc !b)
    (s.sys.state = .load → ∃ t, exec .loadComplete s = .next t ∧ Only [.sys] [R.SYS_STATE.reg] s t
        ∧ t.sys = { s.sys with state := .check } ∧ t.flag R.SYS_STATE.changed = true)
      ∧ (s.sys.state = .check → s.boot.cand = b :: rest → r = 1 →
          checks .prepare { s.boot with slot := b, sections := slotSections s b, checked := false, waking := false })
      ∧ (s.sys.state = .check → s.boot.cand = b :: rest → r ≠ 1 → ∀ o l, rest = o :: l →
          checks .load { s.boot with cand := rest, slot := o })
      ∧ (s.sys.state = .check → s.boot.cand = b :: rest → r ≠ 1 → rest = [] → checks .safe { s.boot with cand := [] })

/-- R381 to R383: a section whose scrc fails on the second read resets the engine with cause 5, its slot's res field at 6; a section
of MGP firmware is noted; one of no known type has no effect; with the last section applied the image counts as loaded
and the MGP runs. -/
def Claim.PrepareAppliesTheSections : Prop :=
  ∀ (s : State) (x : Section) (rest : List Section), s.quiet → s.sys.state = .prepare → s.boot.sections = x :: rest →
    (∃ t, exec (.prepareSection false) s = .next t ∧ t.sys = { SysS.reset with straps := s.sys.straps, fuses := s.sys.fuses }
        ∧ t.reg R.SYS_RESET_CAUSE.reg = 5 ∧ t.get (resLoc s.boot.slot) = 6 ∧ t.flag R.BOOT_STAT.reload_crc = true
        ∧ t.get (resLoc !s.boot.slot) = s.get (resLoc !s.boot.slot) ∧ t.flash = s.flash
        ∧ ∀ a, a ∉ [R.SYS_RESET_CAUSE.reg, R.BOOT_STAT.reg] → t.reg a = regReset a)
      ∧ (x.kind = 4 ∨ x.kind = 5 → rest ≠ [] → ∃ t, exec (.prepareSection true) s = .next t ∧ Only [.boot] [] s t
        ∧ t.boot = { s.boot with
            sections := rest
            mgpFirmware := s.boot.mgpFirmware ++ if x.kind = 4 then [(s.slotBase s.boot.slot + x.offset, x.size)] else [] })
      ∧ (x.kind = 4 ∨ x.kind = 5 → rest = [] → ∃ t, exec (.prepareSection true) s = .next t ∧ t.sys = s.sys
        ∧ t.flag R.SYS_STATE.image = true ∧ t.get R.SYS_STATE.slot = (if s.boot.slot then 1 else 0)
        ∧ t.reg R.BOOT_IMG_GEN.reg = BitVec.ofNat 32 (slotGen s s.boot.slot) ∧ t.boot.sections = []
        ∧ t.flt.mgpRun = true ∧ t.flag R.FLT_MGP.running = true)

/-- A check leads to PREPARE or the other slot, and PREPARE applies the sections. -/
def Obligations.CheckLeadsToPrepareWhichApplies : Prop := Claim.CheckLeadsToPrepareOrTheOtherSlot ∧ Claim.PrepareAppliesTheSections

/-! ## Time, states and wake events -/

/-- R41, R43, R44, R52, R55: the period number is the one that contains engine time on the exact grid; a 32-bit count is extended to the
candidate nearest its reference; serial-number comparison. -/
def Claim.PeriodNumbersFollowTheExactGrid : Prop :=
  (∀ s : State, s.fsSel ≤ 2 → s.pn = s.sys.et * 3125 / 2048 / (3000000000 / s.fs) / s.nSamp ∧ s.nt = s.sys.et * 3125 / 2048 / 3)
    ∧ (∀ (ref : Int) (low : Nat), low < 2 ^ 32 → -(2 ^ 31) ≤ extend32 ref low - ref ∧ extend32 ref low - ref < 2 ^ 31
        ∧ (extend32 ref low - low) % 2 ^ 32 = 0)
    ∧ ∀ w, w = 16 ∨ w = 32 → ∀ a b, a < 2 ^ w → b < 2 ^ w →
        (newer a b w = true ↔ ∃ d, 0 < d ∧ d < 2 ^ (w - 1) ∧ (b + d) % 2 ^ w = a)

/-- R42, R44: a period boundary with no time set due ends the period: engine time stands at the start of the next period, and one more
boundary has passed. -/
def Claim.PeriodBoundaryBeginsTheNextPeriod : Prop :=
  ∀ s : State, s.on → s.sys.state ≠ .reset → s.setDue = false →
    ∃ t, exec .periodBoundary s = .next t ∧ t.sys.et = (s.pn + 1) * s.perVco
      ∧ t.sys.up = s.sys.up + (s.perVco - s.sys.et % s.perVco) ∧ t.sys.bnd = s.sys.bnd + 1 ∧ t.sys.fuses = s.sys.fuses
      ∧ t.sys.straps = s.sys.straps

/-- Period numbers follow the exact grid, and a boundary begins the next period. -/
def Obligations.PeriodsFollowTheExactGrid : Prop := Claim.PeriodNumbersFollowTheExactGrid ∧ Claim.PeriodBoundaryBeginsTheNextPeriod

/-- R62: a capture takes engine time, PN and the offset in the period, and whether Kiln reported lock; capture then
reads 1, for one cycle of CLK_PER, and a write of 1 while it reads 1 has no effect (R16). -/
def Claim.TimeCaptureLatchesEngineTime : Prop :=
  ∀ (s : State) (route : Route) (data : Word), TakesWrite s route →
    let kept := fun (t : State) => t.hif = s.journalled route 0 R.SYS_TIME_CAP.reg data
      ∧ t.get R.SYS_TIME_CAP.time_sets = s.get R.SYS_TIME_CAP.time_sets
      ∧ t.flag R.SYS_TIME_CAP.time_set = (s.flag R.SYS_TIME_CAP.time_set && !data.getLsbD 2)
    (data.getLsbD 0 = true → s.flag R.SYS_TIME_CAP.capture = false → ∃ t, exec (.sysTimeCapture route data) s = .next t ∧ kept t
        ∧ Only [.hif] [R.SYS_TIME_CAP.reg, R.SYS_CAP_SEC_LO.reg, R.SYS_CAP_SEC_HI.reg, R.SYS_CAP_NS.reg, R.SYS_CAP_FRAC.reg,
            R.SYS_CAP_PN_LO.reg, R.SYS_CAP_PN_HI.reg, R.SYS_CAP_OFS.reg] s t
        ∧ t.flag R.SYS_TIME_CAP.capture = true ∧ t.flag R.SYS_TIME_CAP.unlocked = !s.flag R.KILN_STAT.lock
        ∧ t.get R.SYS_CAP_SEC_LO.sec_lo = s.nt / 10 ^ 9 % 2 ^ 32 ∧ t.get R.SYS_CAP_SEC_HI.sec_hi = s.nt / 10 ^ 9 / 2 ^ 32 % 2 ^ 16
        ∧ t.get R.SYS_CAP_NS.ns = s.nt % 10 ^ 9 ∧ t.get R.SYS_CAP_FRAC.frac = s.frac % 2 ^ 16
        ∧ t.get R.SYS_CAP_PN_LO.pn_lo = s.pn % 2 ^ 32 ∧ t.get R.SYS_CAP_PN_HI.pn_hi = s.pn / 2 ^ 32 % 2 ^ 32
        ∧ t.get R.SYS_CAP_OFS.ofs = s.sys.et % s.perVco / 4 % 2 ^ 19)
      ∧ (data.getLsbD 0 = false ∨ s.flag R.SYS_TIME_CAP.capture = true → ∃ t, exec (.sysTimeCapture route data) s = .next t ∧ kept t ∧ Only [.hif] [R.SYS_TIME_CAP.reg] s t
        ∧ t.flag R.SYS_TIME_CAP.capture = s.flag R.SYS_TIME_CAP.capture ∧ t.flag R.SYS_TIME_CAP.unlocked = s.flag R.SYS_TIME_CAP.unlocked)

/-- R454, R354: a measurement of the die temperature becomes temp, and peak when it is the first or exceeds peak; the PCIe link that
comes up is shown with its width, generation and MSI-X enable, and one that goes down leaves them 0 and resets nothing. -/
def Claim.TemperatureAndPcieLinkAreShown : Prop :=
  ∀ (s : State) (temp : BitVec 12) (width gen : Fin 4) (msixEn : Bool), s.quiet →
    (s.sys.state ≠ .reset → ∃ t, exec (.sysTempMeasure temp) s = .next t ∧ Only [.sys] [R.SYS_TEMP.reg] s t
        ∧ t.sys = { s.sys with tempSeen := true } ∧ t.get R.SYS_TEMP.temp = temp.toNat
        ∧ t.get R.SYS_TEMP.peak = (if s.sys.tempSeen = false ∨ s.getS R.SYS_TEMP.peak < temp.toInt then temp.toNat
            else s.get R.SYS_TEMP.peak))
      ∧ (s.sys.state ≠ .reset → ∃ t, exec (.pcieLinkUp width gen msixEn) s = .next t ∧ Only [] [R.HIF_STAT.reg] s t
        ∧ t.flag R.HIF_STAT.pcie_up = true ∧ t.get R.HIF_STAT.width = width.val ∧ t.get R.HIF_STAT.gen = gen.val
        ∧ t.flag R.HIF_STAT.msix_en = msixEn ∧ t.flag R.HIF_STAT.bad_access = s.flag R.HIF_STAT.bad_access
        ∧ t.flag R.HIF_STAT.atomic_broken = s.flag R.HIF_STAT.atomic_broken)
      ∧ ∃ t, exec .pcieLinkDown s = .next t ∧ Only [] [R.HIF_STAT.reg] s t
        ∧ t.flag R.HIF_STAT.pcie_up = false ∧ t.get R.HIF_STAT.width = 0 ∧ t.get R.HIF_STAT.gen = 0
        ∧ t.flag R.HIF_STAT.msix_en = false ∧ t.flag R.HIF_STAT.bad_access = s.flag R.HIF_STAT.bad_access
        ∧ t.flag R.HIF_STAT.atomic_broken = s.flag R.HIF_STAT.atomic_broken

/-- R56, R396: the unread fault records and the journal's entries older than 1,000 ms are marked stale; queued descriptors, log entries
and dump records that have reached that age are marked once. -/
def Claim.OldEntriesAreMarkedStale : Prop :=
  ∀ s : State, s.quiet →
    let age := fun (up : Nat) => (s.sys.up - up) / msVco
    (∀ q, ∀ x ∈ (s.ring q).ups, age x.2 ≤ 1000) → (∀ x ∈ s.eth.logUps, age x.2 ≤ 1000) → (∀ x ∈ s.perf.dumpUp, age x.2 ≤ 1000) →
    ∃ t, exec .staleMark s = .next t ∧ Only [.flt, .hif] [] s t
      ∧ t.flt = { s.flt with queue := s.flt.queue.map (fun r => if 1000 < age r.up then { r with stale := true } else r) }
      ∧ t.hif = { s.hif with journal := (s.hif.journal.zip s.hif.jUp).map (fun e =>
          if 1000 < age e.2 then (match e.1 with | h :: r => (h ||| 0x40000000#32) :: r | [] => []) else e.1) }

/-- R5 and the rules of the registers: reading the low word of a wide value puts it out, and latches the high word for its own read. -/
def Claim.LowWordReadsLatchTheHighWord : Prop :=
  ∀ (s : State) (d : Fin 2), s.quiet →
    let e := s.ptp.dom[d].eLast
    let reads := fun (i : Instr) (ps : List Part) (lo hi : Word) (a : Nat) => ∃ t, exec i s = .next t ∧ Only ps [] s t
      ∧ [Out.word lo] <+: t.out ∧ (s.sys.fuses.absent a = false → (regRead t a).1 = hi)
    reads (.ptpDomOfsRead d) [.ptp] (BitVec.ofInt 32 e) (BitVec.ofInt 32 (e / 2 ^ 32)) (R.PTP_DOM_OFS_HI.reg d.val)
      ∧ reads .kilnPendRead [.kiln] (BitVec.ofInt 32 s.pend) (BitVec.ofInt 32 (s.pend / 2 ^ 32)) R.KILN_PEND_HI.reg
      ∧ reads .twinDigRead [.twin] (s.reg R.TWIN_DIG_LO.reg) (s.reg R.TWIN_DIG_HI.reg) R.TWIN_DIG_HI.reg
      ∧ reads .caskEccAddrRead [.cask] (s.reg R.CASK_ECC_ADDR_LO.reg) (s.reg R.CASK_ECC_ADDR_HI.reg) R.CASK_ECC_ADDR_HI.reg
      ∧ reads .fltMemAddrRead [.flt] (s.reg R.FLT_MEM_ADDR_LO.reg) (s.reg R.FLT_MEM_ADDR_HI.reg) R.FLT_MEM_ADDR_HI.reg

/-- R369, R370: after every command that completes the interrupt sources stand as the state makes them, and the line is low exactly when one that is enabled is
up. -/
def Claim.InterruptLinesFollowTheirSources : Prop :=
  ∀ (i : Instr) (s t : State), s.on → exec i s = .next t → t.irq.prev = intWord t ∧ t.irq.low = decide (intWord t &&& t.reg R.HIF_INT_EN.reg ≠ 0)

/-- Captures, temperature, link, stale entries and interrupt lines are shown; reads of low words latch the high word. -/
def Obligations.StatusIsCapturedShownAndLatched : Prop := Claim.TimeCaptureLatchesEngineTime ∧ Claim.TemperatureAndPcieLinkAreShown ∧ Claim.OldEntriesAreMarkedStale ∧ Claim.LowWordReadsLatchTheHighWord ∧ Claim.InterruptLinesFollowTheirSources

/-- R385, R403, R464: a write of enter in a RUN state, and a write of release in SAFE with an image, fall due at the second boundary
from now; enter in any other state is ignored, and release there sets release_err. -/
def Claim.StandbyAndReleaseFallDueAtTheSecondBoundary : Prop :=
  ∀ (s : State) (route : Route) (data : Word), TakesWrite s route →
    let sched := fun (x : Action) => { s.sys with sched := s.sys.sched ++ [(2, x)] }
    let v := withField data 8 1 1
    let ramp := fun (t : State) => Only [.sys, .hif] [R.FLT_SAFE.reg] s t ∧ t.hif = s.journalled route 0 R.FLT_SAFE.reg v
      ∧ t.get R.FLT_SAFE.ramp = fieldGet 0 8 data ∧ t.get R.FLT_SAFE.cause_blk = s.get R.FLT_SAFE.cause_blk
      ∧ t.get R.FLT_SAFE.cause_code = s.get R.FLT_SAFE.cause_code
    (data.getLsbD 0 = true → s.sys.state = .runUnlocked ∨ s.sys.state = .runLocked → s.flag R.SYS_STBY.enter = false →
        ∃ t, exec (.standbyEnterCmd route data) s = .next t ∧ Only [.sys, .hif] [R.SYS_STBY.reg] s t
          ∧ t.sys = sched .standbyEnter ∧ t.flag R.SYS_STBY.enter = true ∧ t.hif = s.journalled route 0 R.SYS_STBY.reg data)
      ∧ ((data.getLsbD 0 = false ∨ s.sys.state ≠ .runUnlocked ∧ s.sys.state ≠ .runLocked ∨ s.flag R.SYS_STBY.enter = true) →
        ∃ t, exec (.standbyEnterCmd route data) s = .next t ∧ Only [.hif] [] s t
          ∧ t.hif = s.journalled route 0 R.SYS_STBY.reg data)
      ∧ (s.flag R.FLT_SAFE.release = false → s.sys.state = .safe → s.image = true →
        ∃ t, exec (.safeReleaseCmd route data) s = .next t ∧ ramp t ∧ t.sys = sched .safeRelease ∧ t.flag R.FLT_SAFE.release = true
          ∧ t.flag R.FLT_SAFE.release_err = (s.flag R.FLT_SAFE.release_err && !data.getLsbD 9))
      ∧ (s.flag R.FLT_SAFE.release = false → ¬(s.sys.state = .safe ∧ s.image = true) →
        ∃ t, exec (.safeReleaseCmd route data) s = .next t ∧ ramp t ∧ t.sys = s.sys ∧ t.flag R.FLT_SAFE.release = false
          ∧ t.flag R.FLT_SAFE.release_err = true)
      ∧ (s.flag R.FLT_SAFE.release = true →
        ∃ t, exec (.safeReleaseCmd route data) s = .next t ∧ ramp t ∧ t.sys = s.sys ∧ t.flag R.FLT_SAFE.release = true
          ∧ t.flag R.FLT_SAFE.release_err = (s.flag R.FLT_SAFE.release_err && !data.getLsbD 9))

/-- R386, R428: WAKE_N, and a transaction to TWT's address, end STANDBY: PREPARE is entered with the configuration kept, Cask leaves
self-refresh, the start checks are to run, SYS_WAKE records the source; TWT does not acknowledge the transaction that wakes.
In any other state WAKE_N does nothing, and so does an address that is not TWT's. -/
def Claim.WakeEventsLeaveStandbyForPrepare : Prop :=
  ∀ (s : State) (addr : Fin 128), s.quiet →
    let wakes := fun (i : Instr) (source : Nat) (more : List Nat) => ∃ t, exec i s = .next t
      ∧ Only [.sys, .boot, .cask, .xio] (R.SYS_STATE.reg :: R.SYS_WAKE.reg :: more) s t
      ∧ t.sys = { s.sys with state := .prepare } ∧ t.flag R.SYS_STATE.changed = true
      ∧ t.get R.SYS_WAKE.source = source ∧ t.flag R.SYS_WAKE.woke = true
      ∧ t.boot = { s.boot with checked := false, waking := true } ∧ t.cask = { s.cask with selfRefresh := false }
      ∧ (source = 2 → t.flag R.TWT_STAT.wake_nack = true ∧ Out.nack ∈ t.out)
    let sleeps := fun (i : Instr) => ∃ t, exec i s = .next t ∧ Only [] [] s t
    (s.sys.state = .standby → wakes .wakeNEvent 3 []) ∧ (s.sys.state ≠ .standby → sleeps .wakeNEvent)
      ∧ (s.sys.state = .standby → addr.val = 0x48 + s.sys.straps.twtAddr.val → wakes (.twtStandbyWake addr) 2 [R.TWT_STAT.reg])
      ∧ (s.sys.state ≠ .standby ∨ addr.val ≠ 0x48 + s.sys.straps.twtAddr.val → sleeps (.twtStandbyWake addr))

/-- STANDBY and release of SAFE fall due at the second boundary; wake events leave STANDBY for PREPARE. -/
def Obligations.StandbyIsEnteredAndLeft : Prop := Claim.StandbyAndReleaseFallDueAtTheSecondBoundary ∧ Claim.WakeEventsLeaveStandbyForPrepare

/-! ## Register writes and commits -/

/-- R14, R15, R351, R367, R382: a write that no rule discards stores every field by its type and is journalled, and changes no other
register: any register that does nothing more when it is written; on PCIe with all byte enables at an aligned address; outside
twin mode, or to a register without agreed fields. -/
def Claim.RegisterWriteStoresByFieldType : Prop :=
  ∀ (s : State) (route : Route) (addr : BitVec 25) (v : Word) (be : BitVec 4) (d : RegDesc), TakesWrite s route →
    let a := addr.toNat / 4 * 4
    let x := normWord d a v
    (route = .pcie → be = 0xF#4 ∧ addr.toNat % 4 = 0) →
    route ≠ .twin → s.regAt a = some d → d.base ∉ actingBases → counterAt a = false → ¬ d.fields.all (fun f => f.kind == .ro) →
    (s.twinMode = false ∨ agreedWrite d v = false) → reservedWord d x = false → d.fields.all (fun f => !stRefused s d a x f) →
    ∃ t, exec (.registerWrite route addr v be) s = .next t ∧ Only [.shadow, .hif] [a] s t
      ∧ t.hif = s.journalled route 0 a v ∧ (∀ b, b ≠ a → t.shReg b = s.shReg b)
      ∧ ∀ f ∈ d.fields, (fieldGet f.lo f.w (t.reg a), fieldGet f.lo f.w (t.shReg a))
          = f.written (route == .boot) x (s.reg a) (s.shReg a)

/-- R15, R366, R367: while the data plane runs, a write that would change an ST field (at any time, one that names the reserved writer of a
Cask line) leaves that field alone, takes its effect on
every other field by its type, and is recorded, counted and raised as a fault; it is journalled unless every writable field is
ST. -/
def Claim.StFieldsAreRefusedWhileTheDataPlaneRuns : Prop :=
  ∀ (s : State) (route : Route) (addr : BitVec 25) (v : Word) (be : BitVec 4) (d : RegDesc), TakesWrite s route →
    let a := addr.toNat / 4 * 4
    let x := normWord d a v
    (route = .pcie → be = 0xF#4 ∧ addr.toNat % 4 = 0) → route ≠ .boot → route ≠ .twin →
    s.regAt a = some d → d.base ∉ actingBases → counterAt a = false → d.base ≠ R.SYS_CFG_REJECT.reg →
    (s.twinMode = false ∨ agreedWrite d v = false) → reservedWord d x = false →
    d.fields.any (stRefused s d a x) = true →
    ∃ t, exec (.registerWrite route addr v be) s = .next t
      ∧ Only [.shadow, .hif, .flt] (a :: R.SYS_CFG_REJECT.reg :: R.SYS_CFG_REJECT_CNT.reg :: lostRegs) s t
      ∧ (∀ f ∈ d.fields, (fieldGet f.lo f.w (t.reg a), fieldGet f.lo f.w (t.shReg a))
          = if stRefused s d a x f then (fieldGet f.lo f.w (s.reg a), fieldGet f.lo f.w (s.shReg a))
            else f.written false x (s.reg a) (s.shReg a))
      ∧ t.get R.SYS_CFG_REJECT.addr = a ∧ t.get R.SYS_CFG_REJECT.route = routeCode route ∧ t.flag R.SYS_CFG_REJECT.valid = true
      ∧ t.get R.SYS_CFG_REJECT_CNT.count = (s.get R.SYS_CFG_REJECT_CNT.count + 1) % 2 ^ 32
      ∧ t.flt.queue = s.queueWith 1 0 1 a
      ∧ t.hif = (if d.fields.all (fun f => f.kind == .ro || f.kind == .st) then s.hif else s.journalled route 0 a v)

/-- A register write stores every field by its type, and is journalled; ST fields are refused while the data plane runs. -/
def Obligations.RegisterWritesStoreByFieldType : Prop := Claim.RegisterWriteStoresByFieldType ∧ Claim.StFieldsAreRefusedWhileTheDataPlaneRuns

/-- R353: a write to HIF_CTRL enables and disables the external routes for writes, and one that would leave none enabled is discarded; a write on a
disabled route is discarded, not journalled and answered with nothing; a read on one is served. -/
def Claim.HifCtrlEnablesRoutesForWrites : Prop :=
  ∀ (s : State) (route : Route) (data v : Word) (addr : BitVec 25), s.quiet →
    (TakesWrite s route → route ≠ .boot → fieldGet 0 3 data = 0 → ∃ t, exec (.hifCtrlWrite route data) s = .next t ∧ Only [] [] s t)
      ∧ (TakesWrite s route → fieldGet 0 3 data ≠ 0 → ∃ t, exec (.hifCtrlWrite route data) s = .next t ∧ Only [.hif] [R.HIF_CTRL.reg] s t
        ∧ t.hif = s.journalled route 0 R.HIF_CTRL.reg data
        ∧ t.routeOn .pcie = data.getLsbD 0 ∧ t.routeOn .twt = data.getLsbD 1 ∧ t.routeOn .inband = data.getLsbD 2)
      ∧ (route = .pcie ∧ s.flag R.HIF_CTRL.pcie_en = false ∨ route = .twt ∧ s.flag R.HIF_CTRL.twt_en = false
          ∨ route = .inband ∧ s.flag R.HIF_CTRL.ib_en = false →
        ∃ t, exec (.registerWrite route (addr &&& 0x1FFFFFC#25) v 0xF#4) s = .next t ∧ Only [] [] s t ∧ ∀ o ∈ t.out, ∃ k, o = .msix k)
      ∧ (s.flag R.HIF_CTRL.twt_en = false → s.sys.state ≠ .reset → s.sys.state ≠ .standby → ∃ t data, exec .twtReadWord s = .next t
        ∧ Only [.ptp, .kiln, .twin, .cask, .flt, .perf] [R.TWT_PTR.reg] s t
        ∧ data = leBytes 4 (regRead s.begin (s.get R.TWT_PTR.ptr)).1.toNat ∧ ∃ pec, [Out.bytes (4#8 :: data ++ [pec])] <+: t.out)

/-- R5, R61, R351, R353, R366: what discards a write: RESET, a disabled route, an address without a register or with RO fields alone do
so in silence, but for the boot engine's fault beyond the register space; a partial or unaligned write on PCIe sets
bad_access; a reserved encoding of SYS_GRID is refused, recorded and raised as a fault. -/
def Claim.DiscardedWritesChangeNothing : Prop :=
  ∀ (s : State) (route : Route) (addr : BitVec 25) (v : Word) (be : BitVec 4), s.quiet →
    let a := addr.toNat / 4 * 4
    let whole := route = .pcie → be = 0xF#4 ∧ addr.toNat % 4 = 0
    let nothing := ∃ t, exec (.registerWrite route addr v be) s = .next t ∧ Only [] [] s t
    (whole → s.sys.state = .reset → nothing)
      ∧ (whole → s.routeOn route = false → nothing)
      ∧ (whole → route ≠ .boot → s.regAt a = none → nothing)
      ∧ (whole → ∀ d, s.regAt a = some d → d.fields.all (fun f => f.kind == .ro) → nothing)
      ∧ (s.sys.state ≠ .reset → route = .pcie → ¬(be = 0xF#4 ∧ addr.toNat % 4 = 0) →
        ∃ t, exec (.registerWrite route addr v be) s = .next t ∧ Only [] [R.HIF_STAT.reg] s t
          ∧ t.reg R.HIF_STAT.reg = s.reg R.HIF_STAT.reg ||| 0x40#32)
      ∧ (s.sys.state ≠ .reset → s.routeOn route = true → route ≠ .boot → whole → a = R.SYS_GRID.reg →
          (fieldGet 0 2 v = 3 ∨ fieldGet 4 3 v ∉ [1, 2, 3, 4, 5] ∨ fieldGet 8 6 v = 0 ∨ 32 < fieldGet 8 6 v) →
        ∃ t, exec (.registerWrite route addr v be) s = .next t
          ∧ Only [.flt] (R.SYS_CFG_REJECT.reg :: R.SYS_CFG_REJECT_CNT.reg :: lostRegs) s t
          ∧ t.get R.SYS_CFG_REJECT.addr = a ∧ t.get R.SYS_CFG_REJECT.route = routeCode route ∧ t.flag R.SYS_CFG_REJECT.valid = true
          ∧ t.get R.SYS_CFG_REJECT_CNT.count = (s.get R.SYS_CFG_REJECT_CNT.count + 1) % 2 ^ 32
          ∧ t.flt.queue = s.queueWith 1 0 1 a)

/-- HIF_CTRL enables the external routes for writes; a write that is discarded changes nothing. -/
def Obligations.HifCtrlEnablesTheRoutes : Prop := Claim.HifCtrlEnablesRoutesForWrites ∧ Claim.DiscardedWritesChangeNothing

/-- R50, R51, R362, R364: outside twin mode a commit is refused when chk is set and expect is not seq; else seq advances, the target is
PN + 2 or the extended target, moved to PN + 2 with a fault where its cutoff has passed, an open commit is replaced and
counted, and a fixed one stays; a cancel removes the open commit alone. -/
def Claim.CommitsAreAcceptedRefusedOrCancelled : Prop :=
  ∀ (s : State) (route : Route) (g : Fin 32) (data : Word), TakesWrite s route → s.twinMode = false →
    let seq := s.get (R.HIF_COMMIT_STAT.seq g.val)
    let stat := R.HIF_COMMIT_STAT.reg g.val
    let refused := data.getLsbD 16 = true ∧ fieldGet 0 16 data ≠ seq
    let named := extend32 s.pn (s.get (R.HIF_COMMIT_TGT.pnl g.val))
    let late := data.getLsbD 17 = false ∧ named < (s.pn : Int) + 2
    let target := if data.getLsbD 17 = true ∨ late then s.pn + 2 else named.toNat
    let seq' := (seq + 1) % 65536
    let journal := fun (kind : Nat) (v : Word) (tgt : Nat) (x : CommitGroup) =>
      { s.journalled route kind (R.HIF_COMMIT.reg g.val) v tgt with groups := s.hif.groups.set g x }
    (refused → ∃ t, exec (.commit route g data) s = .next t ∧ Only [.flt] (stat :: lostRegs) s t
        ∧ t.flag (R.HIF_COMMIT_STAT.refused g.val) = true ∧ t.get (R.HIF_COMMIT_STAT.seq g.val) = seq
        ∧ t.flt.queue = s.queueWith 1 0xC 2 g.val)
      ∧ (¬refused → ∃ t, exec (.commit route g data) s = .next t ∧ Only [.hif, .flt] (stat :: lostRegs) s t
        ∧ t.hif = journal 1 (BitVec.ofNat 32 seq') (target % 2 ^ 32) { s.group g with openC := some (seq', target) }
        ∧ t.get (R.HIF_COMMIT_STAT.seq g.val) = seq'
        ∧ t.flag (R.HIF_COMMIT_STAT.late g.val) = (s.flag (R.HIF_COMMIT_STAT.late g.val) || decide late)
        ∧ t.flt.queue = (if late then s.queueWith 1 0xC 1 g.val else s.flt.queue)
        ∧ t.get (R.HIF_COMMIT_STAT.superseded g.val)
            = (s.get (R.HIF_COMMIT_STAT.superseded g.val) + if (s.group g).openC.isSome then 1 else 0) % 256)
      ∧ ∃ t, exec (.commitCancel route g data) s = .next t ∧ Only [.hif] [] s t
        ∧ t.hif = journal 2 (withField data 18 1 1) 0 { s.group g with openC := none }

/-- R365: when a commit applies, applied_seq takes its seq, applied_pnl the PNL of the period, its bit of HIF_COMMIT_DONE is set, and the
group holds no fixed commit. -/
def Claim.AppliedCommitIsReported : Prop :=
  ∀ (s : State) (g : Fin 32) (f : Fixed), f.seq < 65536 →
    let t := commitApply s g f
    t.get (R.HIF_COMMIT_APPL_SEQ.applied_seq g.val) = f.seq
      ∧ t.get (R.HIF_COMMIT_APPL.applied_pnl g.val) = t.pnl
      ∧ t.flag ⟨R.HIF_COMMIT_DONE.reg, g.val, 1⟩ = true ∧ (t.group g).fixed = none

/-- A commit is accepted, refused or cancelled, and one that applies is reported. -/
def Obligations.CommitsAreTakenAppliedAndReported : Prop := Claim.CommitsAreAcceptedRefusedOrCancelled ∧ Claim.AppliedCommitIsReported

/-! ## The fabric -/

/-- R333, R334, R341, R344: a beat at a decoded target is served: a read puts out the bytes of its line as they stand, a write puts its
enabled bytes there, no other byte changes, and one beat is charged. -/
def Claim.TransactionsReadAndWriteTheirLine : Prop :=
  ∀ (s : State) (act : Fin 41) (b : Beat) (tgt : Nat), s.quiet → s.fab.upsets = [] → b.ok = true →
    fabTarget s b.addr = some tgt → beatTakes s tgt b → mayNow s act.val (classOf tgt) 1 →
    ∃ t, exec (.rapidTransaction act b []) s = .next t ∧ Only [.mem, .fab, .perf, .free] beatRegs s t
      ∧ [beatShows b s.memByte] <+: t.out ∧ t.memByte = beatOnto b s.memByte
      ∧ t.svUsed act.val (classOf tgt) = s.svUsed act.val (classOf tgt) + 1 ∧ t.fab.waiting = s.fab.waiting
      ∧ t.fab.upsets = []

/-- R5, R333, R339, R342, R346: a beat to the Tun window of an absent core reads zero or is ignored and changes nothing; a beat to an
undecoded address reads zero or is discarded, is charged nothing, and is recorded when it is the first, counted and raised as a fault
that names the master; a best-effort beat whose budget is spent, or whose allowance has
passed, is not issued. -/
def Claim.UndecodedAndHeldBeatsReachNoMemory : Prop :=
  ∀ (s : State) (act : Fin 41) (b : Beat), s.quiet → b.ok = true →
    (s.sys.fuses.cores ≤ (b.addr - tunBase 0) / 0x100000 → tunBase 0 ≤ b.addr → b.addr < tunBase 16 → s.powerHeld act.val = false →
        ∃ t, exec (.rapidTransaction act b []) s = .next t ∧ Only [.fab] [] s t
          ∧ [if b.isWrite then Out.ok else .bytes (List.replicate b.len 0)] <+: t.out
          ∧ (∀ a c, t.svUsed a c = s.svUsed a c))
      ∧ (fabTarget s b.addr = none → absentTun s b.addr = false → s.powerHeld act.val = false →
        ∃ t, exec (.rapidTransaction act b []) s = .next t ∧ Only [.fab, .flt] decodeRegs s t
          ∧ [if b.isWrite then Out.ok else .bytes (List.replicate b.len 0)] <+: t.out
          ∧ (∀ a c, t.svUsed a c = s.svUsed a c)
          ∧ t.get R.FAB_DECERR_INFO.count = min (s.get R.FAB_DECERR_INFO.count + 1) 65535
          ∧ t.flag R.FAB_DECERR_INFO.valid = true
          ∧ (s.flag R.FAB_DECERR_INFO.valid = false → t.get R.FAB_DECERR_INFO.master = masterOf act.val
              ∧ t.flag R.FAB_DECERR_INFO.write = b.isWrite
              ∧ (t.reg R.FAB_DECERR_ADDR_LO.reg).toNat + 2 ^ 32 * (t.reg R.FAB_DECERR_ADDR_HI.reg).toNat = b.addr)
          ∧ (s.flag R.FAB_DECERR_INFO.valid = true → t.get R.FAB_DECERR_INFO.master = s.get R.FAB_DECERR_INFO.master
              ∧ t.reg R.FAB_DECERR_ADDR_LO.reg = s.reg R.FAB_DECERR_ADDR_LO.reg
              ∧ t.reg R.FAB_DECERR_ADDR_HI.reg = s.reg R.FAB_DECERR_ADDR_HI.reg)
          ∧ t.flt.queue = s.queueWith 1 0xA 3 (masterOf act.val))
      ∧ (∀ tgt, fabTarget s b.addr = some tgt → isRt act.val = false →
          (s.powerHeld act.val = true
            ∨ s.sys.dataPlane = true ∧ s.get (R.FAB_SV_BUD.budget act.val (classOf tgt)) ≤ s.svUsed act.val (classOf tgt)) →
        ∃ t, exec (.rapidTransaction act b []) s = .next t ∧ Only [.fab] [R.FAB_SV_STALLED.reg 0, R.FAB_SV_STALLED.reg 1] s t
          ∧ t.fab = { s.fab with req := t.fab.req } ∧ (∀ c, consumerOf act.val = some c → t.fab.req.getLsbD c = true))

/-- R339: a write that clears FAB_DECERR_INFO.valid re-arms the log and zeroes count; the rest of the log stands. -/
def Claim.TheDecodeLogIsRearmed : Prop :=
  ∀ (s : State) (route : Route), TakesWrite s route → route ≠ .twin → s.flag R.FAB_DECERR_INFO.valid = true →
    let info := R.FAB_DECERR_INFO.reg
    ∃ t, exec (.registerWrite route (BitVec.ofNat 25 info) 0x40#32 0xF#4) s = .next t ∧ Only [.hif] [info] s t
      ∧ t.hif = s.journalled route 0 info 0x40#32 ∧ t.flag R.FAB_DECERR_INFO.valid = false ∧ t.get R.FAB_DECERR_INFO.count = 0
      ∧ t.get R.FAB_DECERR_INFO.master = s.get R.FAB_DECERR_INFO.master ∧ t.flag R.FAB_DECERR_INFO.write = s.flag R.FAB_DECERR_INFO.write

/-- R334, R335: a transfer that leaves its 64-byte line is split by its master into beats of one line each, in rising order, and each
is served as any beat is; a transfer of no byte reads and writes nothing (the model's choice, log entry 73). -/
def Claim.LongTransfersAreSplitIntoBeats : Prop :=
  ∀ (s : State) (act : Fin 41) (a : BitVec 40) (n t1 t2 : Nat) (bs : List (Option Byte)) (b : Beat), s.quiet → s.fab.upsets = [] →
    let k := 64 - a.toNat % 64
    let second := a.toNat + k
    (k < n → n ≤ 64 → second + 64 ≤ 2 ^ 40 → fabTarget s a.toNat = some t1 → fabTarget s second = some t2 →
        mayNow s act.val (classOf t1) 2 → mayNow s act.val (classOf t2) 2 →
        (∃ t, exec (.rapidTransaction act (.read a n) []) s = .next t ∧ Only [.fab, .perf, .free] beatRegs s t ∧ SameMemory s t
          ∧ [Out.bytes ((List.range k).map (fun i => s.memByte (a.toNat + i))),
              Out.bytes ((List.range (n - k)).map (fun i => s.memByte (second + i)))] <+: t.out)
        ∧ (bs.length = n → beatTakes s t1 (.write a (bs.take k)) → beatTakes s t2 (.write (BitVec.ofNat 40 second) (bs.drop k)) →
          ∃ t, exec (.rapidTransaction act (.write a bs) []) s = .next t ∧ Only [.mem, .fab, .perf, .free] beatRegs s t
          ∧ [Out.ok, Out.ok] <+: t.out ∧ t.memByte = beatOnto (.write a bs) s.memByte))
      ∧ (b.len = 0 → ∃ t, exec (.rapidTransaction act b []) s = .next t ∧ Only [.fab] [] s t ∧ ∀ o ∈ t.out, ∃ m, o = .msix m)

/-- A transaction reads and writes its lines; one that is undecoded or held reaches no memory. -/
def Obligations.TransactionsReachTheirMemoryOrNone : Prop := Claim.TransactionsReadAndWriteTheirLine ∧ Claim.UndecodedAndHeldBeatsReachNoMemory ∧ Claim.TheDecodeLogIsRearmed ∧ Claim.LongTransfersAreSplitIntoBeats

/-- R407: a read of Larder or Tun that meets a single-bit error delivers the data and corrects the word; one that meets an
uncorrectable error delivers the word as zero, records its address and raises class 3; a twin in sync may yield on it (R301). -/
def Claim.MemoryErrorsAreCorrectedOrRaised : Prop :=
  ∀ (s : State) (act : Fin 41) (a : BitVec 40) (n tgt : Nat), s.quiet → s.fab.upsets = [] → 1 ≤ n → a.toNat % 8 + n ≤ 8 →
    fabTarget s a.toNat = some tgt → (tgt < 8 ∨ 16 ≤ tgt) → mayNow s act.val (classOf tgt) 1 →
    (∃ t, exec (.rapidTransaction act (.read a n) [(a.toNat, false)]) s = .next t
        ∧ Only [.fab, .perf, .flt] (beatRegs ++ lostRegs) s t
        ∧ [Out.bytes (s.memBytes a.toNat n)] <+: t.out ∧ SameMemory s t ∧ t.fab.upsets = []
        ∧ t.flt.queue = s.queueWith 0 0xF 1 (memoryId (a.toNat / 8 * 8)))
      ∧ ∃ t, exec (.rapidTransaction act (.read a n) [(a.toNat, true)]) s = .next t
        ∧ Only [.fab, .perf, .flt, .eth, .twin] (R.FLT_MEM_ADDR_LO.reg :: R.FLT_MEM_ADDR_HI.reg :: yieldRegs ++ beatRegs ++ lostRegs) s t
        ∧ YieldsOnly s t
        ∧ [Out.bytes (List.replicate n 0)] <+: t.out
        ∧ (∀ x, t.memByte x = if x / 8 = a.toNat / 8 then 0 else s.memByte x)
        ∧ t.get R.FLT_MEM_ADDR_LO.addr = a.toNat / 8 * 8 % 2 ^ 32 ∧ t.get R.FLT_MEM_ADDR_HI.addr = a.toNat / 2 ^ 32
        ∧ t.flag R.FLT_MEM_ADDR_HI.valid = true
        ∧ t.flt.queue = s.queueWith 3 0xF 2 (memoryId (a.toNat / 8 * 8))

/-- R355: an access of the BAR2 window within one line reaches the fabric as activity 36: it is served; it waits while the budget is
spent or the allowance has passed; with a budget of 0 a read is aborted and a write discarded. A longer access is split into lines. -/
def Claim.Bar2ReachesTheFabric : Prop :=
  ∀ (s : State) (w : BitVec 24) (len : Nat) (bs : List (Option Byte)) (tgt : Nat), s.quiet → s.fab.upsets = [] →
    s.flag R.HIF_STAT.pcie_up = true →
    let a := (s.get R.HIF_WIN_BASE.base * 2 ^ 20 + w.toNat) % 2 ^ 40
    let budget := s.get (R.FAB_SV_BUD.budget 36 (classOf tgt))
    let reads := fun (n : Nat) => 1 ≤ n ∧ a % 64 + n ≤ 64 ∧ fabTarget s a = some tgt
    let b := Beat.write (BitVec.ofNat 40 a) bs
    let r := Beat.read (BitVec.ofNat 40 a) len
    (reads len → s.behind 36 [r] = false → (s.sys.dataPlane = true → budget ≠ 0) → mayNow s 36 (classOf tgt) 1 →
        ∃ t, exec (.bar2Read w len) s = .next t ∧ Only [.fab, .perf, .free] beatRegs s t ∧ SameMemory s t
          ∧ [Out.bytes ((List.range len).map (fun i => s.memByte (a + i)))] <+: t.out)
      ∧ (reads bs.length → s.behind 36 [b] = false → (s.sys.dataPlane = true → budget ≠ 0) → mayNow s 36 (classOf tgt) 1 →
          beatTakes s tgt b → ∃ t, exec (.bar2Write w bs) s = .next t ∧ Only [.mem, .fab, .perf, .free] beatRegs s t
          ∧ [Out.ok] <+: t.out ∧ t.memByte = beatOnto b s.memByte)
      ∧ (reads len → s.sys.dataPlane = true → budget = 0 →
          ∃ t, exec (.bar2Read w len) s = .next t ∧ Only [.fab] [] s t ∧ SameMemory s t ∧ [Out.abort] <+: t.out)
      ∧ (reads bs.length → s.sys.dataPlane = true → budget = 0 →
          ∃ t, exec (.bar2Write w bs) s = .next t ∧ Only [.fab] [] s t ∧ SameMemory s t ∧ [Out.discarded] <+: t.out)
      ∧ (reads len → (s.sys.dataPlane = true → budget ≠ 0) →
          s.behind 36 [r] = true ∨ s.powerHeld 36 = true ∨ s.sys.dataPlane = true ∧ budget ≤ s.svUsed 36 (classOf tgt) →
          ∃ t, exec (.bar2Read w len) s = .next t ∧ Only [.fab] [R.FAB_SV_STALLED.reg 0, R.FAB_SV_STALLED.reg 1] s t
          ∧ SameMemory s t ∧ t.fab.waiting = s.fab.waiting ++ [.beat 36 r])

/-- R356: an AtomicOp on a Larder word reads the old value and leaves its result there, as a locked read and write; broken, it writes
nothing, is aborted, sets atomic_broken and raises its faults. -/
def Claim.AtomicsReadAndWriteAsOne : Prop :=
  ∀ (s : State) (w : BitVec 24) (wide : Bool) (cmp v : BitVec 64) (tgt : Nat), s.quiet → s.fab.upsets = [] →
    let n := if wide then 8 else 4
    let a := (s.get R.HIF_WIN_BASE.base * 2 ^ 20 + w.toNat) % 2 ^ 40
    s.flag R.HIF_STAT.pcie_up = true → a % 64 + n ≤ 64 → fabTarget s a = some tgt → tgt < 8 → s.behind 36 [.read (BitVec.ofNat 40 a) n] = false →
    mayNow s 36 0 2 → (s.sys.dataPlane = true → s.get (R.FAB_SV_BUD.budget 36 0) ≠ 0) →
    let old := leNat (s.memBytes a n)
    let wraps := fun (x : Nat) => x % 2 ^ (8 * n)
    let makes := fun (i : Instr) (new : Nat) => ∃ t, exec i s = .next t ∧ Only [.mem, .fab, .perf] beatRegs s t
      ∧ [Out.bytes (s.memBytes a n)] <+: t.out ∧ leNat (t.memBytes a n) = new
      ∧ (∀ x, x < a ∨ a + n ≤ x → t.memByte x = s.memByte x) ∧ t.svUsed 36 0 = s.svUsed 36 0 + 2
    let breaks := fun (i : Instr) => ∃ t, exec i s = .next t
      ∧ Only [.fab, .perf, .flt] (R.FAB_LOCK_STAT.reg :: R.HIF_STAT.reg :: beatRegs ++ lostRegs) s t ∧ SameMemory s t
      ∧ [Out.abort] <+: t.out ∧ t.flag R.HIF_STAT.atomic_broken = true ∧ t.flag R.FAB_LOCK_STAT.broken_evt = true
      ∧ t.get R.FAB_LOCK_STAT.breaks = (s.get R.FAB_LOCK_STAT.breaks + 1) % 65536 ∧ t.get R.FAB_LOCK_STAT.target = tgt
      ∧ t.svUsed 36 0 = s.svUsed 36 0 + 2
    makes (.atomicFetchadd w wide false v) (wraps (old + v.toNat)) ∧ makes (.atomicSwap w wide false v) (wraps v.toNat)
      ∧ makes (.atomicCas w wide false cmp v) (if old = wraps cmp.toNat then wraps v.toNat else old)
      ∧ breaks (.atomicFetchadd w wide true v) ∧ breaks (.atomicSwap w wide true v) ∧ breaks (.atomicCas w wide true cmp v)

/-- Memory errors are corrected or raised; BAR2 and its atomics reach the fabric. -/
def Obligations.MemoryErrorsBar2AndAtomics : Prop := Claim.MemoryErrorsAreCorrectedOrRaised ∧ Claim.Bar2ReachesTheFabric ∧ Claim.AtomicsReadAndWriteAsOne

/-- R337, R338, R342: a locked sequence of 2 to 8 transactions at one Larder bank is charged whole and carried out in order; when the
lock is broken, the transactions already granted stand and the others are not performed, and the break is recorded and raised. -/
def Claim.LockedSequencesRunWholeOrBreak : Prop :=
  ∀ (s : State) (mgp : Bool) (granted : Nat) (bs : List Beat) (tgt : Nat), s.quiet → s.fab.upsets = [] →
    2 ≤ bs.length → bs.length ≤ 8 → (∀ b ∈ bs, b.ok = true ∧ fabTarget s b.addr = some tgt) → tgt < 8 →
    let act := if mgp then 37 else 36
    let master := if mgp then 0x17 else 0x14
    s.behind act bs = false → mayNow s act 0 bs.length →
    let done := bs.take granted
    (∃ t, exec (.lockedSequence mgp bs) s = .next t ∧ Only [.mem, .fab, .perf] beatRegs s t
        ∧ beatsShow bs s.memByte <+: t.out ∧ t.memByte = bs.foldl (fun m b => beatOnto b m) s.memByte
        ∧ t.svUsed act 0 = s.svUsed act 0 + bs.length ∧ (assocGet tgt t.fab.lockAt).isSome = true)
      ∧ ∃ t, exec (.lockBreak mgp granted bs) s = .next t
        ∧ Only [.mem, .fab, .perf, .flt] (R.FAB_LOCK_STAT.reg :: R.HIF_STAT.reg :: R.MGP_MB_STAT.reg :: beatRegs ++ lostRegs) s t
        ∧ (if mgp then List.replicate bs.length Out.broken else [.abort]) <+: t.out ∧ t.memByte = done.foldl (fun m b => beatOnto b m) s.memByte
        ∧ t.svUsed act 0 = s.svUsed act 0 + bs.length
        ∧ t.flag R.FAB_LOCK_STAT.broken_evt = true ∧ t.get R.FAB_LOCK_STAT.master = master ∧ t.get R.FAB_LOCK_STAT.target = tgt
        ∧ t.get R.FAB_LOCK_STAT.breaks = (s.get R.FAB_LOCK_STAT.breaks + 1) % 65536
        ∧ (mgp = true → t.flt.queue = s.queueWith 1 0xA 2 master)
        ∧ (mgp = true → s.flt.mgpRun = true → s.flt.mbHeld = [] → s.flt.mbOut.length < 16 → ∃ m, t.flt.mbOut = s.flt.mbOut ++ [m])

/-- R338: a locked sequence that cannot be locked (fewer than 2 transactions, the model's choice of log entry 73, or more than 8, or transactions
that are not all at one Larder bank or one Cask channel) sets refused_evt, is raised as a fault, and its transactions are carried out as
ordinary ones, in order. -/
def Claim.SequencesThatCannotBeLockedAreServedUnlocked : Prop :=
  ∀ (s : State) (mgp : Bool) (bs : List Beat), s.quiet → s.fab.upsets = [] → s.fab.waiting = [] →
    let act := if mgp then 37 else 36
    let master := if mgp then 0x17 else 0x14
    (∀ b ∈ bs, b.ok = true ∧ ∃ tgt, fabTarget s b.addr = some tgt ∧ beatTakes s tgt b ∧ mayNow s act (classOf tgt) bs.length
      ∧ (s.sys.dataPlane = true → s.get (R.FAB_SV_BUD.budget act (classOf tgt)) ≠ 0)) →
    ¬(2 ≤ bs.length ∧ bs.length ≤ 8 ∧ ∃ tgt, tgt < 10 ∧ ∀ b ∈ bs, fabTarget s b.addr = some tgt) →
    ∃ t, exec (.lockedSequence mgp bs) s = .next t
      ∧ Only [.mem, .fab, .perf, .free, .flt] (R.FAB_LOCK_STAT.reg :: R.MGP_MB_STAT.reg :: beatRegs ++ lostRegs) s t
      ∧ t.flag R.FAB_LOCK_STAT.refused_evt = true ∧ t.get R.FAB_LOCK_STAT.master = master
      ∧ t.flt.queue = s.queueWith 1 0xA 1 master ∧ t.fab.waiting = []
      ∧ beatsShow bs s.memByte <:+: t.out ∧ t.memByte = bs.foldl (fun m b => beatOnto b m) s.memByte

/-- R346, R347: a consumer with a cost and an allowance under 16 sixteenths stalls when it has passed; PWR_WARN_N halves every allowance
and the pool, stalls what has passed its new one, counts, and raises class 1; its release leaves the allowances. -/
def Claim.AllowancesPassAndAreHalvedByTheWarning : Prop :=
  ∀ (s : State) (c : Fin 21), s.quiet →
    let g := fun (k : Nat) => R.PWRA_GRANT.reg k
    let grants := (List.range 21).map g
    let now := s.sys.et % s.perVco * 16 / s.perVco
    (s.get (R.PWRA_CONS.cost c.val) ≠ 0 → s.get (R.PWRA_GRANT.allow c.val) < 16 → ∃ t, exec (.allowanceExpiry c) s = .next t
        ∧ Only [] [g c.val] s t ∧ t.flag (R.PWRA_GRANT.stalled c.val) = true
        ∧ t.get (R.PWRA_GRANT.allow c.val) = s.get (R.PWRA_GRANT.allow c.val)
        ∧ t.get (R.PWRA_GRANT.grant c.val) = s.get (R.PWRA_GRANT.grant c.val))
      ∧ (s.get (R.PWRA_CONS.cost c.val) = 0 ∨ 16 ≤ s.get (R.PWRA_GRANT.allow c.val) →
          ∃ t, exec (.allowanceExpiry c) s = .next t ∧ Only [] [] s t)
      ∧ (s.fab.warn = false → ∃ t, exec .pwrWarnAssert s = .next t ∧ Only [.fab, .flt] (R.PWRA_STAT.reg :: grants ++ lostRegs) s t
          ∧ t.fab = { s.fab with warn := true } ∧ t.flag R.PWRA_STAT.warn = true ∧ t.flag R.PWRA_STAT.warn_evt = true
          ∧ t.get R.PWRA_STAT.warns = (s.get R.PWRA_STAT.warns + 1) % 2 ^ 16
          ∧ t.get R.PWRA_STAT.pool = s.get R.PWRA_STAT.pool / 2 ∧ t.flag R.PWRA_STAT.over_rt = s.flag R.PWRA_STAT.over_rt
          ∧ t.flt.queue = s.queueWith 1 0xA 5 0
          ∧ ∀ k, k < 21 →
            let h := s.get (R.PWRA_GRANT.allow k) / 2
            (s.get (R.PWRA_CONS.cost k) = 0 → t.reg (g k) = s.reg (g k))
              ∧ (s.get (R.PWRA_CONS.cost k) ≠ 0 → t.get (R.PWRA_GRANT.allow k) = h
                  ∧ t.get (R.PWRA_GRANT.grant k) = s.get (R.PWRA_GRANT.grant k)
                  ∧ t.flag (R.PWRA_GRANT.stalled k) = (s.flag (R.PWRA_GRANT.stalled k) || decide (h ≤ now))))
      ∧ (s.fab.warn = true → ∃ t, exec .pwrWarnAssert s = .next t ∧ Only [] [] s t)
      ∧ ∃ t, exec .pwrWarnDeassert s = .next t ∧ Only [.fab] [R.PWRA_STAT.reg] s t ∧ t.fab = { s.fab with warn := false }
        ∧ t.flag R.PWRA_STAT.warn = false ∧ t.flag R.PWRA_STAT.warn_evt = s.flag R.PWRA_STAT.warn_evt
        ∧ t.get R.PWRA_STAT.pool = s.get R.PWRA_STAT.pool ∧ t.get R.PWRA_STAT.warns = s.get R.PWRA_STAT.warns

/-- Locked sequences run whole or break, or are refused; allowances pass and are halved by the power warning. -/
def Obligations.LockedSequencesAndAllowances : Prop := Claim.LockedSequencesRunWholeOrBreak ∧ Claim.SequencesThatCannotBeLockedAreServedUnlocked ∧ Claim.AllowancesPassAndAreHalvedByTheWarning

/-! ## The two-wire target, in-band control and latched reads -/

/-- R357, R358, R426, R427: TWT sets its pointer; reads the word, or the eight words, at it with a count and a PEC and moves it on; reads
and clears its status; refuses an address, a count or a code that is not allowed; counts what it abandons with its cause; writes
a word at the pointer as a register write of its route does; a wrong PEC discards the block. -/
def Claim.TwtServesItsCommands : Prop :=
  ∀ (s : State) (a v : Word) (words : List Word) (code count : Byte) (short : Bool), s.quiet →
    s.sys.state ≠ .reset → s.sys.state ≠ .standby →
    let addr := 0x48 + s.sys.straps.twtAddr.val
    let w := BitVec.ofNat 8 (2 * addr)
    let ptr := s.get R.TWT_PTR.ptr
    let pec := fun (ws : List Word) => crc8 (w :: 0x02#8 :: BitVec.ofNat 8 (4 * ws.length) :: ws.flatMap (fun x => leBytes 4 x.toNat))
    let fails := fun (i : Instr) (cause : Nat) (hif : HifS) => ∃ t, exec i s = .next t
      ∧ Only [.hif] [R.TWT_ERR.reg, R.TWT_STAT.reg] s t ∧ t.hif = hif
      ∧ t.get R.TWT_ERR.count = (s.get R.TWT_ERR.count + 1) % 2 ^ 32 ∧ t.get R.TWT_STAT.last_cause = cause
      ∧ t.flag R.TWT_STAT.wake_nack = s.flag R.TWT_STAT.wake_nack ∧ (cause = 1 → [Out.nack] <+: t.out)
    let answers := fun (i : Instr) (c : Byte) (n : Nat) => ∃ t, exec i s = .next t
      ∧ Only [.ptp, .kiln, .twin, .cask, .flt, .perf] [R.TWT_PTR.reg] s t ∧ t.get R.TWT_PTR.ptr = (ptr + 4 * n) % 2 ^ 25
      ∧ ∃ data : List Byte, data.length = 4 * n ∧ data.take 4 = leBytes 4 (regRead s.begin ptr).1.toNat
        ∧ [Out.bytes (BitVec.ofNat 8 (4 * n) :: data ++ [crc8 (w :: c :: (w + 1#8) :: BitVec.ofNat 8 (4 * n) :: data)])] <+: t.out
    let status := BitVec.ofNat 8 ((if s.hif.twtRefused then 1 else 0) + if s.hif.twtPec then 2 else 0)
    (a.toNat ≤ 0x1FFFFFC → ∃ t, exec (.twtSetPointer a) s = .next t ∧ Only [] [R.TWT_PTR.reg] s t ∧ t.get R.TWT_PTR.ptr = a.toNat)
      ∧ (0x1FFFFFC < a.toNat → fails (.twtSetPointer a) 1 s.hif)
      ∧ (words.length = 0 ∨ 8 < words.length → ∀ p, fails (.twtWriteBlock words p) 1 s.hif)
      ∧ (1 ≤ words.length → words.length ≤ 8 → ∀ p, p ≠ pec words →
          fails (.twtWriteBlock words (some p)) 3 { s.hif with twtPec := true })
      ∧ (∀ p, p = none ∨ p = some (pec [v]) → ∃ t u x, exec (.twtWriteBlock [v] p) s = .next t
          ∧ exec (.registerWrite .twt (BitVec.ofNat 25 ptr) v 0xF#4) s = .next u
          ∧ (u.sys.state ≠ .reset → Only [.hif] [R.TWT_PTR.reg] u t ∧ t.hif = { u.hif with twtRefused := x }
              ∧ t.get R.TWT_PTR.ptr = (u.get R.TWT_PTR.ptr + 4) % 2 ^ 25))
      ∧ answers .twtReadWord 0x03#8 1 ∧ answers .twtReadBlock 0x04#8 8
      ∧ (∃ t, exec .twtReadStatus s = .next t ∧ Only [.hif] [] s t ∧ t.hif = { s.hif with twtRefused := false, twtPec := false }
          ∧ [Out.bytes [status, crc8 [w, 0x05#8, w + 1#8, status]]] <+: t.out)
      ∧ (code.toNat ∉ [1, 2, 3, 4, 5] ∨ code = 1#8 ∧ count ≠ 4#8 ∨ code = 2#8 ∧ (count.toNat % 4 ≠ 0 ∨ count.toNat < 4 ∨ 32 < count.toNat) →
          fails (.twtInvalidCommand code count) 1 s.hif)
      ∧ fails (.twtAbandon short) (if short then 4 else 2) s.hif ∧ fails .twtSclTimeout 5 s.hif

/-- R426, R428: in RESET TWT acknowledges nothing and does nothing; in STANDBY a transaction to its address is not acknowledged and wakes
the engine. -/
def Claim.TwtSleepsInResetAndStandby : Prop :=
  ∀ (s : State) (a : Word) (words : List Word) (p : Option Byte) (code count : Byte) (short : Bool), s.quiet →
    ∀ i ∈ [Instr.twtSetPointer a, .twtWriteBlock words p, .twtReadWord, .twtReadBlock, .twtReadStatus, .twtInvalidCommand code count,
        .twtAbandon short, .twtSclTimeout],
      (s.sys.state = .reset → ∃ t, exec i s = .next t ∧ Only [] [] s t ∧ [Out.nack] <+: t.out)
        ∧ (s.sys.state = .standby → ∃ t, exec i s = .next t ∧ t.sys = { s.sys with state := .prepare } ∧ Out.nack ∈ t.out
            ∧ t.get R.SYS_WAKE.source = 2 ∧ t.flag R.TWT_STAT.wake_nack = true
            ∧ Only [.sys, .boot, .cask, .xio] [R.SYS_STATE.reg, R.SYS_WAKE.reg, R.TWT_STAT.reg] s t)

/-- TWT serves its commands, and acknowledges nothing in RESET and STANDBY. -/
def Obligations.TwtServesItsCommandsOrSleeps : Prop := Claim.TwtServesItsCommands ∧ Claim.TwtSleepsInResetAndStandby

/-- R359 to R361, R192: a frame with a request that reaches the in-band decoder is discarded and counted as malformed, for its tag (with a
fault), as stale or as a replay, in this order; else its counter is taken, its entries are read or written in order, and an answer
is queued for the requester, which enters TC6 of its port with its tag; a frame that the decoder does not take does nothing. -/
def Obligations.InbandRequestsAreCheckedTakenAndAnswered : Prop :=
  ∀ (s : State) (port : Fin 8) (frame : List Byte) (u : UdpPkt) (tagOk : Bool) (tag : BitVec 128), s.quiet →
    let h := ethHdr frame
    let b := u.payload
    let takes := s.sys.state ≠ .reset ∧ s.sys.state ≠ .standby ∧ s.linkUp port.val = true ∧ s.isTwinPort port.val = false
      ∧ acceptsDa s port.val h.da (rxFrame s port.val 0 frame false).vid = true ∧ (s.get R.HIF_IB_CFG.ports).testBit port.val = true
      ∧ s.sys.fuses.ibKey = true ∧ udpOf frame h = some u ∧ u.dport = s.get R.HIF_IB_CFG.udp_port
    let op := beNat ((b.drop 1).take 1)
    let n := beNat ((b.drop 2).take 2)
    let ctr := beNat ((b.drop 4).take 4)
    let pnl := beNat ((b.drop 8).take 4)
    let rid := beNat ((b.drop 12).take 4)
    let size := if op = 1 then 8 else 4
    let formed := beNat (b.take 1) = 1 ∧ 1 ≤ n ∧ n ≤ 64 ∧ b.length = 32 + size * n
    let fresh := s.ptp.taken = true ∧ (extend32 s.pn pnl - s.pn).natAbs ≤ max 1 (s.get R.HIF_IB_CFG.fresh) * 256
    let back := fun (h : Nat) => (h + 2 ^ 32 - ctr) % 2 ^ 32
    let isNew := ∀ h, s.hif.ibHigh = some h →
      newer ctr h 32 = true ∨ 1 ≤ back h ∧ back h ≤ 63 ∧ ctr ∉ s.hif.ibSeen
    let count := fun (k : Nat) (t : State) => t.get (R.HIF_IB_CNT.count k) = (s.get (R.HIF_IB_CNT.count k) + 1) % 2 ^ 32
    let discards := fun (i : Instr) (k : Nat) => ∃ t, exec i s = .next t
      ∧ Only [.flt] (R.HIF_IB_CNT.reg k :: lostRegs) s t ∧ count k t ∧ [Out.discarded] <+: t.out
      ∧ t.flt.queue = if k = 1 then s.queueWith 1 0xC 4 port.val else s.flt.queue
    let peer : IbPeer := ⟨h.sa, h.tag, u.v6, u.src, u.dst, u.sport⟩
    let answered := fun (t : State) (entries : List (Nat × Word)) =>
      count 0 t ∧ t.hif.answers = s.hif.answers ++ [⟨port.val, peer, op, ctr, rid, entries⟩] ∧ ctr ∈ t.hif.ibSeen
        ∧ t.hif.ibHigh = some (match s.hif.ibHigh with | some h => if newer ctr h 32 then ctr else h | none => ctr)
    let entry := fun (k w : Nat) => beNat ((b.drop (16 + size * k + w)).take 4)
    (takes →
      (op = 1 ∨ op = 2 →
        let i := if op = 1 then Instr.inbandWrite port frame tagOk else .inbandRead port frame tagOk
        (¬formed → discards i 4) ∧ (formed → tagOk = false → discards i 1) ∧ (formed → tagOk = true → ¬fresh → discards i 2)
          ∧ (formed → tagOk = true → fresh → ¬isNew → discards i 3))
      ∧ (op ≠ 1 → op ≠ 2 → discards (.inbandWrite port frame tagOk) 4 ∧ discards (.inbandRead port frame tagOk) 4)
      ∧ (op = 2 → formed → n = 1 → fresh → isNew → tagOk = true → entry 0 0 / 4 * 4 = R.HIF_INT_EN.reg →
          ∃ t, exec (.inbandRead port frame tagOk) s = .next t ∧ Only [.hif] [R.HIF_IB_CNT.reg 0] s t
            ∧ answered t [(entry 0 0, s.reg R.HIF_INT_EN.reg)])
      ∧ (op = 1 → formed → n = 1 → fresh → isNew → tagOk = true →
          (s.flag R.HIF_CTRL.ib_en = false →
            ∃ t, exec (.inbandWrite port frame tagOk) s = .next t ∧ Only [.hif] [R.HIF_IB_CNT.reg 0] s t ∧ answered t [(entry 0 0, 3)])
          ∧ (s.flag R.HIF_CTRL.ib_en = true → entry 0 0 / 4 * 4 = R.HIF_INT_EN.reg →
            ∃ t, exec (.inbandWrite port frame tagOk) s = .next t ∧ Only [.hif] [R.HIF_IB_CNT.reg 0, R.HIF_INT_EN.reg] s t
              ∧ t.reg R.HIF_INT_EN.reg = BitVec.ofNat 32 (entry 0 4) ∧ answered t [(entry 0 0, 0)]
              ∧ t.hif.journal = (s.journalled .inband 0 R.HIF_INT_EN.reg (BitVec.ofNat 32 (entry 0 4))).journal)))
      ∧ (¬takes → udpOf frame h = some u → ∀ i ∈ [Instr.inbandWrite port frame tagOk, .inbandRead port frame tagOk],
          ∃ t, exec i s = .next t ∧ Only [] [] s t)
      ∧ ∀ x rest, s.hif.answers = x :: rest → x.port < 8 → ∃ t f n, exec (.inbandAnswer tag) s = .next t
          ∧ t.hif = { s.hif with answers := rest }
          ∧ f = (⟨padFrame (x.frame s n (x.bytes s.pnl ++ beBytes 16 tag.toNat)), .own, false⟩ : QFrame)
          ∧ x.bytes s.pnl = beBytes 1 1 ++ beBytes 1 (x.op + 0x80) ++ beBytes 2 x.entries.length ++ beBytes 4 x.ctr ++ beBytes 4 s.pnl
              ++ beBytes 4 x.rid ++ x.entries.flatMap (fun e => beBytes 4 e.1 ++ beBytes 4 e.2.toNat)
          ∧ (s.linkUp x.port = true → s.isTwinPort x.port = false → qRoom s (s.eport (Fin.ofNat 8 x.port)) 6 f = true →
              Only [.hif, .eth, .free] [] s t ∧ (t.eport (Fin.ofNat 8 x.port)).queues[(6 : Fin 8)]
                = (s.eport (Fin.ofNat 8 x.port)).queues[(6 : Fin 8)] ++ [f])
          ∧ (s.linkUp x.port = false → Only [.hif, .free] [R.ETH_TX_LINK_DROP.reg x.port] s t
              ∧ t.get (R.ETH_TX_LINK_DROP.count x.port) = (s.get (R.ETH_TX_LINK_DROP.count x.port) + 1) % 2 ^ 32)

/-! ## Faults, watchdogs and the MGP -/

/-- R393, R394: a raised fault that agrees with an unread record is counted there, up to 65,535; else it takes the lowest free slot, the
reserved ones first for class 3; else it overwrites the oldest record of class 0 or 1, no higher than its own, or of class 2 for
class 3; else it is lost. What is lost is counted by its class. -/
def Claim.FaultsCoalesceAreQueuedOrAreLost : Prop :=
  ∀ (s : State) (x : Raised), x.cls ≤ 3 →
    let q := s.flt.queue
    let t := enqueue s x
    let key := fun (r : FaultRec) => r.cls = x.cls ∧ r.blk = x.blk ∧ r.code = x.code ∧ r.detail = x.detail
    let free := fun (k : Nat) => ∀ r ∈ q, r.slot ≠ k
    let new := fun (k : Nat) => FaultRec.mk x.cls x.blk x.code x.detail 0 false s.pnl s.wt k s.sys.up
    let full := ∀ k, k < 56 → ¬free k
    let general := fun (v : Nat) (r : FaultRec) => r.cls = v ∧ r.slot < 56
    let oldest := fun (v : Nat) (r : FaultRec) => ∃ l m, q = l ++ r :: m ∧ general v r ∧ ∀ y ∈ l, ¬general v y
    let overwrites := fun (v : Nat) (r : FaultRec) => oldest v r ∧ (∀ w, w < v → ∀ y ∈ q, ¬general w y)
      ∧ v ≤ x.cls ∧ (v < 2 ∨ v = 2 ∧ x.cls = 3)
    ((∃ r ∈ q, key r) → t.regs = s.regs
        ∧ t.flt.queue = q.map (fun r => if r.cls = x.cls ∧ r.blk = x.blk ∧ r.code = x.code ∧ r.detail = x.detail
            then { r with count := min (r.count + 1) 65535 } else r))
      ∧ ((∀ r ∈ q, ¬key r) →
          (x.cls = 3 → ∀ k, 56 ≤ k → k < 64 → free k → (∀ j, 56 ≤ j → j < k → ¬free j) → t.flt.queue = q ++ [new k] ∧ t.regs = s.regs)
          ∧ (x.cls ≠ 3 ∨ (∀ k, 56 ≤ k → k < 64 → ¬free k) →
              (∀ k, k < 56 → free k → (∀ j, j < k → ¬free j) → t.flt.queue = q ++ [new k] ∧ t.regs = s.regs)
              ∧ (full → ∀ v r, overwrites v r → t.flt.queue = q.filter (fun y => y != r) ++ [new r.slot]
                  ∧ t.get (R.FLT_LOST.lost v) = (s.get (R.FLT_LOST.lost v) + 1) % 2 ^ 32)
              ∧ (full → (∀ v r, ¬overwrites v r) → t.flt.queue = q
                  ∧ t.get (R.FLT_LOST.lost x.cls) = (s.get (R.FLT_LOST.lost x.cls) + 1) % 2 ^ 32)))

/-- R404, R405: a write of FLT_WDOG starts or stops the host watchdog, the key 0x5A0F restarts it; it expires in the period in
which timeout ms end, not in an earlier one (log entry 4): it stops and raises class 1, or class 3 for action 0b01. The MGP's watchdog restarts its firmware, and at the third expiry within 60 s leaves it stopped; restart
= 1 starts a stopped MGP with its history cleared, once an image is loaded. -/
def Claim.WatchdogsExpireAndRestart : Prop :=
  ∀ (s : State) (route : Route) (data : Word), s.quiet →
    let f := s.flt
    let expiries := (s.sys.up :: f.mgpExpiry).filter (fun u => decide (s.sys.up ≤ u + 60000 * msVco))
    let mgp := [R.FLT_MGP.reg, R.MGP_MB_STAT.reg, R.MGP_MB_GO.reg] ++ lostRegs
    let v := withField data 1 1 1
    let ends := f.wdogUp + s.get R.FLT_WDOG.timeout * msVco < s.sys.up + s.perVco
    (TakesWrite s route → ∃ t, exec (.hostWdogWrite route data) s = .next t ∧ Only [.flt, .hif] [R.FLT_WDOG.reg] s t
        ∧ t.hif = s.journalled route 0 R.FLT_WDOG.reg data ∧ t.flt = { f with wdogRun := fieldGet 0 16 data != 0, wdogUp := s.sys.up }
        ∧ t.get R.FLT_WDOG.timeout = fieldGet 0 16 data ∧ t.get R.FLT_WDOG.action = fieldGet 16 2 data
        ∧ t.flag R.FLT_WDOG.expired = (s.flag R.FLT_WDOG.expired && !data.getLsbD 18))
      ∧ (TakesWrite s route → ∃ t, exec (.hostWdogKick route data) s = .next t ∧ Only [.flt, .hif] [] s t
        ∧ t.hif = s.journalled route 0 R.FLT_WDOG_KICK.reg data
        ∧ t.flt = if fieldGet 0 16 data = 0x5A0F then { f with wdogRun := s.get R.FLT_WDOG.timeout != 0, wdogUp := s.sys.up } else f)
      ∧ (f.wdogRun = true → ends → s.get R.FLT_WDOG.action ≠ 2 → ∃ t, exec .hostWdogExpiry s = .next t
        ∧ Only [.flt, .eth, .twin] (R.FLT_WDOG.reg :: yieldRegs ++ lostRegs) s t ∧ YieldsOnly s t ∧ t.flt.wdogRun = false ∧ t.flag R.FLT_WDOG.expired = true
        ∧ t.flt.queue = s.queueWith (if s.get R.FLT_WDOG.action = 1 then 3 else 1) 0 3 0)
      ∧ (f.wdogRun = false ∨ ¬ends → ∃ t, exec .hostWdogExpiry s = .next t ∧ Only [] [] s t)
      ∧ (f.mgpRun = true → expiries.length < 3 → ∃ t, exec .mgpWdogExpiry s = .next t ∧ Only [.flt] mgp s t
        ∧ t.flt.mgpRun = true ∧ t.flag R.FLT_MGP.running = true ∧ t.flt.mgpExpiry = expiries ∧ t.flt.mgpTag = 0 ∧ t.flt.mbHeld = []
        ∧ t.flt.clockAttr = [] ∧ t.flt.mbOut = f.mbOut
        ∧ t.get R.FLT_MGP.restarts = (s.get R.FLT_MGP.restarts + 1) % 256 ∧ t.flt.queue = s.queueWith 2 0xE 1 0
        ∧ t.mbBusy = false ∧ t.flag R.MGP_MB_STAT.in_refused = (s.flag R.MGP_MB_STAT.in_refused || s.mbBusy))
      ∧ (f.mgpRun = true → 3 ≤ expiries.length → ∃ t, exec .mgpWdogExpiry s = .next t ∧ Only [.flt] mgp s t
        ∧ t.flt.mgpRun = false ∧ t.flag R.FLT_MGP.running = false ∧ t.flt.mbOut = f.mbOut ∧ t.flt.queue = s.queueWith 2 0xE 2 0
        ∧ t.get R.FLT_MGP.restarts = s.get R.FLT_MGP.restarts ∧ t.mbBusy = false)
      ∧ (TakesWrite s route → f.mgpRun = false → s.image = true → ∃ t, exec (.mgpRestartCmd route data) s = .next t
        ∧ Only [.flt, .hif] [R.FLT_MGP.reg] s t ∧ t.hif = s.journalled route 0 R.FLT_MGP.reg v
        ∧ t.flt = { f with mgpRun := true, mgpTag := 0, mbHeld := [], clockAttr := [], mgpExpiry := [] }
        ∧ t.flag R.FLT_MGP.running = true ∧ t.get R.FLT_MGP.restarts = s.get R.FLT_MGP.restarts)
      ∧ (TakesWrite s route → f.mgpRun = true → ∃ t, exec (.mgpRestartCmd route data) s = .next t ∧ Only [.hif] [] s t)

/-- Faults coalesce, are queued or are lost; watchdogs start, expire and restart. -/
def Obligations.FaultsAreQueuedAndWatchdogsExpire : Prop := Claim.FaultsCoalesceAreQueuedOrAreLost ∧ Claim.WatchdogsExpireAndRestart

/-- R391, R395, R409: a pop moves the oldest record, or the oldest of class 3 when that is asked for, to FLT_RD, frees its slot and sets
rd_valid; on an empty queue it clears rd_valid alone. With mgp_drain the running MGP pops class 3 first and appends the record to the
mailbox unchanged, under its running tag. -/
def Obligations.PopsMoveARecordToItsReader : Prop :=
  ∀ (s : State) (route : Route) (data : Word) (r : FaultRec), s.quiet →
    let q := s.flt.queue
    let words : List Word := [BitVec.ofNat 32 (r.cls + 4 * (if r.stale then 1 else 0) + 8 * r.blk + 256 * r.code + 65536 * r.count),
      BitVec.ofNat 32 r.pnl, BitVec.ofNat 32 r.wt, BitVec.ofNat 32 r.detail]
    let taken := fun (c3 : Bool) => if c3 = true ∧ (∃ x ∈ q, x.cls = 3) then q.find? (fun x => x.cls == 3) = some r else q.head? = some r
    let rd := (List.range 4).map R.FLT_RD.reg
    let shown := fun (t : State) => rd.map t.reg = words ∧ t.flag R.FLT_POP.rd_valid = true
    let hif := s.journalled route 0 R.FLT_POP.reg data
    let c3 := data.getLsbD 1
    (TakesWrite s route → data.getLsbD 0 = true → taken c3 → ∃ t, exec (.fltPop route data) s = .next t
        ∧ Only [.flt, .hif] (R.FLT_POP.reg :: rd) s t ∧ t.hif = hif ∧ t.flt = { s.flt with queue := q.filter (fun x => x != r) }
        ∧ shown t ∧ t.flag R.FLT_POP.c3_first = c3)
      ∧ (TakesWrite s route → data.getLsbD 0 = true → q = [] → ∃ t, exec (.fltPop route data) s = .next t
        ∧ Only [.hif] [R.FLT_POP.reg] s t ∧ t.hif = hif ∧ t.flag R.FLT_POP.rd_valid = false ∧ t.flag R.FLT_POP.c3_first = c3)
      ∧ (TakesWrite s route → data.getLsbD 0 = false → ∃ t, exec (.fltPop route data) s = .next t
        ∧ Only [.hif] [R.FLT_POP.reg] s t ∧ t.hif = hif ∧ t.flag R.FLT_POP.rd_valid = s.flag R.FLT_POP.rd_valid
        ∧ t.flag R.FLT_POP.c3_first = c3)
      ∧ (s.flt.mgpRun = true → s.flag R.FLT_CFG.mgp_drain = true → s.flt.mbHeld = [] → s.flt.mbOut.length < 16 → taken true →
        ∃ t, exec .mgpDrainPop s = .next t ∧ Only [.flt] (R.FLT_POP.reg :: rd) s t ∧ shown t
        ∧ t.flt = { s.flt with
            queue := q.filter (fun x => x != r)
            mbOut := s.flt.mbOut ++ [BitVec.ofNat 32 (1 + 256 * 4 + 65536 * s.flt.mgpTag) :: words ++ [0, 0, 0]]
            mgpTag := (s.flt.mgpTag + 1) % 65536 })
      ∧ (s.flt.mgpRun = false ∨ s.flag R.FLT_CFG.mgp_drain = false ∨ 16 ≤ s.flt.mbOut.length ∨ q = [] →
        ∃ t, exec .mgpDrainPop s = .next t ∧ Only [] [] s t)

/-- R408, R410 to R412: the mailbox. A pop removes the oldest outbound message and lets in what the MGP holds; go hands the inbound message
over, is discarded while it is busy, and refused while the MGP is stopped; a running MGP takes a message of a type, answers it once under its
tag, and, where it is right, does what it asks. -/
def Claim.MailboxRequestsAreHandedOverAndAnswered : Prop :=
  ∀ (s : State) (route : Route) (data : Word) (gm : BitVec 64) (steps : BitVec 16) (cls prio : Byte), s.quiet →
    let f := s.flt
    let m := s.mbIn
    let len := fieldGet 8 3 (m 0)
    let hif := fun (a : Nat) => s.journalled route 0 a data
    let regs := [R.MGP_MB_STAT.reg, R.MGP_MB_GO.reg]
    let out := f.mbOut.drop 1
    let reply := fun (l : List Word) => (BitVec.ofNat 32 (3 + 256 * l.length + 65536 * fieldGet 16 16 (m 0)) :: l
      ++ List.replicate 7 (0 : Word)).take 8
    let answers := fun (i : Instr) (l : List Word) (attr : List (Nat × Word × Word)) => ∃ t, exec i s = .next t
      ∧ Only [.flt] regs s t ∧ t.flt = { f with mbOut := f.mbOut ++ [reply l], clockAttr := attr } ∧ t.mbBusy = false
      ∧ t.flag R.MGP_MB_GO.go = false ∧ t.flag R.MGP_MB_STAT.in_ovr = s.flag R.MGP_MB_STAT.in_ovr
    let ready := fun (ty : Nat) => s.mbBusy = true ∧ f.mgpRun = true ∧ fieldGet 0 8 (m 0) = ty ∧ f.mbHeld = [] ∧ f.mbOut.length < 16
    let attrOk := len = 3 ∧ (m 1).toNat < 2 ∧ 2 ≤ fieldGet 24 8 (m 3)
      ∧ -3 ≤ ((m 3).extractLsb' 16 8).toInt ∧ ((m 3).extractLsb' 16 8).toInt ≤ 4
    let readOk := len = 1 ∧ (m 1).toNat < 2
    let read := Instr.mbReadClockState gm steps cls prio
    (TakesWrite s route → data.getLsbD 0 = true → ∃ t, exec (.mbPop route data) s = .next t ∧ Only [.flt, .hif] [] s t
        ∧ t.hif = hif R.MGP_MB_POP.reg
        ∧ t.flt = { f with mbOut := out ++ f.mbHeld.take (16 - out.length), mbHeld := f.mbHeld.drop (16 - out.length) })
      ∧ (TakesWrite s route → s.mbBusy = true → ∃ t, exec (.mbGo route data) s = .next t ∧ Only [.hif] regs s t
        ∧ t.mbBusy = true ∧ t.flag R.MGP_MB_STAT.in_ovr = true ∧ t.flag R.MGP_MB_STAT.in_refused = s.flag R.MGP_MB_STAT.in_refused)
      ∧ (TakesWrite s route → s.mbBusy = false → data.getLsbD 0 = true → f.mgpRun = true →
        ∃ t, exec (.mbGo route data) s = .next t ∧ Only [.hif] regs s t ∧ t.hif = hif R.MGP_MB_GO.reg
        ∧ t.mbBusy = true ∧ t.flag R.MGP_MB_GO.go = true ∧ t.flag R.MGP_MB_STAT.in_ovr = s.flag R.MGP_MB_STAT.in_ovr)
      ∧ (TakesWrite s route → s.mbBusy = false → data.getLsbD 0 = true → f.mgpRun = false →
        ∃ t, exec (.mbGo route data) s = .next t ∧ Only [.hif] regs s t
        ∧ t.mbBusy = false ∧ t.flag R.MGP_MB_STAT.in_refused = true)
      ∧ (ready 1 → answers .mbIdentify (if len = 0 then [0, Config.mgpVersion, s.reg R.BOOT_IMG_GEN.reg] else [2]) f.clockAttr)
      ∧ (ready 2 → attrOk → answers .mbSetClockAttr [0]
          (((m 1).toNat, m 2, m 3) :: f.clockAttr.filter (fun x => x.1 != (m 1).toNat)))
      ∧ (ready 2 → ¬attrOk → answers .mbSetClockAttr [2] f.clockAttr)
      ∧ (ready 3 → readOk → answers read [0, gm.setWidth 32, (gm >>> 32).setWidth 32,
          BitVec.ofNat 32 (steps.toNat + 65536 * cls.toNat + 2 ^ 24 * prio.toNat), s.reg (R.PTP_DOM_PORTS.reg (m 1).toNat)] f.clockAttr)
      ∧ (ready 3 → ¬readOk → answers read [2] f.clockAttr)
      ∧ (∀ ty, ready ty → ty ∉ [1, 2, 3] → answers .mbUnknownType [1] f.clockAttr)

/-- R242, R255, R409: a running MGP that changes the port states of a domain writes them and the parent, and one that has negotiated an EEE
wake time writes it; each is reported through the mailbox. -/
def Claim.MgpWritesPortStatesAndWakeTimes : Prop :=
  ∀ (s : State) (d : Fin 2) (ports : Word) (parent : BitVec 64) (pp : BitVec 16) (port : Fin 8) (tw : BitVec 16), s.quiet →
    s.sys.state ≠ .reset → s.flt.mgpRun = true → s.flt.mbHeld = [] → s.flt.mbOut.length < 16 →
    (∃ t, exec (.mbPtpPortState d ports parent pp) s = .next t
        ∧ (∀ p, p ∉ [Part.flt, .hif, .ptp, .twin, .kiln] → p.same s t)
        ∧ t.get (R.PTP_DOM_PORTS.state d.val) = fieldGet 0 24 ports
        ∧ t.reg (R.PTP_DOM_PARENT_LO.reg d.val) = parent.setWidth 32
        ∧ t.reg (R.PTP_DOM_PARENT_HI.reg d.val) = (parent >>> 32).setWidth 32
        ∧ t.get (R.PTP_DOM_PARENT_PORT.port d.val) = pp.toNat
        ∧ t.ptp.dom[d].parent = (parent.toNat, pp.toNat)
        ∧ t.flt.mbOut = s.flt.mbOut ++ [[BitVec.ofNat 32 (4 + 256 * 5), BitVec.ofNat 32 d.val, t.reg (R.PTP_DOM_PORTS.reg d.val),
            parent.setWidth 32, (parent >>> 32).setWidth 32, pp.setWidth 32, 0, 0]])
      ∧ (port.val < s.sys.fuses.ports → ∃ t, exec (.mbEeeWakeTime port tw) s = .next t
        ∧ Only [.flt, .hif] [R.ETH_EEE.reg port.val] s t
        ∧ t.get (R.ETH_EEE.tw_tx port.val) = tw.toNat % 128
        ∧ t.get (R.ETH_EEE.idle port.val) = s.get (R.ETH_EEE.idle port.val)
        ∧ t.get (R.ETH_EEE.en port.val) = s.get (R.ETH_EEE.en port.val)
        ∧ t.flt = { s.flt with mbOut := s.flt.mbOut ++ [[BitVec.ofNat 32 (5 + 256 * 2), BitVec.ofNat 32 port.val,
            BitVec.ofNat 32 (tw.toNat % 128), 0, 0, 0, 0, 0]] })

/-- The MGP takes and answers mailbox requests, and writes port states and wake times. -/
def Obligations.MgpServesItsMailboxAndRegisters : Prop := Claim.MailboxRequestsAreHandedOverAndAnswered ∧ Claim.MgpWritesPortStatesAndWakeTimes

/-! ## Power, and what the engine does for a core -/

/-- R119 to R122, R128: an enabled slice raises the slice event at its cycle, or merges with one that is pending; at a group boundary a
core outside level 1 enters level 1, the period bell first, with its pc in EPC1; at level 0 with ie2 it enters level 2, debug before mailbox
before DMA, with its pc in EPC2 and SR in ESR2, and ie2 clear. Another core never changes. -/
def Claim.EventsEnterTheirHandlers : Prop :=
  ∀ (s : State) (c : Fin 16) (i : Fin 8), s.quiet →
    let k := s.core c
    let others := fun (t : State) => ∀ j, j ≠ c → t.core j = s.core j
    let lives := k.run = .running ∨ k.run = .idle ∨ k.run = .halted
    let fires := s.flag (R.CORE_SLICE.en c.val i.val) = true ∧ s.sys.dataPlane = true ∧ s.sys.idle = false ∧ lives
      ∧ 16 * s.get (R.CORE_SLICE.at_ c.val i.val) < s.perDsp
    let atBoundary := (k.run = .running ∨ k.run = .idle) ∧ k.group = [] ∧ k.slot = none
    let one := k.level ≠ 1 ∧ (k.bell = true ∨ k.slice = true)
    let two := k.level = 0 ∧ k.ie2 = true ∧ s.stalledC c.val = false ∧ (k.evDebug = true ∨ k.evMbox = true ∨ k.evDma = true)
    (fires → k.cyc = 16 * s.get (R.CORE_SLICE.at_ c.val i.val) → ∃ t, exec (.sliceTimer c i) s = .next t
        ∧ Only [.cores] [R.CORE_EVT.reg c.val] s t ∧ others t ∧ t.core c = { k with slice := true }
        ∧ t.flag (R.CORE_EVT.slice_ovr c.val) = (s.flag (R.CORE_EVT.slice_ovr c.val) || k.slice))
      ∧ (fires → ∃ t, exec (.sliceTimer c i) s = .next t ∧ Only [.cores] [R.CORE_EVT.reg c.val] s t ∧ others t ∧ (t.core c).slice = true)
      ∧ (¬fires → ∃ t, exec (.sliceTimer c i) s = .next t ∧ Only [] [] s t)
      ∧ (atBoundary → one → ∃ t, exec (.level1EventEntry c) s = .next t ∧ Only [.cores] [] s t ∧ others t
        ∧ t.core c = Core.tick { k with
            bell := false, slice := k.slice && k.bell, epc1 := k.pc, l1from := k.level, level := 1, run := .running,
            pc := k.vbase + (if k.bell then 0x20#32 else 0x40#32), accEntry := k.accEntry + 1 })
      ∧ (¬(atBoundary ∧ one) → ∃ t, exec (.level1EventEntry c) s = .next t ∧ Only [] [] s t)
      ∧ (atBoundary → ¬one → two → ∃ t, exec (.level2EventEntry c) s = .next t ∧ Only [.cores] [] s t ∧ others t
        ∧ t.core c = { Core.ticks 2 { k with
              evDebug := false, evMbox := k.evMbox && k.evDebug, evDma := k.evDma && (k.evDebug || k.evMbox)
              epc2 := k.pc, esr2 := k.bank0.sr, bank0 := { k.bank0 with sr := k.bank0.sr &&& ~~~ 0x100#32 }
              level := 2, run := .running
              pc := k.vbase + (if k.evDebug then 0x80#32 else if k.evMbox then 0xA0#32 else 0xC0#32) } with
            accEntry := k.accEntry + 2 })
      ∧ (¬(atBoundary ∧ ¬one ∧ two) → ∃ t, exec (.level2EventEntry c) s = .next t ∧ Only [] [] s t)

/-- R16, R95, R124: halt, resume and step act on the core in this order, as CORE_CTRL names them: a halt or a step of a core that runs is a
debug event, which halts it or becomes pending; a halt or a step while an earlier one waits has no effect; results under way land before a
halted core goes on. A breakpoint asks for a halt where halt_en, or level 0 with ie2, lets it; CORE_DBG_DATA reads and writes the
halted core's registers that CORE_DBG_SEL selects. -/
def Claim.TheDebuggerHaltsStepsAndReadsACore : Prop :=
  ∀ (s : State) (route : Route) (c : Fin 16) (data v : Word) (bit : Fin 3), s.quiet → c.val < s.sys.fuses.cores →
    let k := s.core c
    let others := fun (t : State) => ∀ j, j ≠ c → t.core j = s.core j
    let haltEn := s.flag (R.CORE_DBG_SEL.halt_en c.val)
    let event := fun (x : Core) => haltEn || x.level == 0 && x.ie2
    let asks := fun (x : Core) => (x.run == .running || x.run == .idle) && event x
    let rested := fun (x : Core) => (coreRest (s.setCore c x) c).core c
    let request := fun (x noted : Core) =>
      if asks x = false then x
      else if haltEn = false then { x with evDebug := true }
      else if x.group = [] ∧ x.slot = none then { x with run := .halted, wasIdle := x.run == .idle } else noted
    let halt := fun (x : Core) => if x.haltCmd then x else request x { x with haltReq := true, haltCmd := true }
    let resume := fun (x : Core) =>
      if x.run = .halted then { rested x with run := if (rested x).wasIdle then .idle else .running, wasIdle := false } else x
    let step := fun (x : Core) =>
      if x.stepping then x
      else if x.run = .halted then { rested x with run := .running, stepping := true, wasIdle := false }
      else request x { x with stepping := true }
    let w := data ||| (2#32 <<< bit.val)
    let before := (if w.getLsbD 2 then resume else id) ((if w.getLsbD 1 then halt else id) k)
    let acts := (if w.getLsbD 3 then step else id) before
    let cmd := [Instr.coreHalt route c data, .coreResume route c data, .coreStep route c data]
    let n := s.get (R.CORE_DBG_SEL.num c.val)
    let one := s.flag (R.CORE_DBG_SEL.bank c.val)
    let r := rested k
    let b := r.bankOf one
    let hit := ∃ j, j < 4 ∧ s.flag (R.CORE_BKPT.en c.val j) = true ∧ 4 * s.get (R.CORE_BKPT.addr c.val j) = k.pc.toNat
    let i := Fin.ofNat 8 ((n - 0xA0) / 4)
    let acc := b.a[i]
    let reads := fun (x : Word) => ∃ t, exec (.coreDbgDataAccess route c none) s = .next t ∧ Only [] [] s t ∧ [Out.word x] <+: t.out
    let writes := fun (x : Core) => ∃ t, exec (.coreDbgDataAccess route c (some v)) s = .next t
      ∧ Only [.hif, .cores] [R.CORE_DBG_DATA.reg c.val] s t ∧ others t ∧ t.core c = x
      ∧ t.hif = s.journalled route 0 (R.CORE_DBG_DATA.reg c.val) v
    let putAcc := fun (a : Acc) => r.setBank one { b with a := b.a.set i a }
    (TakesWrite s route → (s.sys.dataPlane = true → fieldGet 0 1 data = s.get (R.CORE_CTRL.enable c.val)) →
        ∀ i, cmd[bit.val]? = some i → ∃ t, exec i s = .next t ∧ Only [.hif, .cores] [R.CORE_CTRL.reg c.val, R.CORE_EVT.reg c.val] s t
          ∧ others t ∧ t.core c = acts ∧ t.get (R.CORE_CTRL.enable c.val) = fieldGet 0 1 data
          ∧ t.flag (R.CORE_EVT.debug c.val) = (s.flag (R.CORE_EVT.debug c.val) || w.getLsbD 1 && !k.haltCmd && asks k
              || w.getLsbD 3 && !before.stepping && (before.run == .halted || asks before))
          ∧ t.hif = s.journalled route 0 (R.CORE_CTRL.reg c.val) w)
      ∧ (canIssue s c = true → k.group = [] → hit → event k = true → ∃ t, exec (.breakpointMatch c) s = .next t
          ∧ Only [.cores] [R.CORE_EVT.reg c.val] s t ∧ others t ∧ t.core c = { k with haltReq := true }
          ∧ t.flag (R.CORE_EVT.debug c.val) = true)
      ∧ (canIssue s c = false ∨ k.group ≠ [] ∨ ¬hit ∨ event k = false → ∃ t, exec (.breakpointMatch c) s = .next t ∧ Only [] [] s t)
      ∧ (k.run ≠ .halted → reads 0 ∧ (TakesWrite s route → writes k))
      ∧ (k.run = .halted →
          (n ≤ 0x49 → reads (r.readCr b c.val s.pnl n))
          ∧ (∀ j, j < 32 → n = 0x80 + j → reads b.d[Fin.ofNat 32 j]
              ∧ (TakesWrite s route → writes (r.setBank one { b with d := b.d.set (Fin.ofNat 32 j) v })))
          ∧ (0xA0 ≤ n → n < 0xC0 → (n % 4 = 0 → reads (acc.acc.setWidth 32)) ∧ (n % 4 = 1 → reads (acc.acc.extractLsb' 32 32))
              ∧ (n % 4 = 2 → reads acc.gWord) ∧ (n % 4 = 3 → reads 0))
          ∧ (0xA0 ≤ n → n < 0xC0 → TakesWrite s route →
              (n % 4 = 0 → writes (putAcc { acc with acc := acc.acc.extractLsb' 32 48 ++ v }))
              ∧ (n % 4 = 1 → writes (putAcc { acc with acc := acc.acc.extractLsb' 64 16 ++ v ++ acc.acc.extractLsb' 0 32 }))
              ∧ (n % 4 = 2 → writes (putAcc ⟨v.extractLsb' 0 16 ++ acc.acc.extractLsb' 0 64, sx 4 (v.toNat / 2 ^ 16), v.getLsbD 20⟩))
              ∧ (n % 4 = 3 → writes (putAcc acc)))
          ∧ (n ≤ 0x49 → TakesWrite s route → writes (r.writeCr one n v))
          ∧ (0x49 < n ∧ n < 0x80 ∨ 0xC0 ≤ n → reads 0 ∧ (TakesWrite s route → writes k)))

/-- Events enter their handlers; the debugger halts, steps and reads a core. -/
def Obligations.CoreEventsAndTheDebugger : Prop := Claim.EventsEnterTheirHandlers ∧ Claim.TheDebuggerHaltsStepsAndReadsACore

/-- R131, R133, R139, R140: the header of the coming period stands in its half of the interface block, with the swap that a due commit of
the core's group makes, unless the copy of the swap before is unfinished, which postpones it, with a fault the first time; when the copy
is done every written word stands in both halves. -/
def Claim.HeadersAndParameterCopies : Prop :=
  ∀ (s : State) (c : Fin 16), s.quiet → s.fab.upsets = [] →
    let io := s.io c
    let others := fun (t : State) => ∀ j, j ≠ c → t.io j = s.io j
    let p := s.pn + 1
    let due := ∃ f, (s.hif.groups[16 + c.val]'(by omega)).fixed = some f ∧ f.target ≤ p
    let act := s.get (R.CORE_PSTAT.active c.val)
    let block := tunBase c.val + 0x28000 + 64 * s.get (R.CORE_AREA.base c.val)
    let place := block + 32 * (p % 2)
    let taken := s.get (R.CORE_RSTAT.last_taken c.val)
    let half := fun (h : Nat) => tunBase c.val + 0x28000 + 64 * s.get (R.CORE_PARAM.base c.val) + h * s.paramLen c.val
    let live := s.sys.dataPlane = true ∧ ((s.core c).run = .running ∨ (s.core c).run = .idle ∨ (s.core c).run = .halted) ∧ io.hdr = none
    let header := fun (t : State) (sw : Nat) =>
      let words : List Word := [BitVec.ofNat 32 p, BitVec.ofNat 32 (p / 2 ^ 32),
        BitVec.ofNat 32 ((act + sw) % 2 + 4 * taken),
        BitVec.ofNat 32 ((s.get (R.CORE_PSTAT.swaps c.val) + sw) % 65536), 0, 0, 0, 0]
      ∀ a, t.memByte a = if place ≤ a ∧ a < place + 32 then (words.flatMap (fun w => leBytes 4 w.toNat)).getD (a - place) 0 else s.memByte a
    let is := fun (t : State) (x : CoreIo) => others t ∧ t.io c = x
    let writes := fun (ps : List Part) (rs : List Nat) (x : CoreIo) (sw : Nat) (q : List FaultRec) => ∃ t, exec (.headerWrite c) s = .next t
      ∧ Only (.mem :: .cio :: ps) rs s t ∧ is t x ∧ header t sw ∧ t.flt.queue = q
    (live → due → io.copying = [] → writes [] [] { io with hdr := some true } 1 s.flt.queue)
      ∧ (live → ¬due → writes [] [] { io with hdr := some false } 0 s.flt.queue)
      ∧ (live → due → io.copying ≠ [] → io.postponed = true → writes [] [] { io with hdr := some false } 0 s.flt.queue)
      ∧ (live → due → io.copying ≠ [] → io.postponed = false →
          writes [.flt] (R.CORE_PSTAT.reg c.val :: lostRegs) { io with hdr := some false, postponed := true } 0 (s.queueWith 1 6 8 c.val))
      ∧ (¬live → ∃ t, exec (.headerWrite c) s = .next t ∧ Only [] [] s t)
      ∧ ((∀ o ∈ io.copying, 4 * o < s.paramLen c.val) → ∃ t, exec (.paramCopyDone c) s = .next t
          ∧ Only [.mem, .cio] [R.CORE_PSTAT.reg c.val] s t ∧ is t { io with copying := [] }
          ∧ t.flag (R.CORE_PSTAT.copy_busy c.val) = false ∧ t.get (R.CORE_PSTAT.active c.val) = act
          ∧ ∀ a, t.memByte a = if ∃ o ∈ io.copying, half (1 - act) + 4 * o ≤ a ∧ a < half (1 - act) + 4 * o + 4
              then s.memByte (a - half (1 - act) + half act) else s.memByte a)

/-- R136, R138, R146, R147, R382: a write of the parameter window goes to the inactive half (the boot engine's to both) and is to be
copied; one of the inbound mailbox goes to the interface block, its word 7 sets in_pend and raises the event, and over a pending
message sets in_ovr; the core's zero acknowledges it; a message of the core is copied out once there is room; restart of a stopped core
falls due at the second boundary. -/
def Claim.WindowsMailboxesAndRestart : Prop :=
  ∀ (s : State) (route : Route) (c : Fin 16) (o : Fin 8192) (i : Fin 8) (data : Word), s.quiet → s.fab.upsets = [] →
    c.val < s.sys.fuses.cores → s.twinMode = false →
    let io := s.io c
    let k := s.core c
    let act := s.get (R.CORE_PSTAT.active c.val)
    let half := fun (h : Nat) => tunBase c.val + 0x28000 + 64 * s.get (R.CORE_PARAM.base c.val) + h * s.paramLen c.val
    let block := tunBase c.val + 0x28000 + 64 * s.get (R.CORE_AREA.base c.val)
    let stores := fun (t : State) (places : List Nat) (w : Word) =>
      ∀ a, t.memByte a = match places.find? (fun x => decide (x ≤ a ∧ a < x + 4)) with
        | some x => (leBytes 4 w.toNat).getD (a - x) 0
        | none => s.memByte a
    let pwin := R.CORE_PWIN.reg c.val o.val
    let inWord := R.CORE_MBOX_IN.reg c.val i.val
    let pend := s.flag (R.CORE_MBOX_STAT.in_pend c.val)
    let out := block + 0xA0
    (TakesWrite s route → 4 * o.val < s.paramLen c.val → route ≠ .boot → ∃ t, exec (.corePwinWrite route c o data) s = .next t
        ∧ Only [.hif, .mem, .cio] [R.CORE_PSTAT.reg c.val] s t ∧ t.hif = s.journalled route 0 pwin data
        ∧ stores t [half (1 - act) + 4 * o.val] data ∧ (∀ j, j ≠ c → t.io j = s.io j)
        ∧ t.io c = { io with written := (t.io c).written, copying := io.copying.filter (fun x => x != o.val) }
        ∧ (∀ x, x ∈ (t.io c).written ↔ x = o.val ∨ x ∈ io.written)
        ∧ t.flag (R.CORE_PSTAT.copy_busy c.val) = !(t.io c).copying.isEmpty
        ∧ t.get (R.CORE_PSTAT.active c.val) = act ∧ t.get (R.CORE_PSTAT.swaps c.val) = s.get (R.CORE_PSTAT.swaps c.val))
      ∧ (TakesWrite s .boot → 4 * o.val < s.paramLen c.val → ∃ t, exec (.corePwinWrite .boot c o data) s = .next t
        ∧ Only [.mem] [] s t ∧ stores t [half 0 + 4 * o.val, half 1 + 4 * o.val] data)
      ∧ (TakesWrite s route → s.paramLen c.val ≤ 4 * o.val → ∃ t, exec (.corePwinWrite route c o data) s = .next t ∧ Only [.hif] [] s t)
      ∧ (TakesWrite s route → ∃ t, exec (.mboxInWrite route c i data) s = .next t
        ∧ Only [.hif, .mem, .cores] [R.CORE_MBOX_STAT.reg c.val] s t ∧ t.hif = s.journalled route 0 inWord data
        ∧ stores t [block + 0x80 + 4 * i.val] data ∧ (∀ j, j ≠ c → t.core j = s.core j)
        ∧ t.core c = (if i = 7 then { k with evMbox := true } else k)
        ∧ t.flag (R.CORE_MBOX_STAT.in_pend c.val) = (pend || i == 7)
        ∧ t.flag (R.CORE_MBOX_STAT.in_ovr c.val) = (s.flag (R.CORE_MBOX_STAT.in_ovr c.val) || pend)
        ∧ t.flag (R.CORE_MBOX_STAT.out_full c.val) = s.flag (R.CORE_MBOX_STAT.out_full c.val))
      ∧ (pend = true → s.memWord (block + 0x9C) = 0 → ∃ t, exec (.mboxInAck c) s = .next t ∧ Only [] [R.CORE_MBOX_STAT.reg c.val] s t
        ∧ t.flag (R.CORE_MBOX_STAT.in_pend c.val) = false
        ∧ t.flag (R.CORE_MBOX_STAT.in_ovr c.val) = s.flag (R.CORE_MBOX_STAT.in_ovr c.val)
        ∧ t.flag (R.CORE_MBOX_STAT.out_full c.val) = s.flag (R.CORE_MBOX_STAT.out_full c.val))
      ∧ (pend = false ∨ s.memWord (block + 0x9C) ≠ 0 → ∃ t, exec (.mboxInAck c) s = .next t ∧ Only [] [] s t)
      ∧ (s.flag (R.CORE_MBOX_STAT.out_full c.val) = false → s.memWord (out + 28) ≠ 0 → ∃ t, exec (.mboxOutCopy c) s = .next t
        ∧ Only [.mem] (R.CORE_MBOX_STAT.reg c.val :: (List.range 8).map (R.CORE_MBOX_OUT.reg c.val)) s t
        ∧ (∀ j, j < 8 → t.reg (R.CORE_MBOX_OUT.reg c.val j) = s.memWord (out + 4 * j)) ∧ stores t [out + 28] 0
        ∧ t.flag (R.CORE_MBOX_STAT.out_full c.val) = true ∧ t.flag (R.CORE_MBOX_STAT.in_pend c.val) = pend)
      ∧ (s.flag (R.CORE_MBOX_STAT.out_full c.val) = true ∨ s.memWord (out + 28) = 0 →
          ∃ t, exec (.mboxOutCopy c) s = .next t ∧ Only [] [] s t)
      ∧ (TakesWrite s route → data.getLsbD 0 = true → k.run = .faulted → s.flag (R.CORE_RUN.restart c.val) = false →
        ∃ t, exec (.coreRestartCmd route c data) s = .next t ∧ Only [.hif, .sys] [R.CORE_RUN.reg c.val] s t
        ∧ t.sys = { s.sys with sched := s.sys.sched ++ [(2, Action.coreRestart c)] } ∧ t.flag (R.CORE_RUN.restart c.val) = true
        ∧ t.hif = s.journalled route 0 (R.CORE_RUN.reg c.val) data)
      ∧ (TakesWrite s route → data.getLsbD 0 = false ∨ k.run ≠ .faulted ∨ s.flag (R.CORE_RUN.restart c.val) = true →
        ∃ t, exec (.coreRestartCmd route c data) s = .next t ∧ Only [.hif] [] s t
        ∧ t.hif = s.journalled route 0 (R.CORE_RUN.reg c.val) data)

/-- Headers and parameter copies, windows, mailboxes and the restart of a core. -/
def Obligations.CoreHeadersWindowsAndMailboxes : Prop := Claim.HeadersAndParameterCopies ∧ Claim.WindowsMailboxesAndRestart

/-- R142, R143, R145: a best-effort descriptor that is owned by the engine is taken when none is under way: it is refused with status 3, err
and a fault, or its transfer begins and is charged its beats at its memory and at Tun (R341); a transfer that ends has moved its bytes whole, cleared own and written its
status (late, for a real-time one past its deadline), and, where asked, raised the core's event. -/
def Obligations.CoreDmaTakesMovesAndEnds : Prop :=
  ∀ (s : State) (c : Fin 16) (rt : Bool) (x : DmaX) (rest : List DmaX), s.quiet → s.fab.upsets = [] →
    let io := s.io c
    let k := s.core c
    let others := fun (t : State) => (∀ j, j ≠ c → t.io j = s.io j) ∧ ∀ j, j ≠ c → t.core j = s.core j
    let n := s.ringLen c.val false
    let a := tunBase c.val + 0x28000 + 64 * s.get (R.CORE_DMA_BE.base c.val) + 16 * io.beHead
    let w := fun (i : Nat) => s.memWord (a + 4 * i)
    let len := fieldGet 16 16 (w 1)
    let place := (w 0).toNat + 2 ^ 32 * fieldGet 0 8 (w 1)
    let tun := fieldGet 0 18 (w 2)
    let larder := larderBase ≤ place ∧ place + 8 * len ≤ larderBase + 0x1800000
    let cask := caskBase ≤ place ∧ place + 8 * len ≤ caskBase + s.caskChans.length * s.caskS
    let bank := 0x10000 ≤ tun ∧ tun + 8 * len ≤ 0x28000 ∨ 0x28000 ≤ tun ∧ tun + 8 * len ≤ 0x40000
    let good := 1 ≤ len ∧ (larder ∨ cask) ∧ bank
    let goes := (k.run = .running ∨ k.run = .idle ∨ k.run = .halted) ∧ n ≠ 0 ∧ io.be = []
    let ended := fun (m : Nat → Byte) (d : Nat) (st : Nat) (p : Nat) =>
      if p = d + 5 then m p &&& 0xFB#8 else if d + 12 ≤ p ∧ p < d + 16 then (leBytes 4 st).getD (p - (d + 12)) 0 else m p
    let beats := ((place + 8 * len + 63) / 64 - place / 64)
    let take := DmaX.mk a place ((w 1).getLsbD 8) ((w 1).getLsbD 9) len tun s.sys.bnd 0 false
    let bytes := 8 * x.len
    let local_ := tunBase c.val + x.tun
    let target := fun (m : Nat → Byte) (p : Nat) =>
      if x.toFabric then (if x.addr ≤ p ∧ p < x.addr + bytes then m (p - x.addr + local_) else m p)
      else if local_ ≤ p ∧ p < local_ + bytes then m (p - local_ + x.addr) else m p
    let served := x.tun + bytes ≤ 0x40000 ∧ s.backs x.addr bytes
    (goes → (w 1).getLsbD 10 = true → ¬good → ∃ t, exec (.beDmaStart c) s = .next t
        ∧ Only [.mem, .cio, .flt] (R.CORE_DMA_STAT.reg c.val :: lostRegs) s t ∧ others t
        ∧ t.io c = { io with beHead := (io.beHead + 1) % n } ∧ (∀ p, t.memByte p = ended s.memByte a 3 p)
        ∧ t.flag (R.CORE_DMA_STAT.err c.val) = true ∧ t.flt.queue = s.queueWith 1 6 6 c.val)
      ∧ (goes → (w 1).getLsbD 10 = true → good → mayNow s (16 + c.val) (if larder then 0 else 1) beats → mayNow s (16 + c.val) 2 beats →
        ∃ t, exec (.beDmaStart c) s = .next t ∧ Only [.cio, .fab] [R.FAB_SV_STALLED.reg 0, R.FAB_SV_STALLED.reg 1] s t ∧ others t
        ∧ t.io c = { io with beHead := (io.beHead + 1) % n, be := [take] }
        ∧ t.svUsed (16 + c.val) (if larder then 0 else 1) = s.svUsed (16 + c.val) (if larder then 0 else 1) + beats
        ∧ t.svUsed (16 + c.val) 2 = s.svUsed (16 + c.val) 2 + beats)
      ∧ (¬goes ∨ (w 1).getLsbD 10 = false → ∃ t, exec (.beDmaStart c) s = .next t ∧ Only [] [] s t)
      ∧ (rt = true → io.rt = x :: rest → served → ∃ t, exec (.dmaTransferDone c true) s = .next t
        ∧ Only [.mem, .cio, .fab, .perf, .free] beatRegs s t ∧ others t ∧ t.io c = { io with rt := rest }
        ∧ ∀ p, t.memByte p = ended (target s.memByte) x.desc (if x.bnd < s.sys.bnd then 5 else 1) p)
      ∧ (rt = false → io.be = x :: rest → x.left = 0 → served → ∃ t, exec (.dmaTransferDone c false) s = .next t
        ∧ Only [.mem, .cio, .fab, .perf, .free, .cores] (R.CORE_DMA_STAT.reg c.val :: beatRegs) s t ∧ others t
        ∧ t.io c = { io with be := rest } ∧ t.core c = (if x.irq then { k with evDma := true } else k)
        ∧ (∀ p, t.memByte p = ended (target s.memByte) x.desc 1 p)
        ∧ t.get (R.CORE_DMA_STAT.be_done c.val) = (s.get (R.CORE_DMA_STAT.be_done c.val) + if x.irq then 1 else 0) % 2 ^ 16)
      ∧ ((if rt then io.rt else io.be) = [] → ∃ t, exec (.dmaTransferDone c rt) s = .next t ∧ Only [] [] s t)

/-! ## Passes and local I/O -/

/-- R26, R132 to R135: at the send point every send of the pass stands in its core's buffer, of every core that is present; at the
return point the returns of an enabled core are taken when its seal holds PNL, and otherwise the last taken stand in, which is a miss
and a fault for a core that is not halted. The returns of a halted core begin to fade, and those of one that goes on stand at their full level
again (the model's reading, log entry 92). -/
def Obligations.SendsArePlacedAndReturnsTaken : Prop :=
  ∀ (s : State) (c : Fin 16), s.quiet → s.fab.upsets = [] →
    let n := s.nSamp
    let p := s.pn
    let present := fun (j : Fin 16) => j.val < s.sys.fuses.cores
    let started := (s.core c).run = .running ∨ (s.core c).run = .idle ∨ (s.core c).run = .halted
    let xOff := fun (j : Fin 16) => 0x10000 + 64 * s.get (R.CORE_SEND.base j.val) + p % 2 * s.sendCount j.val * 4 * n
    let fits := ∀ j, present j → 0x10000 + 64 * s.get (R.CORE_SEND.base j.val) + 2 * s.sendCount j.val * 4 * n ≤ 0x28000
    let send := fun (j : Fin 16) (i : Nat) => (assocGet (0x1200 + 128 * j.val + i) s.mash.sends).getD []
    let place := fun (j : Fin 16) (i x : Nat) => tunBase j.val + xOff j + 4 * n * i + 4 * x
    let rtRegs := [R.FAB_SV_DREW.reg 1, R.FAB_SV_DEMOTED.reg 1] ++ lostRegs
    let k := s.core c
    let io := s.io c
    let y := tunBase c.val + 0x28000
    let sealWord := s.memWord (y + 64 * s.get (R.CORE_AREA.base c.val) + 0x40 + 4 * (p % 2))
    let vals := (List.range (s.retCount c.val)).map (fun r => (List.range n).map (fun x =>
      (s.memWord (y + 64 * s.get (R.CORE_RET.base c.val) + p % 2 * s.retCount c.val * 4 * n + 4 * (r * n + x))).toInt))
    let held := if k.run = .halted then (match io.fade with | .full | .rise _ => RetFade.out 0 | f => f)
      else (match io.fade with | .out _ | .zero => .full | f => f)
    let fade := if held = .wait then RetFade.rise 0 else held
    let sealed := sealWord.toNat = p % 2 ^ 32 ∧ io.ovrNow = false ∧ k.run ≠ .halted
    let enabled := s.flag (R.CORE_CTRL.enable c.val) = true ∧ s.sys.dataPlane = true
    let alone := ∀ j, j ≠ c → s.flag (R.CORE_CTRL.enable j.val) = false
    let returns := fun (P : State → Prop) => ∃ t, exec .returnPoint s = .next t
      ∧ Only [.mash, .cio, .fab, .flt, .twin] ((List.range 16).map R.CORE_RSTAT.reg ++ rtRegs) s t
      ∧ t.mash = { s.mash with phase := 3 } ∧ P t
    let misses := R.CORE_RSTAT.misses c.val
    let missed := fun (t : State) (is : Bool) => t.get misses = (s.get misses + if is then 1 else 0) % 2 ^ 16
      ∧ (alone → t.flt.queue = if is then s.queueWith 2 6 1 c.val else s.flt.queue)
    (s.mash.phase = 1 → fits → ∃ t, exec .sendPoint s = .next t ∧ Only [.mash, .mem, .fab, .flt, .twin] rtRegs s t
        ∧ t.mash = { s.mash with phase := 2 }
        ∧ (∀ j, present j → ∀ i x, i < s.sendCount j.val → x < n →
            t.memWord (place j i x) = BitVec.ofInt 32 ((send j i).getD x 0))
        ∧ ∀ a, (∀ j, present j → ∀ i x, i < s.sendCount j.val → x < n → ¬(place j i x ≤ a ∧ a < place j i x + 4)) →
          t.memByte a = s.memByte a)
      ∧ (s.mash.phase ≠ 1 → ∃ t, exec .sendPoint s = .next t ∧ Only [] [] s t)
      ∧ (s.mash.phase = 2 → enabled → started → sealed → returns (fun t =>
          t.io c = { io with taken := vals, cur := vals, fade := fade }
            ∧ t.flag (R.CORE_RSTAT.last_taken c.val) = true ∧ t.get misses = s.get misses
            ∧ t.flag (R.CORE_RSTAT.muted c.val) = false))
      ∧ (s.mash.phase = 2 → enabled → started → ¬sealed → returns (fun t =>
          t.io c = { io with cur := io.taken, fade := held } ∧ t.flag (R.CORE_RSTAT.last_taken c.val) = false
            ∧ t.flag (R.CORE_RSTAT.muted c.val) = (s.flag (R.CORE_RSTAT.muted c.val) && !(k.run != .halted && io.fade == .zero))
            ∧ missed t (k.run != .halted)))
      ∧ (s.mash.phase = 2 → enabled → ¬started → returns (fun t => t.io c = io ∧ t.flag (R.CORE_RSTAT.last_taken c.val) = false
          ∧ missed t io.ovrNow))
      ∧ (s.mash.phase = 2 → ¬enabled → returns (fun t => t.io c = io ∧ t.reg (R.CORE_RSTAT.reg c.val) = s.reg (R.CORE_RSTAT.reg c.val)))
      ∧ (s.mash.phase ≠ 1 → s.mash.phase ≠ 2 → ∃ t, exec .returnPoint s = .next t ∧ Only [] [] s t)

/-- R152 to R159, R228: a frame of a master group of domain 0 sends the output channels' samples of its instant, and its input
goes to the jitter store under the next sample's number; one of a slave group enters the elastic buffer and the oldest output frame leaves,
zeros while the buffer fills to two; the oldest is dropped as a slip when it is full, and a frame is repeated as a slip when the engine finds
it with one; a frame of a wrong length is replaced by the one before and sets frame_err. On the wire a slot's most significant bit goes
first, and the frame sync stands as fs_mode and fs_pol say. A stopped group's frame does nothing. -/
def Claim.TdmFramesCarrySamples : Prop :=
  ∀ (s : State) (g : Fin 4) (slots : List (List Word)) (bits took : Nat) (onTime : Bool) (phase ratio : Word), s.quiet →
    s.mirrors = false → s.twin.mir = [] → s.sys.idle = false →
    let x := s.grp g
    let n := s.nSamp
    let i := Instr.tdmFrame g slots bits onTime took phase ratio
    let next := s.pn * n + x.cnt + 1
    let ports := (List.range 8).filter (fun p => decide (8 * g.val + p < s.sys.fuses.tdm))
    let drive := fun (p k : Nat) =>
      if s.flag (R.XIO_PORT.out_en p) = false then some 0
      else match s.slotOut p k with
        | some j => some (wordOut (s.woutBits p) (((assocGet (0x1000 + j) s.mash.pres).getD []).getD x.cnt 0))
        | none => if s.flag (R.XIO_PORT.out_hiz p) then none else some 0
    let frame : TdmOut := ports.map (fun p => (List.range (s.grpSlots g.val)).map (drive (8 * g.val + p)))
    let zero : TdmOut := ports.map (fun _ => List.replicate (s.grpSlots g.val) (some 0))
    let sends := fun (t : State) (o : TdmOut) => [Out.tdm g.val o (tdmWire s g.val o)] <+: t.out
    let input := fun (f : TdmFrame) (ch : Nat) =>
      let p := s.get (R.XIO_IMAP.port ch)
      if s.flag (R.XIO_PORT.in_en p) then wordIn (s.winBits p) ((f.getD (p % 8) []).getD (s.get (R.XIO_IMAP.slot ch)) 0) else 0
    let stores := fun (t : State) (f : TdmFrame) =>
      (∀ y, y ∉ (List.range 512).map (0x1000 + ·) → t.sxe.store.filter (fun e => e.src == y) = s.sxe.store.filter (fun e => e.src == y))
        ∧ ∀ ch, ch < 512 → s.flag (R.XIO_IMAP.valid ch) = true → s.get (R.XIO_IMAP.port ch) / 8 = g.val →
          (∀ e ∈ s.sxe.store, e.src = 0x1000 + ch → e.m % (s.dIn + 2) ≠ next / n % (s.dIn + 2)) →
          (storeRead t.sxe.store (0x1000 + ch) (next / n)).getD (next % n) none = some (input f ch)
    let len := s.grpSlots g.val * s.slotBits g.val
    let good := bits = len
    let slave := x.run = true ∧ s.grpMaster g.val = false ∧ s.grpDom g.val = 0 ∧ s.grpSource g.val = false ∧ x.loss = none
      ∧ s.flag (R.XIO_GRP_STAT.clk_ok g.val) = true
    let others := fun (t : State) => (∀ j, j ≠ g → t.grp j = s.grp j) ∧ t.xio.bridges = s.xio.bridges
    let stat := R.XIO_GRP_STAT.reg g.val
    let x' := { x with recv := slots, alive := true, errs := 0, good := if onTime then x.good + 1 else 0 }
    let slips := R.XIO_GRP_STAT.slips g.val
    let takes := fun (more : List Part) (y : XioGrp) (o : TdmOut) (slip : Bool) (P : State → Prop) => ∃ t, exec i s = .next t
      ∧ Only ([.xio] ++ more ++ if slip then [.flt] else []) ([stat, R.XIO_GRP_PHASE.reg g.val] ++ if slip then lostRegs else []) s t ∧ others t
      ∧ t.reg (R.XIO_GRP_PHASE.reg g.val) = phase ∧ t.get (R.XIO_GRP_STAT.fill g.val) = y.inq.length % 8
      ∧ t.get slips = (s.get slips + if slip then 1 else 0) % 2 ^ 16
      ∧ t.flt.queue = (if slip then s.queueWith 1 7 2 g.val else s.flt.queue) ∧ t.grp g = y ∧ sends t o ∧ P t
    (x.run = false → ∃ t, exec i s = .next t ∧ Only [] [] s t)
      ∧ (x.run = true → s.grpMaster g.val = true → s.grpDom g.val = 0 → x.cnt < n → x.loss = none → x.rise = none →
        ∃ t, exec i s = .next t ∧ Only [.xio, .sxe] [] s t ∧ others t ∧ sends t frame
        ∧ t.grp g = { x with cnt := x.cnt + 1, last := slots } ∧ stores t slots)
      ∧ (slave → good → took = 0 → x.filling = true → x.inq = [] → takes [] { x' with inq := [slots] } zero false (fun _ => True))
      ∧ (slave → good → took = 0 → x.filling = true → x.inq ≠ [] →
          takes [] { x' with inq := x.inq ++ [slots], filling := false, outq := List.replicate (2 - x.outq.length) zero ++ x.outq } zero false
            (fun _ => True))
      ∧ (slave → good → took = 0 → x.filling = false → x.inq.length < 3 →
          takes [] { x' with inq := x.inq ++ [slots], outq := x.outq.tail } (x.outq.headD zero) false (fun _ => True))
      ∧ (slave → good → took = 0 → x.filling = false → 3 ≤ x.inq.length →
          takes [] { x' with inq := x.inq.tail ++ [slots] } (x.outq.headD zero) true (fun _ => True))
      ∧ (slave → good → took = 1 → x.filling = false → x.cnt < n → x.rise = none → ∀ f f2 r, x.inq = f :: f2 :: r → r.length < 2 →
          takes [.sxe] { x' with inq := f2 :: r ++ [slots], outq := (x.outq ++ [frame]).tail, cnt := x.cnt + 1, last := f }
            ((x.outq ++ [frame]).headD zero) false (fun t => stores t f))
      ∧ (slave → good → took = 1 → x.filling = false → x.cnt < n → x.rise = none → x.inq.length ≤ 1 →
          takes [.sxe] { x' with inq := x.inq ++ [slots], outq := (x.outq.tail ++ [frame]).tail, cnt := x.cnt + 1 }
            ((x.outq.tail ++ [frame]).headD zero) true (fun t => stores t x.last))
      ∧ (slave → ¬good → took = 0 → x.errs < 3 → x.filling = false → x.inq.length < 3 → ∃ t, exec i s = .next t
        ∧ Only [.xio] [stat, R.XIO_GRP_PHASE.reg g.val] s t ∧ others t ∧ t.flag (R.XIO_GRP_STAT.frame_err g.val) = true
        ∧ t.grp g = { x with alive := true, errs := x.errs + 1, good := 0, inq := x.inq ++ [x.recv], outq := x.outq.tail })
      ∧ ∀ o : TdmOut, let w := tdmWire s g.val o
        let on := if s.get (R.XIO_GRP_CFG.fs_mode g.val) = 0 then 1 else if s.get (R.XIO_GRP_CFG.fs_mode g.val) = 1 then s.slotBits g.val else len / 2
        w.lead = s.get (R.XIO_GRP_CFG.fs_delay g.val) ∧ w.rise = s.flag (R.XIO_GRP_CFG.bclk_pol g.val)
          ∧ (s.grpMaster g.val = true → w.fs.length = len
              ∧ ∀ j, j < len → w.fs[j]? = some (decide (j < on) != s.flag (R.XIO_GRP_CFG.fs_pol g.val)))
          ∧ ∀ p port k v j, o[p]? = some port → port[k]? = some v → j < s.slotBits g.val →
              (w.bits.getD p [])[k * s.slotBits g.val + j]? = some (v.map (fun v => v.getLsbD (31 - j)))

/-- R158, R164, R166, R280: a slave group that loses its clock has clk_ok 0, starts the fade of its inputs and raises class 1; its locked
bridges, and those of a domain whose synthesiser unlocks, as one does that follows the group's frame starts, unlock; a bridge locks at a ratio in range, its domain locked and its clock good,
with its group delay in XIO_BR_GD. -/
def Claim.ClocksBridgesAndSynthesisersLockAndUnlock : Prop :=
  ∀ (s : State) (g : Fin 4) (d : Fin 2) (b : Fin 256) (x : BridgeU) (ratio : Word), s.quiet →
    let find := fun (t : State) (j : Nat) => t.xio.bridges.find? (fun y => y.b == j)
    let grpOf := fun (j : Nat) => s.get (R.XIO_BR_CFG.port j) / 8
    let regs := fun (j : Nat) => [R.XIO_BR_STAT.reg j, R.XIO_BR_GD.reg j]
    let all := (List.range 256).flatMap regs ++ lostRegs
    let unlocked := fun (t : State) (j : Nat) => t.flag (R.XIO_BR_STAT.locked j) = false ∧ t.flag (R.XIO_BR_STAT.unlocked_evt j) = true
      ∧ t.get (R.XIO_BR_STAT.unlocks j) = (s.get (R.XIO_BR_STAT.unlocks j) + 1) % 2 ^ 16 ∧ t.reg (R.XIO_BR_GD.reg j) = 0
    let takes := fun (which : Nat → Prop) (t : State) => ∀ j, j < 256 → ∀ y, find s j = some y →
      (which j → y.locked = true → unlocked t j ∧ find t j = some { y with locked := false, n := 0, lvl := y.n, late := 0 })
        ∧ (¬which j ∨ y.locked = false → find t j = some y ∧ t.reg (R.XIO_BR_STAT.reg j) = s.reg (R.XIO_BR_STAT.reg j))
    let slave := (s.grp g).run = true ∧ s.grpMaster g.val = false
    let clk := s.flag (R.XIO_GRP_STAT.clk_ok g.val)
    let gx := s.grp g
    let follows := fun (e : Nat) => e < 2 ∧ s.get (R.XIO_DOM.src e) = 3 ∧ s.get (R.XIO_DOM.grp e) = g.val ∧ s.flag (R.XIO_DOM.locked e) = true
    let hit := fun (j : Nat) => clk = true ∧ grpOf j = g.val ∨ ∃ e, follows e ∧ s.get (R.XIO_GRP_CFG.domain (grpOf j)) = e + 1
    let free := ∀ y ∈ s.xio.bridges, y.locked = true → ¬hit y.b
    let doms := [R.XIO_DOM.reg 0, R.XIO_DOM.reg 1]
    let dom := s.get (R.XIO_GRP_CFG.domain (grpOf b.val))
    let inRange := 2 ^ 28 ≤ 6 * ratio.toNat ∧ ratio.toNat ≤ 2 ^ 30
    let ready := s.flag (R.XIO_DOM.locked (dom - 1)) = true ∧ s.flag (R.XIO_GRP_STAT.clk_ok (grpOf b.val)) = true
    let r := R.XIO_BR_RATIO.reg b.val
    (∀ y ∈ s.xio.bridges, y.b < 256) →
    (slave → ∃ t, exec (.tdmClockLoss g) s = .next t ∧ Only [.xio, .flt] (R.XIO_GRP_STAT.reg g.val :: doms ++ all) s t
        ∧ t.flag (R.XIO_GRP_STAT.clk_ok g.val) = false
        ∧ t.grp g = (if clk then { gx with
            loss := some 0, rise := none, good := 0, filling := false, inq := [], outq := [], alive := false
            lvl := if gx.filling then 0 else match gx.rise with | some j => j | none => 64 } else { gx with alive := false, good := 0 })
        ∧ (∀ e, follows e → t.flag (R.XIO_DOM.locked e) = false) ∧ (∀ e, e < 2 → ¬follows e → t.reg (R.XIO_DOM.reg e) = s.reg (R.XIO_DOM.reg e))
        ∧ (∀ j, j ≠ g → t.grp j = s.grp j) ∧ takes hit t
        ∧ (free → t.flt.queue = if clk then s.queueWith 1 7 4 g.val else s.flt.queue))
      ∧ (¬slave → ∃ t, exec (.tdmClockLoss g) s = .next t ∧ Only [] [] s t)
      ∧ (s.get (R.XIO_DOM.src d.val) ≠ 0 → s.synthRef d.val = true → ∃ t, exec (.domainSynthLock d) s = .next t
        ∧ Only [] [R.XIO_DOM.reg d.val] s t
        ∧ t.flag (R.XIO_DOM.locked d.val) = true ∧ t.get (R.XIO_DOM.src d.val) = s.get (R.XIO_DOM.src d.val))
      ∧ (s.get (R.XIO_DOM.src d.val) = 0 ∨ s.synthRef d.val = false → ∃ t, exec (.domainSynthLock d) s = .next t ∧ Only [] [] s t)
      ∧ (s.get (R.XIO_DOM.src d.val) ≠ 0 → s.flag (R.XIO_DOM.locked d.val) = true → ∃ t, exec (.domainSynthUnlock d) s = .next t
        ∧ Only [.xio, .flt] (R.XIO_DOM.reg d.val :: all) s t ∧ t.flag (R.XIO_DOM.locked d.val) = false ∧ t.xio.grp = s.xio.grp
        ∧ takes (fun j => s.get (R.XIO_GRP_CFG.domain (grpOf j)) = d.val + 1) t)
      ∧ (find s b.val = some x → x.locked = false → inRange → ready → ∃ t, exec (.bridgeLock b ratio) s = .next t
        ∧ Only [.xio] (r :: regs b.val) s t ∧ t.reg r = ratio ∧ t.flag (R.XIO_BR_STAT.locked b.val) = true
        ∧ find t b.val = some { x with locked := true, n := 0 } ∧ t.reg (R.XIO_BR_GD.reg b.val) = BitVec.ofNat 32 (65536 * s.brDelay b.val)
        ∧ t.xio.grp = s.xio.grp)
      ∧ (find s b.val = some x → inRange ∧ (x.locked = true ∨ ¬ready) ∨ ¬inRange ∧ x.locked = false → ∃ t, exec (.bridgeLock b ratio) s = .next t
        ∧ Only [] [r] s t ∧ t.reg r = ratio)
      ∧ (find s b.val = some x → x.locked = true → ¬inRange → ∃ t, exec (.bridgeLock b ratio) s = .next t
        ∧ Only [.xio, .flt] (r :: regs b.val ++ lostRegs) s t ∧ t.reg r = ratio ∧ unlocked t b.val
        ∧ find t b.val = some { x with locked := false, n := 0, lvl := x.n, late := 0 }
        ∧ t.flt.queue = s.queueWith 1 7 7 b.val)

/-- TDM frames carry samples; clocks, bridges and synthesisers lock and unlock. -/
def Obligations.TdmFramesClocksAndBridges : Prop := Claim.TdmFramesCarrySamples ∧ Claim.ClocksBridgesAndSynthesisersLockAndUnlock

/-! ## The modulators -/

/-- R169 to R173, R177, R178: at a carrier cycle a switching channel whose rail holds drives its legs by the demand of its cycle: the
presented sample with start gain, limiter gain and feed-forward, shaped to a whole count and limited by the minimum pulse; a demand that
needs samples of the period after next waits for them; a failed run condition starts the stop ramp; a low rail puts it in hold. Boot and
hold follow the run conditions. The two sides of a leg are never on together. -/
def Claim.CarrierCyclesDriveTheLegs : Prop :=
  ∀ (s : State) (c : Fin 24), s.quiet → c.val < s.sys.fuses.pwm →
    let x := s.pwmCh c
    let st := s.get (R.PWM_CH_STAT.state c.val)
    let en := s.flag (R.PWM_CH_CFG.en c.val)
    let cond := en = true ∧ s.sys.state = .runLocked ∧ s.sys.stbyEntry = false
    let low := s.flag (R.PWM_RAIL_STAT.low (c.val / 3))
    let j := s.carNext c.val x.j
    let L := s.carLen j
    let fell := (x.legFell s.sys.up Prod.fst, x.legFell s.sys.up Prod.snd)
    let x0 := { x with
      j := some j, elapsed := x.elapsed + 1, per := s.pn, tripped := false
      firsts := match x.firsts with
        | (m, _) :: _ => if m = s.pn then x.firsts else ((s.pn, x.elapsed + 1) :: x.firsts).take 40
        | [] => [(s.pn, x.elapsed + 1)] }
    let regs := [R.PWM_CH_STAT.reg c.val, R.PWM_CH_GAIN.reg c.val, R.PWM_STAT.reg, R.PWM_LATCHED.reg]
    let gone := 65536 * x.k / (384 * max 1 (s.get R.PWM_CFG.ramp_ms))
    let sg := if st = 3 then min 65536 gone else if st = 4 then x.sg0 - gone else 0
    let leaves := st ≠ 4 ∧ ¬cond
    let st' := if leaves then 4 else st
    let at_ := carCentre s c.val j L
    let smp := carSample s c.val at_.1 at_.2
    let nom := s.get (R.PWM_RAIL_CFG.rail_nom (c.val / 3))
    let ff : Nat := if nom = 0 then 65536 else min (nom * 65536 / max (s.get (R.PWM_RAIL_STAT.v (c.val / 3))) 1) 0x20000
    let lg := s.get (R.PWM_CH_GAIN.lim_gain c.val)
    let d : Int := smp * sg / 65536 * lg / 65536 * ff / 65536
    let e := fun (k : Nat) => x.errs.getD k 0
    let u := d * L / 32768 - 5 * e 0 + 10 * e 1 - 10 * e 2 + 5 * e 3 - e 4
    let y := (u + 32768) / 65536
    let qm : Int := (L : Int) - 2 * max (max 2 (s.get R.PWM_CFG.min_pulse)) (s.get (R.PWM_CH_CFG.dead c.val) + 2)
    let zero := st' = 2 ∨ st' = 4 ∧ sg = 0
    let far := at_.2 ≠ 0 ∧ s.pn + 1 < (at_.1 + 2) / s.nSamp
    let q := if zero then 0 else min (max y (-qm)) qm
    let hA := (((L : Int) + q + 1) / 2).toNat
    let x1 := { x0 with
      sg0 := if leaves then sg else x.sg0, k := (if leaves then 0 else x.k) + 1, fell := fell
      cycUp := s.sys.up + 5 * s.carStart c.val j - s.sys.et }
    let cycle := fun (P : State → Prop) => ∃ t, exec (.carrierCycle c) s = .next t ∧ Only [.pwm] regs s t
      ∧ (∀ k, k ≠ c → t.pwmCh k = s.pwmCh k) ∧ t.reg (R.PWM_CH_GAIN.reg c.val) = s.reg (R.PWM_CH_GAIN.reg c.val) ∧ P t
    let goes := fun (v : Nat) (t : State) => t.get (R.PWM_CH_STAT.state c.val) = v
      ∧ t.pwmCh c = if v = st then x0 else { x0 with
          sg0 := 0, k := 0, late := none, fell := fell, drive := if v = 0 then .off else .freewheel
          bootUp := if st = 1 ∨ st = 5 then x.bootUp else s.sys.up }
    let drives := fun (clip : Bool) (k : PwmCh) => cycle (fun t => t.pwmCh c = k ∧ t.get (R.PWM_CH_STAT.state c.val) = st'
      ∧ t.flag (R.PWM_CH_STAT.clip c.val) = (s.flag (R.PWM_CH_STAT.clip c.val) || clip))
    let runs := (st = 2 ∨ st = 3 ∨ st = 4) ∧ low = false ∧ s.flag (R.PWM_CH_STAT.ocf c.val) = false
    let g := s.gates c
    (runs → zero ∨ ¬far → drives (decide (¬zero ∧ q ≠ y)) { x1 with
        errs := if zero then x.errs else [sx 18 (toU 18 (y * 65536 - u)), e 0, e 1, e 2, e 3]
        pk := if zero then x.pk else max x.pk (min (smp.natAbs * sg / 65536) (2 ^ 31 - 1))
        drive := .pulse L hA ((hA : Int) - q).toNat })
      ∧ (runs → ¬zero → far → drives false { x1 with drive := .begin, late := some ⟨L, at_.1, at_.2, sg, lg, ff⟩ })
      ∧ (st = 2 ∨ st = 3 ∨ st = 4 → low = true → cycle (goes 5))
      ∧ (st = 1 → cycle (goes (if cond ∧ low = false then 1 else if en then 5 else 0)))
      ∧ (st = 5 → cycle (goes (if en = false then 0 else if cond ∧ low = false then 1 else 5)))
      ∧ (st = 0 ∨ st = 6 ∨ st = 7 → cycle (goes st))
      ∧ (g.ah && g.al) = false ∧ (g.bh && g.bl) = false ∧ (x.drive = .off → g = ⟨false, false, false, false⟩)
      ∧ (x.drive = .freewheel ∨ x.drive = .cut → g.ah = false ∧ g.bh = false)

/-- R174 to R178, R184: a conversion shows its code and sag, sets low below rail_min (with class 1) and clears it a 32nd of the nominal
above, and moves the limiter gain of each channel of the rail whose bridge is not off; a low rail makes an open retry window wait; boot leads to
settle after boot_time, settle to run after 64 cycles, stop, once its ramp and 64 cycles have gone, to hold and on to boot where the run
conditions hold, or to off where the channel is not enabled. -/
def Claim.RailsLimitAndChannelsStartAndStop : Prop :=
  ∀ (s : State) (r : Fin 8) (code : BitVec 12) (c : Fin 24), s.quiet → 3 * r.val < s.sys.fuses.pwm → c.val < s.sys.fuses.pwm →
    let stat := R.PWM_RAIL_STAT.reg r.val
    let nom := s.get (R.PWM_RAIL_CFG.rail_nom r.val)
    let mn := s.get (R.PWM_RAIL_MIN.rail_min r.val)
    let v := code.toNat
    let was := s.flag (R.PWM_RAIL_STAT.low r.val)
    let low := decide (nom ≠ 0) && (if was then decide (v < mn + nom / 32) else decide (v < mn))
    let falls := low && !was
    let mine := (List.finRange 24).filter (fun k => k.val / 3 == r.val)
    let regs := fun (k : Fin 24) => [R.PWM_CH_STAT.reg k.val, R.PWM_CH_GAIN.reg k.val, R.PWM_STAT.reg, R.PWM_LATCHED.reg]
    let en := s.flag (R.PWM_CH_CFG.en c.val)
    let cond := en = true ∧ s.sys.state = .runLocked ∧ s.sys.stbyEntry = false
    let x := s.pwmCh c
    let st := s.get (R.PWM_CH_STAT.state c.val)
    let mp := max (max 2 (s.get R.PWM_CFG.min_pulse)) (s.get (R.PWM_CH_CFG.dead c.val) + 2)
    let ff := if nom = 0 then 65536 else min (nom * 65536 / max v 1) 0x20000
    let a := s.get (R.PWM_RAIL_LIM.lim_head r.val) * (1024 - 2 * mp) * 2 ^ 31 / (256 * 1024)
    let dem := x.pk * ff / 65536
    let gt : Int := if nom ≠ 0 ∧ v < s.get (R.PWM_RAIL_CFG.sag_thr r.val) ∧ a < dem then (a * 65536 / dem : Nat) else 65536
    let lg : Int := s.get (R.PWM_CH_GAIN.lim_gain c.val)
    let ka := limCoef (max 1 (min 100 (s.get (R.PWM_RAIL_LIM.attack r.val))))
    let kr := limCoef (100 * max 1 (min 200 (s.get (R.PWM_RAIL_LIM.release r.val))))
    let gain := if gt < lg then lg - rshift ((lg - gt) * ka) 24 else lg + rshift ((gt - lg) * kr) 24
    let waits := x.winWait || low && s.flag (R.PWM_CH_STAT.retry c.val)
    let fell := (x.legFell s.sys.up Prod.fst, x.legFell s.sys.up Prod.snd)
    let others := fun (t : State) => ∀ k, k ≠ c → t.pwmCh k = s.pwmCh k
    let goes := fun (i : Instr) (k : PwmCh) (to_ : Nat) => ∃ t, exec i s = .next t ∧ Only [.pwm] (regs c) s t ∧ others t ∧ t.pwmCh c = k
      ∧ t.reg (R.PWM_CH_STAT.reg c.val) = fieldPut 0 3 (s.reg (R.PWM_CH_STAT.reg c.val)) to_
      ∧ t.flag ⟨R.PWM_STAT.reg, c.val, 1⟩ = decide (to_ = 2 ∨ to_ = 3 ∨ to_ = 4)
    let runCond := cond ∧ s.flag (R.PWM_RAIL_STAT.low (c.val / 3)) = false
    let booted := st = 1 ∧ x.bootUp + 196608 * max 1 (s.get R.PWM_CFG.boot_time) ≤ s.sys.up
    let settled := st = 2 ∧ 64 ≤ x.k
    let stopped := st = 4 ∧ (x.sg0 * (384 * max 1 (s.get R.PWM_CFG.ramp_ms)) + 65535) / 65536 + 64 ≤ x.k
    let held := { x with bootUp := s.sys.up, drive := .freewheel, fell := fell, late := none, sg0 := 0, k := 0 }
    (∃ t, exec (.railConversion r code) s = .next t ∧ Only [.pwm, .flt] (stat :: mine.flatMap regs ++ lostRegs) s t
        ∧ t.get (R.PWM_RAIL_STAT.v r.val) = v ∧ t.flag (R.PWM_RAIL_STAT.sag r.val) = decide (v < s.get (R.PWM_RAIL_CFG.sag_thr r.val))
        ∧ t.flag (R.PWM_RAIL_STAT.low r.val) = low
        ∧ t.flag (R.PWM_RAIL_STAT.low_evt r.val) = (s.flag (R.PWM_RAIL_STAT.low_evt r.val) || falls)
        ∧ t.flt.queue = (if falls then s.queueWith 1 8 1 r.val else s.flt.queue)
        ∧ (∀ k, k ∉ mine → t.pwmCh k = s.pwmCh k)
        ∧ (c ∈ mine → st = 3 → cond → t.pwmCh c = { x with pk := 0, winWait := waits }
            ∧ t.get (R.PWM_CH_GAIN.lim_gain c.val) = gain.toNat % 2 ^ 17 ∧ t.get (R.PWM_CH_STAT.state c.val) = 3)
        ∧ (c ∈ mine → st = 5 → cond → low = false →
            t.pwmCh c = { x with pk := 0, drive := .freewheel, fell := fell, late := none, sg0 := 0, k := 0 }
            ∧ t.get (R.PWM_CH_STAT.state c.val) = 1)
        ∧ (c ∈ mine → st = 6 ∨ st = 7 → t.pwmCh c = { x with pk := 0, winWait := waits }
            ∧ t.reg (R.PWM_CH_STAT.reg c.val) = s.reg (R.PWM_CH_STAT.reg c.val)
            ∧ t.reg (R.PWM_CH_GAIN.reg c.val) = s.reg (R.PWM_CH_GAIN.reg c.val)))
      ∧ (booted → goes (.bootComplete c) { x with errs := [0, 0, 0, 0, 0], sg0 := 0, k := 0 } 2)
      ∧ (settled → goes (.settleComplete c) { x with sg0 := 0, k := 0 } 3)
      ∧ (stopped → runCond → goes (.stopComplete c) held 1)
      ∧ (stopped → en = true → ¬runCond → goes (.stopComplete c) held 5)
      ∧ (stopped → en = false → goes (.stopComplete c) { held with drive := .off } 0)
      ∧ (¬booted → ∃ t, exec (.bootComplete c) s = .next t ∧ Only [] [] s t)
      ∧ (¬settled → ∃ t, exec (.settleComplete c) s = .next t ∧ Only [] [] s t)
      ∧ (¬stopped → ∃ t, exec (.stopComplete c) s = .next t ∧ Only [] [] s t)

/-- A carrier cycle drives the legs by its demand; rails limit the gain; channels start and stop. -/
def Obligations.ChannelsAreDrivenLimitedStartedAndStopped : Prop := Claim.CarrierCyclesDriveTheLegs ∧ Claim.RailsLimitAndChannelsStartAndStop

/-- R179 to R181, R398: an overcurrent cuts the cycle of a switching channel and is a trip, once in a cycle; eight trips within 384 cycles, or one
in a retry window, latch the channel off with class 2, its reaction due at the boundary; a failed retry is counted, and the fourth gives up. -/
def Claim.TripsCutLatchAndGiveUp : Prop :=
  ∀ (s : State) (c : Fin 24), s.quiet → c.val < s.sys.fuses.pwm → s.twinMode = false →
    let x := s.pwmCh c
    let st := s.get (R.PWM_CH_STAT.state c.val)
    let switches := st = 2 ∨ st = 3 ∨ st = 4
    let stat := R.PWM_CH_STAT.reg c.val
    let trips := (x.elapsed :: x.trips).take 8
    let retry := s.flag (R.PWM_CH_STAT.retry c.val)
    let many := ∃ a b, trips[0]? = some a ∧ trips[7]? = some b ∧ a - b < 384
    let window := (50 * 1966080 + s.perVco - 1) / s.perVco
    let latches := retry = true ∧ x.winWait = false ∧ x.winBnd ≤ s.sys.bnd ∧ s.sys.bnd < x.winBnd + window ∨ many
    let failed := retry = true ∨ x.won = true
    let n := s.get (R.PWM_CH_STAT.retries c.val)
    let others := fun (t : State) => ∀ k, k ≠ c → t.pwmCh k = s.pwmCh k
    let ocf := R.PWM_CH_STAT.ocf c.val
    let fell := (x.legFell s.sys.up Prod.fst, x.legFell s.sys.up Prod.snd)
    let shown := fun (t : State) => t.flag ocf = true ∧ t.flag (R.PWM_CH_STAT.trip_evt c.val) = true
      ∧ t.get (R.PWM_CH_STAT.trips c.val) = (s.get (R.PWM_CH_STAT.trips c.val) + 1) % 2 ^ 16
    let off := fun (v r : Nat) (q : List FaultRec) => ∃ t, exec (.ocfltAssert c) s = .next t
      ∧ Only [.pwm, .flt, .twin] ([stat, R.PWM_STAT.reg, R.PWM_LATCHED.reg] ++ lostRegs) s t ∧ others t ∧ shown t
      ∧ t.pwmCh c = { x with
          drive := .off, fell := if v = 7 then (s.sys.up, s.sys.up) else fell, late := none, sg0 := 0, k := 0, trips := [], tripped := true
          latchWait := false, protDue := true, won := false, winWait := false, window := [] }
      ∧ t.get (R.PWM_CH_STAT.state c.val) = v ∧ t.get (R.PWM_CH_STAT.retries c.val) = r ∧ t.flag (R.PWM_CH_STAT.retry c.val) = false
      ∧ t.flag (R.PWM_CH_STAT.latch_evt c.val) = true ∧ t.flag ⟨R.PWM_STAT.reg, c.val, 1⟩ = false
      ∧ t.flag ⟨R.PWM_LATCHED.reg, c.val, 1⟩ = true ∧ t.flt.queue = q
    (switches → x.tripped = false → ¬latches → ∃ t, exec (.ocfltAssert c) s = .next t ∧ Only [.pwm] [stat] s t ∧ others t ∧ shown t
        ∧ t.pwmCh c = { x with drive := .cut, fell := fell, tripped := true, trips := trips } ∧ t.get (R.PWM_CH_STAT.state c.val) = st)
      ∧ (switches → x.tripped = false → latches → ¬failed → off 6 n (s.queueWith 2 8 2 c.val))
      ∧ (switches → x.tripped = false → latches → failed → n < 3 → off 6 (n + 1) (s.queueWith 2 8 2 c.val))
      ∧ (switches → x.tripped = false → latches → failed → 3 ≤ n → off 7 4 (enqueue (enqueue s ⟨2, 8, 2, c.val⟩) ⟨2, 8, 3, c.val⟩).flt.queue)
      ∧ (switches → x.tripped = true → ∃ t, exec (.ocfltAssert c) s = .next t ∧ Only [.pwm] [stat] s t ∧ others t
        ∧ t.pwmCh c = { x with drive := .cut, fell := fell } ∧ t.reg stat = fieldPut 4 1 (s.reg stat) 1)
      ∧ (¬switches → ∃ t, exec (.ocfltAssert c) s = .next t ∧ Only [] [stat] s t ∧ t.reg stat = fieldPut 4 1 (s.reg stat) 1)
      ∧ ∃ t, exec (.ocfltDeassert c) s = .next t ∧ Only [] [stat] s t ∧ t.reg stat = fieldPut 4 1 (s.reg stat) 0

/-- R181 to R184: a latched channel's retry, its hiccup time past, goes to boot with its window open and its protection factor on the
way to -20 dB, or waits for its run conditions; a window that ends, 50 ms after it started, is a success and releases the factor; 10 s of run
after it clear retries; a clear of a latched channel falls due at the second boundary. -/
def Claim.RetriesRunAndAreCleared : Prop :=
  ∀ (s : State) (route : Route) (c : Fin 24) (data : Word), s.quiet → c.val < s.sys.fuses.pwm → s.twinMode = false →
    let x := s.pwmCh c
    let st := s.get (R.PWM_CH_STAT.state c.val)
    let stat := R.PWM_CH_STAT.reg c.val
    let others := fun (t : State) => ∀ k, k ≠ c → t.pwmCh k = s.pwmCh k
    let pers := fun (ms : Nat) => (ms * 1966080 + s.perVco - 1) / s.perVco
    let d := 0x1C00 + c.val
    let T := s.get (R.MASH_DST_CTL.ramp_time d)
    let law := s.flag (R.MASH_DST_GAIN.law d)
    let runCond := s.flag (R.PWM_CH_CFG.en c.val) = true ∧ s.sys.state = .runLocked ∧ s.sys.stbyEntry = false
      ∧ s.flag (R.PWM_RAIL_STAT.low (c.val / 3)) = false
    let due := st = 6 ∧ x.latchWait = false ∧ x.protDue = false ∧ x.latchBnd + pers (max 10 (s.get R.PWM_HICCUP.hiccup)) ≤ s.sys.bnd
    let prot := fun (t : State) (p : Option Ramp) => t.dstW d = { s.dstW d with prot := p } ∧ (∀ j, j ≠ d → t.dstW j = s.dstW j)
      ∧ t.mash = { s.mash with dsts := t.mash.dsts }
    let cmd := R.PWM_CH_CMD.reg c.val
    let clears := data.getLsbD 0 = true ∧ 6 ≤ st ∧ x.latchWait = false ∧ s.flag (R.PWM_CH_CMD.clear c.val) = false
    let retry := s.flag (R.PWM_CH_STAT.retry c.val)
    let ended := retry = true ∧ x.winWait = false ∧ st < 6 ∧ x.winBnd + pers 50 ≤ s.sys.bnd
    let lasted := x.won = true ∧ pers 10000 ≤ x.runP
    (due → runCond → ∃ t, exec (.retryStart c) s = .next t
        ∧ Only [.pwm, .mash] [stat, R.PWM_CH_GAIN.reg c.val, R.PWM_STAT.reg, R.PWM_LATCHED.reg] s t ∧ others t
        ∧ t.pwmCh c = { x with
            bootUp := s.sys.up, drive := .freewheel, fell := (x.legFell s.sys.up Prod.fst, x.legFell s.sys.up Prod.snd), late := none
            sg0 := 0, k := 0, retryDue := false, winBnd := s.sys.bnd, winWait := false, won := false }
        ∧ t.get (R.PWM_CH_STAT.state c.val) = 1 ∧ t.flag (R.PWM_CH_STAT.retry c.val) = true
        ∧ t.get (R.PWM_CH_GAIN.lim_gain c.val) = 0x10000 ∧ t.flag ⟨R.PWM_LATCHED.reg, c.val, 1⟩ = false
        ∧ prot t (some (((s.dstW d).prot.getD (Ramp.const 0)).toward 0x1999A T law s.mash.base)))
      ∧ (due → ¬runCond → ∃ t, exec (.retryStart c) s = .next t ∧ Only [.pwm] [] s t ∧ others t
        ∧ t.pwmCh c = { x with retryDue := true })
      ∧ (¬due → ∃ t, exec (.retryStart c) s = .next t ∧ Only [] [] s t)
      ∧ (ended → ∃ t, exec (.retryWindowEnd c) s = .next t ∧ Only [.pwm, .mash] [stat] s t ∧ others t
        ∧ t.pwmCh c = { x with won := true, runP := 0 } ∧ t.reg stat = fieldPut 3 1 (s.reg stat) 0
        ∧ prot t ((s.dstW d).prot.map (fun p => p.toward unity T law s.mash.base)))
      ∧ (¬ended → ∃ t, exec (.retryWindowEnd c) s = .next t ∧ Only [] [] s t)
      ∧ (lasted → ∃ t, exec (.retryCountReset c) s = .next t ∧ Only [.pwm] [stat] s t ∧ others t
        ∧ t.pwmCh c = { x with won := false, runP := 0 } ∧ t.reg stat = fieldPut 8 3 (s.reg stat) 0)
      ∧ (¬lasted → ∃ t, exec (.retryCountReset c) s = .next t ∧ Only [] [] s t)
      ∧ (TakesWrite s route → clears → ∃ t, exec (.pwmClearCmd route c data) s = .next t ∧ Only [.hif, .sys] [cmd] s t
        ∧ t.hif = s.journalled route 0 cmd data ∧ t.flag (R.PWM_CH_CMD.clear c.val) = true
        ∧ t.sys = { s.sys with sched := s.sys.sched ++ [(2, Action.pwmClear c.val)] })
      ∧ (TakesWrite s route → ¬clears → ∃ t, exec (.pwmClearCmd route c data) s = .next t ∧ Only [.hif] [] s t
        ∧ t.hif = s.journalled route 0 cmd data)

/-- Trips cut, latch and give up a channel; retries run and are cleared. -/
def Obligations.TripsLatchOffAndRetriesRun : Prop := Claim.TripsCutLatchAndGiveUp ∧ Claim.RetriesRunAndAreCleared

/-! ## Ethernet -/

/-- R189, R194: a link that may come up does, with its latencies and the state of preemption, whose verification begins with a verify frame; one that fails loses its frames, which are
counted, and its dynamic entries, and raises class 1 where the bridge or a stream uses the port. -/
def Claim.LinksComeUpAndFail : Prop :=
  ∀ (s : State) (p : Fin 8) (rx tx : BitVec 16) (lock align lf rf : Bool), s.quiet → s.twinMode = false →
    s.flag (R.KILN_REF_CFG.en (2 + p.val)) = false →
    let q := p.val
    let x := s.eport p
    let stat := R.ETH_PSTAT.reg q
    let up := q < s.sys.fuses.ports ∧ s.flag (R.ETH_PCFG.en q) = true ∧ s.image = true
      ∧ (s.sys.state ≠ .standby ∨ s.flag (R.ETH_PCFG.wake_en q) = true)
    let others := fun (t : State) => (∀ j, j ≠ p → t.eport j = s.eport j) ∧ t.eth.ring = s.eth.ring
    let frames := x.tx.toList.map (·.f) ++ x.held.toList.map (·.f)
      ++ (List.finRange 8).flatMap (fun k => x.queues[k])
    let ringless := ∀ f ∈ frames, ∀ r, f.src ≠ .ring r
    let named := s.flag (R.ETH_PCFG.bridge q) = true ∨ s.streamNames q = true
    let stays := s.eth.fdb.filter (fun e => e.fixed || e.port != q)
    let pre := if s.flag (R.ETH_PREEMPT.en q) then (if s.flag (R.ETH_PREEMPT.verify_dis q) then 2 else 1) else 0
    (up → s.flag (R.ETH_PSTAT.link q) = false → ∃ t, exec (.ethLinkUp p rx tx) s = .next t
        ∧ Only [.eth, .flt] ([stat, R.PTP_PORT_LAT.reg q] ++ lostRegs) s t ∧ others t ∧ t.eth.fdb = s.eth.fdb
        ∧ t.eport p = { x with tries := 0 } ∧ t.get (R.PTP_PORT_LAT.rx q) = rx.toNat ∧ t.get (R.PTP_PORT_LAT.tx q) = tx.toNat
        ∧ t.flag (R.ETH_PSTAT.link q) = true ∧ t.flag (R.ETH_PSTAT.link_evt q) = true ∧ t.flag (R.ETH_PSTAT.blk_lock q) = true
        ∧ t.flag (R.ETH_PSTAT.fec_align q) = (s.fast q && s.flag (R.ETH_PCFG.fec q)) ∧ t.get (R.ETH_PSTAT.pre_state q) = pre
        ∧ t.flag (R.ETH_PSTAT.lfault q) = false ∧ t.flag (R.ETH_PSTAT.rfault q) = false ∧ t.flt.queue = s.queueWith 0 3 2 q
        ∧ (pre = 1 → [Out.verify q] <+: t.out))
      ∧ (s.flag (R.ETH_PSTAT.link q) = true ∨ ¬up → ∃ t, exec (.ethLinkUp p rx tx) s = .next t ∧ Only [] [] s t)
      ∧ (s.flag (R.ETH_PSTAT.link q) = true → ringless → (∀ d, s.slavePort d ≠ some q) → ∃ t, exec (.ethLinkDown p lock align lf rf) s = .next t
        ∧ Only [.eth, .flt] ([stat, R.ETH_TX_LINK_DROP.reg q, R.ETH_BR_STAT.reg] ++ lostRegs) s t ∧ others t ∧ t.eth.fdb = stays
        ∧ t.eport p = { x with queues := Vector.replicate 8 [], tx := none, held := none }
        ∧ t.get (R.ETH_TX_LINK_DROP.count q) = (s.get (R.ETH_TX_LINK_DROP.count q) + frames.length) % 2 ^ 32
        ∧ t.flag (R.ETH_PSTAT.link q) = false ∧ t.flag (R.ETH_PSTAT.link_evt q) = true ∧ t.get (R.ETH_PSTAT.pre_state q) = 0
        ∧ t.flag (R.ETH_PSTAT.rx_lpi q) = false ∧ t.flag (R.ETH_PSTAT.tx_lpi q) = false
        ∧ t.flag (R.ETH_PSTAT.blk_lock q) = lock ∧ t.flag (R.ETH_PSTAT.fec_align q) = align
        ∧ t.flag (R.ETH_PSTAT.lfault q) = lf ∧ t.flag (R.ETH_PSTAT.rfault q) = rf
        ∧ (named → t.flt.queue = s.queueWith 1 3 1 q) ∧ (¬named → t.flt.queue = s.flt.queue))
      ∧ (s.flag (R.ETH_PSTAT.link q) = false → ∃ t, exec (.ethLinkDown p lock align lf rf) s = .next t ∧ Only [] [] s t)

/-- R194 to R199, R215: the next gate entry comes into force, and a preemptable transmission whose gate closes stops where both parts reach
the minimum fragment; a frame that no gate time of its class can hold is discarded. So stops one behind which an express frame waits; a
verification sends another frame at its timeout, and the third fails it with class 1; an idle port that may enters low power, and leaves it
to send. -/
def Claim.GatesPreemptionAndLowPower : Prop :=
  ∀ (s : State) (p : Fin 8) (ts : Nat) (on : Bool), s.quiet →
    let q := p.val
    let x := s.eport p
    let others := fun (t : State) => (∀ j, j ≠ p → t.eport j = s.eport j) ∧ t.eth = { s.eth with port := t.eth.port }
    let empty := ∀ k, (h : k < 8) → x.queues[k] = []
    let idle := empty ∧ x.tx = none ∧ x.held = none
    let active := s.get (R.ETH_PSTAT.pre_state q) = 2
    let express := fun (k : Nat) => 6 ≤ k ∨ (s.get (R.ETH_PREEMPT.express q)).testBit k = true
    let waits := ∃ k, ∃ (h : k < 8), express k ∧ x.queues[k] ≠ [] ∧ gateLeft s x k (ts * 3 / 400000) ≠ some 0
    let m := 64 * (1 + s.get (R.ETH_PREEMPT.frag q))
    let sent := fun (y : TxNow) (now : Nat) => y.past + (now - y.start) * (if s.fast q then 25 else 10) / 524288
    let splits := fun (y : TxNow) (now : Nat) => active ∧ ¬express y.k ∧ x.held = none ∧ y.past + m ≤ sent y now
      ∧ sent y now + m ≤ y.f.bytes.length + 4
    let count := R.ETH_TX_PREEMPT.count q
    let stat := R.ETH_PSTAT.reg q
    let may := s.flag (R.ETH_PSTAT.link q) = true ∧ s.flag (R.ETH_EEE.en q) = true ∧ s.get (R.ETH_EEE.tw_tx q) ≠ 0
      ∧ s.isTwinPort q = false ∧ idle ∧ s.flag (R.ETH_PSTAT.tx_lpi q) = false
    let stops := fun (i : Instr) (y : EthPort) (c : TxNow) (now : Nat) => ∃ t, exec i s = .next t ∧ Only [.eth] [count.addr] s t ∧ others t
      ∧ t.eport p = { y with held := some { c with past := sent c now }, tx := none } ∧ t.get count = (s.get count + 1) % 2 ^ 32
    (∀ g, x.gate = some g →
        let n := (x.gidx + 1) % max 1 g.ents.length
        let open_ := fun (k : Nat) => (g.ents.getD n (255, 0)).1.testBit k
        let now := s.fabInstant (s.pn - s.pn % max 1 g.cyc) ((g.ents.take (x.gidx + 1)).map (·.2)).sum
        let fits := ∀ k, (h : k < 8) → ∀ f ∈ x.queues[k], wireFits s q f.bytes.length 24 (g.longest k) = true
        let drop := R.ETH_TX_GATE_DROP.count q
        (fits → ∀ c, x.tx = some c → open_ c.k = false → splits c now → stops (.gateEntryChange p) { x with gidx := n } c now)
          ∧ (fits → (∀ c, x.tx = some c → open_ c.k = true ∨ ¬splits c now) → ∃ t, exec (.gateEntryChange p) s = .next t
            ∧ Only [.eth] [] s t ∧ others t ∧ t.eport p = { x with gidx := n })
          ∧ (x.tx = none → ∀ (k : Fin 8) (f : QFrame), x.queues = (Vector.replicate 8 []).set k [f] → (∀ r, f.src ≠ .ring r) →
              wireFits s q f.bytes.length 24 (g.longest k.val) = false → ∃ t, exec (.gateEntryChange p) s = .next t
            ∧ Only [.eth] [drop.addr] s t ∧ others t ∧ t.eport p = { x with gidx := n, queues := Vector.replicate 8 [] }
            ∧ t.get drop = (s.get drop + 1) % 2 ^ 32))
      ∧ (x.gate = none → ∃ t, exec (.gateEntryChange p) s = .next t ∧ Only [] [] s t)
      ∧ (∀ c, x.tx = some c →
          (waits → splits c (s.nt16 + ts) → stops (.preemption p ts) x c (s.nt16 + ts))
          ∧ (¬waits ∨ ¬splits c (s.nt16 + ts) → ∃ t, exec (.preemption p ts) s = .next t ∧ Only [] [] s t))
      ∧ (x.tx = none → ∃ t, exec (.preemption p ts) s = .next t ∧ Only [] [] s t)
      ∧ (s.get (R.ETH_PSTAT.pre_state q) = 1 →
          (x.tries < 2 → ∃ t, exec (.preemptVerifyTimeout p) s = .next t ∧ Only [.eth] [] s t ∧ others t
            ∧ t.eport p = { x with tries := x.tries + 1 } ∧ [Out.verify q] <+: t.out)
          ∧ (2 ≤ x.tries → ∃ t, exec (.preemptVerifyTimeout p) s = .next t ∧ Only [.eth, .flt] (stat :: lostRegs) s t ∧ others t
            ∧ t.eport p = { x with tries := x.tries + 1 } ∧ t.reg stat = fieldPut 5 2 (s.reg stat) 3 ∧ t.flt.queue = s.queueWith 1 3 3 q))
      ∧ (s.get (R.ETH_PSTAT.pre_state q) ≠ 1 → ∃ t, exec (.preemptVerifyTimeout p) s = .next t ∧ Only [] [] s t)
      ∧ (may → ∃ t, exec (.lpiEntry p) s = .next t ∧ Only [] [stat, R.ETH_LPI_ENTRIES.reg q] s t ∧ t.reg stat = fieldPut 4 1 (s.reg stat) 1
        ∧ t.get (R.ETH_LPI_ENTRIES.count q) = (s.get (R.ETH_LPI_ENTRIES.count q) + 1) % 2 ^ 32)
      ∧ (¬may → ∃ t, exec (.lpiEntry p) s = .next t ∧ Only [] [] s t)
      ∧ (∃ t, exec (.lpiWake p) s = .next t ∧ Only [] [stat] s t ∧ t.reg stat = fieldPut 4 1 (s.reg stat) 0)
      ∧ (s.flag (R.ETH_PSTAT.link q) = true → ∃ t, exec (.rxLpiChange p on) s = .next t ∧ Only [] [stat] s t
        ∧ t.reg stat = fieldPut 3 1 (s.reg stat) (if on then 1 else 0))

/-- Links come up and fail; gates, preemption and low power act on a port. -/
def Obligations.LinksPreemptionAndLowPower : Prop := Claim.LinksComeUpAndFail ∧ Claim.GatesPreemptionAndLowPower

/-- R202 to R204: ETH_FDB_CMD reads a slot, writes a static entry in its key's slot or the lowest free way or CAM entry, deletes a key,
flushes a port or every dynamic entry, and sets err for another op or without room; ageing takes a dynamic entry. -/
def Obligations.TheForwardingTableIsReadWrittenAndAged : Prop :=
  ∀ (s : State) (route : Route) (data : Word) (slot : Fin 4160), s.quiet →
    let tab := s.eth.fdb
    let mac := s.get R.ETH_FDB_DATA0.mac + 2 ^ 32 * s.get R.ETH_FDB_DATA1.mac
    let vid := s.get R.ETH_FDB_DATA1.vid
    let port := s.get R.ETH_FDB_DATA1.port
    let key := fun (e : FdbEnt) => e.mac = mac ∧ e.vid = vid
    let idx := fieldGet 0 13 data
    let takes := fun (k : Nat) => ∀ e ∈ tab, e.slot ≠ k
    let b := 4 * s.fdbBucket mac vid
    let places := (List.range 4).map (b + ·) ++ (List.range 64).map (4096 + ·)
    let free := fun (k : Nat) => ∃ l m, places = l ++ k :: m ∧ takes k ∧ ∀ j ∈ l, ¬takes j
    let used := fun (t : State) => t.get R.ETH_BR_STAT.fdb_used = (t.eth.fdb.filter (fun e => decide (e.slot < 4096))).length % 2 ^ 13
      ∧ t.get R.ETH_BR_STAT.cam_used = (t.eth.fdb.filter (fun e => decide (4096 ≤ e.slot))).length % 2 ^ 7
    let does := fun (i : Instr) (op : Nat) (rs : List Nat) (l : List FdbEnt) (P : State → Prop) => ∃ t, exec i s = .next t
      ∧ Only [.eth, .hif] (R.ETH_FDB_CMD.reg :: rs) s t ∧ t.eth = { s.eth with fdb := l }
      ∧ t.hif = s.journalled route 0 R.ETH_FDB_CMD.reg (fdbWord data op) ∧ t.get R.ETH_FDB_CMD.op = op ∧ P t
    let stat := [R.ETH_BR_STAT.reg]
    let err := fun (v : Bool) (t : State) => t.flag R.ETH_FDB_CMD.err = v
    TakesWrite s route →
    (∀ e, tab.find? (fun x => x.slot == idx) = some e → does (.fdbReadSlot route data) 0 [R.ETH_FDB_DATA0.reg, R.ETH_FDB_DATA1.reg] tab
        (fun t => err false t ∧ t.flag R.ETH_FDB_CMD.valid = true ∧ t.flag R.ETH_FDB_CMD.static_ = e.fixed
          ∧ t.get R.ETH_FDB_DATA0.mac = e.mac % 2 ^ 32 ∧ t.get R.ETH_FDB_DATA1.mac = e.mac / 2 ^ 32 % 2 ^ 16
          ∧ t.get R.ETH_FDB_DATA1.vid = e.vid % 2 ^ 12 ∧ t.get R.ETH_FDB_DATA1.port = e.port % 8 ∧ t.get R.ETH_FDB_CMD.index = idx))
      ∧ (takes idx → does (.fdbReadSlot route data) 0 [] tab
        (fun t => err false t ∧ t.flag R.ETH_FDB_CMD.valid = false ∧ t.flag R.ETH_FDB_CMD.static_ = false))
      ∧ (∀ e, tab.find? (fun x => x.mac == mac && x.vid == vid) = some e → does (.fdbWriteStatic route data) 1 stat
        (tab.map (fun x => if x = e then { e with port := port, fixed := true } else x))
        (fun t => err false t ∧ used t ∧ t.get R.ETH_FDB_CMD.index = e.slot % 2 ^ 13))
      ∧ ((∀ e ∈ tab, ¬key e) → ∀ k, free k → does (.fdbWriteStatic route data) 1 stat (tab ++ [⟨k, mac, vid, port, true⟩])
        (fun t => err false t ∧ used t ∧ t.get R.ETH_FDB_CMD.index = k))
      ∧ ((∀ e ∈ tab, ¬key e) → (∀ k ∈ places, ¬takes k) → does (.fdbWriteStatic route data) 1 [] tab (err true))
      ∧ does (.fdbDelete route data) 2 stat (tab.filter (fun e => !(e.mac == mac && e.vid == vid))) (fun t => err false t ∧ used t)
      ∧ does (.fdbFlushPort route data) 3 stat (tab.filter (fun e => e.fixed || e.port != port)) (fun t => err false t ∧ used t)
      ∧ does (.fdbFlushDynamic route data) 4 stat (tab.filter (fun e => e.fixed)) (fun t => err false t ∧ used t)
      ∧ does (.fdbInvalidOp route data) (max 5 (fieldGet 13 3 data)) [] tab (err true)
      ∧ (s.get R.ETH_BR_CFG.age ≠ 0 → ∃ t, exec (.fdbAgeing slot) s = .next t ∧ Only [.eth] stat s t ∧ used t
        ∧ t.eth = { s.eth with fdb := tab.filter (fun e => e.fixed || e.slot != slot.val) })
      ∧ (s.get R.ETH_BR_CFG.age = 0 → ∃ t, exec (.fdbAgeing slot) s = .next t ∧ Only [] [] s t)

/-- R199, R210: a free port starts the head of its highest class that may start (a closed gate holds its class back), shortened to maxlen where
it is a forwarded frame, or else resumes what was preempted; a frame that is sent is counted and put out, and a stream frame is counted for its
context and path. -/
def Claim.TransmissionsStartInOrderAndAreCounted : Prop :=
  ∀ (s : State) (p : Fin 8) (ts : Nat) (k : Fin 8) (f : QFrame) (c : TxNow) (rest : List QFrame), s.quiet →
    let q := p.val
    let x := s.eport p
    let now := ts * 3 / 400000
    let fits := ∀ g, x.gate = some g → ∀ j, (h : j < 8) → ∀ f ∈ x.queues[j], wireFits s q f.bytes.length 24 (g.longest j) = true
    let free := s.flag (R.ETH_PSTAT.link q) = true ∧ x.tx = none ∧ s.flag (R.ETH_PSTAT.tx_lpi q) = false
    let preempts := x.held ≠ none ∧ s.get (R.ETH_PSTAT.pre_state q) = 2
    let express := fun (j : Nat) => 6 ≤ j ∨ (s.get (R.ETH_PREEMPT.express q)).testBit j = true
    let may := fun (j : Nat) (g : QFrame) => (preempts → express j) ∧ mayStart s q j g.bytes.length (gateLeft s x j now) = true
    let first := ∀ j, (h : j < 8) → k.val < j → ∀ g, (x.queues[j]).head? = some g → ¬may j g
    let others := fun (t : State) => (∀ j, j ≠ p → t.eport j = s.eport j) ∧ t.eth = { s.eth with port := t.eth.port }
    let long := s.maxlen q < f.bytes.length + 4
    let cut := { f with bytes := f.bytes.take (s.maxlen q - 4), stomp := true }
    let trunc := R.ETH_TX_TRUNC.count q
    let starts := fun (rs : List Nat) (g : QFrame) => ∃ t, exec (.ethTxStart p ts) s = .next t ∧ Only [.eth] rs s t ∧ others t
      ∧ t.eport p = { x with queues := x.queues.set k rest, tx := some ⟨k.val, g, s.nt16 + ts, 0⟩ }
      ∧ t.get trunc = (s.get trunc + if trunc.addr ∈ rs then 1 else 0) % 2 ^ 32
    let forwarded := ∃ a b c, f.src = .fwd a b c
    let n := c.f.bytes.length + 4
    let sent := fun (rs : List Nat) (P : State → Prop) => ∃ t, exec (.ethTxFrameSent p) s = .next t
      ∧ Only [.eth, .perf] ([R.ETH_TX_FRAMES.reg q, R.ETH_TX_BYTES.reg q] ++ rs) s t ∧ others t ∧ t.eport p = { x with tx := none }
      ∧ t.get (R.ETH_TX_FRAMES.count q) = (s.get (R.ETH_TX_FRAMES.count q) + 1) % 2 ^ 32
      ∧ t.get (R.ETH_TX_BYTES.count q) = (s.get (R.ETH_TX_BYTES.count q) + n) % 2 ^ 32
      ∧ t.perf = (s.bwAdd (8 + q) n).perf ∧ P t
    let puts := fun (t : State) => [Out.eth q c.f.bytes c.f.stomp] <+: t.out
    (free → fits → x.queues[k] = f :: rest → may k.val f → first → ptpAt f.bytes = none → (forwarded ∧ long → starts [trunc.addr] cut)
          ∧ (¬(forwarded ∧ long) → starts [] f))
      ∧ (∀ j f', x.gate = none → ¬preempts → may j f')
      ∧ (∀ g j f', x.gate = some g → g.isOpen x.gidx j = false → ¬may j f')
      ∧ (free → fits → (∀ j, (h : j < 8) → ∀ g, (x.queues[j]).head? = some g → ¬may j g) → x.held = some c →
          (∀ i, (h : i < 8) → express i → x.queues[i] ≠ [] → gateLeft s x i now = some 0) → gateLeft s x c.k now ≠ some 0 →
          ∃ t, exec (.ethTxStart p ts) s = .next t ∧ Only [.eth] [] s t ∧ others t
          ∧ t.eport p = { x with held := none, tx := some { c with start := s.nt16 + ts } })
      ∧ (¬free ∨ (∀ j, (h : j < 8) → x.queues[j] = []) ∧ x.held = none → ∃ t, exec (.ethTxStart p ts) s = .next t ∧ Only [] [] s t)
      ∧ (x.tx = some c → (∀ r, c.f.src ≠ .ring r) → (∀ a b m, c.f.src ≠ .stream a b m) → (∀ m, c.f.src ≠ .twin m) → sent [] puts)
      ∧ (∀ a b m, x.tx = some c → c.f.src = .stream a b m →
          let l := if b then R.SXE_EG_SENT_B.count a else R.SXE_EG_SENT_A.count a
          sent [l.addr] (fun t => puts t ∧ t.get l = (s.get l + 1) % 2 ^ 32))
      ∧ (∀ m, x.tx = some c → c.f.src = .twin m → sent [] (fun t => [Out.twin q c.f.bytes m] <+: t.out))
      ∧ (x.tx = none → ∃ t, exec (.ethTxFrameSent p) s = .next t ∧ Only [] [] s t)

/-- R210, R212: a transmit descriptor of a wrong length, or whose buffer no memory backs, ends with its error and the index moves on; a right one
takes its bytes, padded to 60, to the queue of its port and stays under way until its copy has left, when it ends with status 1; one
whose fetch the power arbiter holds waits (R346). -/
def Claim.TransmitDescriptorsAreTakenAndEnd : Prop :=
  ∀ (s : State) (mgp : Bool), s.quiet → s.fab.upsets = [] →
    let r : Fin 4 := if mgp then 3 else 1
    let x := s.ring r
    let n := min 4096 (s.get (R.ETH_LQ_CFG.len r.val))
    let e := s.get (R.ETH_LQ_IDX.eidx r.val)
    let desc := s.get (R.ETH_LQ_BASE.base r.val) + 2 ^ 32 * s.get (R.ETH_LQ_CFG.base_hi r.val) + 32 * e
    let ready := n ≠ 0 ∧ x.busy = false ∧ e ≠ s.get (R.ETH_LQ_IDX.sidx r.val)
    let w := fun (i : Nat) => s.memWord (desc + 4 * i)
    let buf := (w 0).toNat + 2 ^ 32 * fieldGet 0 8 (w 1)
    let p : Fin 8 := Fin.ofNat 8 (fieldGet 8 3 (w 1))
    let tc := fieldGet 12 3 (w 1)
    let len := fieldGet 0 17 (w 2)
    let plain := (w 1).getLsbD 11 = false ∧ (w 1).getLsbD 15 = false
    let fits := 14 ≤ len ∧ len + 4 ≤ s.maxlen p.val
    let b := s.memBytes buf len
    let f := QFrame.mk (b ++ List.replicate (60 - len) 0) (.ring r.val) false
    let parts := [Part.mem, .fab, .eth, .perf, .free]
    let idx := R.ETH_LQ_IDX.reg r.val
    let moves := fun (t : State) => t.get (R.ETH_LQ_IDX.eidx r.val) = (e + 1) % n
      ∧ t.get (R.ETH_LQ_IDX.sidx r.val) = s.get (R.ETH_LQ_IDX.sidx r.val)
    let ends := fun (err : Nat) => ∃ t, exec (.txRingDescriptor mgp) s = .next t ∧ Only parts (idx :: beatRegs) s t ∧ moves t
      ∧ t.memByte = putAt (desc + 28) (leBytes 4 (1 + 2 * err)) s.memByte ∧ t.eth.port = s.eth.port
    (ready → ringMay s 39 4 → s.backs desc 32 → plain → ¬fits → ends 1)
      ∧ (ready → ringMay s 39 4 → s.backs desc 32 → plain → fits → bufOk s buf len = false → ends 5)
      ∧ (ready → ringMay s 39 (len / 64 + 4) → s.backs desc 32 → plain → fits → s.backs buf len → bufOk s buf len = true → p.val < s.sys.fuses.ports →
          s.flag (R.ETH_PSTAT.link p.val) = true → s.isTwinPort p.val = false → qRoom s (s.eport p) tc f = true → ∃ t, exec (.txRingDescriptor mgp) s = .next t
          ∧ Only parts beatRegs s t ∧ SameMemory s t ∧ t.ring r = { x with busy := true, left := 1, err := 0 }
          ∧ t.eport p = { s.eport p with queues := (s.eport p).queues.set (Fin.ofNat 8 tc) ((s.eport p).queues[(Fin.ofNat 8 tc : Fin 8)] ++ [f]) }
          ∧ (∀ j, j ≠ p → t.eport j = s.eport j) ∧ (∀ j, j ≠ r → t.ring j = s.ring j) ∧ t.eth.fdb = s.eth.fdb)
      ∧ (ready → s.fab.ringWork = [] → s.powerHeld 39 = true → ∃ t, exec (.txRingDescriptor mgp) s = .next t
          ∧ Only [.fab, .eth] [R.FAB_SV_STALLED.reg 0, R.FAB_SV_STALLED.reg 1] s t ∧ t.fab.ringWork = [.tx r]
          ∧ t.ring r = { x with busy := true, left := 0, err := 0 } ∧ t.eth.port = s.eth.port)
      ∧ (¬ready → ∃ t, exec (.txRingDescriptor mgp) s = .next t ∧ Only [] [] s t)
      ∧ (∀ (o : Fin 8) (c : TxNow), (s.eport o).tx = some c → c.f.src = .ring r.val → x.busy = true → x.left = 1 → x.err = 0 → n ≠ 0 →
          ringMay s 39 2 → s.backs (desc + 28) 4 → ∃ t, exec (.ethTxFrameSent o) s = .next t
          ∧ Only parts ([R.ETH_TX_FRAMES.reg o.val, R.ETH_TX_BYTES.reg o.val, idx] ++ beatRegs) s t ∧ moves t
          ∧ t.ring r = { x with busy := false, left := 0, err := 0 } ∧ t.eport o = { s.eport o with tx := none }
          ∧ t.memByte = putAt (desc + 28) (leBytes 4 1) s.memByte ∧ [Out.eth o.val c.f.bytes c.f.stomp] <+: t.out)

/-- Transmissions start in order and are counted; transmit descriptors are taken and end. -/
def Obligations.FramesAreTransmittedInOrder : Prop := Claim.TransmissionsStartInOrderAndAreCounted ∧ Claim.TransmitDescriptorsAreTakenAndEnd

/-- R190, R191, R200 to R202, R209, R210: a runt, a frame with an FCS error and a control frame are discarded, each counted; any other is
counted; one for the port goes to the receive ring, its bytes, status and timestamp in memory; one for a known station goes to the queue of
its port, tagged as the VLAN asks, and its source is learnt. -/
def Obligations.ReceivedFramesAreCheckedDeliveredAndForwarded : Prop :=
  ∀ (s : State) (p : Fin 8) (b fcs : List Byte) (fcsOk : Bool) (corr uncorr ts : Nat), s.quiet → s.twinMode = false → s.fab.upsets = [] →
    p.val < s.sys.fuses.ports → s.flag (R.ETH_PSTAT.link p.val) = true → s.sys.state ≠ .standby → fcs.length = 4 →
    let q := p.val
    let i := Instr.ethFrameReceive p (b ++ fcs) fcsOk .frame corr uncorr ts
    let len := b.length + 4
    let fec := [R.ETH_RX_FEC_CORR.reg q, R.ETH_RX_FEC_UNCORR.reg q]
    let adds := fun (t : State) (l : Loc) (n : Nat) => t.get l = (s.get l + n) % 2 ^ 32
    let drops := fun (l : Loc) => ∃ t, exec i s = .next t ∧ Only [] (l.addr :: fec) s t ∧ adds t l 1
      ∧ adds t (R.ETH_RX_FEC_CORR.count q) corr ∧ adds t (R.ETH_RX_FEC_UNCORR.count q) uncorr
    let counts := [R.ETH_RX_FRAMES.reg q, R.ETH_RX_BYTES.reg q] ++ fec
    let takes := fun (ps : List Part) (rs : List Nat) (P : State → Prop) => ∃ t, exec i s = .next t
      ∧ Only (.perf :: ps) (counts ++ rs) s t ∧ adds t (R.ETH_RX_FRAMES.count q) 1 ∧ adds t (R.ETH_RX_BYTES.count q) len ∧ P t
    let h := ethHdr b
    let good := fcsOk = true ∧ uncorr = 0 ∧ 60 ≤ b.length ∧ len ≤ s.maxlen q ∧ h.etype ≠ 0x8808
    let bridged := s.flag (R.ETH_PCFG.bridge q) = true
    let pvid := s.get (R.ETH_PCFG.pvid q)
    let vid := match h.tag with | some (_, v) => if v = 0 then pvid else v | none => pvid
    let pcp := match h.tag with | some (c, _) => c | none => s.get (R.ETH_PCP_MAP.pcp_def q)
    let plain := s.sxe.run = false ∧ ptpAt b = none ∧ h.etype ≠ 0x88CC ∧ inbandTakes s q b h = false
    let n := min 4096 (s.get (R.ETH_LQ_CFG.len 0))
    let e := s.get (R.ETH_LQ_IDX.eidx 0)
    let desc := s.get (R.ETH_LQ_BASE.base 0) + 2 ^ 32 * s.get (R.ETH_LQ_CFG.base_hi 0) + 32 * e
    let room := n ≠ 0 ∧ (e + 1) % n ≠ s.get (R.ETH_LQ_IDX.sidx 0)
    let buf := leNat (s.memBytes desc 5)
    let size := leNat (s.memBytes (desc + 5) 2)
    let time := s.nt16 + ts
    let words := [b.length % 2 ^ 14 + q * 2 ^ 14 + (if h.tag.isSome then 2 ^ 20 else 0) + pcp * 2 ^ 21, s.pnl, time / 65536, time % 65536 + vid * 65536]
    let status := words.flatMap (leBytes 4)
    let dst := s.eth.fdb.find? (fun x => x.mac == h.da && x.vid == vid)
    let tc := s.get (R.ETH_PCP_MAP.map q) / 8 ^ pcp % 8
    let tags := s.get (R.ETH_VLAN.untag vid)
    (b.length < 60 → drops (R.ETH_RX_RUNT.count q))
      ∧ (60 ≤ b.length → fcsOk = false ∨ uncorr ≠ 0 → ¬bridged → drops (R.ETH_RX_FCS_ERR.count q))
      ∧ (60 ≤ b.length → fcsOk = true → uncorr = 0 → h.etype = 0x8808 → drops (R.ETH_RX_CTRL.count q))
      ∧ (good → ¬bridged → acceptsDa s q h.da vid = false → takes [] [] (fun _ => True))
      ∧ (good → ¬bridged → acceptsDa s q h.da vid = true → plain → s.fab.ringWork = [] → ¬room →
          takes [.fab] [R.ETH_LQ_DROP.reg 0] (fun t => adds t (R.ETH_LQ_DROP.drops 0) 1))
      ∧ (good → ¬bridged → acceptsDa s q h.da vid = true → plain → ringMay s 39 (b.length / 64 + 6) → room → b.length ≤ size → s.backs desc 32 → s.backs buf b.length →
          takes [.mem, .fab, .eth, .free] (R.ETH_LQ_IDX.reg 0 :: beatRegs) (fun t => t.get (R.ETH_LQ_IDX.eidx 0) = (e + 1) % n
            ∧ t.get (R.ETH_LQ_IDX.sidx 0) = s.get (R.ETH_LQ_IDX.sidx 0)
            ∧ t.memByte = putAt (desc + 8) status (putAt buf b s.memByte)))
      ∧ (good → ¬bridged → acceptsDa s q h.da vid = true → plain → s.fab.ringWork = [] → room → s.powerHeld 39 = true →
          takes [.fab] [R.FAB_SV_STALLED.reg 0, R.FAB_SV_STALLED.reg 1] (fun t =>
            ∃ w2, t.fab.ringWork = [.rx 0 q b w2 ((words.drop 1).flatMap (leBytes 4)) s.sys.up]))
      ∧ (∀ x, good → bridged → s.flag (R.ETH_PCFG.ingress_filter q) = false → acceptsDa s q h.da vid = false → ptpAt b = none →
          macReserved h.da = false → h.da ≠ s.portMac q → macMulti h.da = false → s.strFind h.da vid = none → dst = some x → x.port < 8 →
          x.port ≠ q → s.brOut x.port = true →
          let f := QFrame.mk (b.take 12 ++ (if tags.testBit x.port then [] else beBytes 2 0x8100 ++ beBytes 2 (pcp * 8192 + vid))
            ++ b.drop (h.off - 2)) (.fwd (s.rxTime q ts) q none) false
          let o : Fin 8 := Fin.ofNat 8 x.port
          let y := s.eport o
          qRoom s y tc f = true → s.flag (R.ETH_PCFG.learn q) = false ∨ macMulti h.sa = true ∨ (∃ z, s.fdbFind h.sa vid = some z ∧ z.port = q) →
          takes [.eth] [] (fun t => t.eport o = { y with queues := y.queues.set (Fin.ofNat 8 tc) (y.queues[(Fin.ofNat 8 tc : Fin 8)] ++ [f]) }
            ∧ (∀ j, j ≠ o → t.eport j = s.eport j) ∧ t.eth.fdb = s.eth.fdb ∧ t.eth.ring = s.eth.ring))
      ∧ (∀ k x, good → bridged → s.flag (R.ETH_PCFG.ingress_filter q) = false → acceptsDa s q h.da vid = false → ptpAt b = none →
          macMulti h.da = false → s.strFind h.da vid = none → dst = some x → x.port = q → s.flag (R.ETH_PCFG.learn q) = true → macMulti h.sa = false → s.fdbFind h.sa vid = none →
          s.fdbFree h.sa vid = some k →
          takes [.eth] [R.ETH_BR_STAT.reg] (fun t => t.eth = { s.eth with fdb := s.eth.fdb ++ [⟨k, h.sa, vid, q, false⟩] }))
      ∧ (good → bridged → s.flag (R.ETH_PCFG.ingress_filter q) = true → (s.get (R.ETH_VLAN.member vid)).testBit q = false →
          takes [] [R.ETH_RX_VLAN_DROP.reg q] (fun t => adds t (R.ETH_RX_VLAN_DROP.count q) 1))

/-! ## Network time -/

/-- R250 to R252: the Sync of a master port, its Follow_Up with the egress time, the Delay_Resp, the slave port's Delay_Req and the
port's Pdelay_Req enter the port's highest queue, numbered, over the transport of the domain or port; without their ground nothing is sent. -/
def Claim.PtpMessagesAreSentNumbered : Prop :=
  ∀ (s : State) (d : Fin 2) (p : Fin 8), s.quiet →
    let x := s.pdom d
    let as_ := !s.flag (R.PTP_DOM_CFG.profile d.val)
    let num := s.get (R.PTP_DOM_CFG.dom_num d.val)
    let room := fun (q : Fin 8) => s.flag (R.ETH_PSTAT.link q.val) = true ∧ s.isTwinPort q.val = false ∧ qAll s + 2048 ≤ 524288
      ∧ qBytes (s.eport q) true + qBytes (s.eport q) false + 2048 ≤ 131072
    let carries := fun (q : Fin 8) (tr da pt : Nat) (m b : List Byte) =>
      (tr = 0 → b = padFrame (ethBuild da (s.portMac q.val) none 0x88F7 ++ m))
        ∧ (tr = 1 → ∃ src hop id, b = padFrame (ethBuild 0x01005E000181 (s.portMac q.val) none 0x0800
          ++ udpBuild false src 0xE0000181 pt pt hop 0 id false m))
        ∧ (tr = 2 → ∃ src hop, b = padFrame (ethBuild 0x333300000181 (s.portMac q.val) none 0x86DD
          ++ udpBuild true src 0xFF0E0000000000000000000000000181 pt pt hop 0 0 false (m ++ [0#8, 0#8])))
    let sends := fun (i : Instr) (q : Fin 8) (tr da pt : Nat) (m : List Byte) (src : FrameSrc) (P : State → Prop) => ∃ t b, exec i s = .next t
      ∧ Only [.ptp, .eth, .free] [] s t ∧ (∀ j, j ≠ q → t.eport j = s.eport j) ∧ carries q tr da pt m b
      ∧ t.eport q = { s.eport q with queues := (s.eport q).queues.set (7 : Fin 8) ((s.eport q).queues[(7 : Fin 8)] ++ [⟨b, src, false⟩]) } ∧ P t
    let tr := s.domTransport d.val
    let da := s.domDa d.val
    let dom := fun (y : PtpDom) (t : State) => t.ptp = { s.ptp with dom := s.ptp.dom.set d y }
    let port := fun (y : PtpPort) (t : State) => t.ptp = { s.ptp with port := s.ptp.port.set p y }
    let nothing := fun (i : Instr) => ∃ t, exec i s = .next t ∧ Only [] [] s t
    let seq := ((assocGet p.val x.syncSeq).getD 65535 + 1) % 65536
    let syncs := (s.sys.state = .prepare ∨ s.sys.state.isRun = true ∨ s.sys.state = .safe) ∧ s.domOn d.val = true ∧ p.val < s.sys.fuses.ports
      ∧ s.portState d.val p.val = 2
    let word := fun (k : Nat) => (s.reg (R.PTP_DOM_AS.reg d.val k)).toNat
    let tlv := if as_ then beBytes 2 3 ++ beBytes 2 28 ++ beBytes 3 0x0080C2 ++ beBytes 3 1 ++ beBytes 4 (s.get (R.PTP_DOM_RATIO.ratio d.val))
      ++ beBytes 2 (word 0) ++ beBytes 4 (word 1) ++ beBytes 4 (word 2) ++ beBytes 4 (word 3) ++ beBytes 4 (word 4) else []
    let asks := s.domOn d.val = true ∧ s.domP2p d.val = false
    let peers := p.val < s.sys.fuses.ports ∧ s.flag (R.PTP_PORT_CFG.pdelay_en p.val) = true
    (syncs → room p → sends (.syncTx d p) p tr da 319
        (msgHead as_ 0 44 num (if s.flag (R.PTP_DOM_CFG.one_step d.val) then 8 else 0x208) 0 (s.portId p.val) seq 0 (s.syncLog d.val) ++ beBytes 10 0)
        (.sync d.val) (dom { x with syncSeq := assocSet p.val seq x.syncSeq }))
      ∧ (¬syncs → nothing (.syncTx d p))
      ∧ (∀ n t1, x.fu.find? (fun f => f.1 == p.val) = some (p.val, n, t1) → room p → sends (.followUpTx d p) p tr da 320
        (msgHead as_ 8 (44 + tlv.length) num 8 (t1 % 65536) (s.portId p.val) n 2 (s.syncLog d.val) ++ stampBytes t1 ++ tlv) .own
        (dom { x with fu := x.fu.filter (fun f => !(f.1 == p.val && f.2.1 == n)) }))
      ∧ ((∀ f ∈ x.fu, f.1 ≠ p.val) → nothing (.followUpTx d p))
      ∧ (∀ a rest, x.asks = a :: rest → a.port = p.val → room p → sends (.delayRespTx d) p tr da 320
        (msgHead as_ 9 54 num 8 (a.corr - a.t4 % 65536) (s.portId p.val) a.seq 3 (s.dreqLog d.val) ++ stampBytes a.t4 ++ beBytes 10 a.src) .own
        (dom { x with asks := rest }))
      ∧ (x.asks = [] → nothing (.delayRespTx d))
      ∧ (asks → s.slavePort d.val = some p.val → room p → sends (.delayReqTx d) p tr da 319
        (msgHead false 1 44 num 8 0 (s.portId p.val) ((x.dreqSeq + 1) % 65536) 1 0x7F ++ beBytes 10 0) (.delayReq d.val)
        (dom { x with dreqSeq := (x.dreqSeq + 1) % 65536, dreq := none }))
      ∧ (s.slavePort d.val = none ∨ ¬asks → nothing (.delayReqTx d))
      ∧ (peers → room p →
        let y := s.pport p
        let n := (y.seq + 1) % 65536
        sends (.pdelayReqTx p) p (s.portTransport p.val) 0x0180C200000E 319
          (msgHead (s.portTransport p.val == 0) 2 54 (s.get (R.PTP_PORT_CFG.pdelay_dom p.val)) 8 0 (s.portId p.val) n 5 0x7F ++ beBytes 20 0)
          .pdelayReq (port { y with seq := n, req := none, resp := none }))
      ∧ (¬peers → nothing (.pdelayReqTx p))

/-- R246, R250: when a two-step Sync starts, its egress time, at the balls, waits for its Follow_Up; a one-step Sync carries it, truncated to
nanoseconds with the rest in the correction; either is counted. -/
def Claim.SyncsAreStampedAsTheyStart : Prop :=
  ∀ (s : State) (d : Fin 2) (p : Fin 8) (ts : Nat) (f : QFrame) (rest : List QFrame) (a : PtpAt), s.quiet →
    let x := s.eport p
    let m := f.bytes.drop a.off
    let t1 : Int := s.nt16 + ts + (s.get (R.PTP_PORT_LAT.tx p.val) + s.getS (R.PTP_PORT_FIX.tx_fix p.val)) * 256
    let two := msgTwoStep m
    let marked := fput (fput f.bytes (a.off + 34) (stampBytes t1)) (a.off + 8) (corrBytes (msgCorr m + t1 % 65536))
    let g := if two then f else { f with bytes := udpMend marked a }
    let y := s.pdom d
    let y' := if two then { y with fu := y.fu ++ [(p.val, msgSeq m, t1)] } else y
    s.flag (R.ETH_PSTAT.link p.val) = true → x.tx = none → s.flag (R.ETH_PSTAT.tx_lpi p.val) = false → x.gate = none → x.held = none →
    x.queues[(7 : Fin 8)] = f :: rest → f.src = .sync d.val → ptpAt f.bytes = some a → s.flag R.PTP_CTRL.log_en = false →
    ∃ t, exec (.ethTxStart p ts) s = .next t ∧ Only [.eth, .ptp] [R.PTP_DOM_SYNC_TX.reg d.val] s t
      ∧ t.get (R.PTP_DOM_SYNC_TX.count d.val) = (s.get (R.PTP_DOM_SYNC_TX.count d.val) + 1) % 2 ^ 32
      ∧ (∀ j, j ≠ p → t.eport j = s.eport j) ∧ t.eport p = { x with queues := x.queues.set (7 : Fin 8) rest, tx := some ⟨7, g, s.nt16 + ts, 0⟩ }
      ∧ t.ptp = { s.ptp with dom := s.ptp.dom.set d y' }

/-- Network-time messages enter their queue numbered, and a Sync is stamped as it starts. -/
def Obligations.PtpMessagesAreSentAndStamped : Prop := Claim.PtpMessagesAreSentNumbered ∧ Claim.SyncsAreStampedAsTheyStart

/-- R251, R252, R254, R255: a two-step Sync without its Follow_Up is discarded and counted; the third link delay lost in a row makes the link delay
invalid; a domain without samples is invalid, and inactive as a reference of Kiln; a servo reset clears the servo, and a new parent is taken with one. -/
def Claim.TimeoutsAndResetsOfNetworkTime : Prop :=
  ∀ (s : State) (route : Route) (d : Fin 2) (p : Fin 8) (data : Word), s.quiet →
    let x := s.pdom d
    let y := s.pport p
    let stat := R.PTP_DOM_STAT.reg d.val
    let lds := R.PTP_PORT_LDSTAT.reg p.val
    let valid := R.PTP_DOM_STAT.valid d.val
    let nofu := R.PTP_DOM_NOFU.count d.val
    let ref := R.KILN_REF_STAT.reg d.val
    let id := (s.reg (R.PTP_DOM_PARENT_LO.reg d.val)).toNat + 2 ^ 32 * (s.reg (R.PTP_DOM_PARENT_HI.reg d.val)).toNat
    let dom := fun (z : PtpDom) (t : State) => t.ptp = { s.ptp with dom := s.ptp.dom.set d z }
    let clears := fun (t : State) => t.flag (R.PTP_DOM_STAT.mpd_ok d.val) = false ∧ t.get (R.PTP_DOM_STAT.acc d.val) = 0 ∧ t.flag valid = false
    let resets := fun (i : Instr) (a : Nat) (v : Word) (rs : List Nat) (z : PtpDom) => ∃ t, exec i s = .next t
      ∧ Only [.ptp, .hif] (stat :: rs) s t ∧ t.hif = s.journalled route 0 a v ∧ dom z t ∧ clears t
      ∧ ∀ b ∈ rs, t.get ⟨b, 0, 16⟩ = v.toNat % 65536
    let follows := s.flag (R.KILN_REF_CFG.en d.val) = true ∧ s.flag (R.KILN_REF_STAT.active d.val) = true
    (∀ w rest, x.wait = w :: rest → ∃ t, exec (.nofuTimeout d) s = .next t ∧ Only [.ptp] [nofu.addr] s t
        ∧ dom { x with wait := rest } t ∧ t.get nofu = (s.get nofu + 1) % 2 ^ 32)
      ∧ (x.wait = [] → ∃ t, exec (.nofuTimeout d) s = .next t ∧ Only [] [] s t)
      ∧ (s.flag (R.PTP_PORT_CFG.pdelay_en p.val) = true → ∃ t, exec (.pdelayLost p) s = .next t ∧ Only [.ptp] [lds] s t
        ∧ t.ptp = { s.ptp with port := s.ptp.port.set p { y with req := none, resp := none, losses := min (y.losses + 1) 3 } }
        ∧ t.get (R.PTP_PORT_LDSTAT.lost p.val) = (s.get (R.PTP_PORT_LDSTAT.lost p.val) + 1) % 2 ^ (R.PTP_PORT_LDSTAT.lost p.val).w
        ∧ t.flag (R.PTP_PORT_LDSTAT.ld_valid p.val) = (decide (y.losses < 2) && s.flag (R.PTP_PORT_LDSTAT.ld_valid p.val)))
      ∧ (s.flag (R.PTP_PORT_CFG.pdelay_en p.val) = false → ∃ t, exec (.pdelayLost p) s = .next t ∧ Only [] [] s t)
      ∧ (¬follows → ∃ t, exec (.domainValidTimeout d) s = .next t ∧ Only [] [stat] s t ∧ t.reg stat = fieldPut valid.lo 1 (s.reg stat) 0)
      ∧ (follows → ∃ t, exec (.domainValidTimeout d) s = .next t
        ∧ Only [.kiln, .flt] ([stat, ref, R.KILN_STAT.reg, R.KILN_EVT.reg] ++ lostRegs) s t
        ∧ t.reg stat = fieldPut valid.lo 1 (s.reg stat) 0 ∧ t.flag (R.KILN_REF_STAT.active d.val) = false
        ∧ t.get (R.KILN_REF_STAT.qual d.val) = 0
        ∧ t.flag (R.KILN_REF_STAT.disq_evt d.val) = (s.flag (R.KILN_REF_STAT.disq_evt d.val) || s.get (R.KILN_REF_STAT.qual d.val) == 2)
        ∧ t.kiln = { s.kiln with ref := s.kiln.ref.set (Fin.ofNat 14 d.val) { s.kref d.val with t := 0 }, next := chooseBoth t })
      ∧ (TakesWrite s route → s.flag (R.KILN_REF_CFG.en d.val) = false →
        resets (.servoResetCmd route d data) (R.PTP_DOM_CMD.reg d.val) (data ||| 1#32) [] { x with rej := 0, hist := [], fresh := false }
          ∧ resets (.parentPortWrite route d data) (R.PTP_DOM_PARENT_PORT.reg d.val) data [R.PTP_DOM_PARENT_PORT.reg d.val]
            { x with rej := 0, hist := [], fresh := false, parent := (id, data.toNat % 65536) })

/-- R256, R257: when e of the domain that Kiln follows in phase has stayed beyond set_thr for step_hold seconds, after the first take, a time
set is requested with step_en, and without it beyond is set and class 1 raised; else nothing happens. -/
def Claim.LastingStepsAreTakenOrReported : Prop :=
  ∀ (s : State) (d : Fin 2), s.quiet →
    let far := s.ptp.taken = true ∧ s.get R.KILN_STAT.sel = d.val
      ∧ max 1 (s.get (R.PTP_DOM_STEP.set_thr d.val)) * 65536000 < (s.pdom d).eLast.natAbs
    let stat := R.PTP_STAT.reg
    (far → s.flag (R.PTP_DOM_CFG.step_en d.val) = true → ∃ t, exec (.ptpStepHoldExpiry d) s = .next t ∧ Only [.ptp, .kiln] [stat] s t
        ∧ t.reg stat = fieldPut R.PTP_STAT.set_pending.lo 1 (s.reg stat) 1 ∧ t.ptp = { s.ptp with want := some d.val }
        ∧ t.kiln = { s.kiln with req := some (s.kiln.req.getD 0) })
      ∧ (far → s.flag (R.PTP_DOM_CFG.step_en d.val) = false → ∃ t, exec (.ptpStepHoldExpiry d) s = .next t ∧ Only [.flt] (stat :: lostRegs) s t
        ∧ t.reg stat = fieldPut R.PTP_STAT.beyond.lo 1 (s.reg stat) 1 ∧ t.flt.queue = s.queueWith 1 2 3 d.val)
      ∧ (¬far → ∃ t, exec (.ptpStepHoldExpiry d) s = .next t ∧ Only [] [] s t)

/-- Timeouts, servo resets and lasting steps of network time. -/
def Obligations.NetworkTimeTimesOutResetsAndSteps : Prop := Claim.TimeoutsAndResetsOfNetworkTime ∧ Claim.LastingStepsAreTakenOrReported

/-! ## Kiln -/

/-- R263 to R265, R270, R273, R280: a measurement of an enabled reference makes it active, shows its offset, and moves its qualification: an offset beyond
the reject limit disqualifies, one within the accept limit adds its interval to the hold time, one between starts it again. A PTP reference is measured
once at each sample its servo accepts, by the slope of its last samples; the phase error of the reference selected is shown, a PPS's within half a second;
the loop that follows the reference asks for a frequency; the time for which the condition of lock has held is watched; a word clock beyond 1,000 ppm
unlocks the synthesisers that follow it. -/
def Claim.MeasurementsQualifyReferences : Prop :=
  ∀ (s : State) (i : Fin 14) (f ph : Word) (dt : Nat), s.quiet →
    let there := (2 ≤ i.val → i.val ≤ 9 → i.val - 2 < s.sys.fuses.ports) ∧ s.flag (R.KILN_REF_CFG.en i.val) = true
      ∧ (i.val ≤ 1 → s.flag (R.PTP_DOM_STAT.valid i.val) = true)
      ∧ (2 ≤ i.val → i.val ≤ 9 → s.flag (R.ETH_PSTAT.link (i.val - 2)) = true)
    let limit := fun (n : Nat) => 100 * max 1 (min 10000 n)
    let lr := limit (s.get (R.KILN_REF_LIM.reject i.val))
    let la := min (limit (s.get (R.KILN_REF_LIM.accept i.val))) lr
    let hold := 100 * max 1 (min 6000 (s.get (R.KILN_REF_HOLD.hold i.val)))
    let k := s.kiln
    let q := s.get (R.KILN_REF_STAT.qual i.val)
    let st := s.get R.KILN_STAT.state
    let sel := s.get R.KILN_STAT.sel
    let r := s.rateRef
    let follows := (st = 1 ∨ st = 2) ∧ (i.val = sel ∨ i.val = r)
    let evt := R.KILN_REF_STAT.disq_evt i.val
    let p := s.refPhase i.val ph.toInt
    let loop := fun (t : State) => (follows → t.free = s.free + 1 ∧ t.kiln.loop = s.loopTerm ∧ t.kiln.loopUp = s.sys.up
        ∧ t.kiln.goal = Config.kilnLoop s.free (s.kilnBw r) (t.kref r).f
            (if s.carriesPhase sel = true then some (s.kilnBw sel, t.getS R.KILN_PHERR.value) else none) s.loopTerm)
      ∧ (¬follows → t.free = s.free ∧ t.kiln = { k with ref := t.kiln.ref, next := t.kiln.next, okUp := t.kiln.okUp })
    let becomes := fun (ps : List Part) (rs : List Nat) (x : Int) (q' t' : Nat) (P : State → Prop) => ∃ t, exec (.refMeasurement i f dt ph) s = .next t
      ∧ Only ([.kiln, .flt, .free] ++ ps) ([R.KILN_REF_STAT.reg i.val, R.KILN_REF_FREQ.reg i.val, R.KILN_PHERR.reg, R.KILN_STAT.reg,
          R.KILN_EVT.reg] ++ lostRegs ++ rs) s t
      ∧ t.kiln = { k with
          ref := k.ref.set i ⟨x, t', p⟩, next := chooseBoth t, okUp := if st = 1 ∧ t.lockOk = true then some (k.okUp.getD s.sys.up) else none
          loop := t.kiln.loop, loopUp := t.kiln.loopUp, goal := t.kiln.goal, segs := t.kiln.segs, segUp := t.kiln.segUp }
      ∧ loop t ∧ t.flag (R.KILN_REF_STAT.active i.val) = true ∧ t.get (R.KILN_REF_STAT.qual i.val) = q'
      ∧ t.flag evt = (s.flag evt || decide (q = 2 ∧ q' ≠ 2)) ∧ t.reg (R.KILN_REF_FREQ.reg i.val) = BitVec.ofInt 32 x
      ∧ t.reg R.KILN_PHERR.reg = (if sel = i.val then BitVec.ofInt 32 p else s.reg R.KILN_PHERR.reg)
      ∧ t.get R.KILN_STAT.state = st ∧ t.get R.KILN_STAT.sel = sel ∧ P t
    let measured := fun (ps : List Part) (rs : List Nat) (x : Int) (ms : Nat) (P : State → Prop) =>
      let off := x.natAbs
      let n := ((s.kref i.val).t + ms) % 2 ^ 32
      (lr < off → becomes ps rs x 0 0 P) ∧ (off ≤ lr → q = 2 → becomes ps rs x 2 (s.kref i.val).t P)
        ∧ (la < off → off ≤ lr → q ≠ 2 → becomes ps rs x 0 0 P) ∧ (off ≤ la → q ≠ 2 → becomes ps rs x (if hold ≤ n then 2 else 1) n P)
    let nothing := ∃ t, exec (.refMeasurement i f dt ph) s = .next t ∧ Only [] [] s t
    let far := (i.val = 10 ∨ i.val = 11) ∧ 1000000 < f.toInt.natAbs
    let bridges := (List.range 2).map R.XIO_DOM.reg ++ (List.range 256).flatMap (fun b => [R.XIO_BR_STAT.reg b, R.XIO_BR_GD.reg b])
    (there → 2 ≤ i.val → ¬far → measured [] [] f.toInt dt (fun _ => True))
      ∧ (there → far → (∀ x ∈ s.xio.bridges, x.b < 256) → measured [.xio] bridges f.toInt dt
          (fun t => ∀ d : Fin 2, s.get (R.XIO_DOM.src d.val) + 9 = i.val → t.flag (R.XIO_DOM.locked d.val) = false))
      ∧ (∀ h : i.val < 2, there →
          let x := s.ptp.dom[i.val]'h
          let ms := match x.hist with | a :: b :: _ => ((a.1 - b.1) / 65536000000).toNat | _ => 0
          p = satS 32 ((x.eLast + 32768) / 65536)
            ∧ (x.fresh = true → measured [.ptp] [] (satS 32 (slopePpb x.hist)) ms
                (fun t => t.ptp = { s.ptp with dom := s.ptp.dom.set i.val { x with fresh := false } h }))
            ∧ (x.fresh = false → nothing))
      ∧ (¬there → nothing) ∧ (i.val = 13 → (p - ph.toInt) % 1000000000 = 0 ∧ 2 * p.natAbs ≤ 1000000000)

/-- R264, R265, R280: a reference that times out, and one whose registers are written, is disqualified: its hold time starts again; leaving
qualified sets disq_evt. The synthesisers that follow a word clock unlock with its loss. A reference that is disabled is inactive; a PTP domain that is valid and a port whose link is up are active once enabled. -/
def Claim.ReferencesAreLostAndReconfigured : Prop :=
  ∀ (s : State) (route : Route) (i : Fin 14) (data : Word), s.quiet →
    let isThere := (2 ≤ i.val → i.val ≤ 9 → i.val - 2 < s.sys.fuses.ports)
    let active := R.KILN_REF_STAT.active i.val
    let q := s.get (R.KILN_REF_STAT.qual i.val)
    let evt := fun (k : Nat) => R.KILN_REF_STAT.disq_evt k
    let restart := fun (k : Nat) (t : State) =>
      t.kiln = { s.kiln with ref := s.kiln.ref.set (Fin.ofNat 14 k) { s.kref k with t := 0 }, next := chooseBoth t }
        ∧ t.get (R.KILN_REF_STAT.qual k) = 0 ∧ t.flag (evt k) = (s.flag (evt k) || s.get (R.KILN_REF_STAT.qual k) == 2)
    let regs := fun (k : Nat) => [R.KILN_REF_STAT.reg k, R.KILN_STAT.reg, R.KILN_EVT.reg] ++ lostRegs
    let held := i.val ≤ 1 ∧ s.flag (R.PTP_DOM_STAT.valid i.val) = true
      ∨ 2 ≤ i.val ∧ i.val ≤ 9 ∧ s.flag (R.ETH_PSTAT.link (i.val - 2)) = true
    let times := isThere ∧ ¬held ∧ s.flag active = true
    let limit := fun (n : Nat) => 100 * max 1 (min 10000 n)
    let lr := limit (s.get (R.KILN_REF_LIM.reject i.val))
    let la := min (limit (s.get (R.KILN_REF_LIM.accept i.val))) lr
    let hold := 100 * max 1 (min 6000 (s.get (R.KILN_REF_HOLD.hold i.val)))
    let off := (s.kref i.val).f.natAbs
    let writes := fun (k : Fin 4) (a n : Nat) (P : State → Prop) => ∃ t, exec (.kilnRefConfigWrite route i k data) s = .next t
      ∧ Only [.kiln, .flt, .hif] (a :: regs n) s t ∧ t.hif = s.journalled route 0 a data ∧ P t
    let same := fieldGet 6 3 data = s.get (R.KILN_REF_CFG.rate i.val)
    let cfg := R.KILN_REF_CFG.reg i.val
    let stored := fun (t : State) => t.reg cfg = fieldPut 0 9 (s.reg cfg) (fieldGet 0 9 data)
    let wck := i.val = 10 ∨ i.val = 11
    let bridges := (List.range 2).map R.XIO_DOM.reg ++ (List.range 256).flatMap (fun b => [R.XIO_BR_STAT.reg b, R.XIO_BR_GD.reg b])
    let unlocks := fun (t : State) => ∀ d : Fin 2, s.get (R.XIO_DOM.src d.val) + 9 = i.val → t.flag (R.XIO_DOM.locked d.val) = false
    (times → ¬wck → ∃ t, exec (.refActivityLoss i) s = .next t ∧ Only [.kiln, .flt] (regs i.val) s t ∧ restart i.val t ∧ t.flag active = false)
      ∧ (times → wck → (∀ x ∈ s.xio.bridges, x.b < 256) → ∃ t, exec (.refActivityLoss i) s = .next t ∧ Only [.kiln, .flt, .xio] (regs i.val ++ bridges) s t ∧ restart i.val t
        ∧ t.flag active = false ∧ unlocks t)
      ∧ (¬times → ¬wck → ∃ t, exec (.refActivityLoss i) s = .next t ∧ Only [] [] s t)
      ∧ (¬times → wck → (∀ x ∈ s.xio.bridges, x.b < 256) → ∃ t, exec (.refActivityLoss i) s = .next t ∧ Only [.xio, .flt] (bridges ++ lostRegs) s t ∧ unlocks t)
      ∧ (TakesWrite s route → isThere →
        writes 1 (R.KILN_REF_LIM.reg i.val) i.val (fun t => restart i.val t ∧ t.get (R.KILN_REF_LIM.accept i.val) = fieldGet 0 14 data
            ∧ t.get (R.KILN_REF_LIM.reject i.val) = fieldGet 16 14 data ∧ t.flag active = s.flag active)
          ∧ writes 2 (R.KILN_REF_HOLD.reg i.val) i.val (fun t => restart i.val t ∧ t.get (R.KILN_REF_HOLD.hold i.val) = fieldGet 0 13 data
            ∧ t.flag active = s.flag active)
          ∧ writes 3 R.KILN_FREF_NOM.reg 12 (fun t => restart 12 t ∧ t.get R.KILN_FREF_NOM.nom = fieldGet 0 27 data)
          ∧ (data.getLsbD 0 = false → writes 0 cfg i.val (fun t => stored t ∧ restart i.val t ∧ t.flag active = false))
          ∧ (data.getLsbD 0 = true → ¬same → s.flag active = decide held ∨ 10 ≤ i.val →
            writes 0 cfg i.val (fun t => stored t ∧ restart i.val t ∧ t.flag active = s.flag active))
          ∧ (data.getLsbD 0 = true → same → s.flag active = decide held ∨ 10 ≤ i.val → writes 0 cfg i.val (fun t => stored t ∧ t.kiln = s.kiln
            ∧ t.reg (R.KILN_REF_STAT.reg i.val) = s.reg (R.KILN_REF_STAT.reg i.val)))
          ∧ (data.getLsbD 0 = true → same → s.flag active = false → held → writes 0 cfg i.val (fun t => stored t ∧ t.flag active = true
            ∧ (la < off → q ≠ 2 ∨ lr < off → t.get (R.KILN_REF_STAT.qual i.val) = 0)
            ∧ (off ≤ la → q ≠ 2 → t.get (R.KILN_REF_STAT.qual i.val) = if hold ≤ (s.kref i.val).t % 2 ^ 32 then 2 else 1)
            ∧ (off ≤ lr → q = 2 → t.get (R.KILN_REF_STAT.qual i.val) = 2))))

/-- A reference qualifies by its measurements, and is lost and reset by what disqualifies it. -/
def Obligations.ReferencesQualifyAreLostAndReconfigured : Prop := Claim.MeasurementsQualifyReferences ∧ Claim.ReferencesAreLostAndReconfigured

/-- R265, R267: the choice for a role is a qualified reference of the lowest rank among those qualified for it, or none where none is; the one selected
stays while it may and none of its rank that disagrees with it has more votes. -/
def Claim.TheChoiceHasTheBestRank : Prop :=
  ∀ (s : State) (q c : List Nat) (cur : Nat),
    let rank := fun (i : Nat) => s.get (R.KILN_REF_CFG.rank i)
    let x := choose s q c cur
    (c = [] → x = 15)
      ∧ (c ≠ [] → x ∈ c ∧ ∀ i ∈ c, rank x ≤ rank i)
      ∧ (cur ∈ c → (∀ i ∈ c, rank cur ≤ rank i) →
          (∀ i ∈ c, rank i = rank cur → disagree s i cur = true → votes s q i ≤ votes s q cur) → x = cur)
      ∧ (∀ i ∈ c, i ≠ cur → rank i = rank cur → (∀ j ∈ c, rank cur ≤ rank j) → cur ∈ c → disagree s i cur = true →
          votes s q cur < votes s q i → x ≠ cur ∧ disagree s x cur = true ∧ votes s q i ≤ votes s q x)

/-- R272 to R276, R278: lock is declared after lock_hold seconds of its condition, freerun returned to lock_hold seconds after a set with nothing
selected, and holdover expired after ho_max seconds, each for the next boundary; a slew that completes leaves nothing pending; a phase step and a
re-alignment, one at a time, fall due at the second boundary; a slew rate of 0 turns what is pending into a time-set request. -/
def Claim.TheLoopLocksSlewsAndSteps : Prop :=
  ∀ (s : State) (route : Route) (data : Word), s.quiet →
    let k := s.kiln
    let st := s.get R.KILN_STAT.state
    let sel := s.get R.KILN_STAT.sel
    let selected := sel ≠ 15 ∨ s.get R.KILN_STAT.fsel ≠ 15
    let moved := fun (rate : Nat) => ((rate * (s.sys.up - k.pendUp) / 3000 : Nat) : Int)
    let pend := fun (rate : Nat) => if 0 ≤ k.pend then max 0 (k.pend - moved rate) else min 0 (k.pend + moved rate)
    let old := s.get R.KILN_SLEW_MAX.slew
    let passed := fun (n u : Nat) => max 1 n * 1966080000 ≤ s.sys.up - u
    let inPhase := (s.getS R.KILN_PHERR.value).natAbs ≤ max 1 (s.get R.KILN_LOCK.lock_win) ∧ pend old = 0 ∧ (1 < sel ∨ s.ptp.taken = true)
    let inRate := (s.loopPpb - (s.kref s.rateRef).f).natAbs ≤ 10
    let locks := st = 1 ∧ k.req = none ∧ selected ∧ (if s.carriesPhase sel = true then inPhase else inRate)
      ∧ ∃ u, k.okUp = some u ∧ passed (s.get R.KILN_LOCK.lock_hold) u
    let frees := st = 1 ∧ k.req = none ∧ k.setAlone = true ∧ ¬selected ∧ passed (s.get R.KILN_LOCK.lock_hold) k.setUp
    let expires := st = 3 ∧ s.get R.KILN_HOLDOVER.ho_max ≠ 0 ∧ passed (s.get R.KILN_HOLDOVER.ho_max) k.hoUp
    let does := fun (i : Instr) (c : Prop) (k' : KilnS) =>
      (c → ∃ t, exec i s = .next t ∧ Only [.kiln] [] s t ∧ t.kiln = k') ∧ (¬c → ∃ t, exec i s = .next t ∧ Only [] [] s t)
    let step := sx 48 (k.stepLo.toNat + 2 ^ 32 * (data.toNat % 65536))
    let writes := fun (i : Instr) (a : Nat) (ps : List Part) (rs : List Nat) (P : State → Prop) => ∃ t, exec i s = .next t
      ∧ Only (.hif :: ps) rs s t ∧ t.hif = s.journalled route 0 a data ∧ P t
    let due := fun (x : Action) (t : State) => t.sys = { s.sys with sched := s.sys.sched ++ [(2, x)] }
    let now := data.toNat % 65536
    let v := pend old
    let aligns := data.getLsbD 0 = true ∧ s.flag R.KILN_ALIGN.go = false
    does .lockDeclare locks { k with lockDue := true } ∧ does .freerunReturn frees { k with freeDue := true }
      ∧ does .holdoverExpiry expires { k with expired := true }
      ∧ (old ≠ 0 → ∃ t, exec .slewComplete s = .next t ∧ Only [.kiln] [] s t ∧ t.kiln = { k with
          pend := 0, pendUp := s.sys.up, okUp := if st = 1 ∧ t.lockOk = true then some (k.okUp.getD s.sys.up) else none })
      ∧ (old = 0 → ∃ t, exec .slewComplete s = .next t ∧ Only [] [] s t)
      ∧ (TakesWrite s route → s.twinMode = false →
        writes (.kilnPhaseStepWrite route data) R.KILN_PHASE_STEP_HI.reg [.sys] [] (due (.phaseStep step))
          ∧ (aligns → writes (.kilnAlignCmd route data) R.KILN_ALIGN.reg [.sys] [R.KILN_ALIGN.reg]
            (fun t => due .kilnAlign t ∧ t.flag R.KILN_ALIGN.go = true))
          ∧ (¬aligns → writes (.kilnAlignCmd route data) R.KILN_ALIGN.reg [] [] (fun _ => True)))
      ∧ (TakesWrite s route → writes (.kilnSlewMaxWrite route data) R.KILN_SLEW_MAX.reg [.kiln] [R.KILN_SLEW_MAX.reg]
          (fun t => t.get R.KILN_SLEW_MAX.slew = now
            ∧ t.kiln = { k with pend := v, pendUp := s.sys.up, req := if now = 0 ∧ v ≠ 0 then some (k.req.getD 0) else k.req }))

/-- Kiln chooses the best reference; the loop locks, slews and steps. -/
def Obligations.KilnChoosesLocksSlewsAndSteps : Prop := Claim.TheChoiceHasTheBestRank ∧ Claim.TheLoopLocksSlewsAndSteps

/-! ## Twin operation -/

/-- R192, R285, R286: outside twin mode, in RESET and with the port's link down the link is dead; a frame with an FCS error, a wrong version or a
length that does not match is counted; one of another EtherType is discarded; a good one is to be acknowledged, and acknowledges what it names; frames
of kinds 2 to 5 out of order are discarded. The twin acknowledges what no other frame has, and sends a frame unacknowledged for 8 µs, and every later
one, again, from the highest queue of the twin port. -/
def Claim.LinkFramesAcknowledgeInOrder : Prop :=
  ∀ (s : State) (f : TwinFrame) (a : Agree) (payload : List Byte) (j data : Word) (addr : BitVec 25) (x : Nat)
    (items : List (XferKey × XferVal)) (m : XferCtrl), s.quiet →
    let g : TwinFrame := { f with plen := payload.length }
    let frames := [(Instr.twinAgreementRx f a, 1, f), (.twinMirrorRx f payload, 2, g), (.twinControlRx f j addr data x, 3, f),
      (.twinTransferRx f items, 4, f), (.twinXferCtrlRx f m, 5, f), (.twinAckRx f, 6, f)]
    let tw := s.twin
    let bad := R.TWIN_RX_BAD.count
    let nothing := fun (i : Instr) => ∃ t, exec i s = .next t ∧ Only [] [] s t
    let counts := fun (i : Instr) => ∃ t, exec i s = .next t ∧ Only [] [bad.addr] s t ∧ t.get bad = (s.get bad + 1) % 2 ^ 32
    let acks := s.twinMode = true ∧ s.sys.state ≠ .reset ∧ tw.ackDue = true
    let due := fun (y : TwinSent) => decide (s.sys.up < y.up + 15729)
    let again := tw.unacked.dropWhile due
    let resends := s.sys.state ≠ .reset ∧ again ≠ []
    (∀ y ∈ frames,
        (¬s.twinLive → nothing y.1)
          ∧ (s.twinLive → y.2.2.fcsOk = false → counts y.1)
          ∧ (s.twinLive → y.2.2.fcsOk = true → fbe f.head 12 2 ≠ 0x88B5 ∨ fbe f.head 14 1 ≠ y.2.1 → nothing y.1)
          ∧ (s.twinLive → y.2.2.fcsOk = true → fbe f.head 12 2 = 0x88B5 → fbe f.head 14 1 = y.2.1 → ¬y.2.2.Good y.2.1 → counts y.1)
          ∧ (s.twinLive → y.2.2.Good y.2.1 → 2 ≤ y.2.1 → y.2.1 ≤ 5 → f.lseq ≠ (tw.lack + 1) % 2 ^ 32 →
            ∃ t, exec y.1 s = .next t ∧ Only [.twin] [] s t ∧ t.twin = tw.heard f))
      ∧ (s.twinLive → f.Good 6 → ∃ t, exec (.twinAckRx f) s = .next t ∧ Only [.twin] [] s t ∧ t.twin = tw.heard f)
      ∧ (acks → s.twinLive → s.twinRoom 60 → ∃ t, exec .twinAckTx s = .next t ∧ Only [.twin, .eth, .free] [] s t
        ∧ t.twin = { tw with ackDue := false } ∧ ∃ da, TwinQueued s t [⟨s.twinFrame da 6 0 tw.lack s.pn [], .twin .ack, false⟩])
      ∧ (¬acks → nothing .twinAckTx)
      ∧ (resends → s.twinLive → s.twinRoom ((again.map (fun y => max 60 (34 + y.payload.length))).sum) →
        ∃ t, ∃ das : List Nat, exec .twinRetransmit s = .next t ∧ Only [.twin, .eth, .free] [R.TWIN_RETX.reg] s t ∧ das.length = again.length
          ∧ t.get R.TWIN_RETX.count = (s.get R.TWIN_RETX.count + 1) % 2 ^ 32
          ∧ t.twin = { tw with ackDue := false, unacked := tw.unacked.map (fun y => if again.contains y then { y with up := s.sys.up } else y) }
          ∧ TwinQueued s t ((das.zip again).map (fun y => ⟨s.twinFrame y.1 y.2.msg.kind y.2.lseq tw.lack y.2.pn y.2.payload, .twin y.2.msg, false⟩)))
      ∧ (¬resends → nothing .twinRetransmit)

/-- R291, R292: a mirror frame carries records of little-endian words; a record that comes after its period's deadline is counted as late; one in time
is counted for its period; its samples join the other twin's items of that period, its trips, by the cycles of that period, those of the channel. -/
def Claim.MirrorRecordsAreTakenInTime : Prop :=
  ∀ (s : State) (f : TwinFrame) (payload : List Byte) (id kind pnl mask : Nat) (words : List Word), s.quiet →
    let g : TwinFrame := { f with plen := payload.length }
    s.twinLive → g.Good 2 → f.lseq = (s.twin.lack + 1) % 2 ^ 32 →
    let linked := s.twin.linked g
    let le := fun (n : Nat) => [BitVec.ofNat 8 n, BitVec.ofNat 8 (n / 2 ^ 8), BitVec.ofNat 8 (n / 2 ^ 16), BitVec.ofNat 8 (n / 2 ^ 24)]
    let whole := payload = le (id + 2 ^ 13 * kind) ++ le pnl ++ le mask ++ words.flatMap (fun w => le w.toNat)
      ∧ id < 2 ^ 13 ∧ kind < 8 ∧ pnl < 2 ^ 32 ∧ mask < 2 ^ 32
    let late := R.TWIN_MIRROR_LATE.count
    let m := (extend32 s.pn pnl).toNat
    let isLate := m + s.dIn + 1 ≤ s.pn
    let fits := (kind = 0 → words.length = s.nSamp) ∧ (kind = 1 → words.length = (mask + 31) / 32) ∧ kind ≤ 1
    let got := assocSet m ((assocGet m s.twin.got).getD 0 + 1) s.twin.got
    let v := (List.range s.nSamp).map (fun i => if mask.testBit i then some (words.getD i 0) else none)
    let trips := (List.range mask).filter (fun j => (words.getD (j / 32) 0).getLsbD (j % 32))
    let takes := fun (ps : List Part) (rs : List Nat) (tw' : TwinS) (P : State → Prop) => ∃ t, exec (.twinMirrorRx f payload) s = .next t
      ∧ Only (.twin :: ps) rs s t ∧ t.twin = tw' ∧ P t
    (whole → fits → isLate → takes [] [late.addr] linked (fun t => t.get late = (s.get late + 1) % 2 ^ 32))
      ∧ (whole → fits → ¬isLate → kind = 0 → (∀ x ∈ s.twin.peerStore, ¬(x.src = id ∧ x.m = m)) →
        takes [] [] { linked with got := got, peerStore := ⟨id, m, v⟩ :: s.twin.peerStore } (fun _ => True))
      ∧ (whole → fits → ¬isLate → kind = 1 → ∀ h : id < 24, takes [.pwm] [] { linked with got := got } (fun t =>
          t.pwmCh ⟨id, h⟩ = { s.pwmCh ⟨id, h⟩ with union := (s.pwmCh ⟨id, h⟩).union ++ trips.map (fun j => (m, j)) }
            ∧ ∀ c, c.val ≠ id → t.pwmCh c = s.pwmCh c))
      ∧ (payload = [] → takes [] [] linked (fun _ => True))

/-- The twin link acknowledges in order; mirror records are taken in time. -/
def Obligations.TwinLinkIsOrderedAndMirrors : Prop := Claim.LinkFramesAcknowledgeInOrder ∧ Claim.MirrorRecordsAreTakenInTime

/-- R291 to R293, R297, R299: an agreement frame shows the other twin in TWIN_PEER, closes a period's mirroring and acknowledges forwarded writes; in sync its
digest is compared with the twin's own: one that differs, neither flagged, is counted, recorded and raised as class 2, and the twin that alone has a
fault on record as it closed the pass, or else the secondary, yields. A twin that yields for its class 3 stays when the other has raised class 3 in the
same pass. -/
def Claim.AgreementShowsClosesAndCompares : Prop :=
  ∀ (s : State) (f : TwinFrame) (a : Agree), s.quiet →
    let tw := s.twin
    let st := s.get R.TWIN_STAT.state
    let sel := s.get R.KILN_STAT.sel
    let good := s.twinLive ∧ f.Good 1 ∧ (a.c3 = true → tw.yielding = false ∧ tw.undo = none)
    let peer := R.TWIN_PEER.reg
    let stays := st = 5 → a.state.val = 5 ∨ f.pn < s.pn
    let d : PeerDig := ⟨f.pn - 1, a.digest, a.flagged, a.faultRec, a.state.val == 4⟩
    let took : TwinS := { tw.heard f with
      peer := some (a, f.pn, s.sys.bnd)
      closed := assocSet (f.pn - s.dIn) a.count tw.closed, peerDig := some d }
    let shows := fun (t : State) => t.get R.TWIN_PEER.state = a.state.val ∧ t.flag R.TWIN_PEER.role = a.role
      ∧ t.flag R.TWIN_PEER.same_variant = decide (a.variant.toNat = s.sys.fuses.digits)
      ∧ t.flag R.TWIN_PEER.same_image = decide (a.gen = s.reg R.BOOT_IMG_GEN.reg ∧ a.hcrc = s.reg R.BOOT_IMG_HCRC.reg)
      ∧ t.flag R.TWIN_PEER.same_domain = decide (a.sel.val = sel ∧ sel ≤ 1) ∧ t.flag R.TWIN_PEER.fault_rec = a.faultRec
    let run := fun (ps : List Part) (rs : List Nat) (P : State → Prop) => ∃ t, exec (.twinAgreementRx f a) s = .next t
      ∧ Only (.twin :: ps) (peer :: rs) s t ∧ shows t ∧ P t
    let quiet := st = 1 ∨ st = 5 ∨ st = 6
    let back := s.twinLive ∧ f.Good 1 ∧ a.c3 = true ∧ st = 5 ∧ tw.yielding = true ∧ (s.flt.c3 ≠ [] ∨ s.cask.rtErr = true) ∧ f.pn = s.pn + 1
    let mm := [R.TWIN_EVT.reg, R.TWIN_MISMATCHES.reg, R.TWIN_MM_PNL.reg] ++ lostRegs
    let differs := fun (t : State) => t.flag R.TWIN_EVT.mismatch = true
      ∧ t.get R.TWIN_MISMATCHES.count = (s.get R.TWIN_MISMATCHES.count + 1) % 2 ^ 32
      ∧ t.reg R.TWIN_MM_PNL.reg = BitVec.ofNat 32 (f.pn - 1) ∧ t.flt.queue = s.queueWith 2 0xB 5 ((f.pn - 1) % 2 ^ 32)
    (good → quiet → stays → tw.fwd = [] → tw.dig = none → run [] [] (fun t => t.twin = took))
      ∧ (good → quiet → stays → tw.dig = none → ∀ l y r, tw.fwd = l ++ y :: r → (∀ z ∈ l ++ [y], newer z.jseq a.jseq 32 = false) →
        (∀ z ∈ r, newer z.jseq a.jseq 32 = true) → run [] [R.TWIN_JACK.reg] (fun t => t.twin = { took with fwd := r }
          ∧ t.reg R.TWIN_JACK.reg = BitVec.ofNat 32 y.jseq))
      ∧ (good → st = 5 → stays → tw.fwd = [] → ∀ own mine, tw.dig = some (f.pn - 1, own, false, mine) → a.flagged = false →
        let self := if mine = a.faultRec then s.secondary else mine
        (own = a.digest → run [] [] (fun t => t.twin = { took with peerDig := none }))
          ∧ (own ≠ a.digest → self = false → run [.flt] mm (fun t => differs t ∧ t.twin.peerYields = true ∧ t.twin.yielding = tw.yielding))
          ∧ (own ≠ a.digest → self = true → run [.flt, .eth] (mm ++ [R.TWIN_YIELDS.reg]) (fun t => differs t ∧ t.flag R.TWIN_EVT.yielded = true
              ∧ t.get R.TWIN_YIELDS.count = (s.get R.TWIN_YIELDS.count + 1) % 2 ^ 32 ∧ t.twin.yielding = true ∧ t.twin.muted = true
              ∧ ∀ p, t.eport p = { s.eport p with queues := (s.eport p).queues.set (5 : Fin 8) ((s.eport p).queues[(5 : Fin 8)].filter
                (fun x => match x.src with | .stream _ _ _ => false | _ => true)) })))
      ∧ (back → tw.fwd = [] → tw.dig = none → a.state.val = 5 → run [] [] (fun t => t.twin = { took with muted := false, yielding := false }))
      ∧ (good → st = 5 → stays → tw.fwd = [] → ∀ own fl mine, tw.dig = some (f.pn - 1, own, fl, mine) → fl = true ∨ a.flagged = true →
        run [] [] (fun t => t.twin = { took with peerDig := none }))
      ∧ (good → tw.fwd = [] → tw.dig = none → st = 5 → a.state.val ≠ 5 → s.pn ≤ f.pn →
        run [] [] (fun t => t.twin = { took with peerYields := true }))

/-- R297: a twin in sync, transfer or check takes a forwarded write as if it had accepted it in the leader's period: a shadowed field is stored and
a latched one waits for its pass, the journal says whose period it is; a commit of its group that was fixed since holds it too; one that comes too late sets ctrl_late and raises class 1. In another
state it is discarded. -/
def Claim.ForwardedWritesAreAppliedOrLate : Prop :=
  ∀ (s : State) (f : TwinFrame) (jseq data : Word) (addr : BitVec 25) (target : Nat) (d : RegDesc), s.quiet →
    s.twinLive → f.Good 3 → f.lseq = (s.twin.lack + 1) % 2 ^ 32 →
    let tw := s.twin
    let st := s.get R.TWIN_STAT.state
    let takes := st = 3 ∨ st = 4 ∨ st = 5
    let late := f.pn + 2 ≤ s.pn
    let i := Instr.twinControlRx f jseq addr data target
    let a := addr.toNat / 4 * 4
    let linked := tw.linked f
    let waits := d.fields.any (fun g => g.kind == .lv)
    let entry := [BitVec.ofNat 32 (a + 4 * 2 ^ 25), data, BitVec.ofNat 32 f.pn, BitVec.ofNat 32 (f.pn / 2 ^ 32), BitVec.ofNat 32 s.wt,
      BitVec.ofNat 32 s.hif.jseq, 0#32, jseq]
    let plain := ∀ g, groupNamed a = some g → (s.group g).openC = none ∧ ∀ x, (s.group g).fixed = some x → x.at_ ≤ f.pn
    let stored := fun (ps : List Part) (rs : List Nat) (gs : State → Vector CommitGroup 32) (P : State → Prop) => ∃ t, exec i s = .next t
      ∧ Only ([.twin, .hif, .shadow] ++ ps) rs s t
      ∧ (∀ g ∈ d.fields, g.kind = .sh → fieldGet g.lo g.w (t.shReg a) = fieldGet g.lo g.w data)
      ∧ (∀ b, b ≠ a → t.shReg b = s.shReg b)
      ∧ t.hif = { s.hif with
        journal := (entry :: s.hif.journal).take 1024, jUp := (s.sys.up :: s.hif.jUp).take 1024, jseq := (s.hif.jseq + 1) % 2 ^ 32
        groups := gs t }
      ∧ t.twin = { linked with
        lv := if waits then tw.lv ++ [(f.pn, a, data)] else tw.lv, applied := jseq.toNat, late := tw.late || decide late }
      ∧ P t
    (¬takes → ∃ t, exec i s = .next t ∧ Only [.twin] [] s t ∧ t.twin = linked)
      ∧ (takes → s.regAt a = some d → d.base ∉ actingBases → counterAt a = false → ¬d.fields.all (fun g => g.kind == .ro) →
          d.fields.all (fun g => g.kind == .sh || g.kind == .lv || g.kind == .ro) → reservedWord d data = false → normWord d a data = data →
        (plain → ¬late → stored [] [] (fun _ => s.hif.groups) (fun _ => True))
          ∧ (plain → late → stored [.flt] (R.TWIN_EVT.reg :: lostRegs) (fun _ => s.hif.groups) (fun t => t.flag R.TWIN_EVT.ctrl_late = true
            ∧ t.flt.queue = s.queueWith 1 0xB 4 jseq.toNat))
          ∧ (∀ g x, groupNamed a = some g → s.group g = ⟨none, some x, none⟩ → f.pn < x.at_ → x.target ≤ s.pn + 1 → ¬late →
            stored [] [] (fun t => s.hif.groups.set g ⟨none, some { x with content := groupContent t g.val, at_ := s.pn }, none⟩) (fun _ => True)))

/-- Agreement frames show, close and compare; forwarded writes are applied or late. -/
def Obligations.TwinAgreementAndForwardedWrites : Prop := Claim.AgreementShowsClosesAndCompares ∧ Claim.ForwardedWritesAreAppliedOrLate

/-- R303, R305: the active twin names the start boundary of a re-join, no sooner than the third from now, and has the whole transfer set to send; the re-joiner
keeps each batch with what it held at the batch's boundary, installs of it what neither twin has written since, and says what it alone has written; the
transfer ends when the active twin says so. -/
def Claim.TransfersStartFillAndEnd : Prop :=
  ∀ (s : State) (f : TwinFrame) (items : List (XferKey × XferVal)) (r q pass n : Nat) (keys : List XferKey), s.quiet →
    s.twinLive → s.twinRoom 9216 → f.lseq = (s.twin.lack + 1) % 2 ^ 32 →
    let tw := s.twin
    let st := s.get R.TWIN_STAT.state
    let linked := tw.linked f
    let does := fun (i : Instr) (ps : List Part) (rs : List Nat) (P : State → Prop) => ∃ t, exec i s = .next t ∧ Only (.twin :: ps) rs s t ∧ P t
    let ctl := fun (x : XferCtrl) => Instr.twinXferCtrlRx f x
    let nothing := fun (i : Instr) => does i [] [] (fun t => t.twin = linked)
    let sends := fun (x : XferCtrl) (tw' : TwinS) (i : Instr) (ps : List Part) (rs : List Nat) (P : State → Prop) =>
      does i ([.eth, .free] ++ ps) rs (fun t => TwinSends s t tw' (.xferCtrl x) ∧ P t)
    let xfer := R.TWIN_XFER.reg
    let line := fun (a : Nat) => (List.range 64).map (fun i => s.memByte (a + i))
    let batch := tw.batches.filter (·.1 == q)
    let was := match tw.copy with | some c => if c.et = f.pn * s.perVco then s.atCopy c else s | none => s
    (f.Good 4 → st = 3 → does (.twinTransferRx f items) [] [] (fun t =>
        t.twin = { linked with batches := tw.batches ++ [(f.pn, items.map (fun (a, v) => (a, v, xferGet was a)))] }))
      ∧ (f.Good 4 → st ≠ 3 → nothing (.twinTransferRx f items))
      ∧ (f.Good 5 →
        (st = 2 → tw.start = none → ∃ b, s.pn + 3 ≤ b ∧
            sends (.start b) { linked with start := some b, todo := xferKeys s, skipped := [], own := [], waits := [], xferDone := false } (ctl .request)
              [] [xfer, R.TWIN_STAT.reg] (fun t => t.get R.TWIN_XFER.pass = 0 ∧ t.get R.TWIN_STAT.match_run = 0 ∧ t.get R.TWIN_STAT.state = 2))
          ∧ (st = 2 → ∀ b, tw.start = some b → s.pn < b → sends (.start b) linked (ctl .request) [] [] (fun _ => True))
          ∧ (st ≠ 2 ∨ (∃ b, tw.start = some b ∧ b ≤ s.pn) → nothing (ctl .request))
          ∧ (st = 1 → tw.asked = true → does (ctl (.start r)) [] [] (fun t => t.twin = { linked with start := some r }))
          ∧ (st ≠ 1 ∨ tw.asked = false → nothing (ctl (.start r)))
          ∧ (st ≠ 3 → does (ctl (.written q keys)) [] [] (fun t =>
            t.twin = { linked with waits := tw.waits.filter (· != q), skipped := tw.skipped ++ keys }))
          ∧ (st = 3 → batch = [] → sends (.written q []) { linked with batches := tw.batches.filter (fun b => b.1 != q) } (ctl (.written q keys))
            [] [] (fun _ => True))
          ∧ (st = 3 → ∀ a bs own, batch = [(q, [(.mem a, .mem bs, .mem own)])] → bs.length = 64 → s.fab.upsets = [] →
            let rest : TwinS := { linked with batches := tw.batches.filter (fun b => b.1 != q) }
            (XferKey.mem a ∉ keys → own = line a → sends (.written q []) rest (ctl (.written q keys)) [.mem] [] (fun t => t.memByte = putAt a bs s.memByte))
              ∧ (XferKey.mem a ∉ keys → own ≠ line a → sends (.written q [.mem a]) rest (ctl (.written q keys)) [] [] (fun _ => True))
              ∧ (XferKey.mem a ∈ keys → sends (.written q []) rest (ctl (.written q keys)) [] [] (fun _ => True)))
          ∧ does (ctl (.progress pass n)) [] [xfer] (fun t => t.twin = linked ∧ t.get R.TWIN_XFER.pass = pass % 4
            ∧ t.get R.TWIN_XFER.items_left = n % 2 ^ 30)
          ∧ (st = 3 → does (ctl .done) [] [] (fun t => t.twin = { linked with xferDone := true }))
          ∧ (st ≠ 3 → nothing (ctl .done)))

/-- R289, R296, R297, R303, R307, R464: a twin in out that meets the conditions requests a re-join, unless one waits to be acknowledged or the start is named; an attempt that does not end in time
fails and is counted; rejoin re-arms a twin in out or given up; yield falls due at the second boundary on both twins: the leader forwards it, a
secondary in sync discards it; the other twin's line is shown. -/
def Claim.RejoinsAreRequestedFailAndRearm : Prop :=
  ∀ (s : State) (route : Route) (data : Word) (level : Bool), s.quiet →
    let tw := s.twin
    let st := s.get R.TWIN_STAT.state
    let peer := match tw.peer with | some (a, _, _) => if 3 ≤ tw.missed then 0 else a.state.val | none => 0
    let may := s.twinMode = true ∧ st = 1 ∧ (s.flag R.TWIN_CFG.auto_rejoin = true ∨ tw.armed = true) ∧ s.sys.state = .runLocked
      ∧ peer = 2 ∧ s.flag R.TWIN_PEER.same_variant = true ∧ s.flag R.TWIN_PEER.same_image = true ∧ s.flag R.TWIN_PEER.same_domain = true
      ∧ tw.start = none ∧ ∀ x ∈ tw.unacked, x.msg ≠ .xferCtrl .request
    let can := s.flag (R.ETH_PSTAT.link s.sys.fuses.twinPort) = true ∧ s.twinRoom 9216
    let joins := (st = 3 ∨ st = 4) ∧ tw.failed = false
    let fails := R.TWIN_REJOIN_FAILS.count
    let cmd := R.TWIN_CMD.reg
    let v (n : Nat) : Word := (data &&& 0xFFFFFFFC#32) ||| BitVec.ofNat 32 n
    let stat := R.TWIN_STAT.reg
    let yields := fun (ps : List Part) (rs : List Nat) (P : State → Prop) => ∃ t, exec (.twinYieldCmd route data) s = .next t
      ∧ Only ([.sys, .hif] ++ ps) (cmd :: rs) s t ∧ t.hif = s.journalled route 0 cmd (v 2) ∧ P t
        ∧ t.sys = { s.sys with sched := s.sys.sched ++ [(2, .twinYield)] } ∧ t.flag R.TWIN_CMD.yield = true
        ∧ t.flag R.TWIN_CMD.which = data.getLsbD 2
    let joined := peer = 3 ∨ peer = 4 ∨ peer = 5
    (may → can → ∃ t, exec .rejoinRequest s = .next t ∧ Only [.twin, .eth, .free] [] s t ∧ TwinSends s t { tw with asked := true } (.xferCtrl .request))
      ∧ (¬may → ∃ t, exec .rejoinRequest s = .next t ∧ Only [] [] s t)
      ∧ (joins → ∃ t, exec .rejoinTimeout s = .next t ∧ Only [.twin] [R.TWIN_EVT.reg, fails.addr, stat] s t ∧ t.twin = { tw with failed := true }
        ∧ t.flag R.TWIN_EVT.rejoin_fail = true ∧ t.get fails = (s.get fails + 1) % 2 ^ 32
        ∧ t.get R.TWIN_STAT.attempts = min (s.get R.TWIN_STAT.attempts + 1) 3 ∧ t.get R.TWIN_STAT.state = st)
      ∧ (¬joins → ∃ t, exec .rejoinTimeout s = .next t ∧ Only [] [] s t)
      ∧ (TakesWrite s route → s.sys.fuses.twin = true → ∃ t, exec (.twinRejoinCmd route data) s = .next t ∧ Only [.twin, .hif] [cmd] s t
        ∧ t.hif = s.journalled route 0 cmd (v 1) ∧ t.flag R.TWIN_CMD.which = data.getLsbD 2
        ∧ t.twin = { tw with armed := tw.armed || st == 1 || st == 6 }
        ∧ t.flag R.TWIN_CMD.rejoin = (s.flag R.TWIN_CMD.rejoin || st == 1 || st == 6))
      ∧ (TakesWrite s route → s.sys.fuses.twin = true → route ≠ .boot → route ≠ .twin → s.flag R.TWIN_CMD.yield = false →
        (s.twinMode = false → yields [] [] (fun _ => True))
          ∧ (s.twinMode = true → st = 1 → yields [] [R.TWIN_JACK.reg] (fun t => t.get R.TWIN_JACK.seq = s.hif.jseq % 2 ^ 32))
          ∧ (s.twinMode = true → st = 5 → s.sys.straps.twinRole = false → joined → can →
            yields [.twin, .eth, .free] [] (fun t => TwinSends s t { tw with fwd := tw.fwd ++ [⟨s.hif.jseq, s.pn⟩] } (.control s.hif.jseq cmd (v 2) 0)))
          ∧ (s.twinMode = true → st = 5 → s.sys.straps.twinRole = true → ∃ t, exec (.twinYieldCmd route data) s = .next t
            ∧ Only [] [R.TWIN_NONLEAD_DROP.reg] s t ∧ t.get R.TWIN_NONLEAD_DROP.count = (s.get R.TWIN_NONLEAD_DROP.count + 1) % 2 ^ 32))
      ∧ (s.sys.state ≠ .reset → s.sys.fuses.twin = true → ∃ t, exec (.twinPeerActChange level) s = .next t ∧ Only [] [stat] s t
        ∧ t.reg stat = fieldPut R.TWIN_STAT.peer_act.lo 1 (s.reg stat) (if level then 1 else 0))

/-- Transfers start, fill and end; re-joins are requested, fail and are re-armed. -/
def Obligations.TwinTransfersAndRejoins : Prop := Claim.TransfersStartFillAndEnd ∧ Claim.RejoinsAreRequestedFailAndRearm

/-! ## Cask -/

/-- R314, R316, R317: an enabled channel whose training succeeds runs, and CASK_SIZE shows what the running channels offer; without ECC the lines in
it then read zero. One whose training fails raises class 3 when it is in use and class 1 when it is not. The ECC fill leaves the whole channel zero and
whole. -/
def Claim.CaskChannelsTrainAndFill : Prop :=
  ∀ (s : State) (k : Fin 2), s.quiet → s.fab.upsets = [] →
    let ready : Loc := ⟨R.CASK_STAT.reg, k.val, 1⟩
    let failed : Loc := ⟨R.CASK_STAT.reg, 2 + k.val, 1⟩
    let trains := s.caskEn k.val = true ∧ s.caskRun k.val = false
    let ecc := s.flag R.CASK_CFG.ecc_en
    let done := fun (ok : Bool) (ps : List Part) (rs : List Nat) (P : State → Prop) => ∃ t, exec (.caskTrainingDone k ok) s = .next t
      ∧ Only ps (R.CASK_STAT.reg :: rs) s t ∧ P t
    let sized := fun (t : State) => t.reg R.CASK_STAT.reg = fieldPut ready.lo 1 (s.reg R.CASK_STAT.reg) 1
      ∧ t.get R.CASK_SIZE.mib = (([0, 1].filter t.caskRun).length * s.caskS / 2 ^ 20) % 2 ^ 16
    let cask' : CaskS := { s.cask with filled := s.cask.filled.set k true }
    let inLine := fun (x : Nat) => ∃ l, l < 4096 ∧ s.flag (R.CASK_LINE_W0.en l) = true ∧ (∃ y, s.caskPlaceOf (s.lineBase l) = some (k.val, y))
      ∧ caskBase + s.lineBase l ≤ x ∧ x < caskBase + s.lineBase l + 4 * s.get (R.CASK_LINE_W1.len l)
    let used := s.get (R.CASK_RT_DECL.rt_decl k.val) ≠ 0
      ∨ ∃ l, l < 4096 ∧ s.flag (R.CASK_LINE_W0.en l) = true ∧ ∃ y, s.caskIn ([0, 1].filter s.caskEn) (s.lineBase l) = some (k.val, y)
    let lo := caskBase + s.caskOff k.val 0
    let fails := fun (cls code : Nat) (ps : List Part) (rs : List Nat) => done false (.flt :: ps) (lostRegs ++ rs) (fun t => YieldsOnly s t ∧
      t.reg R.CASK_STAT.reg = fieldPut failed.lo 1 (s.reg R.CASK_STAT.reg) 1 ∧ t.flt.queue = s.queueWith cls 9 code k.val)
    (trains → ecc = true → s.boot.waking = false → done true [] [R.CASK_SIZE.reg] sized)
      ∧ (trains → ecc = false → s.boot.waking = false → done true [.cask, .mem] [R.CASK_SIZE.reg] (fun t => sized t ∧ t.cask = cask'
        ∧ (∀ x, inLine x → t.memByte x = 0) ∧ ∀ x, ¬inLine x → t.memByte x = s.memByte x))
      ∧ (trains → s.boot.waking = true → done true [.cask] [R.CASK_SIZE.reg] (fun t => sized t ∧ t.cask = cask'))
      ∧ (trains → used → fails 3 1 [.eth, .twin] yieldRegs) ∧ (trains → ¬used → fails 1 2 [] [])
      ∧ (¬trains → ∀ ok, ∃ t, exec (.caskTrainingDone k ok) s = .next t ∧ Only [] [] s t)
      ∧ (s.caskRun k.val = true → ecc = true → ∃ t, exec (.caskEccFillDone k) s = .next t ∧ Only [.cask, .mem] [] s t ∧ t.cask = cask'
        ∧ ∀ x, t.memByte x = if lo ≤ x ∧ x < lo + s.caskS then 0 else s.memByte x)
      ∧ (s.caskRun k.val = false ∨ ecc = false → ∃ t, exec (.caskEccFillDone k) s = .next t ∧ Only [] [] s t)

/-- R315, R319 to R321: refresh, retraining and calibration change nothing that a command sees; a temperature beyond 4 times sets hot with class 2; the
scrubber reads the next granule, corrects and counts what one error struck, reports what two did, and counts a pass when every running channel is
read through. -/
def Claim.CaskIsMaintainedAndScrubbed : Prop :=
  ∀ (s : State) (k : Fin 2) (quarters a : Nat), s.quiet → s.fab.upsets = [] →
    let runs := s.caskRun k.val = true ∧ s.cask.selfRefresh = false
    let others := fun (j : Nat) => j ≠ k.val ∧ j < 2 ∧ s.caskRun j = true ∧ 16 < s.cask.mult.toList.getD j 4
    let hot := R.CASK_STAT.hot
    let v := s.cask.scrubAt[k]
    let last := 2 ^ (30 + s.get R.CASK_CFG.density) / 64
    let scrubs := runs ∧ s.get R.CASK_SCRUB.scrub_h ≠ 0 ∧ v < last
    let next := s.cask.scrubAt.set k (v + 1)
    let whole := ∀ j, j < 2 → s.caskRun j = true → last ≤ next.toList.getD j 0
    let passes := R.CASK_SCRUB.passes
    let ecc := s.flag R.CASK_CFG.ecc_en
    let x := (if ecc then v / 8 * 7 + v % 8 else v) * 64
    let o := s.caskOff k.val x
    let reads := fun (struck : List (Nat × Bool)) (ps : List Part) (rs : List Nat) (P : State → Prop) =>
      ∃ t, exec (.caskScrubRead k struck) s = .next t ∧ Only (.cask :: ps) (R.CASK_SCRUB.reg :: rs) s t
        ∧ (¬whole → t.cask.scrubAt = next ∧ t.get passes = s.get passes)
        ∧ (whole → t.cask.scrubAt = Vector.replicate 2 0 ∧ t.get passes = (s.get passes + 1) % 2 ^ 16)
        ∧ t.cask = { s.cask with scrubAt := t.cask.scrubAt, corrUp := t.cask.corrUp } ∧ P t
    let hits := ecc = true ∧ v % 8 ≠ 7 ∧ caskBase ≤ a ∧ a < 2 ^ 40 ∧ a / 64 * 64 = caskBase + o / 64 * 64
    let corr := R.CASK_ECC_CORR.count k.val
    let uncorr := R.CASK_ECC_UNCORR.count k.val
    (∀ i ∈ [Instr.caskRefresh k, .caskRetrain k, .caskZqCal k], ∃ t, exec i s = .next t ∧ Only [] [] s t)
      ∧ (runs → ∃ t, exec (.caskTempPoll k quarters) s = .next t ∧ Only [.cask, .flt, .twin] (R.CASK_STAT.reg :: lostRegs) s t
        ∧ t.cask = { s.cask with mult := s.cask.mult.set k quarters }
        ∧ t.reg R.CASK_STAT.reg = fieldPut hot.lo 1 (s.reg R.CASK_STAT.reg) (bit (t.flag hot))
        ∧ (t.flag hot = true ↔ 16 < quarters ∨ ∃ j, others j)
        ∧ (16 < quarters → t.flt.queue = s.queueWith 2 9 3 k.val) ∧ (quarters ≤ 16 → t.flt = s.flt))
      ∧ (¬runs → ∃ t, exec (.caskTempPoll k quarters) s = .next t ∧ Only [] [] s t)
      ∧ (scrubs → reads [] [] [] (fun _ => True))
      ∧ (¬scrubs → ∃ t, exec (.caskScrubRead k []) s = .next t ∧ Only [] [] s t)
      ∧ (scrubs → hits → s.cask.corrUp[k].length < 255 → reads [(a, false)] [.flt] (corr.addr :: lostRegs) (fun t =>
          t.get corr = (s.get corr + 1) % 2 ^ 32 ∧ t.cask.corrUp = s.cask.corrUp.set k ((s.sys.up :: s.cask.corrUp[k]).take 256)
            ∧ t.flt.queue = s.queueWith 0 9 4 (o / 64)))
      ∧ (scrubs → hits → reads [(a, true)] [.fab, .flt] ([uncorr.addr, R.CASK_ECC_ADDR_LO.reg, R.CASK_ECC_ADDR_HI.reg] ++ lostRegs) (fun t =>
          t.get uncorr = (s.get uncorr + 1) % 2 ^ 32 ∧ t.fab = { s.fab with upsets := [⟨a / 64 * 8, true⟩] }
            ∧ t.get R.CASK_ECC_ADDR_LO.addr = o / 64 * 64 % 2 ^ 32 ∧ t.get R.CASK_ECC_ADDR_HI.addr = o / 64 * 64 / 2 ^ 32 % 4
            ∧ t.flag R.CASK_ECC_ADDR_HI.valid = true ∧ t.flt.queue = s.queueWith 1 9 7 k.val))

/-- Cask channels train and fill, are maintained and scrubbed. -/
def Obligations.CaskTrainsFillsAndIsScrubbed : Prop := Claim.CaskChannelsTrainAndFill ∧ Claim.CaskIsMaintainedAndScrubbed

/-- R320, R323 to R325, R330: a complete capture granule is written where its line and first sample put it, its samples as collected; one not written in
time is late, with class 2; a playback granule is fetched whole, or reads zero where nothing decodes, or beyond correction, with class 2; one not there in
time reads zero and is late. -/
def Obligations.CaptureWritesAndPlaybackFetches : Prop :=
  ∀ (s : State) (c : Fin 256), s.quiet → s.fab.upsets = [] →
    let rt := [R.FAB_SV_DREW.reg 1, R.FAB_SV_DEMOTED.reg 1] ++ lostRegs
    let fits := s.sys.dataPlane = false ∨ s.svUsed 34 1 + 1 ≤ s.get (R.FAB_SV_BUD.budget 34 1)
    let line := s.get (R.CASK_CAP.line c.val)
    let pline := s.get (R.CASK_PLAY.line c.val)
    let late := fun (l : Nat) => R.CASK_LATE.count (s.get (R.CASK_LINE_W2.chan l))
    let lateEvent := fun (l : Nat) (t : State) => t.get (late l) = (s.get (late l) + 1) % 2 ^ 32
      ∧ t.flt.queue = s.queueWith 2 9 0xB (s.get (R.CASK_LINE_W2.chan l))
    let nothing := fun (i : Instr) => ∃ t, exec i s = .next t ∧ Only [] [] s t
    let runs := fun (o : Nat) => ∃ k x, k < 2 ∧ s.caskPlaceOf o = some (k, x) ∧ s.caskRun k = true
    let ended := fun (g : PlayGranule) (ws : List Word) => s.cask.play.map (fun x => if x = g then { x with words := ws, done := true } else x)
    (∀ g, s.cask.cap.find? (fun g => g.ch == c.val && (g.words.getD 15 none).isSome) = some g → g.words.length = 16 →
        let o := s.lineBase line + 4 * (if s.lineLen line = 0 then 0 else (g.x0 % (s.lineLen line : Int)).toNat)
        runs o → ∃ t bs, exec (.captureWrite c) s = .next t ∧ Only [.cask, .mem, .fab, .perf, .free, .flt, .twin] rt s t
          ∧ t.cask = { s.cask with cap := s.cask.cap.filter (· != g) } ∧ bs.length = 64
          ∧ (∀ i w, g.words[i]? = some (some w) → (bs.drop (4 * i)).take 4 = leBytes 4 w.toNat) ∧ t.memByte = putAt (caskBase + o) bs s.memByte)
      ∧ ((∀ g ∈ s.cask.cap, g.ch = c.val → g.words.getD 15 none = none) → nothing (.captureWrite c) ∧ nothing (.captureLate c))
      ∧ (∀ g, s.cask.cap.find? (fun g => g.ch == c.val && g.full && !g.late) = some g → ∃ t, exec (.captureLate c) s = .next t
        ∧ Only [.cask, .flt, .twin] ((late line).addr :: lostRegs) s t ∧ lateEvent line t
        ∧ t.cask = { s.cask with cap := s.cask.cap.map (fun x => if x = g then { x with late := true } else x) })
      ∧ (∀ g, s.cask.play.find? (fun g => g.ch == c.val && !g.done) = some g →
          (runs g.off → ∃ t, exec (.playbackFetch c []) s = .next t ∧ Only [.cask, .fab, .perf, .free, .flt, .twin] rt s t
            ∧ t.cask = { s.cask with play := ended g g.words } ∧ (fits → t.flt = s.flt))
          ∧ (¬runs g.off → ∃ t, exec (.playbackFetch c []) s = .next t ∧ Only [.cask, .fab, .flt, .twin] rt s t
            ∧ t.cask = { s.cask with play := ended g (List.replicate 16 0) })
          ∧ (∀ k : Fin 2, ∀ x a, s.caskPlaceOf g.off = some (k.val, x) → s.caskRun k.val = true → s.flag R.CASK_CFG.ecc_en = true →
            a / 64 * 64 = caskBase + g.off / 64 * 64 → a < 2 ^ 40 → fits → ∃ t, exec (.playbackFetch c [(a, true)]) s = .next t
              ∧ Only [.cask, .fab, .perf, .free, .flt, .eth, .twin]
                ([R.CASK_ECC_UNCORR.reg k.val, R.CASK_ECC_ADDR_LO.reg, R.CASK_ECC_ADDR_HI.reg] ++ yieldRegs ++ rt) s t ∧ YieldsOnly s t
              ∧ t.cask = { s.cask with play := ended g (List.replicate 16 0), rtErr := true } ∧ t.flt.queue = s.queueWith 2 9 6 k.val
              ∧ t.get (R.CASK_ECC_UNCORR.count k.val) = (s.get (R.CASK_ECC_UNCORR.count k.val) + 1) % 2 ^ 32)
          ∧ ∃ t, exec (.playbackLate c) s = .next t ∧ Only [.cask, .flt, .twin] ((late pline).addr :: lostRegs) s t ∧ lateEvent pline t
            ∧ t.cask = { s.cask with play := ended g (List.replicate 16 0) })
      ∧ ((∀ g ∈ s.cask.play, g.ch = c.val → g.done = true) → nothing (.playbackFetch c []) ∧ nothing (.playbackLate c))

/-! ## Two-wire controllers -/

/-- R16, R414, R416 to R421, R423, R424: a write of go = 1 starts the host transaction that the registers then describe, unless one is under way;
the transaction, of each kind, sends its address, code, data and PEC, with the times of SCL at the speed of its start, and takes what the target sends; it
ends with a status, its bytes in the buffer, host_done set and go clear: 0, or 1 or 2 where a byte is not acknowledged, 3 for a wrong block count, 4 for
a wrong PEC, 7 at lost arbitration, 8 where the bus is not free or does not clear. One of another kind does nothing. -/
def Claim.HostTransactionsRunAndEnd : Prop :=
  ∀ (s : State) (k : Fin 2) (bus : TwcBus) (route : Route) (w : Word), s.quiet →
    let reg := R.TWC_CMD.reg k.val
    let c := (s.twcU k).cmd
    let isOpen := s.sys.state = .prepare ∨ s.sys.state.isRun = true ∨ s.sys.state = .safe
    let en := s.flag (R.TWC_CFG.en k.val)
    let go := s.flag (R.TWC_CMD.go k.val)
    let runs := isOpen ∧ go = true ∧ (en = true ∨ c.started = true)
    let kinds : List (Nat × Instr) := [(0, .twcSendByte k bus), (1, .twcReceiveByte k bus), (2, .twcWriteByte k bus), (3, .twcReadByte k bus),
      (4, .twcWriteWord k bus), (5, .twcReadWord k bus), (6, .twcProcessCall k bus), (7, .twcBlockWrite k bus), (8, .twcBlockRead k bus),
      (9, .twcI2cWrite k bus), (10, .twcI2cWriteRead k bus), (11, .twcI2cRead k bus)]
    let kind := c.kind
    let wlen := c.wlen
    let rlen := c.rlen
    let legal := (kind = 7 ∨ kind = 9 ∨ kind = 10 → 1 ≤ wlen ∧ wlen ≤ 32) ∧ (kind = 10 ∨ kind = 11 → 1 ≤ rlen ∧ rlen ≤ 32)
    let code := BitVec.ofNat 8 c.code
    let buf := c.tx
    let aw := BitVec.ofNat 8 (2 * c.addr)
    let ar := BitVec.ofNat 8 (2 * c.addr + 1)
    let pec := c.pec = true ∧ kind < 9
    let body := match kind with
      | 0 => buf.take 1 | 2 => code :: buf.take 1 | 4 | 6 => code :: buf.take 2 | 3 | 5 | 8 => [code]
      | 7 => code :: BitVec.ofNat 8 wlen :: buf.take wlen | 9 | 10 => buf.take wlen | _ => []
    let count := match kind with | 1 | 3 => 1 | 5 | 6 => 2 | 10 | 11 => rlen | _ => 0
    let reads := kind ∈ [1, 3, 5, 6, 8, 10, 11]
    let sent := if kind = 1 ∨ kind = 11 then [ar] else if reads then aw :: body ++ [ar]
      else if pec then aw :: body ++ [crc8 (aw :: body)] else aw :: body
    let nacks := ∃ n, bus.ending = .nackData n ∧ 1 ≤ n ∧ n < sent.length
    let plain := bus.ending ≠ .nackAddr ∧ (∀ n, bus.ending ≠ .lost n) ∧ ¬nacks
    let stuck := s.flag (R.TWC_STAT.stuck k.val)
    let goes := bus.sclLow = false ∧ (stuck = true → bus.clear = true)
    let stat := R.TWC_STAT.reg k.val
    let res := [stat, reg, R.TWC_RES.reg k.val]
    let rx := fun (j : Nat) (t : State) => fieldGet (8 * (j % 4)) 8 (t.reg (R.TWC_RXBUF.reg k.val (j / 4)))
    let ends := fun (i : Instr) (st : Nat) (data : List Byte) (P : State → Prop) => ∃ t, exec i s = .next t
      ∧ Only [.twc] (res ++ (List.range 8).map (R.TWC_RXBUF.reg k.val)) s t ∧ t.get (R.TWC_RES.status k.val) = st
      ∧ t.get (R.TWC_RES.rcount k.val) = data.length ∧ (∀ j, j < data.length → rx j t = (data.getD j 0).toNat)
      ∧ t.flag (R.TWC_STAT.host_done k.val) = true ∧ t.flag (R.TWC_CMD.go k.val) = false
      ∧ t.twc = s.twc.set k { s.twcU k with sclWait := false } ∧ P t
    let speed := if c.started then c.speed else s.get (R.TWC_CFG.speed k.val)
    let scl : SclTime := if speed = 1 then ⟨84, 70⟩ else if speed = 2 then ⟨32, 30⟩ else ⟨320, 295⟩
    let shows := fun (bs : List Byte) (lost : Bool) (t : State) => [Out.twc k.val scl bs] <+: t.out ∧ t.flag (R.TWC_STAT.bus_busy k.val) = lost
      ∧ t.flag (R.TWC_STAT.arb_lost k.val) = (lost || s.flag (R.TWC_STAT.arb_lost k.val))
      ∧ t.get (R.TWC_STAT.clears k.val) = (s.get (R.TWC_STAT.clears k.val) + if stuck then 1 else 0) % 2 ^ 16
    let n := if kind = 8 then (bus.rx.headD 0xFF#8).toNat else count
    let skip := if kind = 8 then bus.rx.take 1 else []
    let data := (bus.rx.drop skip.length).take n
    let good := crc8 (sent ++ skip ++ data) = bus.rx.getD (skip.length + n) 0xFF#8
    let starts : TwcCmd := ⟨fieldGet 1 4 w, fieldGet 6 7 w, fieldGet 16 8 w, s.get (R.TWC_XFER.wlen k.val), s.get (R.TWC_XFER.rlen k.val), w.getLsbD 5,
      (List.range 8).flatMap (fun i => leBytes 4 (s.reg (R.TWC_TXBUF.reg k.val i)).toNat), s.twcRuns k.val, s.get (R.TWC_CFG.speed k.val)⟩
    (TakesWrite s route → w.getLsbD 0 = true → ∃ t, exec (.registerWrite route (BitVec.ofNat 25 reg) w 0xF#4) s = .next t
        ∧ Only [.twc, .hif] [reg] s t ∧ t.flag (R.TWC_CMD.go k.val) = true
        ∧ t.twc = if go then s.twc else s.twc.set k { s.twcU k with cmd := starts })
      ∧ ∀ q i, (q, i) ∈ kinds →
      (¬runs ∨ kind ≠ q → ∃ t, exec i s = .next t ∧ Only [] [] s t)
      ∧ (runs → kind = q → legal →
        (goes → plain → ¬reads → ends i 0 [] (shows sent false))
          ∧ (goes → plain → reads → (kind = 8 → 1 ≤ n ∧ n ≤ 32) → skip.length + n < bus.rx.length →
            ends i (if pec ∧ ¬good then 4 else 0) data (shows sent false))
          ∧ (goes → plain → kind = 8 → n = 0 ∨ 32 < n → ends i 3 [] (shows sent false))
          ∧ (goes → bus.ending = .nackAddr → ends i 1 [] (shows (sent.take 1) false))
          ∧ (goes → ∀ m, bus.ending = .nackData m → 1 ≤ m → m < sent.length →
            ends i (if reads ∧ m = body.length + 1 then 1 else 2) [] (shows (sent.take (m + 1)) false))
          ∧ (goes → ∀ m, bus.ending = .lost m → ends i 7 [] (shows (sent.take m) true))
          ∧ (bus.sclLow = true → ends i 8 [] (fun t => t.flag (R.TWC_STAT.bus_busy k.val) = true))
          ∧ (bus.sclLow = false → stuck = true → bus.clear = false → ends i 8 [] (fun t => t.flag (R.TWC_STAT.sda_stuck k.val) = true
            ∧ t.flag (R.TWC_STAT.stuck k.val) = true)))

/-- R416, R419, R420, R422 to R425: a kind or a length outside the table ends with status 9; a stretched clock, a bus error and a reset end what is under way, the
host's before the sequencer's, with status 5 or 6; SCL that stays low is shown; a bus clear frees a stuck SDA or marks it; the sequencer runs the entry at the head of its queue
when no host transaction waits. -/
def Claim.BusEventsEndTransactions : Prop :=
  ∀ (s : State) (route : Route) (k : Fin 2) (bus : TwcBus) (data : Word) (clear : Bool), s.quiet →
    let u := s.twcU k
    let isOpen := s.sys.state = .prepare ∨ s.sys.state.isRun = true ∨ s.sys.state = .safe
    let runs := s.flag (R.TWC_CFG.en k.val) = true ∧ isOpen
    let go := s.flag (R.TWC_CMD.go k.val)
    let goes := isOpen ∧ go = true ∧ (s.flag (R.TWC_CFG.en k.val) = true ∨ u.cmd.started = true)
    let kind := u.cmd.kind
    let wlen := u.cmd.wlen
    let rlen := u.cmd.rlen
    let illegal := 11 < kind ∨ (kind = 7 ∨ kind = 9 ∨ kind = 10) ∧ (wlen = 0 ∨ 32 < wlen) ∨ (kind = 10 ∨ kind = 11) ∧ (rlen = 0 ∨ 32 < rlen)
    let stat := R.TWC_STAT.reg k.val
    let host := [stat, R.TWC_CMD.reg k.val, R.TWC_RES.reg k.val]
    let nothing := fun (i : Instr) => ∃ t, exec i s = .next t ∧ Only [] [] s t
    let hostEnds := fun (st : Nat) (t : State) => t.get (R.TWC_RES.status k.val) = st ∧ t.get (R.TWC_RES.rcount k.val) = 0
      ∧ t.flag (R.TWC_STAT.host_done k.val) = true ∧ t.flag (R.TWC_CMD.go k.val) = false
    let w3 := fun (e : Nat) => R.TWC_SEQ_W3.reg k.val e
    let seqEnds := fun (e st : Nat) (v : Nat) (t : State) => t.get (R.TWC_SEQ_W3.status k.val e) = st ∧ t.get (R.TWC_SEQ_W3.value k.val e) = v
      ∧ t.get (R.TWC_SEQ_W3.runs k.val e) = (s.get (R.TWC_SEQ_W3.runs k.val e) + 1) % 256
    let alarms := fun (e : Nat) (t : State) => t.flag (R.TWC_SEQ_W3.alarm k.val e) = true
      ∧ (t.reg (R.TWC_ALARM.reg k.val (e / 32))).getLsbD (e % 32) = true
    let seqRegs := fun (e : Nat) => [w3 e, R.TWC_ALARM.reg k.val (e / 32)]
    let cuts := fun (i : Instr) (c : Prop) (st : Nat) (wait : Bool) (rs : List Nat) (ps : List Part) (P : State → Prop) =>
      (c → ∃ t, exec i s = .next t ∧ Only (.twc :: ps) (rs ++ host) s t ∧ hostEnds st t ∧ P t
          ∧ t.twc = s.twc.set k { u with sclWait := wait })
        ∧ (∀ e r, ¬c → u.queue = e :: r → e < 256 → ∃ t, exec i s = .next t ∧ Only (.twc :: ps) (rs ++ stat :: seqRegs e) s t
          ∧ seqEnds e st 0 t ∧ alarms e t ∧ P t ∧ t.twc = s.twc.set k { u with queue := r, sclWait := wait })
    let due := goes ∨ runs ∧ u.queue ≠ []
    let cleared := fun (ok : Bool) (t : State) =>
      (ok = true → t.flag (R.TWC_STAT.stuck k.val) = false ∧ t.get (R.TWC_STAT.clears k.val) = (s.get (R.TWC_STAT.clears k.val) + 1) % 2 ^ 16)
        ∧ (ok = false → t.flag (R.TWC_STAT.stuck k.val) = true ∧ t.flag (R.TWC_STAT.sda_stuck k.val) = true)
    let cfg := R.TWC_CFG.reg k.val
    let v := data ||| 16#32
    let stored := fun (t : State) => t.hif = s.journalled route 0 cfg v ∧ t.reg cfg = fieldPut 0 4 (fieldPut 8 8 (s.reg cfg) (fieldGet 8 8 data)) (fieldGet 0 4 data)
    let lo := fun (e : Nat) => s.get (R.TWC_SEQ_W2.lo k.val e)
    let hi := fun (e : Nat) => s.get (R.TWC_SEQ_W2.hi k.val e)
    (goes → illegal → ∃ t, exec (.twcRefusedKind k) s = .next t ∧ Only [] host s t ∧ hostEnds 9 t)
      ∧ (¬goes ∨ ¬illegal → nothing (.twcRefusedKind k))
      ∧ (due → cuts (.stretchTimeout k) goes 5 true [] [] (fun t => t.flag (R.TWC_STAT.timeout k.val) = true ∧ t.flag (R.TWC_STAT.bus_busy k.val) = true))
      ∧ (due → cuts (.busError k) goes 6 u.sclWait [] [] (fun t => t.flag (R.TWC_STAT.bus_err k.val) = true ∧ t.flag (R.TWC_STAT.bus_busy k.val) = true))
      ∧ (¬due → nothing (.stretchTimeout k) ∧ nothing (.busError k))
      ∧ (u.sclWait = true → ∃ t, exec (.sclStuck k) s = .next t ∧ Only [.twc] [stat] s t ∧ t.flag (R.TWC_STAT.scl_stuck k.val) = true
        ∧ t.twc = s.twc.set k { u with sclWait := false })
      ∧ (u.sclWait = false → nothing (.sclStuck k))
      ∧ (runs → ∃ t, exec (.sdaStuckDetect k clear) s = .next t ∧ Only [] [stat] s t ∧ cleared clear t)
      ∧ (¬runs → nothing (.sdaStuckDetect k clear))
      ∧ (TakesWrite s route → data.getLsbD 0 = true →
        (isOpen → go = true ∨ u.queue ≠ [] → cuts (.twcResetCmd route k data clear) (go = true) 6 false [cfg] [.hif] (fun t => stored t ∧ cleared clear t))
          ∧ (¬isOpen ∨ go = false ∧ u.queue = [] → ∃ t, exec (.twcResetCmd route k data clear) s = .next t ∧ Only [.twc, .hif] [cfg, stat] s t
            ∧ stored t ∧ cleared clear t ∧ t.twc = s.twc.set k { u with sclWait := false }))
      ∧ (TakesWrite s route → data.getLsbD 0 = false → ∃ t, exec (.twcResetCmd route k data clear) s = .next t
        ∧ stored t ∧ cleared clear t ∧ t.twc = s.twc.set k { u with queue := [], sclWait := false }
        ∧ (isOpen → go = true → u.cmd.started = true → Only [.twc, .hif] (cfg :: host) s t ∧ hostEnds 6 t)
        ∧ (¬isOpen ∨ go = false ∨ u.cmd.started = false → Only [.twc, .hif] [cfg, stat] s t))
      ∧ (u.queue = [] ∨ ¬runs ∨ go = true → nothing (.seqEntryRun k bus))
      ∧ (∀ e r, u.queue = e :: r → e < 256 → runs → go = false → bus.sclLow = false → s.flag (R.TWC_STAT.stuck k.val) = false → bus.ending = .acked →
        s.get (R.TWC_SEQ_W0.kind k.val e) = 3 → s.flag (R.TWC_SEQ_W0.pec k.val e) = false →
        ∀ b l, bus.rx = b :: l →
          let addr := s.get (R.TWC_SEQ_W0.addr k.val e)
          let speed := s.get (R.TWC_CFG.speed k.val)
          let scl : SclTime := if speed = 1 then ⟨84, 70⟩ else if speed = 2 then ⟨32, 30⟩ else ⟨320, 295⟩
          let outside := s.flag (R.TWC_SEQ_W1.lim_en k.val e) = true ∧ (if s.flag (R.TWC_SEQ_W1.sgn k.val e)
            then sx 16 b.toNat < sx 16 (lo e) ∨ sx 16 (hi e) < sx 16 b.toNat else b.toNat < lo e ∨ hi e < b.toNat)
          ∃ t, exec (.seqEntryRun k bus) s = .next t ∧ Only [.twc] (stat :: seqRegs e) s t ∧ seqEnds e 0 b.toNat t
            ∧ t.twc = s.twc.set k { u with queue := r, sclWait := false }
            ∧ [Out.twc k.val scl [BitVec.ofNat 8 (2 * addr), BitVec.ofNat 8 (s.get (R.TWC_SEQ_W0.code k.val e)), BitVec.ofNat 8 (2 * addr + 1)]] <+: t.out
            ∧ (outside → alarms e t)
            ∧ (¬outside → t.flag (R.TWC_SEQ_W3.alarm k.val e) = false ∧ t.reg (R.TWC_ALARM.reg k.val (e / 32)) = s.reg (R.TWC_ALARM.reg k.val (e / 32))))
      ∧ (∀ e r, u.queue = e :: r → e < 256 → runs → go = false → 5 < s.get (R.TWC_SEQ_W0.kind k.val e) →
        ∃ t, exec (.seqEntryRun k bus) s = .next t ∧ Only [.twc] (seqRegs e) s t ∧ seqEnds e 9 0 t ∧ alarms e t ∧ t.twc = s.twc.set k { u with queue := r })

/-- Two-wire transactions run and end with their status; bus events end them. -/
def Obligations.TwoWireTransactionsRunAndEnd : Prop := Claim.HostTransactionsRunAndEnd ∧ Claim.BusEventsEndTransactions

/-! ## Counters, monitors, tags and dumps -/

/-- R431, R432: a write to PERF_CTRL with clear empties every counter and overflow bit; a counter takes what is written; a read of an even counter
chained to the next latches that one, whose read then gives what was latched. (Counters of events below 0x10 may count the write itself.) -/
def Claim.CountersAreClearedWrittenAndLatched : Prop :=
  ∀ (s : State) (route : Route) (data : Word) (i : Fin 128), s.quiet →
    let n := i.val
    let ctrl := R.PERF_CTRL.reg
    let high := ∀ j, j < 128 → 16 ≤ s.get (R.PERF_EVSEL.event j)
    let chained := s.flag (R.PERF_EVSEL.chain (n / 2 * 2 + 1)) = true
    let own := s.reg (R.PERF_CNT.reg n)
    let reads := fun (p : PerfS) (w : Word) => ∃ t, exec (.perfCntRead i) s = .next t ∧ Only [.perf] [] s t ∧ t.perf = p ∧ [Out.word w] <+: t.out
    (TakesWrite s route → ∃ t, exec (.perfClear route data) s = .next t ∧ Only [.perf, .hif] [ctrl] s t
        ∧ t.hif = s.journalled route 0 ctrl (data ||| 2#32) ∧ t.flag R.PERF_CTRL.run = data.getLsbD 0
        ∧ t.perf = { s.perf with stopSeen := s.perf.stopSeen || !data.getLsbD 0 }
        ∧ (high ∨ data.getLsbD 0 = false → t.reg (R.PERF_CNT.reg n) = 0 ∧ t.reg (R.PERF_OVF.reg (n / 32)) = 0))
      ∧ (TakesWrite s route → ∃ t, exec (.perfCntWrite route i data) s = .next t ∧ Only [.hif] [] s t
        ∧ t.hif = s.journalled route 0 (R.PERF_CNT.reg n) data
        ∧ (high ∨ s.perfOff → t.reg (R.PERF_CNT.reg n) = data ∧ ∀ j, j < 128 → j ≠ n → t.reg (R.PERF_CNT.reg j) = s.reg (R.PERF_CNT.reg j)))
      ∧ (n % 2 = 0 → ¬chained → reads s.perf own)
      ∧ (n % 2 = 0 → chained → reads { s.perf with latch := assocSet (n + 1) (s.reg (R.PERF_CNT.reg (n + 1))) s.perf.latch } own)
      ∧ (∀ w, n % 2 = 1 → chained → assocGet n s.perf.latch = some w → reads s.perf w)
      ∧ (n % 2 = 1 → ¬chained ∨ assocGet n s.perf.latch = none → reads s.perf own)

/-- R434 to R439: a write of a monitor's window starts it anew; one of a tagger's configuration, where its core is present, seeds and loads its countdown; the tag, and the
snapshot that waits, go to their ring as a record or, when it is full, are dropped and counted; a record
whose beats the power arbiter holds waits (R346); dumps are enabled where the ring is decoded memory. -/
def Claim.MonitorsTagsAndDumpsAreSetAndWritten : Prop :=
  ∀ (s : State) (route : Route) (data : Word) (m : Fin 28) (c : Fin 16), s.quiet → s.fab.upsets = [] →
    let win := R.PERF_BW_CFG.reg m.val
    let peak := R.PERF_BW_PEAK.reg m.val
    let writes := fun (i : Instr) (a : Nat) (ps : List Part) (rs : List Nat) (P : State → Prop) => ∃ t, exec i s = .next t
      ∧ Only (.hif :: ps) (a :: rs) s t ∧ t.hif = s.journalled route 0 a data ∧ P t
    let k := s.core c
    let tag := R.PERF_TAG_CFG.reg c.val
    let others := fun (t : State) => ∀ j, j ≠ c → t.core j = s.core j
    let loads := fun (kk : Nat) (x : BitVec 16) (t : State) => t.core c = { k with tagLeft := 2 ^ (max 1 kk - 1) + x.toNat % 2 ^ max 1 kk, lfsr := lfsrStep x }
    let seed := fieldGet 16 16 data
    let first := data.getLsbD 0 = true ∧ ∀ j, j < 16 → s.flag (R.PERF_TAG_CFG.en j) = false
    let ring := fun (lo hi len : Nat) => (lo + 2 ^ 32 * hi, min 4096 len)
    let tagRing := ring (s.get R.PERF_TAG_BASE.base) (s.get R.PERF_TAG_CFG_RING.base_hi) (s.get R.PERF_TAG_CFG_RING.len)
    let dumpRing := ring (s.get R.PERF_DUMP_BASE.base) (s.get R.PERF_DUMP_CFG.base_hi) (s.get R.PERF_DUMP_CFG.len)
    let tags := s.flag (R.PERF_TAG_CFG.en c.val) = true ∧ k.tagLeft = 0 ∧ k.run ≠ .stopped
    let isFull := fun (n e x : Nat) => n = 0 ∨ (e + 1) % n = x
    let te := s.get R.PERF_TAG_IDX.eidx
    let tn := s.perf.tagRing.2
    let a := k.acct
    let bytes := [a.pc + a.level * 2 ^ 16 + (if a.level = 1 then 2 ^ 18 else 0) + c.val * 2 ^ 19, a.pnl, a.cyc,
      a.fetch % 256 + a.second % 256 * 2 ^ 8 + a.fence % 256 * 2 ^ 16 + a.entry % 256 * 2 ^ 24, a.stalled, a.idle,
      a.words + a.classes * 8 + a.exec % 256 * 2 ^ 8, 0].flatMap (leBytes 4)
    let de := s.get R.PERF_DUMP_IDX.eidx
    let dn := s.perf.dumpRing.2
    let dat := s.perf.dumpRing.1 + 704 * de
    let stat := R.PERF_DUMP_STAT.reg
    let ctl := R.PERF_DUMP_CTL.reg
    let en := R.PERF_DUMP_CTL.en
    let inLarder := dumpRing.1 % 64 = 0 ∧ larderBase ≤ dumpRing.1 ∧ dumpRing.1 + 704 * dumpRing.2 ≤ larderBase + 0x1800000
    let stored := fun (t : State) => t.get R.PERF_DUMP_CTL.interval = fieldGet 16 16 data
    (TakesWrite s route → writes (.perfBwCfgWrite route m data) win [.perf] [peak] (fun t => t.get (R.PERF_BW_CFG.win m.val) = fieldGet 0 13 data
        ∧ t.reg peak = 0 ∧ t.perf = { s.perf with bw := s.perf.bw.set m.val none }))
      ∧ (s.sys.fuses.cores ≤ c.val → ∃ t, exec (.perfTagCfgWrite route c data) s = .next t ∧ Only [] [] s t)
      ∧ (TakesWrite s route → c.val < s.sys.fuses.cores → writes (.perfTagCfgWrite route c data) tag [.cores, .perf] [] (fun t => others t
        ∧ loads (fieldGet 1 4 data) (if seed = 0 then 0xACE1 else BitVec.ofNat 16 seed) t ∧ t.flag (R.PERF_TAG_CFG.en c.val) = data.getLsbD 0
        ∧ t.perf = { s.perf with tagRing := t.perf.tagRing } ∧ (first → t.perf.tagRing = tagRing) ∧ (¬first → t.perf.tagRing = s.perf.tagRing)))
      ∧ (tags → s.fab.dumpWork = [] → isFull tn te (s.get R.PERF_TAG_IDX.sidx) → ∃ t, exec (.tagCountdownExpiry c) s = .next t ∧ Only [.cores, .fab] [R.PERF_TAG_DROP.reg] s t
        ∧ others t ∧ loads (s.get (R.PERF_TAG_CFG.k c.val)) k.lfsr t ∧ t.get R.PERF_TAG_DROP.drops = (s.get R.PERF_TAG_DROP.drops + 1) % 2 ^ 32)
      ∧ (tags → ringMay s 38 2 → ¬isFull tn te (s.get R.PERF_TAG_IDX.sidx) → s.backs (s.perf.tagRing.1 + 32 * te) 32 → ∃ t, exec (.tagCountdownExpiry c) s = .next t
        ∧ Only [.cores, .mem, .fab, .perf, .free] (R.PERF_TAG_IDX.reg :: beatRegs) s t ∧ others t ∧ loads (s.get (R.PERF_TAG_CFG.k c.val)) k.lfsr t
        ∧ t.get R.PERF_TAG_IDX.eidx = (te + 1) % tn % 2 ^ 12 ∧ t.memByte = putAt (s.perf.tagRing.1 + 32 * te) bytes s.memByte)
      ∧ (tags → s.fab.dumpWork = [] → ¬isFull tn te (s.get R.PERF_TAG_IDX.sidx) → s.powerHeld 38 = true → ∃ t, exec (.tagCountdownExpiry c) s = .next t
        ∧ Only [.fab] [R.FAB_SV_STALLED.reg 0, R.FAB_SV_STALLED.reg 1] s t ∧ t.fab.dumpWork = [.write (lineWrites (s.perf.tagRing.1 + 32 * te) bytes) (.record (.tag c) s.sys.up)])
      ∧ (¬tags → ∃ t, exec (.tagCountdownExpiry c) s = .next t ∧ Only [] [] s t)
      ∧ (TakesWrite s route → s.flag en = false → data.getLsbD 0 = true → inLarder → writes (.perfDumpCtlWrite route data) ctl [.perf] [] (fun t =>
        stored t ∧ t.flag en = true ∧ t.perf = { s.perf with dumpRing := dumpRing }))
      ∧ (TakesWrite s route → s.flag en = false → data.getLsbD 0 = true → dumpRing.1 % 64 ≠ 0 → writes (.perfDumpCtlWrite route data) ctl [] [stat]
        (fun t => stored t ∧ t.flag en = false ∧ t.reg stat = fieldPut R.PERF_DUMP_STAT.cfg_err.lo 1 (s.reg stat) 1))
      ∧ (TakesWrite s route → s.flag en = true ∨ data.getLsbD 0 = false → writes (.perfDumpCtlWrite route data) ctl [] [] (fun t => stored t ∧ t.flag en = data.getLsbD 0))
      ∧ (∀ x, s.perf.snap = some x →
          (s.fab.dumpWork = [] → isFull dn de (s.get R.PERF_DUMP_IDX.sidx) → ∃ t, exec .dumpRecordWritten s = .next t ∧ Only [.perf, .fab] [stat, R.PERF_DUMP_DROP.reg] s t
            ∧ t.perf = { s.perf with snap := none } ∧ t.flag R.PERF_DUMP_STAT.pending = false
            ∧ t.get R.PERF_DUMP_DROP.drops = (s.get R.PERF_DUMP_DROP.drops + 1) % 2 ^ 32)
          ∧ (ringMay s 38 12 → ¬isFull dn de (s.get R.PERF_DUMP_IDX.sidx) → s.backs dat 704 → x.counters.length = 128 → x.bw.length = 28 → ∃ t, exec .dumpRecordWritten s = .next t
            ∧ Only [.mem, .fab, .perf, .free] ([stat, R.PERF_DUMP_IDX.reg] ++ beatRegs) s t ∧ t.perf.snap = none ∧ t.flag R.PERF_DUMP_STAT.pending = false
            ∧ t.flag R.PERF_DUMP_STAT.new_rec = true ∧ t.get R.PERF_DUMP_IDX.eidx = (de + 1) % dn % 2 ^ 12
            ∧ t.memByte = putAt dat (leBytes 4 0xB0101 ++ leBytes 4 x.seq ++ leBytes 8 x.pn ++ leBytes 4 x.wt ++ leBytes 4 x.flags ++ leBytes 4 x.interval
              ++ List.replicate 36 0 ++ (x.counters ++ x.bw).flatMap (fun w => leBytes 4 w.toNat) ++ List.replicate 16 0) s.memByte))
      ∧ (s.perf.snap = none → ∃ t, exec .dumpRecordWritten s = .next t ∧ Only [] [] s t)

/-- Counters are cleared, written and latched; monitors, tags and dumps are set and written. -/
def Obligations.CountersMonitorsTagsAndDumps : Prop := Claim.CountersAreClearedWrittenAndLatched ∧ Claim.MonitorsTagsAndDumpsAreSetAndWritten

/-! ## The flash passthrough -/

/-- R387: in RUN and SAFE a command to BOOT_FL_CMD starts its operation; a write or an erase beyond the idle slot sets err and raises class 1, as an
operation that is reserved, or one in another state, sets err; while one runs nothing starts. -/
def Claim.FlashOperationsStartInTheIdleSlot : Prop :=
  ∀ (s : State) (route : Route) (data status : Word), TakesWrite s route →
    let cmd := R.BOOT_FL_CMD.reg
    let word (op : Nat) : Word := (data &&& 0xFFFFFFF0#32) ||| BitVec.ofNat 32 (8 + op)
    let ops : List (Nat × Instr) := [(0, .flRead route data), (1, .flProgram route data), (2, .flErase4k route data), (3, .flErase64k route data),
      (4, .flReadStatus route data status)]
    let size (op : Nat) : Nat := match op with | 2 => 4096 | 3 => 65536 | _ => 256
    let addr := s.get R.BOOT_FL_ADDR.addr
    let half := s.boot.flashSize / 2
    let inA := fun (a n : Nat) => a + n ≤ half
    let inB := fun (a n : Nat) => half ≤ a ∧ a + n ≤ s.boot.flashSize
    let idle := fun (a n : Nat) => if s.image then (if s.boot.slot then inA a n else inB a n) else inA a n ∨ inB a n
    let isOpen := s.sys.state.isRun = true ∨ s.sys.state = .safe
    let busy := s.flag R.BOOT_FL_CMD.go = true
    let does := fun (i : Instr) (op : Nat) (ps : List Part) (rs : List Nat) (P : State → Prop) => ∃ t, exec i s = .next t
      ∧ Only (.hif :: ps) rs s t ∧ t.hif = s.journalled route 0 cmd (word op) ∧ P t
    let shows := fun (op : Nat) (err go : Bool) (t : State) => t.get R.BOOT_FL_CMD.op = op ∧ t.flag R.BOOT_FL_CMD.err = err ∧ t.flag R.BOOT_FL_CMD.go = go
    (∀ op i, (op, i) ∈ ops → let a := addr / size op * size op
        (busy → does i op [] [cmd] (shows op (s.flag R.BOOT_FL_CMD.err) true))
          ∧ (¬busy → ¬isOpen → does i op [] [cmd] (shows op true false))
          ∧ (¬busy → isOpen → op ∈ [1, 2, 3] → ¬idle a (size op) → does i op [.flt] (cmd :: lostRegs) (fun t => shows op true false t
            ∧ t.flt.queue = s.queueWith 1 0xD 2 a))
          ∧ (¬busy → isOpen → op ∈ [0, 4] ∨ idle a (size op) → does i op [.boot, .free] [cmd] (fun t => shows op false true t
            ∧ ∃ w, t.boot = { s.boot with flOp := some (op, a, w) } ∧ (op = 4 → w = status))))
      ∧ (let op := max 5 (fieldGet 0 3 data)
        (busy → does (.flInvalidOp route data) op [] [cmd] (shows op (s.flag R.BOOT_FL_CMD.err) true))
          ∧ (¬busy → does (.flInvalidOp route data) op [] [cmd] (shows op true false)))

/-- R387: when an operation completes, go is clear: a read has filled the buffer, a program has put its bytes where the flash was erased, an erase has
left all ones, a status read has put the status into the buffer; one that fails sets err, and what it was to write is not known; no other byte of the flash
has changed. -/
def Claim.FlashOperationsComplete : Prop :=
  ∀ (s : State) (ok : Bool) (op a : Nat) (w : Word), s.quiet →
    let n := if op = 2 then 4096 else if op = 3 then 65536 else 256
    let cmd := R.BOOT_FL_CMD.reg
    let bufs := (List.range 64).map R.BOOT_FL_BUF.reg
    let buf := fun (i : Nat) => BitVec.ofNat 8 (fieldGet (8 * (i % 4)) 8 (s.reg (R.BOOT_FL_BUF.reg (i / 4))))
    let does := fun (ps : List Part) (rs : List Nat) (P : State → Prop) => ∃ t, exec (.flOpComplete ok) s = .next t ∧ Only (.boot :: ps) (cmd :: rs) s t
      ∧ t.boot = { s.boot with flOp := none } ∧ t.flag R.BOOT_FL_CMD.go = false ∧ P t
        ∧ ∀ x, x < a ∨ a + n ≤ x → t.flashByte x = s.flashByte x
    (s.boot.flOp = some (op, a, w) →
        (ok = true → op = 0 → does [] bufs (fun t => ∀ i, i < 256 →
            fieldGet (8 * (i % 4)) 8 (t.reg (R.BOOT_FL_BUF.reg (i / 4))) = (s.flashByte (a + i)).toNat))
          ∧ (ok = true → op = 1 → does [.flash, .free] [] (fun t => ∀ i, i < 256 → s.flashByte (a + i) = 0xFF#8 ∨ s.flashByte (a + i) = buf i →
            t.flashByte (a + i) = buf i))
          ∧ (ok = true → op = 2 ∨ op = 3 → does [.flash] [] (fun t => ∀ i, i < n → t.flashByte (a + i) = 0xFF#8))
          ∧ (ok = true → op = 4 → does [] [R.BOOT_FL_BUF.reg 0] (fun t => t.reg (R.BOOT_FL_BUF.reg 0) = w))
          ∧ (ok = false → does [.flash, .free] [] (fun t => t.flag R.BOOT_FL_CMD.err = true ∧ (op = 0 ∨ op = 4 → t.flash = s.flash))))
      ∧ (s.boot.flOp = none → ∃ t, exec (.flOpComplete ok) s = .next t ∧ Only [] [] s t)

/-- Flash operations start in the idle slot alone, and complete as stated. -/
def Obligations.FlashOperationsStartAndComplete : Prop := Claim.FlashOperationsStartInTheIdleSlot ∧ Claim.FlashOperationsComplete

/-! ## The block as a whole -/

/-- R448: with TEST_EN high the engine does not operate: no command, and no passing of time, changes anything, and nothing is put out. -/
def Claim.TestEnableStopsTheEngine : Prop :=
  ∀ (i : Instr) (s : State), s.tap.testEn = true → exec i s = .next { s with out := [] } ∧ (s.pending = [] → step s = .next s)

/-- R448: five clocks with TMS high bring the TAP, from any state, to Test-Logic-Reset, and so does TRST_N low; from there IDCODE is selected, and
shifts out with 0x001 in bits 11 to 0, the variant in bits 27 to 12 and step_minor in bits 31 to 28, the least significant bit first; nothing of the
engine changes. -/
def Claim.TheTapResetsAndShowsItsIdcode : Prop :=
  ∀ (s : State) (tdi : Bool) (bits : List Bool),
    let clocks := fun (l : List Bool) (s : State) => l.foldl (fun s tms => tapClock tms tdi s) s
    let shifts := fun (s : State) => bits.foldl (fun s b => tapClock false b s) s
    let f := s.sys.fuses
    let engine := fun (t : State) => { t with tap := s.tap, free := s.free } = s
    let t := clocks [true, true, true, true, true] s
    let u := clocks [false, true, false, false] s
    (s.tap.trstN = false → ∀ tms, (tapClock tms tdi s).tap.state = .testLogicReset ∧ (tapClock tms tdi s).tap.ir = .idcode ∧ engine (tapClock tms tdi s))
      ∧ (t.tap.state = .testLogicReset ∧ engine t)
      ∧ (s.tap.trstN = true → s.tap.state = .testLogicReset → u.tap.state = .shiftDr ∧ u.tap.ir = .idcode ∧ engine u ∧ u.tap.shift.length = 32
        ∧ (∀ j, j < 32 → u.tap.shift[j]? = some (if j < 12 then decide (j = 0) else if j < 28 then f.digits.testBit (j - 12) else f.stepMinor.val.testBit (j - 28)))
        ∧ ∀ j, j + bits.length < 32 → (shifts u).tap.shift[j]? = u.tap.shift[j + bits.length]?)

/-- TEST_EN stops the engine; the TAP resets, and shows its IDCODE. -/
def Obligations.TestPinsStopTheEngineAndTheTapIdentifies : Prop := Claim.TestEnableStopsTheEngine ∧ Claim.TheTapResetsAndShowsItsIdcode

/-! ## The words of the core -/

/-- R125, R127: an instruction's word decodes to that instruction, every operand at every value: encoding and decoding drop no bit. What decodes from a
word has a word, which decodes to the same. -/
def Obligations.CoreWordsRoundTrip : Prop :=
  (∀ (i : Instr) (w : Word), encodeCoreWord i = some w → ∃ c, decodeCoreWord c w = some i)
    ∧ ∀ (c : Fin 16) (w : Word) (i : Instr), decodeCoreWord c w = some i → ∃ v, encodeCoreWord i = some v ∧ decodeCoreWord c v = some i

/-- R125, R127: words written out from the table of formats decode to the instructions they stand for. -/
def Claim.CoreWordsDecodeAsWritten : Prop :=
  let c : Fin 16 := 3
  let d := decodeCoreWord c
  d 0x00224000#32 = some (.add c true false 1 2 8) ∧ d 0xA0057FFD#32 = some (.cmpi c false 5 0x7FFD#15)
    ∧ d 0x1FF0ABCD#32 = some (.movhi c true 31 0xABCD#16) ∧ d 0x44864BFF#32 = some (.ldD c true 4 3 2 5 0x1FF#9)
    ∧ d 0x5DDE1208#32 = some (.sta c true true 6 15 0 1 8#9) ∧ d 0x6387E840#32 = some (.mac c true 7 1 31 2)
    ∧ d 0x70443233#32 = some (.fma c true true true 2 4 6 8) ∧ d 0x7BFFFFFC#32 = some (.call c true 0x3FFFFC#22)
    ∧ d 0x7CC0500A#32 = some (.loop c true 10 5) ∧ d 0x00224200#32 = none ∧ d 0x2C000000#32 = none

/-- R102, R125: a word of a reserved major, or with a field marked r that is not 0, or with lanes where one lane alone is allowed, is no instruction. -/
def Claim.ReservedCoreWordsAreNoInstructions : Prop :=
  ∀ (c : Fin 16) (w : Word),
    let major := bitsAt w 26 5
    let r := fun (lo n : Nat) => bitsAt w lo n ≠ 0
    let reserved := major ∈ [0x0B, 0x0C, 0x0D, 0x0E, 0x0F, 0x1B, 0x1D]
      ∨ major = 0x00 ∧ r 9 1 ∨ major = 0x07 ∧ r 16 4 ∨ major = 0x09 ∧ r 0 12 ∨ major = 0x0A ∧ r 16 6 ∨ major = 0x1A ∧ r 0 13
      ∨ major = 0x1F ∧ bitsAt w 22 4 = 4 ∧ r 0 7 ∨ major = 0x1F ∧ bitsAt w 22 4 = 2 ∧ r 0 18
      ∨ major = 0x1F ∧ bitsAt w 22 4 ∉ [2, 3, 4] ∧ r 0 22 ∨ major = 0x19 ∧ r 10 2 ∨ major = 0x18 ∧ bitsAt w 6 4 = 6 ∧ r 10 2
    reserved → decodeCoreWord c w = none

/-- Words written out from the formats decode to their instructions; reserved words are none. -/
def Obligations.WrittenCoreWordsDecodeAndReservedOnesDoNot : Prop := Claim.CoreWordsDecodeAsWritten ∧ Claim.ReservedCoreWordsAreNoInstructions

/-! ## The block as a whole -/

/-- A step takes the command at the front of the queue and is its effect on the state with the rest of the queue. -/
def Obligations.StepRunsTheFrontCommand : Prop :=
  ∀ (s : State) (c : Instr) (rest : List Instr), step { s with pending := c :: rest } = exec c { s with pending := rest }

/-- With no command waiting the block idles: in RESET, with TEST_EN high, and where the next boundary is due, nothing changes; else eight VCO cycles
pass, which only engine time, the time since power-on, the counters of time, a capture that ends, and the pulses whose time has come show. (The model's
choice: one CLK_PER cycle, log entry 29.) -/
def Claim.AnEmptyQueueIdles : Prop :=
  ∀ s : State, s.pending = [] →
    let due := s.tap.testEn = true ∨ s.sys.state = .reset ∨ s.perVco ≤ s.sys.et % s.perVco + 8
    let k := s.kiln
    let later := fun (u : Nat) => decide (s.sys.up + 8 < u)
    (due → step s = .next s)
      ∧ (¬due → ∃ t, step s = .next t ∧ Only [.sys, .kiln] [R.SYS_TIME_CAP.reg] s t ∧ t.irq = s.irq
        ∧ t.flag R.SYS_TIME_CAP.capture = false ∧ t.sys = { s.sys with et := s.sys.et + 8, up := s.sys.up + 8 }
        ∧ t.kiln = { k with pouts := k.pouts.filter later, ppss := k.ppss.filter later }
        ∧ (∀ o ∈ t.out, ∃ w high, o = .pulse w high ∨ o = .pps w high)
        ∧ (k.pouts.all later = true → k.ppss.all later = true → t.out = []))

/-- R6, R371, R373: what reset leaves: the engine in RESET with nothing under way and no command waiting, every register at the reset value of its table but for
SYS_RESET_CAUSE, which shows power-on, memory that reads zero, the cores stopped, no fault on record and no output enabled. -/
def Claim.ResetLeavesTheStatedValues : Prop :=
  let s := State.reset
  s.pending = [] ∧ s.out = [] ∧ s.sys.state = .reset ∧ (∀ a, a ≠ R.SYS_RESET_CAUSE.reg → s.reg a = regReset a) ∧ (∀ a, s.shReg a = regReset a)
    ∧ s.reg R.SYS_RESET_CAUSE.reg = 2 ∧ (∀ a, s.memByte a = 0) ∧ (∀ c, (s.core c).run = .stopped)
    ∧ s.flt.queue = [] ∧ s.flt.raised = [] ∧ (∀ c, (s.pwmCh c).drive = .off) ∧ s.hif.journal = [] ∧ s.irq.low = false ∧ s.on

/-- The invariant holds at reset. -/
def Claim.ResetMeetsTheInvariant : Prop := State.reset.Inv

/-- An empty queue idles; reset leaves the stated values, which meet the invariant. -/
def Obligations.IdleResetAndInvariantAtReset : Prop := Claim.AnEmptyQueueIdles ∧ Claim.ResetLeavesTheStatedValues ∧ Claim.ResetMeetsTheInvariant

/-- Every step keeps the invariant: memory, registers, shadow copies and flash in canonical form, at most one record in each of the fault queue's 64 slots (R394),
its count saturated at 65,535 and the last eight for class 3, and no fault left out of it. -/
def Obligations.EveryStepKeepsTheInvariant : Prop := ∀ s t : State, s.Inv → step s = .next t → t.Inv
end

