-- ==== Sys2Proof/Laws/Sparse.lean ====
section
/-!
SUPPORT. The laws of sparse data: a read after a write, the canonical form kept by every operation, and that equal reads
make equal data.
-/
namespace Sys2Proof.Machine

variable {w : Nat} {dflt : Nat → BitVec w}

/-- Whether key a lies above the bound lo. -/
def Sparse.above (lo : Option Nat) (a : Nat) : Prop := ∀ l, lo = some l → l < a

/-- The canonical form of a list with a first entry. -/
theorem Sparse.wfFrom_cons {lo : Option Nat} {a : Nat} {v : BitVec w} {t : Sparse w} :
    Sparse.wfFrom dflt lo ((a, v) :: t) = true ↔ Sparse.above lo a ∧ v ≠ dflt a ∧ Sparse.wfFrom dflt (some a) t = true := by
  cases lo <;> simp [Sparse.wfFrom, Sparse.above, and_assoc]

/-- A lower bound may be lowered. -/
theorem Sparse.wfFrom_mono {lo lo' : Option Nat} {m : Sparse w} (h : Sparse.wfFrom dflt lo m = true)
    (hl : ∀ a, Sparse.above lo a → Sparse.above lo' a) : Sparse.wfFrom dflt lo' m = true := by
  cases m with
  | nil => rfl
  | cons p t => obtain ⟨a, v⟩ := p; rw [Sparse.wfFrom_cons] at h ⊢; exact ⟨hl a h.1, h.2⟩

/-- Dropping entries keeps the canonical form. -/
theorem Sparse.wfFrom_filter {lo : Option Nat} {m : Sparse w} (f : Nat × BitVec w → Bool)
    (h : Sparse.wfFrom dflt lo m = true) : Sparse.wfFrom dflt lo (m.filter f) = true := by
  induction m generalizing lo with
  | nil => rfl
  | cons p t ih =>
    obtain ⟨a, v⟩ := p
    rw [Sparse.wfFrom_cons] at h
    rw [List.filter_cons]
    split
    · rw [Sparse.wfFrom_cons]; exact ⟨h.1, h.2.1, ih h.2.2⟩
    · refine ih (Sparse.wfFrom_mono h.2.2 ?_)
      intro b hb l hl
      exact Nat.lt_trans (h.1 l hl) (hb a rfl)

/-- An insertion of a value that an unlisted key does not hold keeps the canonical form. -/
theorem Sparse.wfFrom_insert {lo : Option Nat} {m : Sparse w} {k : Nat} {v : BitVec w} (h : Sparse.wfFrom dflt lo m = true)
    (hk : Sparse.above lo k) (hv : v ≠ dflt k) : Sparse.wfFrom dflt lo (Sparse.insert k v m) = true := by
  induction m generalizing lo with
  | nil => simp only [Sparse.insert]; rw [Sparse.wfFrom_cons]; exact ⟨hk, hv, rfl⟩
  | cons p t ih =>
    obtain ⟨a, x⟩ := p
    rw [Sparse.wfFrom_cons] at h
    simp only [Sparse.insert]
    split
    · rename_i hka
      rw [Sparse.wfFrom_cons]
      refine ⟨hk, hv, ?_⟩
      rw [Sparse.wfFrom_cons]
      exact ⟨fun l hl => by cases hl; exact hka, h.2⟩
    · split
      · rename_i hka
        subst hka
        rw [Sparse.wfFrom_cons]
        exact ⟨hk, hv, h.2.2⟩
      · rw [Sparse.wfFrom_cons]
        exact ⟨h.1, h.2.1, ih h.2.2 (fun l hl => by cases hl; omega)⟩

/-- A write keeps the canonical form. -/
theorem Sparse.wf_set {m : Sparse w} (k : Nat) (v : BitVec w) (h : Sparse.wf dflt m = true) :
    Sparse.wf dflt (Sparse.set dflt m k v) = true := by
  unfold Sparse.set
  split
  · exact Sparse.wfFrom_filter _ h
  · rename_i hv
    exact Sparse.wfFrom_insert h (fun _ hl => nomatch hl) hv

/-- Dropping entries keeps the canonical form. -/
theorem Sparse.wf_filter {m : Sparse w} (f : Nat × BitVec w → Bool) (h : Sparse.wf dflt m = true) :
    Sparse.wf dflt (m.filter f) = true := Sparse.wfFrom_filter f h

/-- A key below every entry holds what an unlisted key holds. -/
theorem Sparse.get_below {m : Sparse w} {lo k : Nat} (h : Sparse.wfFrom dflt (some lo) m = true) (hk : k ≤ lo) :
    Sparse.get dflt m k = dflt k := by
  induction m generalizing lo with
  | nil => rfl
  | cons p t ih =>
    obtain ⟨a, x⟩ := p
    rw [Sparse.wfFrom_cons] at h
    have : lo < a := h.1 lo rfl
    simp only [Sparse.get]
    rw [if_neg (by omega)]
    exact ih h.2.2 (by omega)

/-- A read of an inserted entry. -/
theorem Sparse.get_insert_self {m : Sparse w} {k : Nat} {v : BitVec w} :
    Sparse.get dflt (Sparse.insert k v m) k = v := by
  induction m with
  | nil => simp [Sparse.insert, Sparse.get]
  | cons p t ih =>
    obtain ⟨a, x⟩ := p
    simp only [Sparse.insert]
    split
    · simp [Sparse.get]
    · split
      · simp [Sparse.get]
      · rename_i h; simp [Sparse.get, h, ih]

/-- An insertion leaves every other key. -/
theorem Sparse.get_insert_other {m : Sparse w} {k j : Nat} {v : BitVec w} (h : j ≠ k) :
    Sparse.get dflt (Sparse.insert k v m) j = Sparse.get dflt m j := by
  induction m with
  | nil => simp [Sparse.insert, Sparse.get, Ne.symm h]
  | cons p t ih =>
    obtain ⟨a, x⟩ := p
    simp only [Sparse.insert]
    split
    · simp [Sparse.get, Ne.symm h]
    · split
      · rename_i hak; subst hak; simp [Sparse.get, Ne.symm h]
      · simp [Sparse.get, ih]

/-- Dropping one key leaves every other. -/
theorem Sparse.get_drop_other {m : Sparse w} {k j : Nat} (h : j ≠ k) :
    Sparse.get dflt (m.filter (fun p => p.1 != k)) j = Sparse.get dflt m j := by
  induction m with
  | nil => rfl
  | cons p t ih =>
    obtain ⟨a, x⟩ := p
    rw [List.filter_cons]
    split
    · simp [Sparse.get, ih]
    · rename_i hak
      have : a = k := by simpa using hak
      simp [Sparse.get, ih, this, Ne.symm h]

/-- A dropped key reads as unlisted. -/
theorem Sparse.get_drop_self {m : Sparse w} {k : Nat} :
    Sparse.get dflt (m.filter (fun p => p.1 != k)) k = dflt k := by
  induction m with
  | nil => rfl
  | cons p t ih =>
    obtain ⟨a, x⟩ := p
    rw [List.filter_cons]
    split
    · rename_i h; have : a ≠ k := by simpa using h
      simp [Sparse.get, ih, this]
    · exact ih

/-- A read after a write to the same key gives the value written. -/
@[simp] theorem Sparse.get_set_self {m : Sparse w} {k : Nat} {v : BitVec w} :
    Sparse.get dflt (Sparse.set dflt m k v) k = v := by
  unfold Sparse.set
  split
  · rename_i h; rw [Sparse.get_drop_self, h]
  · exact Sparse.get_insert_self

/-- A write leaves every other key alone. -/
theorem Sparse.get_set_other {m : Sparse w} {k j : Nat} {v : BitVec w} (h : j ≠ k) :
    Sparse.get dflt (Sparse.set dflt m k v) j = Sparse.get dflt m j := by
  unfold Sparse.set
  split
  · exact Sparse.get_drop_other h
  · exact Sparse.get_insert_other h

/-- A read after a write. -/
theorem Sparse.get_set {m : Sparse w} {k j : Nat} {v : BitVec w} :
    Sparse.get dflt (Sparse.set dflt m k v) j = if j = k then v else Sparse.get dflt m j := by
  split
  · rename_i h; subst h; exact Sparse.get_set_self
  · rename_i h; exact Sparse.get_set_other h

/-- Two canonical lists that read alike are equal. -/
theorem Sparse.ext {m m' : Sparse w} {lo lo' : Option Nat} (h : Sparse.wfFrom dflt lo m = true)
    (h' : Sparse.wfFrom dflt lo' m' = true) (e : ∀ k, Sparse.get dflt m k = Sparse.get dflt m' k) : m = m' := by
  induction m generalizing m' lo lo' with
  | nil =>
    cases m' with
    | nil => rfl
    | cons p t =>
      obtain ⟨a, x⟩ := p
      rw [Sparse.wfFrom_cons] at h'
      have := e a
      simp [Sparse.get] at this
      exact absurd this.symm h'.2.1
  | cons p t ih =>
    obtain ⟨a, x⟩ := p
    rw [Sparse.wfFrom_cons] at h
    cases m' with
    | nil =>
      have := e a
      simp [Sparse.get] at this
      exact absurd this h.2.1
    | cons q t' =>
      obtain ⟨b, y⟩ := q
      rw [Sparse.wfFrom_cons] at h'
      have hab : a = b := by
        rcases Nat.lt_trichotomy a b with hl | he | hg
        · have := e a
          simp only [Sparse.get, if_true, if_neg (show b ≠ a by omega)] at this
          rw [Sparse.get_below h'.2.2 (by omega)] at this
          exact absurd this h.2.1
        · exact he
        · have := e b
          simp only [Sparse.get, if_true, if_neg (show a ≠ b by omega)] at this
          rw [Sparse.get_below h.2.2 (by omega)] at this
          exact absurd this.symm h'.2.1
      subst hab
      have hxy : x = y := by have := e a; simpa [Sparse.get] using this
      subst hxy
      have : t = t' := by
        refine ih h.2.2 h'.2.2 (fun k => ?_)
        by_cases hk : k ≤ a
        · rw [Sparse.get_below h.2.2 hk, Sparse.get_below h'.2.2 hk]
        · have := e k
          simpa [Sparse.get, show a ≠ k by omega] using this
      rw [this]

end Sys2Proof.Machine
end

