-- ==== Sys2Proof/Laws/State.lean ====
section
/-!
SUPPORT. One lemma per field per named update of the state: what an update leaves, and what the field it changes holds.
-/
namespace Sys2Proof.Machine

variable (s : State)

/-! ### State.setReg -/

@[simp] theorem State.setReg_sys (a : Nat) (v : Word) : (s.setReg a v).sys = s.sys := rfl
@[simp] theorem State.setReg_tap (a : Nat) (v : Word) : (s.setReg a v).tap = s.tap := rfl
@[simp] theorem State.setReg_regs (a : Nat) (v : Word) : (s.setReg a v).regs = Sparse.set regReset s.regs a v := rfl
@[simp] theorem State.setReg_shadow (a : Nat) (v : Word) : (s.setReg a v).shadow = s.shadow := rfl
@[simp] theorem State.setReg_mem (a : Nat) (v : Word) : (s.setReg a v).mem = s.mem := rfl
@[simp] theorem State.setReg_flash (a : Nat) (v : Word) : (s.setReg a v).flash = s.flash := rfl
@[simp] theorem State.setReg_boot (a : Nat) (v : Word) : (s.setReg a v).boot = s.boot := rfl
@[simp] theorem State.setReg_flt (a : Nat) (v : Word) : (s.setReg a v).flt = s.flt := rfl
@[simp] theorem State.setReg_hif (a : Nat) (v : Word) : (s.setReg a v).hif = s.hif := rfl
@[simp] theorem State.setReg_irq (a : Nat) (v : Word) : (s.setReg a v).irq = s.irq := rfl
@[simp] theorem State.setReg_cores (a : Nat) (v : Word) : (s.setReg a v).cores = s.cores := rfl
@[simp] theorem State.setReg_cio (a : Nat) (v : Word) : (s.setReg a v).cio = s.cio := rfl
@[simp] theorem State.setReg_fab (a : Nat) (v : Word) : (s.setReg a v).fab = s.fab := rfl
@[simp] theorem State.setReg_cask (a : Nat) (v : Word) : (s.setReg a v).cask = s.cask := rfl
@[simp] theorem State.setReg_mash (a : Nat) (v : Word) : (s.setReg a v).mash = s.mash := rfl
@[simp] theorem State.setReg_xio (a : Nat) (v : Word) : (s.setReg a v).xio = s.xio := rfl
@[simp] theorem State.setReg_pwm (a : Nat) (v : Word) : (s.setReg a v).pwm = s.pwm := rfl
@[simp] theorem State.setReg_eth (a : Nat) (v : Word) : (s.setReg a v).eth = s.eth := rfl
@[simp] theorem State.setReg_ptp (a : Nat) (v : Word) : (s.setReg a v).ptp = s.ptp := rfl
@[simp] theorem State.setReg_sxe (a : Nat) (v : Word) : (s.setReg a v).sxe = s.sxe := rfl
@[simp] theorem State.setReg_kiln (a : Nat) (v : Word) : (s.setReg a v).kiln = s.kiln := rfl
@[simp] theorem State.setReg_twin (a : Nat) (v : Word) : (s.setReg a v).twin = s.twin := rfl
@[simp] theorem State.setReg_twc (a : Nat) (v : Word) : (s.setReg a v).twc = s.twc := rfl
@[simp] theorem State.setReg_perf (a : Nat) (v : Word) : (s.setReg a v).perf = s.perf := rfl
@[simp] theorem State.setReg_free (a : Nat) (v : Word) : (s.setReg a v).free = s.free := rfl
@[simp] theorem State.setReg_out (a : Nat) (v : Word) : (s.setReg a v).out = s.out := rfl
@[simp] theorem State.setReg_pending (a : Nat) (v : Word) : (s.setReg a v).pending = s.pending := rfl

/-! ### State.setShReg -/

@[simp] theorem State.setShReg_sys (a : Nat) (v : Word) : (s.setShReg a v).sys = s.sys := rfl
@[simp] theorem State.setShReg_tap (a : Nat) (v : Word) : (s.setShReg a v).tap = s.tap := rfl
@[simp] theorem State.setShReg_regs (a : Nat) (v : Word) : (s.setShReg a v).regs = s.regs := rfl
@[simp] theorem State.setShReg_shadow (a : Nat) (v : Word) : (s.setShReg a v).shadow = Sparse.set regReset s.shadow a v := rfl
@[simp] theorem State.setShReg_mem (a : Nat) (v : Word) : (s.setShReg a v).mem = s.mem := rfl
@[simp] theorem State.setShReg_flash (a : Nat) (v : Word) : (s.setShReg a v).flash = s.flash := rfl
@[simp] theorem State.setShReg_boot (a : Nat) (v : Word) : (s.setShReg a v).boot = s.boot := rfl
@[simp] theorem State.setShReg_flt (a : Nat) (v : Word) : (s.setShReg a v).flt = s.flt := rfl
@[simp] theorem State.setShReg_hif (a : Nat) (v : Word) : (s.setShReg a v).hif = s.hif := rfl
@[simp] theorem State.setShReg_irq (a : Nat) (v : Word) : (s.setShReg a v).irq = s.irq := rfl
@[simp] theorem State.setShReg_cores (a : Nat) (v : Word) : (s.setShReg a v).cores = s.cores := rfl
@[simp] theorem State.setShReg_cio (a : Nat) (v : Word) : (s.setShReg a v).cio = s.cio := rfl
@[simp] theorem State.setShReg_fab (a : Nat) (v : Word) : (s.setShReg a v).fab = s.fab := rfl
@[simp] theorem State.setShReg_cask (a : Nat) (v : Word) : (s.setShReg a v).cask = s.cask := rfl
@[simp] theorem State.setShReg_mash (a : Nat) (v : Word) : (s.setShReg a v).mash = s.mash := rfl
@[simp] theorem State.setShReg_xio (a : Nat) (v : Word) : (s.setShReg a v).xio = s.xio := rfl
@[simp] theorem State.setShReg_pwm (a : Nat) (v : Word) : (s.setShReg a v).pwm = s.pwm := rfl
@[simp] theorem State.setShReg_eth (a : Nat) (v : Word) : (s.setShReg a v).eth = s.eth := rfl
@[simp] theorem State.setShReg_ptp (a : Nat) (v : Word) : (s.setShReg a v).ptp = s.ptp := rfl
@[simp] theorem State.setShReg_sxe (a : Nat) (v : Word) : (s.setShReg a v).sxe = s.sxe := rfl
@[simp] theorem State.setShReg_kiln (a : Nat) (v : Word) : (s.setShReg a v).kiln = s.kiln := rfl
@[simp] theorem State.setShReg_twin (a : Nat) (v : Word) : (s.setShReg a v).twin = s.twin := rfl
@[simp] theorem State.setShReg_twc (a : Nat) (v : Word) : (s.setShReg a v).twc = s.twc := rfl
@[simp] theorem State.setShReg_perf (a : Nat) (v : Word) : (s.setShReg a v).perf = s.perf := rfl
@[simp] theorem State.setShReg_free (a : Nat) (v : Word) : (s.setShReg a v).free = s.free := rfl
@[simp] theorem State.setShReg_out (a : Nat) (v : Word) : (s.setShReg a v).out = s.out := rfl
@[simp] theorem State.setShReg_pending (a : Nat) (v : Word) : (s.setShReg a v).pending = s.pending := rfl

/-! ### State.put -/

@[simp] theorem State.put_sys (l : Loc) (v : Nat) : (s.put l v).sys = s.sys := rfl
@[simp] theorem State.put_tap (l : Loc) (v : Nat) : (s.put l v).tap = s.tap := rfl
@[simp] theorem State.put_regs (l : Loc) (v : Nat) : (s.put l v).regs = Sparse.set regReset s.regs l.addr (fieldPut l.lo l.w (s.reg l.addr) v) := rfl
@[simp] theorem State.put_shadow (l : Loc) (v : Nat) : (s.put l v).shadow = s.shadow := rfl
@[simp] theorem State.put_mem (l : Loc) (v : Nat) : (s.put l v).mem = s.mem := rfl
@[simp] theorem State.put_flash (l : Loc) (v : Nat) : (s.put l v).flash = s.flash := rfl
@[simp] theorem State.put_boot (l : Loc) (v : Nat) : (s.put l v).boot = s.boot := rfl
@[simp] theorem State.put_flt (l : Loc) (v : Nat) : (s.put l v).flt = s.flt := rfl
@[simp] theorem State.put_hif (l : Loc) (v : Nat) : (s.put l v).hif = s.hif := rfl
@[simp] theorem State.put_irq (l : Loc) (v : Nat) : (s.put l v).irq = s.irq := rfl
@[simp] theorem State.put_cores (l : Loc) (v : Nat) : (s.put l v).cores = s.cores := rfl
@[simp] theorem State.put_cio (l : Loc) (v : Nat) : (s.put l v).cio = s.cio := rfl
@[simp] theorem State.put_fab (l : Loc) (v : Nat) : (s.put l v).fab = s.fab := rfl
@[simp] theorem State.put_cask (l : Loc) (v : Nat) : (s.put l v).cask = s.cask := rfl
@[simp] theorem State.put_mash (l : Loc) (v : Nat) : (s.put l v).mash = s.mash := rfl
@[simp] theorem State.put_xio (l : Loc) (v : Nat) : (s.put l v).xio = s.xio := rfl
@[simp] theorem State.put_pwm (l : Loc) (v : Nat) : (s.put l v).pwm = s.pwm := rfl
@[simp] theorem State.put_eth (l : Loc) (v : Nat) : (s.put l v).eth = s.eth := rfl
@[simp] theorem State.put_ptp (l : Loc) (v : Nat) : (s.put l v).ptp = s.ptp := rfl
@[simp] theorem State.put_sxe (l : Loc) (v : Nat) : (s.put l v).sxe = s.sxe := rfl
@[simp] theorem State.put_kiln (l : Loc) (v : Nat) : (s.put l v).kiln = s.kiln := rfl
@[simp] theorem State.put_twin (l : Loc) (v : Nat) : (s.put l v).twin = s.twin := rfl
@[simp] theorem State.put_twc (l : Loc) (v : Nat) : (s.put l v).twc = s.twc := rfl
@[simp] theorem State.put_perf (l : Loc) (v : Nat) : (s.put l v).perf = s.perf := rfl
@[simp] theorem State.put_free (l : Loc) (v : Nat) : (s.put l v).free = s.free := rfl
@[simp] theorem State.put_out (l : Loc) (v : Nat) : (s.put l v).out = s.out := rfl
@[simp] theorem State.put_pending (l : Loc) (v : Nat) : (s.put l v).pending = s.pending := rfl

/-! ### State.mark -/

@[simp] theorem State.mark_sys (l : Loc) : (s.mark l).sys = s.sys := rfl
@[simp] theorem State.mark_tap (l : Loc) : (s.mark l).tap = s.tap := rfl
@[simp] theorem State.mark_shadow (l : Loc) : (s.mark l).shadow = s.shadow := rfl
@[simp] theorem State.mark_mem (l : Loc) : (s.mark l).mem = s.mem := rfl
@[simp] theorem State.mark_flash (l : Loc) : (s.mark l).flash = s.flash := rfl
@[simp] theorem State.mark_boot (l : Loc) : (s.mark l).boot = s.boot := rfl
@[simp] theorem State.mark_flt (l : Loc) : (s.mark l).flt = s.flt := rfl
@[simp] theorem State.mark_hif (l : Loc) : (s.mark l).hif = s.hif := rfl
@[simp] theorem State.mark_irq (l : Loc) : (s.mark l).irq = s.irq := rfl
@[simp] theorem State.mark_cores (l : Loc) : (s.mark l).cores = s.cores := rfl
@[simp] theorem State.mark_cio (l : Loc) : (s.mark l).cio = s.cio := rfl
@[simp] theorem State.mark_fab (l : Loc) : (s.mark l).fab = s.fab := rfl
@[simp] theorem State.mark_cask (l : Loc) : (s.mark l).cask = s.cask := rfl
@[simp] theorem State.mark_mash (l : Loc) : (s.mark l).mash = s.mash := rfl
@[simp] theorem State.mark_xio (l : Loc) : (s.mark l).xio = s.xio := rfl
@[simp] theorem State.mark_pwm (l : Loc) : (s.mark l).pwm = s.pwm := rfl
@[simp] theorem State.mark_eth (l : Loc) : (s.mark l).eth = s.eth := rfl
@[simp] theorem State.mark_ptp (l : Loc) : (s.mark l).ptp = s.ptp := rfl
@[simp] theorem State.mark_sxe (l : Loc) : (s.mark l).sxe = s.sxe := rfl
@[simp] theorem State.mark_kiln (l : Loc) : (s.mark l).kiln = s.kiln := rfl
@[simp] theorem State.mark_twin (l : Loc) : (s.mark l).twin = s.twin := rfl
@[simp] theorem State.mark_twc (l : Loc) : (s.mark l).twc = s.twc := rfl
@[simp] theorem State.mark_perf (l : Loc) : (s.mark l).perf = s.perf := rfl
@[simp] theorem State.mark_free (l : Loc) : (s.mark l).free = s.free := rfl
@[simp] theorem State.mark_out (l : Loc) : (s.mark l).out = s.out := rfl
@[simp] theorem State.mark_pending (l : Loc) : (s.mark l).pending = s.pending := rfl

/-! ### State.unmark -/

@[simp] theorem State.unmark_sys (l : Loc) : (s.unmark l).sys = s.sys := rfl
@[simp] theorem State.unmark_tap (l : Loc) : (s.unmark l).tap = s.tap := rfl
@[simp] theorem State.unmark_shadow (l : Loc) : (s.unmark l).shadow = s.shadow := rfl
@[simp] theorem State.unmark_mem (l : Loc) : (s.unmark l).mem = s.mem := rfl
@[simp] theorem State.unmark_flash (l : Loc) : (s.unmark l).flash = s.flash := rfl
@[simp] theorem State.unmark_boot (l : Loc) : (s.unmark l).boot = s.boot := rfl
@[simp] theorem State.unmark_flt (l : Loc) : (s.unmark l).flt = s.flt := rfl
@[simp] theorem State.unmark_hif (l : Loc) : (s.unmark l).hif = s.hif := rfl
@[simp] theorem State.unmark_irq (l : Loc) : (s.unmark l).irq = s.irq := rfl
@[simp] theorem State.unmark_cores (l : Loc) : (s.unmark l).cores = s.cores := rfl
@[simp] theorem State.unmark_cio (l : Loc) : (s.unmark l).cio = s.cio := rfl
@[simp] theorem State.unmark_fab (l : Loc) : (s.unmark l).fab = s.fab := rfl
@[simp] theorem State.unmark_cask (l : Loc) : (s.unmark l).cask = s.cask := rfl
@[simp] theorem State.unmark_mash (l : Loc) : (s.unmark l).mash = s.mash := rfl
@[simp] theorem State.unmark_xio (l : Loc) : (s.unmark l).xio = s.xio := rfl
@[simp] theorem State.unmark_pwm (l : Loc) : (s.unmark l).pwm = s.pwm := rfl
@[simp] theorem State.unmark_eth (l : Loc) : (s.unmark l).eth = s.eth := rfl
@[simp] theorem State.unmark_ptp (l : Loc) : (s.unmark l).ptp = s.ptp := rfl
@[simp] theorem State.unmark_sxe (l : Loc) : (s.unmark l).sxe = s.sxe := rfl
@[simp] theorem State.unmark_kiln (l : Loc) : (s.unmark l).kiln = s.kiln := rfl
@[simp] theorem State.unmark_twin (l : Loc) : (s.unmark l).twin = s.twin := rfl
@[simp] theorem State.unmark_twc (l : Loc) : (s.unmark l).twc = s.twc := rfl
@[simp] theorem State.unmark_perf (l : Loc) : (s.unmark l).perf = s.perf := rfl
@[simp] theorem State.unmark_free (l : Loc) : (s.unmark l).free = s.free := rfl
@[simp] theorem State.unmark_out (l : Loc) : (s.unmark l).out = s.out := rfl
@[simp] theorem State.unmark_pending (l : Loc) : (s.unmark l).pending = s.pending := rfl

/-! ### State.bump -/

@[simp] theorem State.bump_sys (l : Loc) (n : Nat) : (s.bump l n).sys = s.sys := rfl
@[simp] theorem State.bump_tap (l : Loc) (n : Nat) : (s.bump l n).tap = s.tap := rfl
@[simp] theorem State.bump_shadow (l : Loc) (n : Nat) : (s.bump l n).shadow = s.shadow := rfl
@[simp] theorem State.bump_mem (l : Loc) (n : Nat) : (s.bump l n).mem = s.mem := rfl
@[simp] theorem State.bump_flash (l : Loc) (n : Nat) : (s.bump l n).flash = s.flash := rfl
@[simp] theorem State.bump_boot (l : Loc) (n : Nat) : (s.bump l n).boot = s.boot := rfl
@[simp] theorem State.bump_flt (l : Loc) (n : Nat) : (s.bump l n).flt = s.flt := rfl
@[simp] theorem State.bump_hif (l : Loc) (n : Nat) : (s.bump l n).hif = s.hif := rfl
@[simp] theorem State.bump_irq (l : Loc) (n : Nat) : (s.bump l n).irq = s.irq := rfl
@[simp] theorem State.bump_cores (l : Loc) (n : Nat) : (s.bump l n).cores = s.cores := rfl
@[simp] theorem State.bump_cio (l : Loc) (n : Nat) : (s.bump l n).cio = s.cio := rfl
@[simp] theorem State.bump_fab (l : Loc) (n : Nat) : (s.bump l n).fab = s.fab := rfl
@[simp] theorem State.bump_cask (l : Loc) (n : Nat) : (s.bump l n).cask = s.cask := rfl
@[simp] theorem State.bump_mash (l : Loc) (n : Nat) : (s.bump l n).mash = s.mash := rfl
@[simp] theorem State.bump_xio (l : Loc) (n : Nat) : (s.bump l n).xio = s.xio := rfl
@[simp] theorem State.bump_pwm (l : Loc) (n : Nat) : (s.bump l n).pwm = s.pwm := rfl
@[simp] theorem State.bump_eth (l : Loc) (n : Nat) : (s.bump l n).eth = s.eth := rfl
@[simp] theorem State.bump_ptp (l : Loc) (n : Nat) : (s.bump l n).ptp = s.ptp := rfl
@[simp] theorem State.bump_sxe (l : Loc) (n : Nat) : (s.bump l n).sxe = s.sxe := rfl
@[simp] theorem State.bump_kiln (l : Loc) (n : Nat) : (s.bump l n).kiln = s.kiln := rfl
@[simp] theorem State.bump_twin (l : Loc) (n : Nat) : (s.bump l n).twin = s.twin := rfl
@[simp] theorem State.bump_twc (l : Loc) (n : Nat) : (s.bump l n).twc = s.twc := rfl
@[simp] theorem State.bump_perf (l : Loc) (n : Nat) : (s.bump l n).perf = s.perf := rfl
@[simp] theorem State.bump_free (l : Loc) (n : Nat) : (s.bump l n).free = s.free := rfl
@[simp] theorem State.bump_out (l : Loc) (n : Nat) : (s.bump l n).out = s.out := rfl
@[simp] theorem State.bump_pending (l : Loc) (n : Nat) : (s.bump l n).pending = s.pending := rfl

/-! ### State.bumpSat -/

@[simp] theorem State.bumpSat_sys (l : Loc) : (s.bumpSat l).sys = s.sys := rfl
@[simp] theorem State.bumpSat_tap (l : Loc) : (s.bumpSat l).tap = s.tap := rfl
@[simp] theorem State.bumpSat_shadow (l : Loc) : (s.bumpSat l).shadow = s.shadow := rfl
@[simp] theorem State.bumpSat_mem (l : Loc) : (s.bumpSat l).mem = s.mem := rfl
@[simp] theorem State.bumpSat_flash (l : Loc) : (s.bumpSat l).flash = s.flash := rfl
@[simp] theorem State.bumpSat_boot (l : Loc) : (s.bumpSat l).boot = s.boot := rfl
@[simp] theorem State.bumpSat_flt (l : Loc) : (s.bumpSat l).flt = s.flt := rfl
@[simp] theorem State.bumpSat_hif (l : Loc) : (s.bumpSat l).hif = s.hif := rfl
@[simp] theorem State.bumpSat_irq (l : Loc) : (s.bumpSat l).irq = s.irq := rfl
@[simp] theorem State.bumpSat_cores (l : Loc) : (s.bumpSat l).cores = s.cores := rfl
@[simp] theorem State.bumpSat_cio (l : Loc) : (s.bumpSat l).cio = s.cio := rfl
@[simp] theorem State.bumpSat_fab (l : Loc) : (s.bumpSat l).fab = s.fab := rfl
@[simp] theorem State.bumpSat_cask (l : Loc) : (s.bumpSat l).cask = s.cask := rfl
@[simp] theorem State.bumpSat_mash (l : Loc) : (s.bumpSat l).mash = s.mash := rfl
@[simp] theorem State.bumpSat_xio (l : Loc) : (s.bumpSat l).xio = s.xio := rfl
@[simp] theorem State.bumpSat_pwm (l : Loc) : (s.bumpSat l).pwm = s.pwm := rfl
@[simp] theorem State.bumpSat_eth (l : Loc) : (s.bumpSat l).eth = s.eth := rfl
@[simp] theorem State.bumpSat_ptp (l : Loc) : (s.bumpSat l).ptp = s.ptp := rfl
@[simp] theorem State.bumpSat_sxe (l : Loc) : (s.bumpSat l).sxe = s.sxe := rfl
@[simp] theorem State.bumpSat_kiln (l : Loc) : (s.bumpSat l).kiln = s.kiln := rfl
@[simp] theorem State.bumpSat_twin (l : Loc) : (s.bumpSat l).twin = s.twin := rfl
@[simp] theorem State.bumpSat_twc (l : Loc) : (s.bumpSat l).twc = s.twc := rfl
@[simp] theorem State.bumpSat_perf (l : Loc) : (s.bumpSat l).perf = s.perf := rfl
@[simp] theorem State.bumpSat_free (l : Loc) : (s.bumpSat l).free = s.free := rfl
@[simp] theorem State.bumpSat_out (l : Loc) : (s.bumpSat l).out = s.out := rfl
@[simp] theorem State.bumpSat_pending (l : Loc) : (s.bumpSat l).pending = s.pending := rfl

/-! ### State.emit -/

@[simp] theorem State.emit_sys (o : Out) : (s.emit o).sys = s.sys := rfl
@[simp] theorem State.emit_tap (o : Out) : (s.emit o).tap = s.tap := rfl
@[simp] theorem State.emit_regs (o : Out) : (s.emit o).regs = s.regs := rfl
@[simp] theorem State.emit_shadow (o : Out) : (s.emit o).shadow = s.shadow := rfl
@[simp] theorem State.emit_mem (o : Out) : (s.emit o).mem = s.mem := rfl
@[simp] theorem State.emit_flash (o : Out) : (s.emit o).flash = s.flash := rfl
@[simp] theorem State.emit_boot (o : Out) : (s.emit o).boot = s.boot := rfl
@[simp] theorem State.emit_flt (o : Out) : (s.emit o).flt = s.flt := rfl
@[simp] theorem State.emit_hif (o : Out) : (s.emit o).hif = s.hif := rfl
@[simp] theorem State.emit_irq (o : Out) : (s.emit o).irq = s.irq := rfl
@[simp] theorem State.emit_cores (o : Out) : (s.emit o).cores = s.cores := rfl
@[simp] theorem State.emit_cio (o : Out) : (s.emit o).cio = s.cio := rfl
@[simp] theorem State.emit_fab (o : Out) : (s.emit o).fab = s.fab := rfl
@[simp] theorem State.emit_cask (o : Out) : (s.emit o).cask = s.cask := rfl
@[simp] theorem State.emit_mash (o : Out) : (s.emit o).mash = s.mash := rfl
@[simp] theorem State.emit_xio (o : Out) : (s.emit o).xio = s.xio := rfl
@[simp] theorem State.emit_pwm (o : Out) : (s.emit o).pwm = s.pwm := rfl
@[simp] theorem State.emit_eth (o : Out) : (s.emit o).eth = s.eth := rfl
@[simp] theorem State.emit_ptp (o : Out) : (s.emit o).ptp = s.ptp := rfl
@[simp] theorem State.emit_sxe (o : Out) : (s.emit o).sxe = s.sxe := rfl
@[simp] theorem State.emit_kiln (o : Out) : (s.emit o).kiln = s.kiln := rfl
@[simp] theorem State.emit_twin (o : Out) : (s.emit o).twin = s.twin := rfl
@[simp] theorem State.emit_twc (o : Out) : (s.emit o).twc = s.twc := rfl
@[simp] theorem State.emit_perf (o : Out) : (s.emit o).perf = s.perf := rfl
@[simp] theorem State.emit_free (o : Out) : (s.emit o).free = s.free := rfl
@[simp] theorem State.emit_out (o : Out) : (s.emit o).out = s.out ++ [o] := rfl
@[simp] theorem State.emit_pending (o : Out) : (s.emit o).pending = s.pending := rfl

/-! ### State.raise -/

@[simp] theorem State.raise_sys (cl b k d : Nat) : (s.raise cl b k d).sys = s.sys := rfl
@[simp] theorem State.raise_tap (cl b k d : Nat) : (s.raise cl b k d).tap = s.tap := rfl
@[simp] theorem State.raise_regs (cl b k d : Nat) : (s.raise cl b k d).regs = s.regs := rfl
@[simp] theorem State.raise_shadow (cl b k d : Nat) : (s.raise cl b k d).shadow = s.shadow := rfl
@[simp] theorem State.raise_mem (cl b k d : Nat) : (s.raise cl b k d).mem = s.mem := rfl
@[simp] theorem State.raise_flash (cl b k d : Nat) : (s.raise cl b k d).flash = s.flash := rfl
@[simp] theorem State.raise_boot (cl b k d : Nat) : (s.raise cl b k d).boot = s.boot := rfl
@[simp] theorem State.raise_flt (cl b k d : Nat) : (s.raise cl b k d).flt = { s.flt with raised := s.flt.raised ++ [⟨cl, b, k, d⟩] } := rfl
@[simp] theorem State.raise_hif (cl b k d : Nat) : (s.raise cl b k d).hif = s.hif := rfl
@[simp] theorem State.raise_irq (cl b k d : Nat) : (s.raise cl b k d).irq = s.irq := rfl
@[simp] theorem State.raise_cores (cl b k d : Nat) : (s.raise cl b k d).cores = s.cores := rfl
@[simp] theorem State.raise_cio (cl b k d : Nat) : (s.raise cl b k d).cio = s.cio := rfl
@[simp] theorem State.raise_fab (cl b k d : Nat) : (s.raise cl b k d).fab = s.fab := rfl
@[simp] theorem State.raise_cask (cl b k d : Nat) : (s.raise cl b k d).cask = s.cask := rfl
@[simp] theorem State.raise_mash (cl b k d : Nat) : (s.raise cl b k d).mash = s.mash := rfl
@[simp] theorem State.raise_xio (cl b k d : Nat) : (s.raise cl b k d).xio = s.xio := rfl
@[simp] theorem State.raise_pwm (cl b k d : Nat) : (s.raise cl b k d).pwm = s.pwm := rfl
@[simp] theorem State.raise_eth (cl b k d : Nat) : (s.raise cl b k d).eth = s.eth := rfl
@[simp] theorem State.raise_ptp (cl b k d : Nat) : (s.raise cl b k d).ptp = s.ptp := rfl
@[simp] theorem State.raise_sxe (cl b k d : Nat) : (s.raise cl b k d).sxe = s.sxe := rfl
@[simp] theorem State.raise_kiln (cl b k d : Nat) : (s.raise cl b k d).kiln = s.kiln := rfl
@[simp] theorem State.raise_twin (cl b k d : Nat) : (s.raise cl b k d).twin = s.twin := rfl
@[simp] theorem State.raise_twc (cl b k d : Nat) : (s.raise cl b k d).twc = s.twc := rfl
@[simp] theorem State.raise_perf (cl b k d : Nat) : (s.raise cl b k d).perf = s.perf := rfl
@[simp] theorem State.raise_free (cl b k d : Nat) : (s.raise cl b k d).free = s.free := rfl
@[simp] theorem State.raise_out (cl b k d : Nat) : (s.raise cl b k d).out = s.out := rfl
@[simp] theorem State.raise_pending (cl b k d : Nat) : (s.raise cl b k d).pending = s.pending := rfl

/-! ### State.begin -/

@[simp] theorem State.begin_sys : (s.begin).sys = s.sys := rfl
@[simp] theorem State.begin_tap : (s.begin).tap = s.tap := rfl
@[simp] theorem State.begin_regs : (s.begin).regs = s.regs := rfl
@[simp] theorem State.begin_shadow : (s.begin).shadow = s.shadow := rfl
@[simp] theorem State.begin_mem : (s.begin).mem = s.mem := rfl
@[simp] theorem State.begin_flash : (s.begin).flash = s.flash := rfl
@[simp] theorem State.begin_boot : (s.begin).boot = s.boot := rfl
@[simp] theorem State.begin_flt : (s.begin).flt = s.flt := rfl
@[simp] theorem State.begin_hif : (s.begin).hif = s.hif := rfl
@[simp] theorem State.begin_irq : (s.begin).irq = s.irq := rfl
@[simp] theorem State.begin_cores : (s.begin).cores = s.cores := rfl
@[simp] theorem State.begin_cio : (s.begin).cio = s.cio := rfl
@[simp] theorem State.begin_fab : (s.begin).fab = s.fab := rfl
@[simp] theorem State.begin_cask : (s.begin).cask = s.cask := rfl
@[simp] theorem State.begin_mash : (s.begin).mash = s.mash := rfl
@[simp] theorem State.begin_xio : (s.begin).xio = s.xio := rfl
@[simp] theorem State.begin_pwm : (s.begin).pwm = s.pwm := rfl
@[simp] theorem State.begin_eth : (s.begin).eth = s.eth := rfl
@[simp] theorem State.begin_ptp : (s.begin).ptp = s.ptp := rfl
@[simp] theorem State.begin_sxe : (s.begin).sxe = s.sxe := rfl
@[simp] theorem State.begin_kiln : (s.begin).kiln = s.kiln := rfl
@[simp] theorem State.begin_twin : (s.begin).twin = s.twin := rfl
@[simp] theorem State.begin_twc : (s.begin).twc = s.twc := rfl
@[simp] theorem State.begin_perf : (s.begin).perf = s.perf := rfl
@[simp] theorem State.begin_free : (s.begin).free = s.free := rfl
@[simp] theorem State.begin_out : (s.begin).out = [] := rfl
@[simp] theorem State.begin_pending : (s.begin).pending = s.pending := rfl

/-! ### State.pokeByte -/

@[simp] theorem State.pokeByte_sys (a : Nat) (b : Byte) : (s.pokeByte a b).sys = s.sys := rfl
@[simp] theorem State.pokeByte_tap (a : Nat) (b : Byte) : (s.pokeByte a b).tap = s.tap := rfl
@[simp] theorem State.pokeByte_regs (a : Nat) (b : Byte) : (s.pokeByte a b).regs = s.regs := rfl
@[simp] theorem State.pokeByte_shadow (a : Nat) (b : Byte) : (s.pokeByte a b).shadow = s.shadow := rfl
@[simp] theorem State.pokeByte_mem (a : Nat) (b : Byte) : (s.pokeByte a b).mem = Sparse.set (w := 8) memDflt s.mem a b := rfl
@[simp] theorem State.pokeByte_flash (a : Nat) (b : Byte) : (s.pokeByte a b).flash = s.flash := rfl
@[simp] theorem State.pokeByte_boot (a : Nat) (b : Byte) : (s.pokeByte a b).boot = s.boot := rfl
@[simp] theorem State.pokeByte_flt (a : Nat) (b : Byte) : (s.pokeByte a b).flt = s.flt := rfl
@[simp] theorem State.pokeByte_hif (a : Nat) (b : Byte) : (s.pokeByte a b).hif = s.hif := rfl
@[simp] theorem State.pokeByte_irq (a : Nat) (b : Byte) : (s.pokeByte a b).irq = s.irq := rfl
@[simp] theorem State.pokeByte_cores (a : Nat) (b : Byte) : (s.pokeByte a b).cores = s.cores := rfl
@[simp] theorem State.pokeByte_cio (a : Nat) (b : Byte) : (s.pokeByte a b).cio = s.cio := rfl
@[simp] theorem State.pokeByte_fab (a : Nat) (b : Byte) : (s.pokeByte a b).fab = s.fab := rfl
@[simp] theorem State.pokeByte_cask (a : Nat) (b : Byte) : (s.pokeByte a b).cask = s.cask := rfl
@[simp] theorem State.pokeByte_mash (a : Nat) (b : Byte) : (s.pokeByte a b).mash = s.mash := rfl
@[simp] theorem State.pokeByte_xio (a : Nat) (b : Byte) : (s.pokeByte a b).xio = s.xio := rfl
@[simp] theorem State.pokeByte_pwm (a : Nat) (b : Byte) : (s.pokeByte a b).pwm = s.pwm := rfl
@[simp] theorem State.pokeByte_eth (a : Nat) (b : Byte) : (s.pokeByte a b).eth = s.eth := rfl
@[simp] theorem State.pokeByte_ptp (a : Nat) (b : Byte) : (s.pokeByte a b).ptp = s.ptp := rfl
@[simp] theorem State.pokeByte_sxe (a : Nat) (b : Byte) : (s.pokeByte a b).sxe = s.sxe := rfl
@[simp] theorem State.pokeByte_kiln (a : Nat) (b : Byte) : (s.pokeByte a b).kiln = s.kiln := rfl
@[simp] theorem State.pokeByte_twin (a : Nat) (b : Byte) : (s.pokeByte a b).twin = s.twin := rfl
@[simp] theorem State.pokeByte_twc (a : Nat) (b : Byte) : (s.pokeByte a b).twc = s.twc := rfl
@[simp] theorem State.pokeByte_perf (a : Nat) (b : Byte) : (s.pokeByte a b).perf = s.perf := rfl
@[simp] theorem State.pokeByte_free (a : Nat) (b : Byte) : (s.pokeByte a b).free = s.free := rfl
@[simp] theorem State.pokeByte_out (a : Nat) (b : Byte) : (s.pokeByte a b).out = s.out := rfl
@[simp] theorem State.pokeByte_pending (a : Nat) (b : Byte) : (s.pokeByte a b).pending = s.pending := rfl

/-! ### State.setCore -/

@[simp] theorem State.setCore_sys (c : Fin 16) (k : Core) : (s.setCore c k).sys = s.sys := rfl
@[simp] theorem State.setCore_tap (c : Fin 16) (k : Core) : (s.setCore c k).tap = s.tap := rfl
@[simp] theorem State.setCore_regs (c : Fin 16) (k : Core) : (s.setCore c k).regs = s.regs := rfl
@[simp] theorem State.setCore_shadow (c : Fin 16) (k : Core) : (s.setCore c k).shadow = s.shadow := rfl
@[simp] theorem State.setCore_mem (c : Fin 16) (k : Core) : (s.setCore c k).mem = s.mem := rfl
@[simp] theorem State.setCore_flash (c : Fin 16) (k : Core) : (s.setCore c k).flash = s.flash := rfl
@[simp] theorem State.setCore_boot (c : Fin 16) (k : Core) : (s.setCore c k).boot = s.boot := rfl
@[simp] theorem State.setCore_flt (c : Fin 16) (k : Core) : (s.setCore c k).flt = s.flt := rfl
@[simp] theorem State.setCore_hif (c : Fin 16) (k : Core) : (s.setCore c k).hif = s.hif := rfl
@[simp] theorem State.setCore_irq (c : Fin 16) (k : Core) : (s.setCore c k).irq = s.irq := rfl
@[simp] theorem State.setCore_cores (c : Fin 16) (k : Core) : (s.setCore c k).cores = s.cores.set c k := rfl
@[simp] theorem State.setCore_cio (c : Fin 16) (k : Core) : (s.setCore c k).cio = s.cio := rfl
@[simp] theorem State.setCore_fab (c : Fin 16) (k : Core) : (s.setCore c k).fab = s.fab := rfl
@[simp] theorem State.setCore_cask (c : Fin 16) (k : Core) : (s.setCore c k).cask = s.cask := rfl
@[simp] theorem State.setCore_mash (c : Fin 16) (k : Core) : (s.setCore c k).mash = s.mash := rfl
@[simp] theorem State.setCore_xio (c : Fin 16) (k : Core) : (s.setCore c k).xio = s.xio := rfl
@[simp] theorem State.setCore_pwm (c : Fin 16) (k : Core) : (s.setCore c k).pwm = s.pwm := rfl
@[simp] theorem State.setCore_eth (c : Fin 16) (k : Core) : (s.setCore c k).eth = s.eth := rfl
@[simp] theorem State.setCore_ptp (c : Fin 16) (k : Core) : (s.setCore c k).ptp = s.ptp := rfl
@[simp] theorem State.setCore_sxe (c : Fin 16) (k : Core) : (s.setCore c k).sxe = s.sxe := rfl
@[simp] theorem State.setCore_kiln (c : Fin 16) (k : Core) : (s.setCore c k).kiln = s.kiln := rfl
@[simp] theorem State.setCore_twin (c : Fin 16) (k : Core) : (s.setCore c k).twin = s.twin := rfl
@[simp] theorem State.setCore_twc (c : Fin 16) (k : Core) : (s.setCore c k).twc = s.twc := rfl
@[simp] theorem State.setCore_perf (c : Fin 16) (k : Core) : (s.setCore c k).perf = s.perf := rfl
@[simp] theorem State.setCore_free (c : Fin 16) (k : Core) : (s.setCore c k).free = s.free := rfl
@[simp] theorem State.setCore_out (c : Fin 16) (k : Core) : (s.setCore c k).out = s.out := rfl
@[simp] theorem State.setCore_pending (c : Fin 16) (k : Core) : (s.setCore c k).pending = s.pending := rfl

/-! ### State.setIo -/

@[simp] theorem State.setIo_sys (c : Fin 16) (k : CoreIo) : (s.setIo c k).sys = s.sys := rfl
@[simp] theorem State.setIo_tap (c : Fin 16) (k : CoreIo) : (s.setIo c k).tap = s.tap := rfl
@[simp] theorem State.setIo_regs (c : Fin 16) (k : CoreIo) : (s.setIo c k).regs = s.regs := rfl
@[simp] theorem State.setIo_shadow (c : Fin 16) (k : CoreIo) : (s.setIo c k).shadow = s.shadow := rfl
@[simp] theorem State.setIo_mem (c : Fin 16) (k : CoreIo) : (s.setIo c k).mem = s.mem := rfl
@[simp] theorem State.setIo_flash (c : Fin 16) (k : CoreIo) : (s.setIo c k).flash = s.flash := rfl
@[simp] theorem State.setIo_boot (c : Fin 16) (k : CoreIo) : (s.setIo c k).boot = s.boot := rfl
@[simp] theorem State.setIo_flt (c : Fin 16) (k : CoreIo) : (s.setIo c k).flt = s.flt := rfl
@[simp] theorem State.setIo_hif (c : Fin 16) (k : CoreIo) : (s.setIo c k).hif = s.hif := rfl
@[simp] theorem State.setIo_irq (c : Fin 16) (k : CoreIo) : (s.setIo c k).irq = s.irq := rfl
@[simp] theorem State.setIo_cores (c : Fin 16) (k : CoreIo) : (s.setIo c k).cores = s.cores := rfl
@[simp] theorem State.setIo_cio (c : Fin 16) (k : CoreIo) : (s.setIo c k).cio = s.cio.set c k := rfl
@[simp] theorem State.setIo_fab (c : Fin 16) (k : CoreIo) : (s.setIo c k).fab = s.fab := rfl
@[simp] theorem State.setIo_cask (c : Fin 16) (k : CoreIo) : (s.setIo c k).cask = s.cask := rfl
@[simp] theorem State.setIo_mash (c : Fin 16) (k : CoreIo) : (s.setIo c k).mash = s.mash := rfl
@[simp] theorem State.setIo_xio (c : Fin 16) (k : CoreIo) : (s.setIo c k).xio = s.xio := rfl
@[simp] theorem State.setIo_pwm (c : Fin 16) (k : CoreIo) : (s.setIo c k).pwm = s.pwm := rfl
@[simp] theorem State.setIo_eth (c : Fin 16) (k : CoreIo) : (s.setIo c k).eth = s.eth := rfl
@[simp] theorem State.setIo_ptp (c : Fin 16) (k : CoreIo) : (s.setIo c k).ptp = s.ptp := rfl
@[simp] theorem State.setIo_sxe (c : Fin 16) (k : CoreIo) : (s.setIo c k).sxe = s.sxe := rfl
@[simp] theorem State.setIo_kiln (c : Fin 16) (k : CoreIo) : (s.setIo c k).kiln = s.kiln := rfl
@[simp] theorem State.setIo_twin (c : Fin 16) (k : CoreIo) : (s.setIo c k).twin = s.twin := rfl
@[simp] theorem State.setIo_twc (c : Fin 16) (k : CoreIo) : (s.setIo c k).twc = s.twc := rfl
@[simp] theorem State.setIo_perf (c : Fin 16) (k : CoreIo) : (s.setIo c k).perf = s.perf := rfl
@[simp] theorem State.setIo_free (c : Fin 16) (k : CoreIo) : (s.setIo c k).free = s.free := rfl
@[simp] theorem State.setIo_out (c : Fin 16) (k : CoreIo) : (s.setIo c k).out = s.out := rfl
@[simp] theorem State.setIo_pending (c : Fin 16) (k : CoreIo) : (s.setIo c k).pending = s.pending := rfl

/-! ### State.request -/

@[simp] theorem State.request_sys (c : Nat) : (s.request c).sys = s.sys := rfl
@[simp] theorem State.request_tap (c : Nat) : (s.request c).tap = s.tap := rfl
@[simp] theorem State.request_regs (c : Nat) : (s.request c).regs = s.regs := rfl
@[simp] theorem State.request_shadow (c : Nat) : (s.request c).shadow = s.shadow := rfl
@[simp] theorem State.request_mem (c : Nat) : (s.request c).mem = s.mem := rfl
@[simp] theorem State.request_flash (c : Nat) : (s.request c).flash = s.flash := rfl
@[simp] theorem State.request_boot (c : Nat) : (s.request c).boot = s.boot := rfl
@[simp] theorem State.request_flt (c : Nat) : (s.request c).flt = s.flt := rfl
@[simp] theorem State.request_hif (c : Nat) : (s.request c).hif = s.hif := rfl
@[simp] theorem State.request_irq (c : Nat) : (s.request c).irq = s.irq := rfl
@[simp] theorem State.request_cores (c : Nat) : (s.request c).cores = s.cores := rfl
@[simp] theorem State.request_cio (c : Nat) : (s.request c).cio = s.cio := rfl
@[simp] theorem State.request_cask (c : Nat) : (s.request c).cask = s.cask := rfl
@[simp] theorem State.request_mash (c : Nat) : (s.request c).mash = s.mash := rfl
@[simp] theorem State.request_xio (c : Nat) : (s.request c).xio = s.xio := rfl
@[simp] theorem State.request_pwm (c : Nat) : (s.request c).pwm = s.pwm := rfl
@[simp] theorem State.request_eth (c : Nat) : (s.request c).eth = s.eth := rfl
@[simp] theorem State.request_ptp (c : Nat) : (s.request c).ptp = s.ptp := rfl
@[simp] theorem State.request_sxe (c : Nat) : (s.request c).sxe = s.sxe := rfl
@[simp] theorem State.request_kiln (c : Nat) : (s.request c).kiln = s.kiln := rfl
@[simp] theorem State.request_twin (c : Nat) : (s.request c).twin = s.twin := rfl
@[simp] theorem State.request_twc (c : Nat) : (s.request c).twc = s.twc := rfl
@[simp] theorem State.request_perf (c : Nat) : (s.request c).perf = s.perf := rfl
@[simp] theorem State.request_free (c : Nat) : (s.request c).free = s.free := rfl
@[simp] theorem State.request_out (c : Nat) : (s.request c).out = s.out := rfl
@[simp] theorem State.request_pending (c : Nat) : (s.request c).pending = s.pending := rfl

/-! ### State.later -/

@[simp] theorem State.later_tap (x : Action) : (s.later x).tap = s.tap := rfl
@[simp] theorem State.later_regs (x : Action) : (s.later x).regs = s.regs := rfl
@[simp] theorem State.later_shadow (x : Action) : (s.later x).shadow = s.shadow := rfl
@[simp] theorem State.later_mem (x : Action) : (s.later x).mem = s.mem := rfl
@[simp] theorem State.later_flash (x : Action) : (s.later x).flash = s.flash := rfl
@[simp] theorem State.later_boot (x : Action) : (s.later x).boot = s.boot := rfl
@[simp] theorem State.later_flt (x : Action) : (s.later x).flt = s.flt := rfl
@[simp] theorem State.later_hif (x : Action) : (s.later x).hif = s.hif := rfl
@[simp] theorem State.later_irq (x : Action) : (s.later x).irq = s.irq := rfl
@[simp] theorem State.later_cores (x : Action) : (s.later x).cores = s.cores := rfl
@[simp] theorem State.later_cio (x : Action) : (s.later x).cio = s.cio := rfl
@[simp] theorem State.later_fab (x : Action) : (s.later x).fab = s.fab := rfl
@[simp] theorem State.later_cask (x : Action) : (s.later x).cask = s.cask := rfl
@[simp] theorem State.later_mash (x : Action) : (s.later x).mash = s.mash := rfl
@[simp] theorem State.later_xio (x : Action) : (s.later x).xio = s.xio := rfl
@[simp] theorem State.later_pwm (x : Action) : (s.later x).pwm = s.pwm := rfl
@[simp] theorem State.later_eth (x : Action) : (s.later x).eth = s.eth := rfl
@[simp] theorem State.later_ptp (x : Action) : (s.later x).ptp = s.ptp := rfl
@[simp] theorem State.later_sxe (x : Action) : (s.later x).sxe = s.sxe := rfl
@[simp] theorem State.later_kiln (x : Action) : (s.later x).kiln = s.kiln := rfl
@[simp] theorem State.later_twin (x : Action) : (s.later x).twin = s.twin := rfl
@[simp] theorem State.later_twc (x : Action) : (s.later x).twc = s.twc := rfl
@[simp] theorem State.later_perf (x : Action) : (s.later x).perf = s.perf := rfl
@[simp] theorem State.later_free (x : Action) : (s.later x).free = s.free := rfl
@[simp] theorem State.later_out (x : Action) : (s.later x).out = s.out := rfl
@[simp] theorem State.later_pending (x : Action) : (s.later x).pending = s.pending := rfl

/-! ### State.setGroup -/

@[simp] theorem State.setGroup_sys (g : Fin 32) (x : CommitGroup) : (s.setGroup g x).sys = s.sys := rfl
@[simp] theorem State.setGroup_tap (g : Fin 32) (x : CommitGroup) : (s.setGroup g x).tap = s.tap := rfl
@[simp] theorem State.setGroup_regs (g : Fin 32) (x : CommitGroup) : (s.setGroup g x).regs = s.regs := rfl
@[simp] theorem State.setGroup_shadow (g : Fin 32) (x : CommitGroup) : (s.setGroup g x).shadow = s.shadow := rfl
@[simp] theorem State.setGroup_mem (g : Fin 32) (x : CommitGroup) : (s.setGroup g x).mem = s.mem := rfl
@[simp] theorem State.setGroup_flash (g : Fin 32) (x : CommitGroup) : (s.setGroup g x).flash = s.flash := rfl
@[simp] theorem State.setGroup_boot (g : Fin 32) (x : CommitGroup) : (s.setGroup g x).boot = s.boot := rfl
@[simp] theorem State.setGroup_flt (g : Fin 32) (x : CommitGroup) : (s.setGroup g x).flt = s.flt := rfl
@[simp] theorem State.setGroup_irq (g : Fin 32) (x : CommitGroup) : (s.setGroup g x).irq = s.irq := rfl
@[simp] theorem State.setGroup_cores (g : Fin 32) (x : CommitGroup) : (s.setGroup g x).cores = s.cores := rfl
@[simp] theorem State.setGroup_cio (g : Fin 32) (x : CommitGroup) : (s.setGroup g x).cio = s.cio := rfl
@[simp] theorem State.setGroup_fab (g : Fin 32) (x : CommitGroup) : (s.setGroup g x).fab = s.fab := rfl
@[simp] theorem State.setGroup_cask (g : Fin 32) (x : CommitGroup) : (s.setGroup g x).cask = s.cask := rfl
@[simp] theorem State.setGroup_mash (g : Fin 32) (x : CommitGroup) : (s.setGroup g x).mash = s.mash := rfl
@[simp] theorem State.setGroup_xio (g : Fin 32) (x : CommitGroup) : (s.setGroup g x).xio = s.xio := rfl
@[simp] theorem State.setGroup_pwm (g : Fin 32) (x : CommitGroup) : (s.setGroup g x).pwm = s.pwm := rfl
@[simp] theorem State.setGroup_eth (g : Fin 32) (x : CommitGroup) : (s.setGroup g x).eth = s.eth := rfl
@[simp] theorem State.setGroup_ptp (g : Fin 32) (x : CommitGroup) : (s.setGroup g x).ptp = s.ptp := rfl
@[simp] theorem State.setGroup_sxe (g : Fin 32) (x : CommitGroup) : (s.setGroup g x).sxe = s.sxe := rfl
@[simp] theorem State.setGroup_kiln (g : Fin 32) (x : CommitGroup) : (s.setGroup g x).kiln = s.kiln := rfl
@[simp] theorem State.setGroup_twin (g : Fin 32) (x : CommitGroup) : (s.setGroup g x).twin = s.twin := rfl
@[simp] theorem State.setGroup_twc (g : Fin 32) (x : CommitGroup) : (s.setGroup g x).twc = s.twc := rfl
@[simp] theorem State.setGroup_perf (g : Fin 32) (x : CommitGroup) : (s.setGroup g x).perf = s.perf := rfl
@[simp] theorem State.setGroup_free (g : Fin 32) (x : CommitGroup) : (s.setGroup g x).free = s.free := rfl
@[simp] theorem State.setGroup_out (g : Fin 32) (x : CommitGroup) : (s.setGroup g x).out = s.out := rfl
@[simp] theorem State.setGroup_pending (g : Fin 32) (x : CommitGroup) : (s.setGroup g x).pending = s.pending := rfl

/-! ### State.setEport -/

@[simp] theorem State.setEport_sys (p : Fin 8) (x : EthPort) : (s.setEport p x).sys = s.sys := rfl
@[simp] theorem State.setEport_tap (p : Fin 8) (x : EthPort) : (s.setEport p x).tap = s.tap := rfl
@[simp] theorem State.setEport_regs (p : Fin 8) (x : EthPort) : (s.setEport p x).regs = s.regs := rfl
@[simp] theorem State.setEport_shadow (p : Fin 8) (x : EthPort) : (s.setEport p x).shadow = s.shadow := rfl
@[simp] theorem State.setEport_mem (p : Fin 8) (x : EthPort) : (s.setEport p x).mem = s.mem := rfl
@[simp] theorem State.setEport_flash (p : Fin 8) (x : EthPort) : (s.setEport p x).flash = s.flash := rfl
@[simp] theorem State.setEport_boot (p : Fin 8) (x : EthPort) : (s.setEport p x).boot = s.boot := rfl
@[simp] theorem State.setEport_flt (p : Fin 8) (x : EthPort) : (s.setEport p x).flt = s.flt := rfl
@[simp] theorem State.setEport_hif (p : Fin 8) (x : EthPort) : (s.setEport p x).hif = s.hif := rfl
@[simp] theorem State.setEport_irq (p : Fin 8) (x : EthPort) : (s.setEport p x).irq = s.irq := rfl
@[simp] theorem State.setEport_cores (p : Fin 8) (x : EthPort) : (s.setEport p x).cores = s.cores := rfl
@[simp] theorem State.setEport_cio (p : Fin 8) (x : EthPort) : (s.setEport p x).cio = s.cio := rfl
@[simp] theorem State.setEport_fab (p : Fin 8) (x : EthPort) : (s.setEport p x).fab = s.fab := rfl
@[simp] theorem State.setEport_cask (p : Fin 8) (x : EthPort) : (s.setEport p x).cask = s.cask := rfl
@[simp] theorem State.setEport_mash (p : Fin 8) (x : EthPort) : (s.setEport p x).mash = s.mash := rfl
@[simp] theorem State.setEport_xio (p : Fin 8) (x : EthPort) : (s.setEport p x).xio = s.xio := rfl
@[simp] theorem State.setEport_pwm (p : Fin 8) (x : EthPort) : (s.setEport p x).pwm = s.pwm := rfl
@[simp] theorem State.setEport_ptp (p : Fin 8) (x : EthPort) : (s.setEport p x).ptp = s.ptp := rfl
@[simp] theorem State.setEport_sxe (p : Fin 8) (x : EthPort) : (s.setEport p x).sxe = s.sxe := rfl
@[simp] theorem State.setEport_kiln (p : Fin 8) (x : EthPort) : (s.setEport p x).kiln = s.kiln := rfl
@[simp] theorem State.setEport_twin (p : Fin 8) (x : EthPort) : (s.setEport p x).twin = s.twin := rfl
@[simp] theorem State.setEport_twc (p : Fin 8) (x : EthPort) : (s.setEport p x).twc = s.twc := rfl
@[simp] theorem State.setEport_perf (p : Fin 8) (x : EthPort) : (s.setEport p x).perf = s.perf := rfl
@[simp] theorem State.setEport_free (p : Fin 8) (x : EthPort) : (s.setEport p x).free = s.free := rfl
@[simp] theorem State.setEport_out (p : Fin 8) (x : EthPort) : (s.setEport p x).out = s.out := rfl
@[simp] theorem State.setEport_pending (p : Fin 8) (x : EthPort) : (s.setEport p x).pending = s.pending := rfl

/-! ### State.setRing -/

@[simp] theorem State.setRing_sys (q : Fin 4) (x : RingS) : (s.setRing q x).sys = s.sys := rfl
@[simp] theorem State.setRing_tap (q : Fin 4) (x : RingS) : (s.setRing q x).tap = s.tap := rfl
@[simp] theorem State.setRing_regs (q : Fin 4) (x : RingS) : (s.setRing q x).regs = s.regs := rfl
@[simp] theorem State.setRing_shadow (q : Fin 4) (x : RingS) : (s.setRing q x).shadow = s.shadow := rfl
@[simp] theorem State.setRing_mem (q : Fin 4) (x : RingS) : (s.setRing q x).mem = s.mem := rfl
@[simp] theorem State.setRing_flash (q : Fin 4) (x : RingS) : (s.setRing q x).flash = s.flash := rfl
@[simp] theorem State.setRing_boot (q : Fin 4) (x : RingS) : (s.setRing q x).boot = s.boot := rfl
@[simp] theorem State.setRing_flt (q : Fin 4) (x : RingS) : (s.setRing q x).flt = s.flt := rfl
@[simp] theorem State.setRing_hif (q : Fin 4) (x : RingS) : (s.setRing q x).hif = s.hif := rfl
@[simp] theorem State.setRing_irq (q : Fin 4) (x : RingS) : (s.setRing q x).irq = s.irq := rfl
@[simp] theorem State.setRing_cores (q : Fin 4) (x : RingS) : (s.setRing q x).cores = s.cores := rfl
@[simp] theorem State.setRing_cio (q : Fin 4) (x : RingS) : (s.setRing q x).cio = s.cio := rfl
@[simp] theorem State.setRing_fab (q : Fin 4) (x : RingS) : (s.setRing q x).fab = s.fab := rfl
@[simp] theorem State.setRing_cask (q : Fin 4) (x : RingS) : (s.setRing q x).cask = s.cask := rfl
@[simp] theorem State.setRing_mash (q : Fin 4) (x : RingS) : (s.setRing q x).mash = s.mash := rfl
@[simp] theorem State.setRing_xio (q : Fin 4) (x : RingS) : (s.setRing q x).xio = s.xio := rfl
@[simp] theorem State.setRing_pwm (q : Fin 4) (x : RingS) : (s.setRing q x).pwm = s.pwm := rfl
@[simp] theorem State.setRing_ptp (q : Fin 4) (x : RingS) : (s.setRing q x).ptp = s.ptp := rfl
@[simp] theorem State.setRing_sxe (q : Fin 4) (x : RingS) : (s.setRing q x).sxe = s.sxe := rfl
@[simp] theorem State.setRing_kiln (q : Fin 4) (x : RingS) : (s.setRing q x).kiln = s.kiln := rfl
@[simp] theorem State.setRing_twin (q : Fin 4) (x : RingS) : (s.setRing q x).twin = s.twin := rfl
@[simp] theorem State.setRing_twc (q : Fin 4) (x : RingS) : (s.setRing q x).twc = s.twc := rfl
@[simp] theorem State.setRing_perf (q : Fin 4) (x : RingS) : (s.setRing q x).perf = s.perf := rfl
@[simp] theorem State.setRing_free (q : Fin 4) (x : RingS) : (s.setRing q x).free = s.free := rfl
@[simp] theorem State.setRing_out (q : Fin 4) (x : RingS) : (s.setRing q x).out = s.out := rfl
@[simp] theorem State.setRing_pending (q : Fin 4) (x : RingS) : (s.setRing q x).pending = s.pending := rfl

/-! ### State.setFlash -/

@[simp] theorem State.setFlash_sys (a : Nat) (b : Byte) : (s.setFlash a b).sys = s.sys := rfl
@[simp] theorem State.setFlash_tap (a : Nat) (b : Byte) : (s.setFlash a b).tap = s.tap := rfl
@[simp] theorem State.setFlash_regs (a : Nat) (b : Byte) : (s.setFlash a b).regs = s.regs := rfl
@[simp] theorem State.setFlash_shadow (a : Nat) (b : Byte) : (s.setFlash a b).shadow = s.shadow := rfl
@[simp] theorem State.setFlash_mem (a : Nat) (b : Byte) : (s.setFlash a b).mem = s.mem := rfl
@[simp] theorem State.setFlash_flash (a : Nat) (b : Byte) : (s.setFlash a b).flash = Sparse.set (w := 8) flashDflt s.flash a b := rfl
@[simp] theorem State.setFlash_boot (a : Nat) (b : Byte) : (s.setFlash a b).boot = s.boot := rfl
@[simp] theorem State.setFlash_flt (a : Nat) (b : Byte) : (s.setFlash a b).flt = s.flt := rfl
@[simp] theorem State.setFlash_hif (a : Nat) (b : Byte) : (s.setFlash a b).hif = s.hif := rfl
@[simp] theorem State.setFlash_irq (a : Nat) (b : Byte) : (s.setFlash a b).irq = s.irq := rfl
@[simp] theorem State.setFlash_cores (a : Nat) (b : Byte) : (s.setFlash a b).cores = s.cores := rfl
@[simp] theorem State.setFlash_cio (a : Nat) (b : Byte) : (s.setFlash a b).cio = s.cio := rfl
@[simp] theorem State.setFlash_fab (a : Nat) (b : Byte) : (s.setFlash a b).fab = s.fab := rfl
@[simp] theorem State.setFlash_cask (a : Nat) (b : Byte) : (s.setFlash a b).cask = s.cask := rfl
@[simp] theorem State.setFlash_mash (a : Nat) (b : Byte) : (s.setFlash a b).mash = s.mash := rfl
@[simp] theorem State.setFlash_xio (a : Nat) (b : Byte) : (s.setFlash a b).xio = s.xio := rfl
@[simp] theorem State.setFlash_pwm (a : Nat) (b : Byte) : (s.setFlash a b).pwm = s.pwm := rfl
@[simp] theorem State.setFlash_eth (a : Nat) (b : Byte) : (s.setFlash a b).eth = s.eth := rfl
@[simp] theorem State.setFlash_ptp (a : Nat) (b : Byte) : (s.setFlash a b).ptp = s.ptp := rfl
@[simp] theorem State.setFlash_sxe (a : Nat) (b : Byte) : (s.setFlash a b).sxe = s.sxe := rfl
@[simp] theorem State.setFlash_kiln (a : Nat) (b : Byte) : (s.setFlash a b).kiln = s.kiln := rfl
@[simp] theorem State.setFlash_twin (a : Nat) (b : Byte) : (s.setFlash a b).twin = s.twin := rfl
@[simp] theorem State.setFlash_twc (a : Nat) (b : Byte) : (s.setFlash a b).twc = s.twc := rfl
@[simp] theorem State.setFlash_perf (a : Nat) (b : Byte) : (s.setFlash a b).perf = s.perf := rfl
@[simp] theorem State.setFlash_free (a : Nat) (b : Byte) : (s.setFlash a b).free = s.free := rfl
@[simp] theorem State.setFlash_out (a : Nat) (b : Byte) : (s.setFlash a b).out = s.out := rfl
@[simp] theorem State.setFlash_pending (a : Nat) (b : Byte) : (s.setFlash a b).pending = s.pending := rfl

/-! ### State.setKref -/

@[simp] theorem State.setKref_sys (i : Nat) (x : KilnRef) : (s.setKref i x).sys = s.sys := rfl
@[simp] theorem State.setKref_tap (i : Nat) (x : KilnRef) : (s.setKref i x).tap = s.tap := rfl
@[simp] theorem State.setKref_regs (i : Nat) (x : KilnRef) : (s.setKref i x).regs = s.regs := rfl
@[simp] theorem State.setKref_shadow (i : Nat) (x : KilnRef) : (s.setKref i x).shadow = s.shadow := rfl
@[simp] theorem State.setKref_mem (i : Nat) (x : KilnRef) : (s.setKref i x).mem = s.mem := rfl
@[simp] theorem State.setKref_flash (i : Nat) (x : KilnRef) : (s.setKref i x).flash = s.flash := rfl
@[simp] theorem State.setKref_boot (i : Nat) (x : KilnRef) : (s.setKref i x).boot = s.boot := rfl
@[simp] theorem State.setKref_flt (i : Nat) (x : KilnRef) : (s.setKref i x).flt = s.flt := rfl
@[simp] theorem State.setKref_hif (i : Nat) (x : KilnRef) : (s.setKref i x).hif = s.hif := rfl
@[simp] theorem State.setKref_irq (i : Nat) (x : KilnRef) : (s.setKref i x).irq = s.irq := rfl
@[simp] theorem State.setKref_cores (i : Nat) (x : KilnRef) : (s.setKref i x).cores = s.cores := rfl
@[simp] theorem State.setKref_cio (i : Nat) (x : KilnRef) : (s.setKref i x).cio = s.cio := rfl
@[simp] theorem State.setKref_fab (i : Nat) (x : KilnRef) : (s.setKref i x).fab = s.fab := rfl
@[simp] theorem State.setKref_cask (i : Nat) (x : KilnRef) : (s.setKref i x).cask = s.cask := rfl
@[simp] theorem State.setKref_mash (i : Nat) (x : KilnRef) : (s.setKref i x).mash = s.mash := rfl
@[simp] theorem State.setKref_xio (i : Nat) (x : KilnRef) : (s.setKref i x).xio = s.xio := rfl
@[simp] theorem State.setKref_pwm (i : Nat) (x : KilnRef) : (s.setKref i x).pwm = s.pwm := rfl
@[simp] theorem State.setKref_eth (i : Nat) (x : KilnRef) : (s.setKref i x).eth = s.eth := rfl
@[simp] theorem State.setKref_ptp (i : Nat) (x : KilnRef) : (s.setKref i x).ptp = s.ptp := rfl
@[simp] theorem State.setKref_sxe (i : Nat) (x : KilnRef) : (s.setKref i x).sxe = s.sxe := rfl
@[simp] theorem State.setKref_twin (i : Nat) (x : KilnRef) : (s.setKref i x).twin = s.twin := rfl
@[simp] theorem State.setKref_twc (i : Nat) (x : KilnRef) : (s.setKref i x).twc = s.twc := rfl
@[simp] theorem State.setKref_perf (i : Nat) (x : KilnRef) : (s.setKref i x).perf = s.perf := rfl
@[simp] theorem State.setKref_free (i : Nat) (x : KilnRef) : (s.setKref i x).free = s.free := rfl
@[simp] theorem State.setKref_out (i : Nat) (x : KilnRef) : (s.setKref i x).out = s.out := rfl
@[simp] theorem State.setKref_pending (i : Nat) (x : KilnRef) : (s.setKref i x).pending = s.pending := rfl

/-! ### State.setDly -/

@[simp] theorem State.setDly_sys (u : DlyU) : (s.setDly u).sys = s.sys := rfl
@[simp] theorem State.setDly_tap (u : DlyU) : (s.setDly u).tap = s.tap := rfl
@[simp] theorem State.setDly_regs (u : DlyU) : (s.setDly u).regs = s.regs := rfl
@[simp] theorem State.setDly_shadow (u : DlyU) : (s.setDly u).shadow = s.shadow := rfl
@[simp] theorem State.setDly_mem (u : DlyU) : (s.setDly u).mem = s.mem := rfl
@[simp] theorem State.setDly_flash (u : DlyU) : (s.setDly u).flash = s.flash := rfl
@[simp] theorem State.setDly_boot (u : DlyU) : (s.setDly u).boot = s.boot := rfl
@[simp] theorem State.setDly_flt (u : DlyU) : (s.setDly u).flt = s.flt := rfl
@[simp] theorem State.setDly_hif (u : DlyU) : (s.setDly u).hif = s.hif := rfl
@[simp] theorem State.setDly_irq (u : DlyU) : (s.setDly u).irq = s.irq := rfl
@[simp] theorem State.setDly_cores (u : DlyU) : (s.setDly u).cores = s.cores := rfl
@[simp] theorem State.setDly_cio (u : DlyU) : (s.setDly u).cio = s.cio := rfl
@[simp] theorem State.setDly_fab (u : DlyU) : (s.setDly u).fab = s.fab := rfl
@[simp] theorem State.setDly_cask (u : DlyU) : (s.setDly u).cask = s.cask := rfl
@[simp] theorem State.setDly_xio (u : DlyU) : (s.setDly u).xio = s.xio := rfl
@[simp] theorem State.setDly_pwm (u : DlyU) : (s.setDly u).pwm = s.pwm := rfl
@[simp] theorem State.setDly_eth (u : DlyU) : (s.setDly u).eth = s.eth := rfl
@[simp] theorem State.setDly_ptp (u : DlyU) : (s.setDly u).ptp = s.ptp := rfl
@[simp] theorem State.setDly_sxe (u : DlyU) : (s.setDly u).sxe = s.sxe := rfl
@[simp] theorem State.setDly_kiln (u : DlyU) : (s.setDly u).kiln = s.kiln := rfl
@[simp] theorem State.setDly_twin (u : DlyU) : (s.setDly u).twin = s.twin := rfl
@[simp] theorem State.setDly_twc (u : DlyU) : (s.setDly u).twc = s.twc := rfl
@[simp] theorem State.setDly_perf (u : DlyU) : (s.setDly u).perf = s.perf := rfl
@[simp] theorem State.setDly_free (u : DlyU) : (s.setDly u).free = s.free := rfl
@[simp] theorem State.setDly_out (u : DlyU) : (s.setDly u).out = s.out := rfl
@[simp] theorem State.setDly_pending (u : DlyU) : (s.setDly u).pending = s.pending := rfl

/-! ### State.setDstW -/

@[simp] theorem State.setDstW_sys (x : DstW) : (s.setDstW x).sys = s.sys := rfl
@[simp] theorem State.setDstW_tap (x : DstW) : (s.setDstW x).tap = s.tap := rfl
@[simp] theorem State.setDstW_regs (x : DstW) : (s.setDstW x).regs = s.regs := rfl
@[simp] theorem State.setDstW_shadow (x : DstW) : (s.setDstW x).shadow = s.shadow := rfl
@[simp] theorem State.setDstW_mem (x : DstW) : (s.setDstW x).mem = s.mem := rfl
@[simp] theorem State.setDstW_flash (x : DstW) : (s.setDstW x).flash = s.flash := rfl
@[simp] theorem State.setDstW_boot (x : DstW) : (s.setDstW x).boot = s.boot := rfl
@[simp] theorem State.setDstW_flt (x : DstW) : (s.setDstW x).flt = s.flt := rfl
@[simp] theorem State.setDstW_hif (x : DstW) : (s.setDstW x).hif = s.hif := rfl
@[simp] theorem State.setDstW_irq (x : DstW) : (s.setDstW x).irq = s.irq := rfl
@[simp] theorem State.setDstW_cores (x : DstW) : (s.setDstW x).cores = s.cores := rfl
@[simp] theorem State.setDstW_cio (x : DstW) : (s.setDstW x).cio = s.cio := rfl
@[simp] theorem State.setDstW_fab (x : DstW) : (s.setDstW x).fab = s.fab := rfl
@[simp] theorem State.setDstW_cask (x : DstW) : (s.setDstW x).cask = s.cask := rfl
@[simp] theorem State.setDstW_xio (x : DstW) : (s.setDstW x).xio = s.xio := rfl
@[simp] theorem State.setDstW_pwm (x : DstW) : (s.setDstW x).pwm = s.pwm := rfl
@[simp] theorem State.setDstW_eth (x : DstW) : (s.setDstW x).eth = s.eth := rfl
@[simp] theorem State.setDstW_ptp (x : DstW) : (s.setDstW x).ptp = s.ptp := rfl
@[simp] theorem State.setDstW_sxe (x : DstW) : (s.setDstW x).sxe = s.sxe := rfl
@[simp] theorem State.setDstW_kiln (x : DstW) : (s.setDstW x).kiln = s.kiln := rfl
@[simp] theorem State.setDstW_twin (x : DstW) : (s.setDstW x).twin = s.twin := rfl
@[simp] theorem State.setDstW_twc (x : DstW) : (s.setDstW x).twc = s.twc := rfl
@[simp] theorem State.setDstW_perf (x : DstW) : (s.setDstW x).perf = s.perf := rfl
@[simp] theorem State.setDstW_free (x : DstW) : (s.setDstW x).free = s.free := rfl
@[simp] theorem State.setDstW_out (x : DstW) : (s.setDstW x).out = s.out := rfl
@[simp] theorem State.setDstW_pending (x : DstW) : (s.setDstW x).pending = s.pending := rfl

/-! ### State.setPdom -/

@[simp] theorem State.setPdom_sys (d : Fin 2) (x : PtpDom) : (s.setPdom d x).sys = s.sys := rfl
@[simp] theorem State.setPdom_tap (d : Fin 2) (x : PtpDom) : (s.setPdom d x).tap = s.tap := rfl
@[simp] theorem State.setPdom_regs (d : Fin 2) (x : PtpDom) : (s.setPdom d x).regs = s.regs := rfl
@[simp] theorem State.setPdom_shadow (d : Fin 2) (x : PtpDom) : (s.setPdom d x).shadow = s.shadow := rfl
@[simp] theorem State.setPdom_mem (d : Fin 2) (x : PtpDom) : (s.setPdom d x).mem = s.mem := rfl
@[simp] theorem State.setPdom_flash (d : Fin 2) (x : PtpDom) : (s.setPdom d x).flash = s.flash := rfl
@[simp] theorem State.setPdom_boot (d : Fin 2) (x : PtpDom) : (s.setPdom d x).boot = s.boot := rfl
@[simp] theorem State.setPdom_flt (d : Fin 2) (x : PtpDom) : (s.setPdom d x).flt = s.flt := rfl
@[simp] theorem State.setPdom_hif (d : Fin 2) (x : PtpDom) : (s.setPdom d x).hif = s.hif := rfl
@[simp] theorem State.setPdom_irq (d : Fin 2) (x : PtpDom) : (s.setPdom d x).irq = s.irq := rfl
@[simp] theorem State.setPdom_cores (d : Fin 2) (x : PtpDom) : (s.setPdom d x).cores = s.cores := rfl
@[simp] theorem State.setPdom_cio (d : Fin 2) (x : PtpDom) : (s.setPdom d x).cio = s.cio := rfl
@[simp] theorem State.setPdom_fab (d : Fin 2) (x : PtpDom) : (s.setPdom d x).fab = s.fab := rfl
@[simp] theorem State.setPdom_cask (d : Fin 2) (x : PtpDom) : (s.setPdom d x).cask = s.cask := rfl
@[simp] theorem State.setPdom_mash (d : Fin 2) (x : PtpDom) : (s.setPdom d x).mash = s.mash := rfl
@[simp] theorem State.setPdom_xio (d : Fin 2) (x : PtpDom) : (s.setPdom d x).xio = s.xio := rfl
@[simp] theorem State.setPdom_pwm (d : Fin 2) (x : PtpDom) : (s.setPdom d x).pwm = s.pwm := rfl
@[simp] theorem State.setPdom_eth (d : Fin 2) (x : PtpDom) : (s.setPdom d x).eth = s.eth := rfl
@[simp] theorem State.setPdom_sxe (d : Fin 2) (x : PtpDom) : (s.setPdom d x).sxe = s.sxe := rfl
@[simp] theorem State.setPdom_kiln (d : Fin 2) (x : PtpDom) : (s.setPdom d x).kiln = s.kiln := rfl
@[simp] theorem State.setPdom_twin (d : Fin 2) (x : PtpDom) : (s.setPdom d x).twin = s.twin := rfl
@[simp] theorem State.setPdom_twc (d : Fin 2) (x : PtpDom) : (s.setPdom d x).twc = s.twc := rfl
@[simp] theorem State.setPdom_perf (d : Fin 2) (x : PtpDom) : (s.setPdom d x).perf = s.perf := rfl
@[simp] theorem State.setPdom_free (d : Fin 2) (x : PtpDom) : (s.setPdom d x).free = s.free := rfl
@[simp] theorem State.setPdom_out (d : Fin 2) (x : PtpDom) : (s.setPdom d x).out = s.out := rfl
@[simp] theorem State.setPdom_pending (d : Fin 2) (x : PtpDom) : (s.setPdom d x).pending = s.pending := rfl

/-! ### State.setPport -/

@[simp] theorem State.setPport_sys (p : Fin 8) (x : PtpPort) : (s.setPport p x).sys = s.sys := rfl
@[simp] theorem State.setPport_tap (p : Fin 8) (x : PtpPort) : (s.setPport p x).tap = s.tap := rfl
@[simp] theorem State.setPport_regs (p : Fin 8) (x : PtpPort) : (s.setPport p x).regs = s.regs := rfl
@[simp] theorem State.setPport_shadow (p : Fin 8) (x : PtpPort) : (s.setPport p x).shadow = s.shadow := rfl
@[simp] theorem State.setPport_mem (p : Fin 8) (x : PtpPort) : (s.setPport p x).mem = s.mem := rfl
@[simp] theorem State.setPport_flash (p : Fin 8) (x : PtpPort) : (s.setPport p x).flash = s.flash := rfl
@[simp] theorem State.setPport_boot (p : Fin 8) (x : PtpPort) : (s.setPport p x).boot = s.boot := rfl
@[simp] theorem State.setPport_flt (p : Fin 8) (x : PtpPort) : (s.setPport p x).flt = s.flt := rfl
@[simp] theorem State.setPport_hif (p : Fin 8) (x : PtpPort) : (s.setPport p x).hif = s.hif := rfl
@[simp] theorem State.setPport_irq (p : Fin 8) (x : PtpPort) : (s.setPport p x).irq = s.irq := rfl
@[simp] theorem State.setPport_cores (p : Fin 8) (x : PtpPort) : (s.setPport p x).cores = s.cores := rfl
@[simp] theorem State.setPport_cio (p : Fin 8) (x : PtpPort) : (s.setPport p x).cio = s.cio := rfl
@[simp] theorem State.setPport_fab (p : Fin 8) (x : PtpPort) : (s.setPport p x).fab = s.fab := rfl
@[simp] theorem State.setPport_cask (p : Fin 8) (x : PtpPort) : (s.setPport p x).cask = s.cask := rfl
@[simp] theorem State.setPport_mash (p : Fin 8) (x : PtpPort) : (s.setPport p x).mash = s.mash := rfl
@[simp] theorem State.setPport_xio (p : Fin 8) (x : PtpPort) : (s.setPport p x).xio = s.xio := rfl
@[simp] theorem State.setPport_pwm (p : Fin 8) (x : PtpPort) : (s.setPport p x).pwm = s.pwm := rfl
@[simp] theorem State.setPport_eth (p : Fin 8) (x : PtpPort) : (s.setPport p x).eth = s.eth := rfl
@[simp] theorem State.setPport_sxe (p : Fin 8) (x : PtpPort) : (s.setPport p x).sxe = s.sxe := rfl
@[simp] theorem State.setPport_kiln (p : Fin 8) (x : PtpPort) : (s.setPport p x).kiln = s.kiln := rfl
@[simp] theorem State.setPport_twin (p : Fin 8) (x : PtpPort) : (s.setPport p x).twin = s.twin := rfl
@[simp] theorem State.setPport_twc (p : Fin 8) (x : PtpPort) : (s.setPport p x).twc = s.twc := rfl
@[simp] theorem State.setPport_perf (p : Fin 8) (x : PtpPort) : (s.setPport p x).perf = s.perf := rfl
@[simp] theorem State.setPport_free (p : Fin 8) (x : PtpPort) : (s.setPport p x).free = s.free := rfl
@[simp] theorem State.setPport_out (p : Fin 8) (x : PtpPort) : (s.setPport p x).out = s.out := rfl
@[simp] theorem State.setPport_pending (p : Fin 8) (x : PtpPort) : (s.setPport p x).pending = s.pending := rfl

/-! ### State.setPwm -/

@[simp] theorem State.setPwm_sys (c : Fin 24) (k : PwmCh) : (s.setPwm c k).sys = s.sys := rfl
@[simp] theorem State.setPwm_tap (c : Fin 24) (k : PwmCh) : (s.setPwm c k).tap = s.tap := rfl
@[simp] theorem State.setPwm_regs (c : Fin 24) (k : PwmCh) : (s.setPwm c k).regs = s.regs := rfl
@[simp] theorem State.setPwm_shadow (c : Fin 24) (k : PwmCh) : (s.setPwm c k).shadow = s.shadow := rfl
@[simp] theorem State.setPwm_mem (c : Fin 24) (k : PwmCh) : (s.setPwm c k).mem = s.mem := rfl
@[simp] theorem State.setPwm_flash (c : Fin 24) (k : PwmCh) : (s.setPwm c k).flash = s.flash := rfl
@[simp] theorem State.setPwm_boot (c : Fin 24) (k : PwmCh) : (s.setPwm c k).boot = s.boot := rfl
@[simp] theorem State.setPwm_flt (c : Fin 24) (k : PwmCh) : (s.setPwm c k).flt = s.flt := rfl
@[simp] theorem State.setPwm_hif (c : Fin 24) (k : PwmCh) : (s.setPwm c k).hif = s.hif := rfl
@[simp] theorem State.setPwm_irq (c : Fin 24) (k : PwmCh) : (s.setPwm c k).irq = s.irq := rfl
@[simp] theorem State.setPwm_cores (c : Fin 24) (k : PwmCh) : (s.setPwm c k).cores = s.cores := rfl
@[simp] theorem State.setPwm_cio (c : Fin 24) (k : PwmCh) : (s.setPwm c k).cio = s.cio := rfl
@[simp] theorem State.setPwm_fab (c : Fin 24) (k : PwmCh) : (s.setPwm c k).fab = s.fab := rfl
@[simp] theorem State.setPwm_cask (c : Fin 24) (k : PwmCh) : (s.setPwm c k).cask = s.cask := rfl
@[simp] theorem State.setPwm_mash (c : Fin 24) (k : PwmCh) : (s.setPwm c k).mash = s.mash := rfl
@[simp] theorem State.setPwm_xio (c : Fin 24) (k : PwmCh) : (s.setPwm c k).xio = s.xio := rfl
@[simp] theorem State.setPwm_pwm (c : Fin 24) (k : PwmCh) : (s.setPwm c k).pwm = s.pwm.set c k := rfl
@[simp] theorem State.setPwm_eth (c : Fin 24) (k : PwmCh) : (s.setPwm c k).eth = s.eth := rfl
@[simp] theorem State.setPwm_ptp (c : Fin 24) (k : PwmCh) : (s.setPwm c k).ptp = s.ptp := rfl
@[simp] theorem State.setPwm_sxe (c : Fin 24) (k : PwmCh) : (s.setPwm c k).sxe = s.sxe := rfl
@[simp] theorem State.setPwm_kiln (c : Fin 24) (k : PwmCh) : (s.setPwm c k).kiln = s.kiln := rfl
@[simp] theorem State.setPwm_twin (c : Fin 24) (k : PwmCh) : (s.setPwm c k).twin = s.twin := rfl
@[simp] theorem State.setPwm_twc (c : Fin 24) (k : PwmCh) : (s.setPwm c k).twc = s.twc := rfl
@[simp] theorem State.setPwm_perf (c : Fin 24) (k : PwmCh) : (s.setPwm c k).perf = s.perf := rfl
@[simp] theorem State.setPwm_free (c : Fin 24) (k : PwmCh) : (s.setPwm c k).free = s.free := rfl
@[simp] theorem State.setPwm_out (c : Fin 24) (k : PwmCh) : (s.setPwm c k).out = s.out := rfl
@[simp] theorem State.setPwm_pending (c : Fin 24) (k : PwmCh) : (s.setPwm c k).pending = s.pending := rfl

/-! ### State.setTwc -/

@[simp] theorem State.setTwc_sys (k : Fin 2) (x : TwcU) : (s.setTwc k x).sys = s.sys := rfl
@[simp] theorem State.setTwc_tap (k : Fin 2) (x : TwcU) : (s.setTwc k x).tap = s.tap := rfl
@[simp] theorem State.setTwc_regs (k : Fin 2) (x : TwcU) : (s.setTwc k x).regs = s.regs := rfl
@[simp] theorem State.setTwc_shadow (k : Fin 2) (x : TwcU) : (s.setTwc k x).shadow = s.shadow := rfl
@[simp] theorem State.setTwc_mem (k : Fin 2) (x : TwcU) : (s.setTwc k x).mem = s.mem := rfl
@[simp] theorem State.setTwc_flash (k : Fin 2) (x : TwcU) : (s.setTwc k x).flash = s.flash := rfl
@[simp] theorem State.setTwc_boot (k : Fin 2) (x : TwcU) : (s.setTwc k x).boot = s.boot := rfl
@[simp] theorem State.setTwc_flt (k : Fin 2) (x : TwcU) : (s.setTwc k x).flt = s.flt := rfl
@[simp] theorem State.setTwc_hif (k : Fin 2) (x : TwcU) : (s.setTwc k x).hif = s.hif := rfl
@[simp] theorem State.setTwc_irq (k : Fin 2) (x : TwcU) : (s.setTwc k x).irq = s.irq := rfl
@[simp] theorem State.setTwc_cores (k : Fin 2) (x : TwcU) : (s.setTwc k x).cores = s.cores := rfl
@[simp] theorem State.setTwc_cio (k : Fin 2) (x : TwcU) : (s.setTwc k x).cio = s.cio := rfl
@[simp] theorem State.setTwc_fab (k : Fin 2) (x : TwcU) : (s.setTwc k x).fab = s.fab := rfl
@[simp] theorem State.setTwc_cask (k : Fin 2) (x : TwcU) : (s.setTwc k x).cask = s.cask := rfl
@[simp] theorem State.setTwc_mash (k : Fin 2) (x : TwcU) : (s.setTwc k x).mash = s.mash := rfl
@[simp] theorem State.setTwc_xio (k : Fin 2) (x : TwcU) : (s.setTwc k x).xio = s.xio := rfl
@[simp] theorem State.setTwc_pwm (k : Fin 2) (x : TwcU) : (s.setTwc k x).pwm = s.pwm := rfl
@[simp] theorem State.setTwc_eth (k : Fin 2) (x : TwcU) : (s.setTwc k x).eth = s.eth := rfl
@[simp] theorem State.setTwc_ptp (k : Fin 2) (x : TwcU) : (s.setTwc k x).ptp = s.ptp := rfl
@[simp] theorem State.setTwc_sxe (k : Fin 2) (x : TwcU) : (s.setTwc k x).sxe = s.sxe := rfl
@[simp] theorem State.setTwc_kiln (k : Fin 2) (x : TwcU) : (s.setTwc k x).kiln = s.kiln := rfl
@[simp] theorem State.setTwc_twin (k : Fin 2) (x : TwcU) : (s.setTwc k x).twin = s.twin := rfl
@[simp] theorem State.setTwc_twc (k : Fin 2) (x : TwcU) : (s.setTwc k x).twc = s.twc.set k x := rfl
@[simp] theorem State.setTwc_perf (k : Fin 2) (x : TwcU) : (s.setTwc k x).perf = s.perf := rfl
@[simp] theorem State.setTwc_free (k : Fin 2) (x : TwcU) : (s.setTwc k x).free = s.free := rfl
@[simp] theorem State.setTwc_out (k : Fin 2) (x : TwcU) : (s.setTwc k x).out = s.out := rfl
@[simp] theorem State.setTwc_pending (k : Fin 2) (x : TwcU) : (s.setTwc k x).pending = s.pending := rfl

/-! ### State.setGrp -/

@[simp] theorem State.setGrp_sys (g : Fin 4) (x : XioGrp) : (s.setGrp g x).sys = s.sys := rfl
@[simp] theorem State.setGrp_tap (g : Fin 4) (x : XioGrp) : (s.setGrp g x).tap = s.tap := rfl
@[simp] theorem State.setGrp_regs (g : Fin 4) (x : XioGrp) : (s.setGrp g x).regs = s.regs := rfl
@[simp] theorem State.setGrp_shadow (g : Fin 4) (x : XioGrp) : (s.setGrp g x).shadow = s.shadow := rfl
@[simp] theorem State.setGrp_mem (g : Fin 4) (x : XioGrp) : (s.setGrp g x).mem = s.mem := rfl
@[simp] theorem State.setGrp_flash (g : Fin 4) (x : XioGrp) : (s.setGrp g x).flash = s.flash := rfl
@[simp] theorem State.setGrp_boot (g : Fin 4) (x : XioGrp) : (s.setGrp g x).boot = s.boot := rfl
@[simp] theorem State.setGrp_flt (g : Fin 4) (x : XioGrp) : (s.setGrp g x).flt = s.flt := rfl
@[simp] theorem State.setGrp_hif (g : Fin 4) (x : XioGrp) : (s.setGrp g x).hif = s.hif := rfl
@[simp] theorem State.setGrp_irq (g : Fin 4) (x : XioGrp) : (s.setGrp g x).irq = s.irq := rfl
@[simp] theorem State.setGrp_cores (g : Fin 4) (x : XioGrp) : (s.setGrp g x).cores = s.cores := rfl
@[simp] theorem State.setGrp_cio (g : Fin 4) (x : XioGrp) : (s.setGrp g x).cio = s.cio := rfl
@[simp] theorem State.setGrp_fab (g : Fin 4) (x : XioGrp) : (s.setGrp g x).fab = s.fab := rfl
@[simp] theorem State.setGrp_cask (g : Fin 4) (x : XioGrp) : (s.setGrp g x).cask = s.cask := rfl
@[simp] theorem State.setGrp_mash (g : Fin 4) (x : XioGrp) : (s.setGrp g x).mash = s.mash := rfl
@[simp] theorem State.setGrp_pwm (g : Fin 4) (x : XioGrp) : (s.setGrp g x).pwm = s.pwm := rfl
@[simp] theorem State.setGrp_eth (g : Fin 4) (x : XioGrp) : (s.setGrp g x).eth = s.eth := rfl
@[simp] theorem State.setGrp_ptp (g : Fin 4) (x : XioGrp) : (s.setGrp g x).ptp = s.ptp := rfl
@[simp] theorem State.setGrp_sxe (g : Fin 4) (x : XioGrp) : (s.setGrp g x).sxe = s.sxe := rfl
@[simp] theorem State.setGrp_kiln (g : Fin 4) (x : XioGrp) : (s.setGrp g x).kiln = s.kiln := rfl
@[simp] theorem State.setGrp_twin (g : Fin 4) (x : XioGrp) : (s.setGrp g x).twin = s.twin := rfl
@[simp] theorem State.setGrp_twc (g : Fin 4) (x : XioGrp) : (s.setGrp g x).twc = s.twc := rfl
@[simp] theorem State.setGrp_perf (g : Fin 4) (x : XioGrp) : (s.setGrp g x).perf = s.perf := rfl
@[simp] theorem State.setGrp_free (g : Fin 4) (x : XioGrp) : (s.setGrp g x).free = s.free := rfl
@[simp] theorem State.setGrp_out (g : Fin 4) (x : XioGrp) : (s.setGrp g x).out = s.out := rfl
@[simp] theorem State.setGrp_pending (g : Fin 4) (x : XioGrp) : (s.setGrp g x).pending = s.pending := rfl

/-! ### State.setBridge -/

@[simp] theorem State.setBridge_sys (x : BridgeU) : (s.setBridge x).sys = s.sys := rfl
@[simp] theorem State.setBridge_tap (x : BridgeU) : (s.setBridge x).tap = s.tap := rfl
@[simp] theorem State.setBridge_regs (x : BridgeU) : (s.setBridge x).regs = s.regs := rfl
@[simp] theorem State.setBridge_shadow (x : BridgeU) : (s.setBridge x).shadow = s.shadow := rfl
@[simp] theorem State.setBridge_mem (x : BridgeU) : (s.setBridge x).mem = s.mem := rfl
@[simp] theorem State.setBridge_flash (x : BridgeU) : (s.setBridge x).flash = s.flash := rfl
@[simp] theorem State.setBridge_boot (x : BridgeU) : (s.setBridge x).boot = s.boot := rfl
@[simp] theorem State.setBridge_flt (x : BridgeU) : (s.setBridge x).flt = s.flt := rfl
@[simp] theorem State.setBridge_hif (x : BridgeU) : (s.setBridge x).hif = s.hif := rfl
@[simp] theorem State.setBridge_irq (x : BridgeU) : (s.setBridge x).irq = s.irq := rfl
@[simp] theorem State.setBridge_cores (x : BridgeU) : (s.setBridge x).cores = s.cores := rfl
@[simp] theorem State.setBridge_cio (x : BridgeU) : (s.setBridge x).cio = s.cio := rfl
@[simp] theorem State.setBridge_fab (x : BridgeU) : (s.setBridge x).fab = s.fab := rfl
@[simp] theorem State.setBridge_cask (x : BridgeU) : (s.setBridge x).cask = s.cask := rfl
@[simp] theorem State.setBridge_mash (x : BridgeU) : (s.setBridge x).mash = s.mash := rfl
@[simp] theorem State.setBridge_pwm (x : BridgeU) : (s.setBridge x).pwm = s.pwm := rfl
@[simp] theorem State.setBridge_eth (x : BridgeU) : (s.setBridge x).eth = s.eth := rfl
@[simp] theorem State.setBridge_ptp (x : BridgeU) : (s.setBridge x).ptp = s.ptp := rfl
@[simp] theorem State.setBridge_sxe (x : BridgeU) : (s.setBridge x).sxe = s.sxe := rfl
@[simp] theorem State.setBridge_kiln (x : BridgeU) : (s.setBridge x).kiln = s.kiln := rfl
@[simp] theorem State.setBridge_twin (x : BridgeU) : (s.setBridge x).twin = s.twin := rfl
@[simp] theorem State.setBridge_twc (x : BridgeU) : (s.setBridge x).twc = s.twc := rfl
@[simp] theorem State.setBridge_perf (x : BridgeU) : (s.setBridge x).perf = s.perf := rfl
@[simp] theorem State.setBridge_free (x : BridgeU) : (s.setBridge x).free = s.free := rfl
@[simp] theorem State.setBridge_out (x : BridgeU) : (s.setBridge x).out = s.out := rfl
@[simp] theorem State.setBridge_pending (x : BridgeU) : (s.setBridge x).pending = s.pending := rfl

/-! ### irqUpdate -/

/-- Following the interrupt lines changes them and what is put out, nothing else. -/
theorem irqUpdate_shape : ∃ x o, irqUpdate s = { s with irq := x, out := s.out ++ o } := by
  unfold irqUpdate
  extract_lets src en rise
  generalize msixStep s rise = q
  obtain ⟨p, o⟩ := q
  exact ⟨_, _, rfl⟩

@[simp] theorem irqUpdate_sys : (irqUpdate s).sys = s.sys := by obtain ⟨x, o, h⟩ := irqUpdate_shape s; rw [h]
@[simp] theorem irqUpdate_tap : (irqUpdate s).tap = s.tap := by obtain ⟨x, o, h⟩ := irqUpdate_shape s; rw [h]
@[simp] theorem irqUpdate_regs : (irqUpdate s).regs = s.regs := by obtain ⟨x, o, h⟩ := irqUpdate_shape s; rw [h]
@[simp] theorem irqUpdate_shadow : (irqUpdate s).shadow = s.shadow := by obtain ⟨x, o, h⟩ := irqUpdate_shape s; rw [h]
@[simp] theorem irqUpdate_mem : (irqUpdate s).mem = s.mem := by obtain ⟨x, o, h⟩ := irqUpdate_shape s; rw [h]
@[simp] theorem irqUpdate_flash : (irqUpdate s).flash = s.flash := by obtain ⟨x, o, h⟩ := irqUpdate_shape s; rw [h]
@[simp] theorem irqUpdate_boot : (irqUpdate s).boot = s.boot := by obtain ⟨x, o, h⟩ := irqUpdate_shape s; rw [h]
@[simp] theorem irqUpdate_flt : (irqUpdate s).flt = s.flt := by obtain ⟨x, o, h⟩ := irqUpdate_shape s; rw [h]
@[simp] theorem irqUpdate_hif : (irqUpdate s).hif = s.hif := by obtain ⟨x, o, h⟩ := irqUpdate_shape s; rw [h]
@[simp] theorem irqUpdate_cores : (irqUpdate s).cores = s.cores := by obtain ⟨x, o, h⟩ := irqUpdate_shape s; rw [h]
@[simp] theorem irqUpdate_cio : (irqUpdate s).cio = s.cio := by obtain ⟨x, o, h⟩ := irqUpdate_shape s; rw [h]
@[simp] theorem irqUpdate_fab : (irqUpdate s).fab = s.fab := by obtain ⟨x, o, h⟩ := irqUpdate_shape s; rw [h]
@[simp] theorem irqUpdate_cask : (irqUpdate s).cask = s.cask := by obtain ⟨x, o, h⟩ := irqUpdate_shape s; rw [h]
@[simp] theorem irqUpdate_mash : (irqUpdate s).mash = s.mash := by obtain ⟨x, o, h⟩ := irqUpdate_shape s; rw [h]
@[simp] theorem irqUpdate_xio : (irqUpdate s).xio = s.xio := by obtain ⟨x, o, h⟩ := irqUpdate_shape s; rw [h]
@[simp] theorem irqUpdate_pwm : (irqUpdate s).pwm = s.pwm := by obtain ⟨x, o, h⟩ := irqUpdate_shape s; rw [h]
@[simp] theorem irqUpdate_eth : (irqUpdate s).eth = s.eth := by obtain ⟨x, o, h⟩ := irqUpdate_shape s; rw [h]
@[simp] theorem irqUpdate_ptp : (irqUpdate s).ptp = s.ptp := by obtain ⟨x, o, h⟩ := irqUpdate_shape s; rw [h]
@[simp] theorem irqUpdate_sxe : (irqUpdate s).sxe = s.sxe := by obtain ⟨x, o, h⟩ := irqUpdate_shape s; rw [h]
@[simp] theorem irqUpdate_kiln : (irqUpdate s).kiln = s.kiln := by obtain ⟨x, o, h⟩ := irqUpdate_shape s; rw [h]
@[simp] theorem irqUpdate_twin : (irqUpdate s).twin = s.twin := by obtain ⟨x, o, h⟩ := irqUpdate_shape s; rw [h]
@[simp] theorem irqUpdate_twc : (irqUpdate s).twc = s.twc := by obtain ⟨x, o, h⟩ := irqUpdate_shape s; rw [h]
@[simp] theorem irqUpdate_perf : (irqUpdate s).perf = s.perf := by obtain ⟨x, o, h⟩ := irqUpdate_shape s; rw [h]
@[simp] theorem irqUpdate_free : (irqUpdate s).free = s.free := by obtain ⟨x, o, h⟩ := irqUpdate_shape s; rw [h]
@[simp] theorem irqUpdate_pending : (irqUpdate s).pending = s.pending := by obtain ⟨x, o, h⟩ := irqUpdate_shape s; rw [h]

end Sys2Proof.Machine
end

