-- ==== Sys2Proof/Laws/Reg.lean ====
section
/-!
SUPPORT. The laws of registers and their fields: a read after a write, and what a write of one field leaves.
-/
namespace Sys2Proof.Machine

/-! ## Fields of a word -/

/-- The bits of a field's mask. -/
theorem fieldMask_getLsbD {lo w i : Nat} (h : lo + w ≤ 32) (hi : i < 32) :
    (fieldMask lo w).getLsbD i = decide (lo ≤ i ∧ i < lo + w) := by
  unfold fieldMask
  have h1 : (2 ^ w - 1) * 2 ^ lo < 2 ^ 32 := by
    have : 2 ^ w * 2 ^ lo ≤ 2 ^ 32 := by rw [← Nat.pow_add]; exact Nat.pow_le_pow_right (by omega) (by omega)
    have h0 : 0 < 2 ^ lo := Nat.pow_pos (by omega)
    have h2 : 0 < 2 ^ w := Nat.pow_pos (by omega)
    calc (2 ^ w - 1) * 2 ^ lo < 2 ^ w * 2 ^ lo := Nat.mul_lt_mul_of_pos_right (by omega) h0
      _ ≤ _ := this
  simp only [BitVec.getLsbD_ofNat, hi, decide_true, Bool.true_and]
  rw [Nat.mul_comm, Nat.testBit_two_pow_mul, Nat.testBit_two_pow_sub_one]
  by_cases a : lo ≤ i <;> by_cases b : i < lo + w
  · simp [a, b]; omega
  · simp [a, b]; omega
  · simp [a]
  · simp [a]

/-- The bits of a field's value in place. -/
theorem fieldVal_getLsbD {lo w v i : Nat} (hi : i < 32) :
    (BitVec.ofNat 32 (v % 2 ^ w * 2 ^ lo)).getLsbD i = (decide (lo ≤ i ∧ i < lo + w) && v.testBit (i - lo)) := by
  simp only [BitVec.getLsbD_ofNat, hi, decide_true, Bool.true_and]
  rw [Nat.mul_comm, Nat.testBit_two_pow_mul, Nat.testBit_mod_two_pow]
  by_cases a : lo ≤ i <;> by_cases b : i < lo + w
  · simp [a, b]; intro; omega
  · simp [a, b]; intro; omega
  · simp [a]
  · simp [a]

/-- The bits of a word with a field put. -/
theorem fieldPut_getLsbD {lo w v i : Nat} {x : Word} (h : lo + w ≤ 32) (hi : i < 32) :
    (fieldPut lo w x v).getLsbD i = if lo ≤ i ∧ i < lo + w then v.testBit (i - lo) else x.getLsbD i := by
  unfold fieldPut
  rw [BitVec.getLsbD_or, BitVec.getLsbD_and, BitVec.getLsbD_not, fieldMask_getLsbD h hi, fieldVal_getLsbD hi]
  by_cases c : lo ≤ i ∧ i < lo + w <;> simp [c, hi]

/-- The bits of a field that is read. -/
theorem fieldGet_testBit {lo w i : Nat} {x : Word} :
    (fieldGet lo w x).testBit i = (decide (i < w) && x.getLsbD (lo + i)) := by
  unfold fieldGet
  rw [Nat.testBit_mod_two_pow, Nat.testBit_div_two_pow, BitVec.getLsbD, Nat.add_comm]

/-- A field reads as it was put. -/
theorem fieldGet_put {lo w v : Nat} {x : Word} (h : lo + w ≤ 32) : fieldGet lo w (fieldPut lo w x v) = v % 2 ^ w := by
  apply Nat.eq_of_testBit_eq
  intro i
  rw [fieldGet_testBit, Nat.testBit_mod_two_pow]
  by_cases c : i < w
  · rw [fieldPut_getLsbD h (by omega)]
    simp [c]
  · simp [c]

/-- A field that does not meet the one put reads as before. -/
theorem fieldGet_put_other {lo w lo' w' v : Nat} {x : Word} (h : lo + w ≤ 32) (d : lo' + w' ≤ lo ∨ lo + w ≤ lo') :
    fieldGet lo' w' (fieldPut lo w x v) = fieldGet lo' w' x := by
  apply Nat.eq_of_testBit_eq
  intro i
  rw [fieldGet_testBit, fieldGet_testBit]
  by_cases c : i < w'
  · by_cases hi : lo' + i < 32
    · rw [fieldPut_getLsbD h hi, if_neg (by omega)]
    · simp [BitVec.getLsbD_of_ge _ _ (show 32 ≤ lo' + i by omega)]
  · simp [c]

/-! ## Registers -/

/-- A register reads as it was written; the others are left. -/
theorem State.reg_setReg {s : State} {a b : Nat} {v : Word} : (s.setReg a v).reg b = if b = a then v else s.reg b := by
  simp only [State.reg, State.setReg_regs, Sparse.get_set]

@[simp] theorem State.reg_setReg_self {s : State} {a : Nat} {v : Word} : (s.setReg a v).reg a = v := by
  rw [State.reg_setReg, if_pos rfl]

theorem State.reg_setReg_other {s : State} {a b : Nat} {v : Word} (h : b ≠ a) : (s.setReg a v).reg b = s.reg b := by
  rw [State.reg_setReg, if_neg h]

/-- A register reads after a field's write. -/
theorem State.reg_put {s : State} {l : Loc} {v b : Nat} :
    (s.put l v).reg b = if b = l.addr then fieldPut l.lo l.w (s.reg l.addr) v else s.reg b := by
  rw [State.put, State.reg_setReg]

/-- A field reads as it was put. -/
theorem State.get_put_self {s : State} {l : Loc} {v : Nat} (h : l.lo + l.w ≤ 32) : (s.put l v).get l = v % 2 ^ l.w := by
  rw [State.get, State.reg_put, if_pos rfl, fieldGet_put h]

/-- Two fields do not meet: other registers, or other bits. -/
def Loc.apart (l m : Loc) : Prop := m.addr ≠ l.addr ∨ m.lo + m.w ≤ l.lo ∨ l.lo + l.w ≤ m.lo

/-- A field that does not meet the one put reads as before. -/
theorem State.get_put_other {s : State} {l m : Loc} {v : Nat} (h : l.lo + l.w ≤ 32) (d : l.apart m) :
    (s.put l v).get m = s.get m := by
  rw [State.get, State.get, State.reg_put]
  by_cases c : m.addr = l.addr
  · rw [if_pos c, ← c]
    rcases d with d | d
    · exact absurd c d
    · exact fieldGet_put_other h d
  · rw [if_neg c]

/-- What a read of listed data finds. -/
theorem Sparse.get_eq_find {w : Nat} {dflt : Nat → BitVec w} {m : Sparse w} {k : Nat} :
    Sparse.get dflt m k = ((m.find? (fun p => p.1 == k)).map (·.2)).getD (dflt k) := by
  induction m with
  | nil => rfl
  | cons p t ih =>
    obtain ⟨a, v⟩ := p
    simp only [Sparse.get, List.find?_cons]
    by_cases c : a = k
    · simp [c]
    · have : (a == k) = false := by simpa using c
      rw [if_neg c, this]
      exact ih

/-- The short look at a field is the field, where its reset value is 0. -/
theorem State.rawFlag_eq {s : State} {l : Loc} (h : fieldGet l.lo l.w (regReset l.addr) = 0) : s.rawFlag l = s.flag l := by
  unfold State.rawFlag State.flag State.get State.reg
  rw [Sparse.get_eq_find]
  cases hf : s.regs.find? (fun p => p.1 == l.addr) with
  | none => simp [h]
  | some p => simp

/-- A key looked for after another was written. -/
theorem Sparse.find_set_other {w : Nat} {dflt : Nat → BitVec w} {m : Sparse w} {k j : Nat} {v : BitVec w} (h : j ≠ k) :
    (Sparse.set dflt m k v).find? (fun p => p.1 == j) = m.find? (fun p => p.1 == j) := by
  have drop : (m.filter (fun p => p.1 != k)).find? (fun p => p.1 == j) = m.find? (fun p => p.1 == j) := by
    rw [List.find?_filter]
    congr 1
    funext p
    by_cases c : p.1 = j <;> simp [c, h]
  have ins : (Sparse.insert k v m).find? (fun p => p.1 == j) = m.find? (fun p => p.1 == j) := by
    clear drop
    induction m with
    | nil => simp [Sparse.insert, Ne.symm h]
    | cons p t ih =>
      obtain ⟨a, x⟩ := p
      simp only [Sparse.insert]
      split
      · simp [List.find?_cons, Ne.symm h]
      · split
        · rename_i _ c; subst c; simp [Ne.symm h]
        · simp only [List.find?_cons]; split
          · rfl
          · exact ih
  unfold Sparse.set
  split
  · exact drop
  · exact ins

/-- The short look at a field of another register. -/
theorem State.rawFlag_setReg_other {s : State} {a : Nat} {v : Word} {l : Loc} (h : l.addr ≠ a) :
    (s.setReg a v).rawFlag l = s.rawFlag l := by
  unfold State.rawFlag
  rw [State.setReg_regs, Sparse.find_set_other h]

end Sys2Proof.Machine
end

