-- ==== Sys2Proof/Laws/Run.lean ====
section
/-!
SUPPORT. The frame every command runs in: what the entering of raised faults and the following of the interrupt lines can
change, and what they leave.
-/
namespace Sys2Proof.Machine

/-- Counting an event changes counters alone. -/
theorem perfAdd_shape (s : State) (i amt : Nat) : ∃ r, perfAdd s i amt = { s with regs := r } := by
  unfold perfAdd
  extract_lets a n s1
  split
  · exact ⟨_, rfl⟩
  · split
    · split <;> exact ⟨_, rfl⟩
    · exact ⟨_, rfl⟩

/-- Counting an event changes counters alone. -/
theorem State.count_shape (s : State) (ev amt : Nat) : ∃ r, s.count ev amt = { s with regs := r } := by
  unfold State.count
  split
  · exact ⟨s.regs, rfl⟩
  · have key : ∀ (l : List Nat) (u : State), (∃ r, u = { s with regs := r }) → ∃ r, l.foldl (fun s i =>
        if s.get (R.PERF_EVSEL.event i) = ev && !(i % 2 = 1 && s.flag (R.PERF_EVSEL.chain i)) then
          perfAdd s i (if s.flag (R.PERF_EVSEL.thr_en i) then bit (s.get (R.PERF_EVSEL.thr i) < amt) else amt)
        else s) u = { s with regs := r } := by
      intro l
      induction l with
      | nil => exact fun u h => h
      | cons i t ih =>
        rintro _ ⟨r, rfl⟩
        refine ih _ ?_
        dsimp only
        split
        · obtain ⟨r', h⟩ := perfAdd_shape { s with regs := r } i
            (if ({ s with regs := r } : State).flag (R.PERF_EVSEL.thr_en i) then
              bit (({ s with regs := r } : State).get (R.PERF_EVSEL.thr i) < amt) else amt)
          exact ⟨r', by rw [h]⟩
        · exact ⟨r, rfl⟩
    exact key _ s ⟨s.regs, rfl⟩

/-- Nothing is counted while the counters do not run. -/
theorem State.count_off {s : State} {ev amt : Nat} (h : s.rawFlag R.PERF_CTRL.run = false) : s.count ev amt = s := by
  simp [State.count, h]

/-- A fault that enters the queue changes the queue, what the fault block notes, registers and what twin operation notes. -/
theorem enqueue_shape (s : State) (x : Raised) :
    ∃ r q c t, enqueue s x = { s with regs := r, flt := { s.flt with queue := q, c3 := c }, twin := t } := by
  unfold enqueue
  extract_lets s1 f1 s2 f2
  have h1 : ∃ t, s1 = { s with twin := t } := by
    unfold s1 noteLocal; split
    · exact ⟨_, rfl⟩
    · exact ⟨s.twin, rfl⟩
  have h2 : ∃ q c t, s2 = { s with flt := { s.flt with queue := q, c3 := c }, twin := t } := by
    obtain ⟨t, h1⟩ := h1
    unfold s2 f1; rw [h1]; split
    · exact ⟨s.flt.queue, _, t, rfl⟩
    · exact ⟨s.flt.queue, s.flt.c3, t, rfl⟩
  obtain ⟨q, c, t, h2⟩ := h2
  clear_value s2
  clear h1 f1
  clear s1
  subst h2
  split
  · exact ⟨s.regs, _, c, t, rfl⟩
  · split
    · exact ⟨_, q, c, t, rfl⟩
    · extract_lets q2 s3
      have h3 : s3 = { s with flt := { s.flt with queue := s3.flt.queue, c3 := c }, twin := t } := rfl
      clear_value s3
      split
      · exact ⟨s.regs, _, c, t, h3⟩
      · rw [h3]; exact ⟨_, _, c, t, rfl⟩

/-- The twin's yielding changes registers, the egress queues and what twin operation notes. -/
theorem twinAlarm_shape (l : List Raised) (s : State) : ∃ r e t, twinAlarm l s = { s with regs := r, eth := e, twin := t } := by
  unfold twinAlarm
  split
  · exact ⟨_, _, _, rfl⟩
  · exact ⟨s.regs, s.eth, s.twin, rfl⟩

/-- The entering of the raised faults leaves every other part of the engine. -/
theorem flushFaults_shape (s : State) : ∃ r q c e t,
    flushFaults s = { s with regs := r, flt := { s.flt with queue := q, raised := [], c3 := c }, eth := e, twin := t } := by
  unfold flushFaults
  split
  · rename_i h
    refine ⟨s.regs, s.flt.queue, s.flt.c3, s.eth, s.twin, ?_⟩
    rw [← h]
  · have key : ∀ (l : List Raised) (u : State),
        (∃ r q c t, u = { s with regs := r, flt := { s.flt with queue := q, raised := [], c3 := c }, twin := t }) →
        ∃ r q c t, l.foldl enqueue u
          = { s with regs := r, flt := { s.flt with queue := q, raised := [], c3 := c }, twin := t } := by
      intro l
      induction l with
      | nil => exact fun u h => h
      | cons x t ih =>
        rintro _ ⟨r, q, c, tw, rfl⟩
        obtain ⟨r', q', c', t', h⟩ := enqueue_shape
          { s with regs := r, flt := { s.flt with queue := q, raised := [], c3 := c }, twin := tw } x
        refine ih _ ⟨r', q', c', t', ?_⟩
        rw [h]
    generalize s.flt.raised = l
    obtain ⟨r, q, c, t, h⟩ := key (l.foldl (fun acc x => Raised.insert x acc) []) { s with flt := { s.flt with raised := [] } }
      ⟨s.regs, s.flt.queue, s.flt.c3, s.twin, rfl⟩
    obtain ⟨r', h'⟩ := State.count_shape
      { s with regs := r, flt := { s.flt with queue := q, raised := [], c3 := c }, twin := t } 4 l.length
    obtain ⟨r2, e2, t2, h2⟩ := twinAlarm_shape l
      { s with regs := r', flt := { s.flt with queue := q, raised := [], c3 := c }, twin := t }
    refine ⟨r2, q, c, e2, t2, ?_⟩
    dsimp only at h h' h2 ⊢
    rw [h, h', h2]

/-- Nothing raised, nothing enters. -/
theorem flushFaults_nil {s : State} (h : s.flt.raised = []) : flushFaults s = s := by
  unfold flushFaults
  split
  · rfl
  · rename_i e; rw [h] at e; exact absurd rfl e

/-- What a command leaves when its frame ends: everything but registers, the fault block, the egress queues, twin operation's notes,
the interrupt lines and the output is as its effect left it; no raised fault is left over. -/
theorem Cmd.run_shape (f : State → State) {s : State} (on : s.on) : ∃ r q c e t x o, Cmd.run f s = .next
    { f s.begin with
      regs := r, flt := { (f s.begin).flt with queue := q, raised := [], c3 := c }, eth := e, twin := t, irq := x, out := o } := by
  unfold Cmd.run
  rw [on]
  obtain ⟨r, q, c, e, t, h⟩ := flushFaults_shape (f s.begin)
  obtain ⟨x, o, h'⟩ := irqUpdate_shape (flushFaults (f s.begin))
  exact ⟨r, q, c, e, t, x, _, by rw [if_neg (by simp), h', h]⟩

/-- A command that raises no fault leaves the engine as its effect does, but for the interrupt lines. -/
theorem Cmd.run_quiet {f : State → State} {s : State} (on : s.on) (h : (f s.begin).flt.raised = []) :
    ∃ x o, Cmd.run f s = .next { f s.begin with irq := x, out := o } := by
  unfold Cmd.run
  rw [on, flushFaults_nil h]
  obtain ⟨x, o, h'⟩ := irqUpdate_shape (f s.begin)
  exact ⟨x, _, by rw [if_neg (by simp), h']⟩

/-- While the engine does not operate, a command does nothing; what the one before put out is gone (R448). -/
theorem Cmd.run_off (f : State → State) {s : State} (off : s.tap.testEn = true) : Cmd.run f s = .next s.begin := by
  unfold Cmd.run
  rw [off, if_pos rfl]

/-- Between commands no raised fault is left over. -/
theorem Cmd.run_raised (f : State → State) {s : State} (h : s.flt.raised = []) : ∃ t, Cmd.run f s = .next t ∧ t.flt.raised = [] := by
  by_cases on : s.tap.testEn = true
  · exact ⟨_, Cmd.run_off f on, h⟩
  · obtain ⟨r, q, c, e, t, x, o, k⟩ := Cmd.run_shape f (by simpa using on : s.on)
    exact ⟨_, k, rfl⟩

end Sys2Proof.Machine
end

