-- ==== Sys2Proof/Laws/Core.lean ====
section
/-!
SUPPORT. How a core's single instruction word issues: what the group's frame does around the word's own effect.
-/
namespace Sys2Proof.Machine

/-- The state a word of core c is read in: the outputs of the command before gone, the consumer marked as requesting. -/
def issueAt (s : State) (c : Fin 16) : State := if (s.core c).level = 1 then s.begin else s.begin.request c.val

/-- Only the output and the consumer's request differ. -/
theorem issueAt_shape (s : State) (c : Fin 16) : ∃ q, issueAt s c = { s with out := [], fab := { s.fab with req := q } } := by
  unfold issueAt; split
  · exact ⟨s.fab.req, rfl⟩
  · exact ⟨_, rfl⟩

@[simp] theorem issueAt_core (s : State) (c j : Fin 16) : (issueAt s c).core j = s.core j := by
  unfold issueAt; split <;> rfl

@[simp] theorem issueAt_upsets (s : State) (c : Fin 16) : (issueAt s c).fab.upsets = s.fab.upsets := by
  unfold issueAt; split <;> rfl

@[simp] theorem State.core_setCore_self (s : State) (c : Fin 16) (k : Core) : (s.setCore c k).core c = k := by
  simp [State.core, State.setCore]

theorem State.core_setCore_other (s : State) {c j : Fin 16} (k : Core) (h : j ≠ c) : (s.setCore c k).core j = s.core j := by
  simp only [State.core, State.setCore, Fin.getElem_fin]
  rw [Vector.getElem_set_ne]
  intro e; exact h (Fin.ext e.symm)

theorem State.setCore_setCore (s : State) (c : Fin 16) (k k' : Core) : (s.setCore c k).setCore c k' = s.setCore c k' := by
  simp only [State.setCore]
  congr 1
  apply Vector.ext
  intro i hi
  simp only [Vector.getElem_set]
  split <;> rfl

/-- A group that waits waits at most three cycles. -/
theorem groupHold_le (ws : List WordEff) (cyc : Nat) : groupHold ws cyc ≤ 3 := by
  unfold groupHold
  split
  · omega
  · split
    · split <;> omega
    · split <;> omega

/-- A ready core issues a whole group of one word. -/
theorem issueWord_one {s : State} {c : Fin 16} {n : Nat} {f : CView → WordEff} (r : CoreReady s c n) :
    issueWord c true f s.begin = issueGroup ((issueAt s c).setCore c { s.core c with
      group := [#v[f ⟨c, s.core c, issueAt s c⟩, f ⟨c, Core.ticks 1 (s.core c), issueAt s c⟩,
        f ⟨c, Core.ticks 2 (s.core c), issueAt s c⟩, f ⟨c, Core.ticks 3 (s.core c), issueAt s c⟩]] }) c := by
  have hb : (s.begin).core c = s.core c := rfl
  have hrun : (s.core c).run = .running := by
    have h := r.issue
    simp only [canIssue, Bool.and_eq_true, beq_iff_eq] at h
    exact h.1.1
  unfold issueWord
  rw [hb]
  simp only [hrun, ne_eq, not_true_eq_false, if_false]
  change (if !(s.core c).group.isEmpty || canIssue (issueAt s c) c then _ else _) = _
  have hc : canIssue (issueAt s c) c = true := by
    rw [← r.issue]
    obtain ⟨q, h⟩ := issueAt_shape s c
    rw [h]; rfl
  have hfe : (s.core c).fetchOut = false := by
    have h := r.fetch
    unfold Core.fetchOut
    rw [r.group]
    cases e : Nat.ble 0x10000 ((s.core c).pc.toNat + 4 * ([] : List (Vector WordEff 4)).length) with
    | false => rfl
    | true => exact absurd (Nat.le_of_ble_eq_true e) (by simpa using h)
  simp only [hc, Bool.or_true, if_true, hfe, Bool.false_eq_true, if_false, r.group, List.nil_append, Bool.true_or]
  rfl

/-! ## One word -/

/-- A single word breaks no limit of R102 outside a delay slot and a loop's end. -/
theorem groupIllegal_one (w : WordEff) : groupIllegal [w] false false = false := by
  have h : classesFit [w] = true := by
    unfold classesFit
    rcases w with ⟨u⟩
    cases u <;> rfl
  have h2 : Nat.blt 1 ([w].filter (·.flagW)).length = false := by
    cases hf : w.flagW <;> simp [hf] <;> rfl
  have h3 : destsFit [w] = true := rfl
  unfold groupIllegal
  rw [h, h2, h3]
  rfl

/-- What memory and the error checks become with one word's loads and stores. -/
def wordMem (s : State) (c : Fin 16) (w : WordEff) : State :=
  w.stores.foldl (fun s a => s.memWrite (tunBase c.val + a.1) a.2) (w.loads.foldl (fun s a => s.touch (tunBase c.val + a.1) a.2) s)

/-- The core as one plain word leaves it, before the cycle passes: its results on their way, the pc one word further. -/
def Core.issued (k : Core) (w : WordEff) (st tag : Nat) (acct : TagAcct) : Core := { k with
  group := []
  flight := k.flight ++ w.writes.map (fun x => ⟨x.1, k.useBank1, x.2⟩)
  stLeft := st
  pc := k.pc + 4
  accFence := 0, accEntry := 0, accStall := 0, accIdle := 0
  tagLeft := tag
  acct := acct }

/-- Nothing changes when the bank in use is put back. -/
theorem Core.setBank_bank (k : Core) : k.setBank k.useBank1 k.bank = k := by
  unfold Core.setBank Core.bank Core.bankOf
  split <;> simp

theorem debugEnd_quiet {k : Core} {b : Bool} (h : k.haltReq = false) (q : k.haltCmd = false) (p : k.stepping = false) :
    debugEnd { k with haltReq := k.haltReq || false } b = k := by
  cases k
  simp only at h q p
  subst h q p
  unfold debugEnd
  simp

/-! ## What a cycle leaves -/

/-- What the landing of results leaves alone. -/
structure Core.SameLand (k k' : Core) : Prop where
  run : k'.run = k.run
  level : k'.level = k.level
  pc : k'.pc = k.pc
  vbase : k'.vbase = k.vbase
  cyc : k'.cyc = k.cyc
  flight : k'.flight = k.flight
  group : k'.group = k.group
  slot : k'.slot = k.slot
  haltReq : k'.haltReq = k.haltReq
  haltCmd : k'.haltCmd = k.haltCmd
  stepping : k'.stepping = k.stepping

theorem Core.SameLand.refl (k : Core) : k.SameLand k := ⟨rfl, rfl, rfl, rfl, rfl, rfl, rfl, rfl, rfl, rfl, rfl⟩

theorem Core.SameLand.trans {a b d : Core} (h : a.SameLand b) (g : b.SameLand d) : a.SameLand d :=
  ⟨g.run.trans h.run, g.level.trans h.level, g.pc.trans h.pc, g.vbase.trans h.vbase, g.cyc.trans h.cyc, g.flight.trans h.flight,
    g.group.trans h.group, g.slot.trans h.slot, g.haltReq.trans h.haltReq, g.haltCmd.trans h.haltCmd, g.stepping.trans h.stepping⟩

theorem Core.setBank_same (k : Core) (one : Bool) (b : Bank) : k.SameLand (k.setBank one b) := by
  unfold Core.setBank; split <;> exact ⟨rfl, rfl, rfl, rfl, rfl, rfl, rfl, rfl, rfl, rfl, rfl⟩

theorem dite_of {P : Core → Prop} {p : Prop} [Decidable p] {x : p → Core} {y : ¬ p → Core} (hx : ∀ h, P (x h))
    (hy : ∀ h, P (y h)) : P (dite p x y) := by
  split
  · exact hx _
  · exact hy _

theorem Core.writeCr_same (k : Core) (one : Bool) (cr : Nat) (v : Word) : k.SameLand (k.writeCr one cr v) := by
  unfold Core.writeCr
  dsimp only
  iterate 7 refine dite_of (fun _ => Core.setBank_same _ _ _) (fun _ => ?_)
  iterate 7 refine iteInduction (fun _ => by first
    | exact Core.setBank_same _ _ _
    | exact ⟨rfl, rfl, rfl, rfl, rfl, rfl, rfl, rfl, rfl, rfl, rfl⟩) (fun _ => ?_)
  exact .refl k

theorem Core.apply_same (k : Core) (one : Bool) (w : CWrite) : k.SameLand (k.apply one w) := by
  unfold Core.apply
  cases w with
  | ctl cr v => exact Core.writeCr_same _ _ _ _
  | _ => exact Core.setBank_same _ _ _

theorem landDue_same (l : List InFlight) (k : Core) : k.SameLand (landDue k l) := by
  induction l generalizing k with
  | nil => exact .refl k
  | cons f t ih =>
    unfold landDue
    split
    · exact (Core.apply_same k _ _).trans (ih _)
    · exact ih k

theorem landDue_append (l m : List InFlight) (k : Core) : landDue k (l ++ m) = landDue (landDue k l) m := by
  induction l generalizing k with
  | nil => rfl
  | cons f t ih => simp only [List.cons_append, landDue]; exact ih _

/-- What a cycle leaves alone. -/
structure Core.SameLand' (k k' : Core) : Prop where
  run : k'.run = k.run
  level : k'.level = k.level
  pc : k'.pc = k.pc
  vbase : k'.vbase = k.vbase
  group : k'.group = k.group
  slot : k'.slot = k.slot
  haltReq : k'.haltReq = k.haltReq
  haltCmd : k'.haltCmd = k.haltCmd
  stepping : k'.stepping = k.stepping

theorem Core.tick_same (k : Core) : k.SameLand' k.tick := by
  unfold Core.tick
  have h := landDue_same (k.flight.map (fun f => { f with left := f.left - 1 }))
    { k with flight := (k.flight.map (fun f => { f with left := f.left - 1 })).filter (fun f => f.left != 0) }
  exact ⟨h.run, h.level, h.pc, h.vbase, h.group, h.slot, h.haltReq, h.haltCmd, h.stepping⟩

theorem Core.tick_cyc (k : Core) : k.tick.cyc = k.cyc + 1 := by
  unfold Core.tick
  dsimp only
  rw [(landDue_same _ _).cyc]

theorem Core.SameLand'.trans {a b d : Core} (h : a.SameLand' b) (g : b.SameLand' d) : a.SameLand' d :=
  ⟨g.run.trans h.run, g.level.trans h.level, g.pc.trans h.pc, g.vbase.trans h.vbase, g.group.trans h.group,
    g.slot.trans h.slot, g.haltReq.trans h.haltReq, g.haltCmd.trans h.haltCmd, g.stepping.trans h.stepping⟩

theorem Core.ticks_same (n : Nat) (k : Core) : k.SameLand' (Core.ticks n k) := by
  induction n generalizing k with
  | zero => exact ⟨rfl, rfl, rfl, rfl, rfl, rfl, rfl, rfl, rfl⟩
  | succ n ih => exact (Core.tick_same k).trans (ih k.tick)

/-- What a landing result can reach: the banks and the special registers. -/
structure Core.Arch where
  bank0 : Bank
  bank1 : Bank
  cr : Word
  epc1 : Word
  epc2 : Word
  esr2 : Word

def Core.arch (k : Core) : Core.Arch := ⟨k.bank0, k.bank1, k.cr, k.epc1, k.epc2, k.esr2⟩

/-- The core with other banks and special registers. -/
def Core.withArch (k : Core) (a : Core.Arch) : Core :=
  { k with bank0 := a.bank0, bank1 := a.bank1, cr := a.cr, epc1 := a.epc1, epc2 := a.epc2, esr2 := a.esr2 }

theorem Core.setBank_arch (k k' : Core) (one : Bool) (b : Bank) (h : k'.arch = k.arch) :
    k'.setBank one b = k'.withArch (k.setBank one b).arch := by
  simp only [Core.arch, Core.Arch.mk.injEq] at h
  obtain ⟨h0, h1, h2, h3, h4, h5⟩ := h
  unfold Core.setBank
  split <;> simp [Core.withArch, Core.arch, ← h0, ← h1, ← h2, ← h3, ← h4, ← h5]

theorem Core.bankOf_arch {k k' : Core} (h : k'.arch = k.arch) (one : Bool) : k'.bankOf one = k.bankOf one := by
  simp only [Core.arch, Core.Arch.mk.injEq] at h
  unfold Core.bankOf
  split
  · exact h.2.1
  · exact h.1

theorem Core.arch_self {k k' : Core} (h : k'.arch = k.arch) : k' = k'.withArch k.arch := by rw [← h]; rfl

/-- A landing result acts on the banks and special registers alone, by what they hold. -/
theorem Core.apply_arch (k k' : Core) (one : Bool) (w : CWrite) (h : k'.arch = k.arch) :
    k'.apply one w = k'.withArch (k.apply one w).arch := by
  have hb := Core.bankOf_arch h one
  have hs : ∀ b, k'.setBank one b = k'.withArch (k.setBank one b).arch := fun b => Core.setBank_arch k k' one b h
  unfold Core.apply
  rw [hb]
  cases w with
  | ctl cr v =>
    dsimp only
    unfold Core.writeCr
    rw [hb]
    dsimp only
    have hd : ∀ {p : Prop} [Decidable p] (x x' : p → Core) (y y' : ¬ p → Core), (∀ q, x' q = k'.withArch (x q).arch) →
        (∀ q, y' q = k'.withArch (y q).arch) → dite p x' y' = k'.withArch (dite p x y).arch := by
      intro p _ x x' y y' hx hy
      by_cases q : p
      · simp only [q, dif_pos]; exact hx q
      · simp only [q, dif_neg, not_false_eq_true]; exact hy q
    have hi : ∀ {p : Prop} [Decidable p] (x x' y y' : Core), (x' = k'.withArch x.arch) →
        (y' = k'.withArch y.arch) → ite p x' y' = k'.withArch (ite p x y).arch := by
      intro p _ x x' y y' hx hy
      by_cases q : p
      · simp only [q, if_pos]; exact hx
      · simp only [q, if_neg, not_false_eq_true]; exact hy
    iterate 7 refine hd _ _ _ _ (fun _ => hs _) (fun _ => ?_)
    have h' := h
    simp only [Core.arch, Core.Arch.mk.injEq] at h'
    obtain ⟨h0, h1, h2, h3, h4, h5⟩ := h'
    refine hi _ _ _ _ (hs _) (hi _ _ _ _ (hs _) (hi _ _ _ _ ?_ (hi _ _ _ _ (hs _) (hi _ _ _ _ ?_ (hi _ _ _ _ ?_
      (hi _ _ _ _ ?_ (Core.arch_self h)))))))
    all_goals simp [Core.withArch, Core.arch, ← h0, ← h1, ← h2, ← h3, ← h4, ← h5]
  | _ => exact hs _

theorem Core.withArch_withArch (k : Core) (a b : Core.Arch) : (k.withArch a).withArch b = k.withArch b := rfl

theorem landDue_arch (l : List InFlight) (k k' : Core) (h : k'.arch = k.arch) :
    landDue k' l = k'.withArch (landDue k l).arch := by
  induction l generalizing k k' with
  | nil => exact Core.arch_self h
  | cons f t ih =>
    unfold landDue
    split
    · rw [Core.apply_arch k k' f.bank1 f.w h]
      exact ih (k.apply f.bank1 f.w) _ rfl
    · exact ih k k' h

theorem Core.tick_group (k : Core) (g : List (Vector WordEff 4)) : Core.tick { k with group := g } = { k.tick with group := g } := by
  unfold Core.tick
  dsimp only
  rw [landDue_arch _ { k with flight := (k.flight.map (fun f => { f with left := f.left - 1 })).filter (fun f => f.left != 0) }
    { k with flight := (k.flight.map (fun f => { f with left := f.left - 1 })).filter (fun f => f.left != 0), group := g } rfl]
  have h := landDue_arch (k.flight.map (fun f => { f with left := f.left - 1 }))
    { k with flight := (k.flight.map (fun f => { f with left := f.left - 1 })).filter (fun f => f.left != 0) } _ rfl
  generalize landDue { k with flight := (k.flight.map (fun f => { f with left := f.left - 1 })).filter (fun f => f.left != 0) }
    (k.flight.map (fun f => { f with left := f.left - 1 })) = x at *
  rw [h]
  rfl

theorem Core.ticks_group (n : Nat) (k : Core) (g : List (Vector WordEff 4)) :
    Core.ticks n { k with group := g } = { Core.ticks n k with group := g } := by
  induction n generalizing k with
  | zero => rfl
  | succ n ih =>
    show Core.ticks n (Core.tick { k with group := g }) = _
    rw [Core.tick_group, ih]
    rfl

/-! ## The word's group -/

/-- Five counts change counters alone. -/
theorem count5_shape (s : State) (e1 e2 e3 e4 e5 a1 a2 a3 a4 a5 : Nat) : ∃ r,
    ((((s.count e1 a1).count e2 a2).count e3 a3).count e4 a4).count e5 a5 = { s with regs := r }
      ∧ (s.rawFlag R.PERF_CTRL.run = false → r = s.regs) := by
  by_cases h : s.rawFlag R.PERF_CTRL.run = false
  · exact ⟨s.regs, by simp only [State.count_off h], fun _ => rfl⟩
  · obtain ⟨r1, h1⟩ := State.count_shape s e1 a1
    obtain ⟨r2, h2⟩ := State.count_shape { s with regs := r1 } e2 a2
    obtain ⟨r3, h3⟩ := State.count_shape { s with regs := r2 } e3 a3
    obtain ⟨r4, h4⟩ := State.count_shape { s with regs := r3 } e4 a4
    obtain ⟨r5, h5⟩ := State.count_shape { s with regs := r4 } e5 a5
    exact ⟨r5, by rw [h1, h2, h3, h4, h5], fun g => absurd g h⟩

/-- The group is at the end of the innermost loop's body. -/
theorem atEnd_false {k : Core} (h : ∀ l, k.bank.loop = some l → k.pc ≠ l.2.2.2.setWidth 32) :
    k.atEnd = false := by
  unfold Core.atEnd
  cases hl : k.bank.loop with
  | none => rfl
  | some l => exact beq_false_of_ne (h l hl)

theorem Core.tick_debug (k : Core) : k.tick.haltReq = k.haltReq ∧ k.tick.haltCmd = k.haltCmd ∧ k.tick.stepping = k.stepping := by
  unfold Core.tick
  exact ⟨(landDue_same _ _).haltReq, (landDue_same _ _).haltCmd, (landDue_same _ _).stepping⟩

/-- A plain word (no control effect) outside a delay slot and a loop's end: its memory effect, then the core's cycle with
its results on their way; counters alone change besides. -/
theorem groupEffect_one {s : State} {c : Fin 16} {k : Core} {w : WordEff} {hold : Nat} (hslot : k.slot = none)
    (hend : ∀ l, k.bank.loop = some l → k.pc ≠ l.2.2.2.setWidth 32) (hh : k.haltReq = false) (hq : k.haltCmd = false)
    (hs : k.stepping = false) (hc : w.ctl = .none) :
    ∃ st tag acct r, groupEffect s c k [w] hold = { (wordMem s c w).setCore c (Core.tick (k.issued w st tag acct)) with regs := r }
      ∧ ((wordMem s c w).rawFlag R.PERF_CTRL.run = false → r = (wordMem s c w).regs) := by
  unfold groupEffect
  have hm : [w].flatMap (·.loads) = w.loads := by simp
  have hm2 : [w].flatMap (·.stores) = w.stores := by simp
  have hm3 : [w].flatMap (·.writes) = w.writes := by simp
  have hctl : groupCtl [w] = .none := by
    unfold groupCtl
    simp [hc]
  rw [hm, hm2, hm3, hctl]
  extract_lets one nw base s1 sts s2 atEnd seqPc stWait inSlot isBrk haltEn dly ev
  have e2 : s2 = wordMem s c w := rfl
  have hat : atEnd = false := atEnd_false hend
  clear_value atEnd
  subst hat
  have ebrk : isBrk = false := rfl
  have hin : inSlot = none := hslot
  clear_value inSlot isBrk
  subst hin
  simp -zeta only [Bool.false_eq_true, if_false, one, Core.setBank_bank]
  extract_lets k0 k1 k3 s3 k4
  have e3 : s3 = s2 := by
    unfold s3; rw [ebrk]; rfl
  have e4 : k4 = k3 := by
    have hd := Core.tick_debug k1
    unfold k4; rw [ebrk]
    exact debugEnd_quiet (hd.1.trans hh) (hd.2.1.trans hq) (hd.2.2.trans hs)
  have e5 : k3 = Core.tick (k.issued w stWait k1.tagLeft k1.acct) := rfl
  clear_value s3 k4
  rw [e3, e4]
  obtain ⟨r, h1, h2⟩ := count5_shape (s2.setCore c k3) ev (ev + 1) (ev + 2) (ev + 3) (ev + 7) 1 (bit (k.level == 1))
    (bit dly) (bit (groupTwo [w])) (List.foldl (fun n w => n + w.lanes) 0 [w])
  refine ⟨stWait, k1.tagLeft, k1.acct, r, ?_, h2⟩
  rw [e5] at h1
  exact h1

/-- A word's accesses change memory and nothing else of the engine, while no error of memory waits. -/
theorem touch_none {s : State} (h : s.fab.upsets = []) (a n : Nat) : s.touch a n = s := by
  simp [State.touch, h]

theorem poke_shape (bs : List Byte) (s : State) (a : Nat) : ∃ m, s.poke a bs = { s with mem := m } := by
  induction bs generalizing s a with
  | nil => exact ⟨s.mem, rfl⟩
  | cons b t ih =>
    obtain ⟨m, h⟩ := ih (s.pokeByte a b) (a + 1)
    exact ⟨m, h⟩

theorem memWrite_none {s : State} (h : s.fab.upsets = []) (a : Nat) (bs : List Byte) : s.memWrite a bs = s.poke a bs := by
  simp [State.memWrite, State.preWrite, h]

theorem touches_none {s : State} (h : s.fab.upsets = []) (b : Nat) (l : List (Nat × Nat)) :
    l.foldl (fun s a => s.touch (b + a.1) a.2) s = s := by
  induction l with
  | nil => rfl
  | cons x t ih => rw [List.foldl_cons, touch_none h, ih]

theorem writes_shape (b : Nat) (l : List (Nat × List Byte)) (s : State) (h : s.fab.upsets = []) :
    ∃ m, l.foldl (fun s a => s.memWrite (b + a.1) a.2) s = { s with mem := m } := by
  induction l generalizing s with
  | nil => exact ⟨s.mem, rfl⟩
  | cons x t ih =>
    obtain ⟨m, hm⟩ := poke_shape x.2 s (b + x.1)
    rw [List.foldl_cons, memWrite_none h, hm]
    exact ih { s with mem := m } h

/-- A word without loads and stores leaves memory's state. -/
theorem wordMem_plain {s : State} {c : Fin 16} {w : WordEff} (h : w.loads = []) (h' : w.stores = []) : wordMem s c w = s := by
  simp [wordMem, h, h']

/-- While no error of memory waits, a word's accesses change memory alone. -/
theorem wordMem_shape {s : State} {c : Fin 16} {w : WordEff} (h : s.fab.upsets = []) :
    ∃ m, wordMem s c w = { s with mem := m } := by
  unfold wordMem
  rw [touches_none h]
  exact writes_shape _ _ s h

theorem poke_mem (bs : List Byte) (s u : State) (a : Nat) (h : u.mem = s.mem) : (u.poke a bs).mem = (s.poke a bs).mem := by
  induction bs generalizing s u a with
  | nil => exact h
  | cons b t ih => exact ih _ _ _ (by simp only [State.pokeByte, h])

theorem writes_mem (b : Nat) (l : List (Nat × List Byte)) (s u : State) (hs : s.fab.upsets = []) (hu : u.fab.upsets = [])
    (h : u.mem = s.mem) : (l.foldl (fun s a => s.memWrite (b + a.1) a.2) u).mem
      = (l.foldl (fun s a => s.memWrite (b + a.1) a.2) s).mem := by
  induction l generalizing s u with
  | nil => exact h
  | cons x t ih =>
    have e := poke_mem x.2 s u (b + x.1) h
    obtain ⟨m, hm⟩ := poke_shape x.2 s (b + x.1)
    obtain ⟨m', hm'⟩ := poke_shape x.2 u (b + x.1)
    rw [List.foldl_cons, List.foldl_cons, memWrite_none hs, memWrite_none hu]
    exact ih _ _ (by rw [hm]; exact hs) (by rw [hm']; exact hu) e

/-- A word's accesses change memory by what memory holds. -/
theorem wordMem_mem {s u : State} {c : Fin 16} {w : WordEff} (hu : u.fab.upsets = []) (hs : s.fab.upsets = [])
    (h : u.mem = s.mem) : (wordMem u c w).mem = (wordMem s c w).mem := by
  unfold wordMem
  rw [touches_none hu, touches_none hs]
  exact writes_mem _ _ _ _ hs hu h

/-! ## The whole command -/

/-- What a core's command does with a state of which only memory, core c, counters, the consumer's request and the output
differ from s, in which no fault waits: the frame of the command adds the interrupt lines. -/
theorem coreFrame {s : State} {c : Fin 16} {f : State → State} {m : List Host.Cell} {k : Core} {r : Sparse 32} (hqt : s.quiet)
    (h : f s.begin = { (issueAt s c).setCore c k with mem := m, regs := r })
    (hr : s.rawFlag R.PERF_CTRL.run = false → r = s.regs) :
    ∃ t, Cmd.run f s = .next t ∧ t.core c = k ∧ t.mem = m ∧ t.fab.upsets = s.fab.upsets ∧ CoreAlone s t c := by
  obtain ⟨q, hq⟩ := issueAt_shape s c
  rw [hq] at h
  have hcore : ∀ (u : State), u.cores = s.cores.set c k → u.core c = k := by
    intro u hu; simp [State.core, hu]
  have hother : ∀ (u : State), u.cores = s.cores.set c k → ∀ j, j ≠ c → u.core j = s.core j := by
    intro u hu j hj
    have := State.core_setCore_other s k hj
    rw [← this]
    simp only [State.core, State.setCore, hu]
  have hq2 : (f s.begin).flt.raised = [] := by rw [h]; exact hqt.raised
  obtain ⟨x, o, e⟩ := Cmd.run_quiet hqt.on hq2
  rw [h] at e
  exact ⟨_, e, hcore _ rfl, rfl, rfl, { cores := hother _ rfl, flash := rfl, shadow := rfl, sys := rfl, boot := rfl, cio := rfl
                                        mash := rfl, xio := rfl, pwm := rfl, eth := rfl, ptp := rfl, sxe := rfl, kiln := rfl, cask := rfl
                                        twc := rfl, tap := rfl, hif := rfl, perf := rfl, fab := rfl, pending := rfl, flt := rfl, twin := rfl
                                        regs := hr }⟩

theorem fin4_val {n : Nat} (h : n ≤ 3) : (Fin.ofNat 4 n).val = n := by
  show n % 4 = n
  omega

/-- A group of one word that meets no fault takes effect. -/
theorem issueGroup_one {u : State} {c : Fin 16} {v : Vector WordEff 4} {w : WordEff} {n : Nat} {k : Core}
    (hg : (u.core c).group = [v]) (h0 : groupHold [v[0]] (u.core c).cyc = n) (hw : v[Fin.ofNat 4 n] = w)
    (hk : Core.ticks n (u.core c) = k) (hs : k.slot = none) (he : ∀ l, k.bank.loop = some l → k.pc ≠ l.2.2.2.setWidth 32)
    (hi : w.illegal = false) (ha : w.access = false) (hl : w.loopOvf = false) :
    issueGroup u c = groupEffect (u.setCore c k) c k [w] n := by
  unfold issueGroup
  extract_lets k0 hold k' ws s2 atEnd
  have e1 : hold = n := by
    have : k0.group = [v] := hg
    unfold hold; rw [this]; exact h0
  have e2 : k' = k := by unfold k'; rw [e1]; exact hk
  have e3 : ws = [w] := by
    have : k0.group = [v] := hg
    unfold ws; rw [this, ← hw]
    simp only [List.map_cons, List.map_nil, e1]
  have e4 : s2 = u.setCore c k := by unfold s2; rw [e2]
  have e5 : atEnd = false := by
    unfold atEnd; rw [e2]; exact atEnd_false he
  clear_value s2 atEnd ws k' hold
  subst e1 e2 e3 e4 e5
  have g1 : ([w].any (·.illegal) || groupIllegal [w] k'.slot.isSome false) = false := by
    rw [hs, Option.isSome_none, groupIllegal_one]; simp [hi]
  have g2 : [w].any (·.access) = false := by simp [ha]
  have g3 : [w].any (·.loopOvf) = false := by simp [hl]
  rw [g1, g2, g3]
  rfl

/-- A plain word of a ready core: the command completes; the core's registers, memory, and what else changes. -/
theorem coreCmd_one {s : State} {c : Fin 16} {f : CView → WordEff} {n : Nat}
    (hn : groupHold [f ⟨c, s.core c, issueAt s c⟩] (s.core c).cyc = n) (r : CoreReady s c n)
    (hi : (f ⟨c, Core.ticks n (s.core c), issueAt s c⟩).illegal = false)
    (ha : (f ⟨c, Core.ticks n (s.core c), issueAt s c⟩).access = false)
    (hl : (f ⟨c, Core.ticks n (s.core c), issueAt s c⟩).loopOvf = false)
    (hc : (f ⟨c, Core.ticks n (s.core c), issueAt s c⟩).ctl = .none)
    (hm : s.fab.upsets = [] ∨ (f ⟨c, Core.ticks n (s.core c), issueAt s c⟩).loads = []
      ∧ (f ⟨c, Core.ticks n (s.core c), issueAt s c⟩).stores = []) :
    ∃ t st tag acct, coreCmd c true f s = .next t
      ∧ t.core c = Core.tick ((Core.ticks n (s.core c)).issued (f ⟨c, Core.ticks n (s.core c), issueAt s c⟩) st tag acct)
      ∧ t.mem = (wordMem s c (f ⟨c, Core.ticks n (s.core c), issueAt s c⟩)).mem
      ∧ t.fab.upsets = s.fab.upsets ∧ CoreAlone s t c := by
  have hle : n ≤ 3 := hn ▸ groupHold_le _ _
  have hw : (#v[f ⟨c, s.core c, issueAt s c⟩, f ⟨c, Core.ticks 1 (s.core c), issueAt s c⟩,
      f ⟨c, Core.ticks 2 (s.core c), issueAt s c⟩, f ⟨c, Core.ticks 3 (s.core c), issueAt s c⟩])[Fin.ofNat 4 n]
        = f ⟨c, Core.ticks n (s.core c), issueAt s c⟩ := by
    have : n = 0 ∨ n = 1 ∨ n = 2 ∨ n = 3 := by omega
    rcases this with rfl | rfl | rfl | rfl <;> rfl
  generalize hW : f ⟨c, Core.ticks n (s.core c), issueAt s c⟩ = w at *
  have e1 := issueWord_one (f := f) r
  generalize hv : #v[f ⟨c, s.core c, issueAt s c⟩, f ⟨c, Core.ticks 1 (s.core c), issueAt s c⟩,
    f ⟨c, Core.ticks 2 (s.core c), issueAt s c⟩, f ⟨c, Core.ticks 3 (s.core c), issueAt s c⟩] = v at hw e1
  have h0 : v[0] = f ⟨c, s.core c, issueAt s c⟩ := by rw [← hv]; rfl
  generalize hk : Core.ticks n (s.core c) = k at *
  have hkg : Core.ticks n { s.core c with group := [v] } = { k with group := [v] } := by rw [Core.ticks_group, hk]
  have hsame : (s.core c).SameLand' k := hk ▸ Core.ticks_same n (s.core c)
  have e2 := issueGroup_one (u := (issueAt s c).setCore c { s.core c with group := [v] }) (c := c) (v := v) (w := w)
    (n := n) (k := { k with group := [v] }) (by simp) (by simp only [State.core_setCore_self]; exact h0 ▸ hn) hw (by simp [hkg]) (hsame.slot.trans r.slot)
    (hk ▸ r.notEnd) hi ha hl
  rw [State.setCore_setCore] at e2
  obtain ⟨st, tag, acct, rg, e3, e4⟩ := groupEffect_one (s := (issueAt s c).setCore c { k with group := [v] }) (c := c)
    (k := { k with group := [v] }) (w := w) (hold := n) (hsame.slot.trans r.slot) (hk ▸ r.notEnd) (hsame.haltReq.trans r.haltReq)
    (hsame.haltCmd.trans r.haltCmd) (hsame.stepping.trans r.stepping) hc
  have hf : issueWord c true f s.begin = { (issueAt s c).setCore c (Core.tick (k.issued w st tag acct)) with
      mem := (wordMem (issueAt s c) c w).mem, regs := rg } ∧ (s.rawFlag R.PERF_CTRL.run = false → rg = s.regs) := by
    rw [e1, e2, e3]
    obtain ⟨q, hq⟩ := issueAt_shape s c
    rcases hm with hm | ⟨hm, hm'⟩
    · obtain ⟨m, h1⟩ := wordMem_shape (s := (issueAt s c).setCore c { k with group := [v] }) (c := c) (w := w) (by
        show (issueAt s c).fab.upsets = []
        rw [issueAt_upsets, hm])
      have h2 : m = (wordMem (issueAt s c) c w).mem := by
        have h3 := wordMem_mem (u := (issueAt s c).setCore c { k with group := [v] }) (s := issueAt s c) (c := c) (w := w)
          (by show (issueAt s c).fab.upsets = []; rw [issueAt_upsets, hm]) (by rw [issueAt_upsets, hm]) rfl
        rw [h1] at h3
        exact h3
      rw [h1] at e4 ⊢
      rw [← h2, hq]
      refine ⟨?_, fun g => ?_⟩
      · show State.mk .. = State.mk ..
        congr 1
        simp only [State.setCore]
        apply Vector.ext
        intro i hi
        simp only [Vector.getElem_set]
        split <;> rfl
      · rw [hq] at e4; exact e4 g
    · rw [wordMem_plain hm hm'] at e4 ⊢
      rw [wordMem_plain hm hm', hq]
      refine ⟨?_, fun g => ?_⟩
      · show State.mk .. = State.mk ..
        congr 1
        simp only [State.setCore]
        apply Vector.ext
        intro i hi
        simp only [Vector.getElem_set]
        split <;> rfl
      · rw [hq] at e4; exact e4 g
  obtain ⟨t, h1, h2, h3, h4, h5⟩ := coreFrame r.quiet hf.1 hf.2
  have hme : (issueAt s c).mem = s.mem := by
    obtain ⟨q, hq⟩ := issueAt_shape s c
    rw [hq]
  refine ⟨t, st, tag, acct, h1, h2, h3.trans ?_, h4, h5⟩
  rcases hm with hm | ⟨hm, hm'⟩
  · exact wordMem_mem (by rw [issueAt_upsets, hm]) hm hme
  · rw [wordMem_plain hm hm', wordMem_plain hm hm', hme]

/-! ## The core afterward -/

/-- What a result does to the bank it lands in; a special register's write leaves the bank. -/
def CWrite.onBank (w : CWrite) (b : Bank) : Bank :=
  match w with
  | .d n v => { b with d := b.d.set n v }
  | .ctl cr v => if h : cr < 16 then { b with p := b.p.set cr v } else b
  | .acc n v _ => { b with a := b.a.set n v }
  | .flags z n c v => { b with sr := srFlags b.sr z n c v }
  | .sticky m => { b with sr := b.sr ||| m }

/-- The result reaches nothing but its bank, in one of the registers D, P, the accumulators, or the flags. -/
def CWrite.plain : CWrite → Bool
  | .ctl cr _ => Nat.blt cr 16
  | _ => true

@[simp] theorem Core.bankOf_setBank (k : Core) (one : Bool) (b : Bank) : (k.setBank one b).bankOf one = b := by
  unfold Core.bankOf Core.setBank; cases one <;> rfl

@[simp] theorem Core.bankOf_setBank_other (k : Core) (one : Bool) (b : Bank) : (k.setBank one b).bankOf (!one) = k.bankOf (!one) := by
  unfold Core.bankOf Core.setBank; cases one <;> rfl

@[simp] theorem Core.setBank_setBank (k : Core) (one : Bool) (b b' : Bank) : (k.setBank one b).setBank one b' = k.setBank one b' := by
  unfold Core.setBank; cases one <;> rfl

theorem Core.apply_plain {k : Core} {one : Bool} {w : CWrite} (h : w.plain = true) :
    k.apply one w = k.setBank one (w.onBank (k.bankOf one)) := by
  cases w with
  | ctl cr v =>
    have h' : cr < 16 := Nat.ble_eq.mp h
    simp only [Core.apply, Core.writeCr, CWrite.onBank, h', dif_pos]
  | _ => rfl

/-- Plain results land in the bank, one after the other. -/
theorem landDue_plain (one : Bool) (l : List (Nat × CWrite)) (k : Core) (h : l.all (fun x => x.2.plain) = true) :
    landDue k ((l.map (fun x => (⟨x.1, one, x.2⟩ : InFlight))).map (fun f => { f with left := f.left - 1 }))
      = k.setBank one (l.foldl (fun b x => if x.1 - 1 = 0 then x.2.onBank b else b) (k.bankOf one)) := by
  induction l generalizing k with
  | nil =>
    simp only [List.map_nil, landDue, List.foldl_nil]
    unfold Core.setBank Core.bankOf
    cases one <;> simp
  | cons x t ih =>
    simp only [List.all_cons, Bool.and_eq_true] at h
    simp only [List.map_cons, landDue, List.foldl_cons]
    split
    · rename_i h0
      rw [Core.apply_plain h.1, ih _ h.2, Core.bankOf_setBank, Core.setBank_setBank]
    · rename_i h0
      exact ih _ h.2

/-- A core after a plain word's cycle. -/
theorem Core.next_plain {k : Core} {w : WordEff} {st tag : Nat} {acct : TagAcct}
    (h : w.writes.all (fun x => x.2.plain) = true) (hs : k.slot = none) :
    CoreNext k (Core.tick (k.issued w st tag acct))
      (w.writes.foldl (fun b x => if x.1 - 1 = 0 then x.2.onBank b else b) (k.tick.bankOf k.useBank1))
      ((w.writes.filter (fun x => x.1 - 1 != 0)).map (fun x => ⟨x.1 - 1, k.useBank1, x.2⟩)) := by
  have key : Core.tick (k.issued w st tag acct) = { k.tick with
      group := [], pc := k.pc + 4, accFence := 0, accEntry := 0, accStall := 0, accIdle := 0, tagLeft := tag, acct := acct
      stLeft := st - 1
      flight := k.tick.flight ++ (w.writes.filter (fun x => x.1 - 1 != 0)).map (fun x => ⟨x.1 - 1, k.useBank1, x.2⟩)
      bank0 := (k.tick.setBank k.useBank1 (w.writes.foldl (fun b x => if x.1 - 1 = 0 then x.2.onBank b else b)
        (k.tick.bankOf k.useBank1))).bank0
      bank1 := (k.tick.setBank k.useBank1 (w.writes.foldl (fun b x => if x.1 - 1 = 0 then x.2.onBank b else b)
        (k.tick.bankOf k.useBank1))).bank1 } := by
    have hA := landDue_arch (k.flight.map (fun f => { f with left := f.left - 1 }))
      { k with flight := (k.flight.map (fun f => { f with left := f.left - 1 })).filter (fun f => f.left != 0) }
      { k with flight := (k.flight.map (fun f => { f with left := f.left - 1 })).filter (fun f => f.left != 0) } rfl
    have hF : List.map (fun (f : InFlight) => { f with left := f.left - 1 }) (k.issued w st tag acct).flight
        = k.flight.map (fun f => { f with left := f.left - 1 })
          ++ (w.writes.map (fun x => (⟨x.1, k.useBank1, x.2⟩ : InFlight))).map (fun f => { f with left := f.left - 1 }) := by
      simp only [Core.issued, List.map_append]
    have hG : ((w.writes.map (fun x => (⟨x.1, k.useBank1, x.2⟩ : InFlight))).map (fun f => { f with left := f.left - 1 })).filter
        (fun f => f.left != 0) = (w.writes.filter (fun x => x.1 - 1 != 0)).map (fun x => ⟨x.1 - 1, k.useBank1, x.2⟩) := by
      simp only [List.map_map, List.filter_map]
      rfl
    have hT : k.tick = { landDue { k with flight := (k.flight.map (fun f => { f with left := f.left - 1 })).filter (fun f => f.left != 0) }
        (k.flight.map (fun f => { f with left := f.left - 1 })) with
        cyc := k.cyc + 1, stLeft := k.stLeft - 1, sinceBell := k.sinceBell.map (· + 1) } := by
      have e := hA
      unfold Core.tick
      dsimp only
      rw [e]
      rfl
    have hL := fun X : Core => fun hX : X.arch = k.arch => landDue_arch (k.flight.map (fun f => { f with left := f.left - 1 }))
      { k with flight := (k.flight.map (fun f => { f with left := f.left - 1 })).filter (fun f => f.left != 0) } X hX
    generalize landDue { k with flight := (k.flight.map (fun f => { f with left := f.left - 1 })).filter (fun f => f.left != 0) }
        (k.flight.map (fun f => { f with left := f.left - 1 })) = Y at *
    rw [hT, hA]
    unfold Core.tick
    dsimp only
    rw [hF, List.filter_append, hG]
    rw [landDue_append, hL { k.issued w st tag acct with
      flight := (k.flight.map (fun f => { f with left := f.left - 1 })).filter (fun f => f.left != 0)
        ++ (w.writes.filter (fun x => x.1 - 1 != 0)).map (fun x => ⟨x.1 - 1, k.useBank1, x.2⟩) } rfl, landDue_plain _ _ _ h]
    generalize Y.arch = a
    generalize hone : k.useBank1 = one
    generalize w.writes.foldl (fun b x => if x.1 - 1 = 0 then x.2.onBank b else b) = F
    cases one <;> rfl
  rw [key]
  generalize w.writes.foldl (fun b x => if x.1 - 1 = 0 then x.2.onBank b else b) (k.tick.bankOf k.useBank1) = F
  have hs' := Core.tick_same k
  have hu : k.useBank1 = k.tick.useBank1 := by unfold Core.useBank1; rw [hs'.level]
  refine ⟨?_, ?_, rfl, rfl, hs'.run, hs'.level, rfl, rfl, rfl, rfl, hs'.vbase, Core.tick_cyc k, rfl, hs'.slot.trans hs⟩
  · cases k.useBank1 <;> rfl
  · cases k.useBank1 <;> rfl

/-- A plain word of a ready core that waits n cycles: the command completes; what it does to the core, to memory, and to the
rest of the engine. -/
theorem coreCmd_plain {s : State} {c : Fin 16} {f : CView → WordEff} {n : Nat}
    (hn : groupHold [f ⟨c, s.core c, issueAt s c⟩] (s.core c).cyc = n) (r : CoreReady s c n)
    (hi : (f ⟨c, Core.ticks n (s.core c), issueAt s c⟩).illegal = false)
    (ha : (f ⟨c, Core.ticks n (s.core c), issueAt s c⟩).access = false)
    (hl : (f ⟨c, Core.ticks n (s.core c), issueAt s c⟩).loopOvf = false)
    (hc : (f ⟨c, Core.ticks n (s.core c), issueAt s c⟩).ctl = .none)
    (hp : (f ⟨c, Core.ticks n (s.core c), issueAt s c⟩).writes.all (fun x => x.2.plain) = true)
    (hm : s.fab.upsets = [] ∨ (f ⟨c, Core.ticks n (s.core c), issueAt s c⟩).loads = []
      ∧ (f ⟨c, Core.ticks n (s.core c), issueAt s c⟩).stores = []) :
    ∃ t, coreCmd c true f s = .next t
      ∧ CoreNext (Core.ticks n (s.core c)) (t.core c)
          ((f ⟨c, Core.ticks n (s.core c), issueAt s c⟩).writes.foldl
            (fun b x => if x.1 - 1 = 0 then x.2.onBank b else b)
            ((Core.ticks n (s.core c)).tick.bankOf (s.core c).useBank1))
          (((f ⟨c, Core.ticks n (s.core c), issueAt s c⟩).writes.filter (fun x => x.1 - 1 != 0)).map
            (fun x => ⟨x.1 - 1, (s.core c).useBank1, x.2⟩))
      ∧ t.mem = (wordMem s c (f ⟨c, Core.ticks n (s.core c), issueAt s c⟩)).mem
      ∧ t.fab.upsets = s.fab.upsets ∧ CoreAlone s t c := by
  have hs := Core.ticks_same n (s.core c)
  have hu : (Core.ticks n (s.core c)).useBank1 = (s.core c).useBank1 := by unfold Core.useBank1; rw [hs.level]
  obtain ⟨t, st, tag, acct, h1, h2, h3, h4, h5⟩ := coreCmd_one hn r hi ha hl hc hm
  refine ⟨t, h1, ?_, h3, h4, h5⟩
  rw [h2, ← hu]
  exact Core.next_plain hp (hs.slot.trans r.slot)

/-! ## Words that access no memory -/

/-- Memory reads the same where it and its errors are the same. -/
theorem sameMemory {s t : State} (h : t.mem = s.mem) (h' : t.fab.upsets = s.fab.upsets) : SameMemory s t := by
  intro a
  unfold State.memByte State.upsetAt
  rw [h, h']

/-- The bank after the results of a word that land in its own cycle. -/
def landNow (W : List (Nat × CWrite)) (b : Bank) : Bank := W.foldl (fun b x => if x.1 - 1 = 0 then x.2.onBank b else b) b

/-- The results of a word that land later. -/
def landLater (one : Bool) (W : List (Nat × CWrite)) : List InFlight :=
  (W.filter (fun x => x.1 - 1 != 0)).map (fun x => ⟨x.1 - 1, one, x.2⟩)

theorem landNow_append (W V : List (Nat × CWrite)) (b : Bank) : landNow (W ++ V) b = landNow V (landNow W b) :=
  List.foldl_append ..

theorem landLater_append (one : Bool) (W V : List (Nat × CWrite)) :
    landLater one (W ++ V) = landLater one W ++ landLater one V := by
  simp [landLater]

/-- A result of latency 1 lands at once. -/
theorem landNow_one (x : CWrite) (W : List (Nat × CWrite)) (b : Bank) : landNow ((1, x) :: W) b = landNow W (x.onBank b) := rfl

theorem landLater_one (one : Bool) (x : CWrite) (W : List (Nat × CWrite)) : landLater one ((1, x) :: W) = landLater one W := rfl

/-- A result of a longer latency is on its way. -/
theorem landNow_late (l : Nat) (x : CWrite) (W : List (Nat × CWrite)) (b : Bank) : landNow ((l + 2, x) :: W) b = landNow W b := rfl

theorem landLater_late (one : Bool) (l : Nat) (x : CWrite) (W : List (Nat × CWrite)) :
    landLater one ((l + 2, x) :: W) = ⟨l + 1, one, x⟩ :: landLater one W := rfl

@[simp] theorem landNow_nil (b : Bank) : landNow [] b = b := rfl
@[simp] theorem landLater_nil (one : Bool) : landLater one [] = [] := rfl

/-- Sticky bits that land at once. -/
theorem landNow_sticky (m : Word) (b : Bank) : landNow (stickyAt 1 m) b = { b with sr := b.sr ||| m } := by
  unfold stickyAt
  split
  · rename_i h; subst h; simp
  · rfl

theorem landLater_sticky (one : Bool) (m : Word) : landLater one (stickyAt 1 m) = [] := by
  unfold stickyAt
  split <;> rfl

/-- Sticky bits on their way. -/
theorem landNow_stickyLate (l : Nat) (m : Word) (b : Bank) : landNow (stickyAt (l + 2) m) b = b := by
  unfold stickyAt
  split <;> rfl

theorem landLater_stickyLate (one : Bool) (l : Nat) (m : Word) :
    landLater one (stickyAt (l + 2) m) = if m = 0 then [] else [⟨l + 1, one, .sticky m⟩] := by
  unfold stickyAt
  split <;> rfl

theorem stickyAt_plain (l : Nat) (m : Word) : (stickyAt l m).all (fun x => x.2.plain) = true := by
  unfold stickyAt
  split <;> rfl

/-- A word of a ready core that only computes in registers. -/
theorem coreCmd_reg {s : State} {c : Fin 16} {f : CView → WordEff} {w : WordEff} (r : CoreReady s c 0)
    (hf : f ⟨c, s.core c, issueAt s c⟩ = w) (hm : w.cls ≠ .ls ∧ w.cls ≠ .tapm)
    (h : w.illegal = false ∧ w.access = false ∧ w.loopOvf = false ∧ w.ctl = .none ∧ w.loads = [] ∧ w.stores = [])
    (hp : w.writes.all (fun x => x.2.plain) = true) :
    ∃ t, coreCmd c true f s = .next t ∧ SameMemory s t
      ∧ CoreStep s t c 0 (landNow w.writes) (landLater (s.core c).useBank1 w.writes) := by
  obtain ⟨hi, ha, hl, hc, hld, hst⟩ := h
  have hn : groupHold [f ⟨c, s.core c, issueAt s c⟩] (s.core c).cyc = 0 := by
    rw [hf]; simp [groupHold, groupMem, hm.1, hm.2]
  obtain ⟨t, h1, h2, h3, h4, h5⟩ := coreCmd_plain (f := f) hn r (by simpa [Core.ticks, hf] using hi) (by simpa [Core.ticks, hf] using ha)
    (by simpa [Core.ticks, hf] using hl) (by simpa [Core.ticks, hf] using hc) (by simpa [Core.ticks, hf] using hp)
    (.inr (by simp [Core.ticks, hf, hld, hst]))
  simp only [Core.ticks, hf] at h2 h3
  rw [wordMem_plain hld hst] at h3
  exact ⟨t, h1, sameMemory h3 h4, h2, h5⟩

/-- An ALU word of a ready core writes D[d], and sv when it saturated. -/
theorem coreCmd_alu {s : State} {c : Fin 16} {f : CView → WordEff} {d : Fin 32} {r : Word × Bool} (h : CoreReady s c 0)
    (hf : f ⟨c, s.core c, issueAt s c⟩ = effAlu d r) :
    ∃ t, coreCmd c true f s = .next t ∧ SameMemory s t ∧ CoreStep s t c 0 (Bank.putD d r.1 (if r.2 then srSv else 0)) [] := by
  obtain ⟨t, h1, h2, h3⟩ := coreCmd_reg h hf ⟨nofun, nofun⟩ ⟨rfl, rfl, rfl, rfl, rfl, rfl⟩
    (by unfold effAlu; rw [List.all_cons, stickyAt_plain]; rfl)
  refine ⟨t, h1, h2, ?_⟩
  have e1 : landNow (effAlu d r).writes = Bank.putD d r.1 (if r.2 then srSv else 0) := by
    funext b; unfold effAlu; rw [landNow_one, landNow_sticky]; rfl
  have e2 : landLater (s.core c).useBank1 (effAlu d r).writes = [] := by
    unfold effAlu; rw [landLater_one, landLater_sticky]
  rw [e1, e2] at h3
  exact h3

/-! ## Control words -/

/-- A control word outside a delay slot and a loop's end: its control effect, the cycles, and the debug event of BRK. -/
theorem groupEffect_ctl {s : State} {c : Fin 16} {k : Core} {w : WordEff} {hold : Nat} (hslot : k.slot = none)
    (hend : ∀ l, k.bank.loop = some l → k.pc ≠ l.2.2.2.setWidth 32) (hl : w.loads = []) (hs : w.stores = []) (hw : w.writes = []) :
    ∃ tag acct r, groupEffect s c k [w] hold
        = { (if w.ctl == .brk && (s.rawFlag (R.CORE_DBG_SEL.halt_en c.val)
              || (Core.ticks (1 + (ctlTurn s c (k.issued w k.stLeft tag acct) w.ctl (k.pc + 4) k.stLeft).2)
                  (ctlTurn s c (k.issued w k.stLeft tag acct) w.ctl (k.pc + 4) k.stLeft).1).level == 0
                && (Core.ticks (1 + (ctlTurn s c (k.issued w k.stLeft tag acct) w.ctl (k.pc + 4) k.stLeft).2)
                  (ctlTurn s c (k.issued w k.stLeft tag acct) w.ctl (k.pc + 4) k.stLeft).1).ie2) then
              s.mark (R.CORE_EVT.debug c.val) else s).setCore c
            (debugEnd { Core.ticks (1 + (ctlTurn s c (k.issued w k.stLeft tag acct) w.ctl (k.pc + 4) k.stLeft).2)
                (ctlTurn s c (k.issued w k.stLeft tag acct) w.ctl (k.pc + 4) k.stLeft).1 with
              haltReq := (Core.ticks (1 + (ctlTurn s c (k.issued w k.stLeft tag acct) w.ctl (k.pc + 4) k.stLeft).2)
                (ctlTurn s c (k.issued w k.stLeft tag acct) w.ctl (k.pc + 4) k.stLeft).1).haltReq || w.ctl == .brk }
              (s.rawFlag (R.CORE_DBG_SEL.halt_en c.val))) with regs := r }
      ∧ (w.ctl ≠ .brk → s.rawFlag R.PERF_CTRL.run = false → r = s.regs) := by
  unfold groupEffect
  have hm : [w].flatMap (·.loads) = [] := by simp [hl]
  have hm2 : [w].flatMap (·.stores) = [] := by simp [hs]
  have hm3 : [w].flatMap (·.writes) = [] := by simp [hw]
  have hctl : groupCtl [w] = w.ctl := by
    unfold groupCtl
    by_cases h : w.ctl = .none
    · simp [h]
    · simp [h]
  rw [hm, hm2, hm3, hctl]
  extract_lets one nw base s1 sts s2 atEnd seqPc stWait inSlot isBrk haltEn dly ev
  have e2 : s2 = s := rfl
  have hat : atEnd = false := atEnd_false hend
  clear_value atEnd
  subst hat
  have est : stWait = k.stLeft := rfl
  have ebrk : isBrk = (w.ctl == .brk) := by
    unfold isBrk inSlot; rw [hslot]; simp
  have hin : inSlot = none := hslot
  clear_value inSlot isBrk
  subst hin ebrk
  simp -zeta only [Bool.false_eq_true, if_false, one, Core.setBank_bank]
  extract_lets k0 k1 k3 s3 k4
  have e1 : k1 = k.issued w k.stLeft k1.tagLeft k1.acct := by
    unfold Core.issued; rw [hw]; rfl
  have e3 : k3 = Core.ticks (1 + (ctlTurn s c k1 w.ctl (k.pc + 4) k.stLeft).2) (ctlTurn s c k1 w.ctl (k.pc + 4) k.stLeft).1 := rfl
  obtain ⟨r, h1, h2⟩ := count5_shape (s3.setCore c k4) ev (ev + 1) (ev + 2) (ev + 3) (ev + 7) 1 (bit (k.level == 1))
    (bit dly) (bit (groupTwo [w])) (List.foldl (fun n w => n + w.lanes) 0 [w])
  refine ⟨k1.tagLeft, k1.acct, r, ?_, ?_⟩
  · rw [← e1, ← e3]
    exact h1
  · intro hb hp
    have e4 : s3 = s := by
      unfold s3; rw [beq_false_of_ne hb]; rfl
    rw [e4] at h2
    exact h2 hp

theorem Core.ticks_debug (n : Nat) (k : Core) : (Core.ticks n k).haltReq = k.haltReq ∧ (Core.ticks n k).haltCmd = k.haltCmd
    ∧ (Core.ticks n k).stepping = k.stepping :=
  ⟨(Core.ticks_same n k).haltReq, (Core.ticks_same n k).haltCmd, (Core.ticks_same n k).stepping⟩

/-- A control effect asks nothing of the debugger. -/
theorem ctlTurn_debug (s : State) (c : Fin 16) (k : Core) (e : CtlEff) (pc : Word) (st : Nat) :
    (ctlTurn s c k e pc st).1.haltReq = k.haltReq ∧ (ctlTurn s c k e pc st).1.haltCmd = k.haltCmd
      ∧ (ctlTurn s c k e pc st).1.stepping = k.stepping := by
  unfold ctlTurn
  cases e with
  | jump t pops link => cases pops <;> cases link <;> first
    | exact ⟨rfl, rfl, rfl⟩
    | exact ⟨(Core.setBank_same k _ _).haltReq, (Core.setBank_same k _ _).haltCmd, (Core.setBank_same k _ _).stepping⟩
  | loop cnt en =>
    dsimp only
    split
    · exact ⟨rfl, rfl, rfl⟩
    · exact ⟨(Core.setBank_same k _ _).haltReq, (Core.setBank_same k _ _).haltCmd, (Core.setBank_same k _ _).stepping⟩
  | _ => exact ⟨rfl, rfl, rfl⟩

/-- A control word of a ready core, BRK aside. -/
theorem coreCmd_ctl {s : State} {c : Fin 16} {f : CView → WordEff} {w : WordEff} (r : CoreReady s c 0)
    (hf : f ⟨c, s.core c, issueAt s c⟩ = w) (hm : w.cls ≠ .ls ∧ w.cls ≠ .tapm)
    (h : w.illegal = false ∧ w.access = false ∧ w.loopOvf = false ∧ w.ctl ≠ .brk ∧ w.loads = [] ∧ w.stores = [] ∧ w.writes = []) :
    ∃ t tag acct, coreCmd c true f s = .next t
      ∧ t.core c = Core.ticks (1 + (ctlTurn s c ((s.core c).issued w (s.core c).stLeft tag acct) w.ctl ((s.core c).pc + 4)
          (s.core c).stLeft).2) (ctlTurn s c ((s.core c).issued w (s.core c).stLeft tag acct) w.ctl ((s.core c).pc + 4) (s.core c).stLeft).1
      ∧ SameMemory s t ∧ CoreAlone s t c := by
  obtain ⟨hi, ha, hl, hb, hld, hst, hw⟩ := h
  have hn : groupHold [f ⟨c, s.core c, issueAt s c⟩] (s.core c).cyc = 0 := by
    rw [hf]; simp [groupHold, groupMem, hm.1, hm.2]
  have e1 := issueWord_one (f := f) r
  generalize hv : #v[f ⟨c, s.core c, issueAt s c⟩, f ⟨c, Core.ticks 1 (s.core c), issueAt s c⟩,
    f ⟨c, Core.ticks 2 (s.core c), issueAt s c⟩, f ⟨c, Core.ticks 3 (s.core c), issueAt s c⟩] = v at e1
  have h0 : v[0] = w := by rw [← hv, ← hf]; rfl
  have e2 := issueGroup_one (u := (issueAt s c).setCore c { s.core c with group := [v] }) (c := c) (v := v) (w := w)
    (n := 0) (k := { s.core c with group := [v] }) (by simp) (by simp only [State.core_setCore_self]; rw [h0, ← hf]; exact hn)
    h0 (by simp [Core.ticks]) r.slot r.notEnd hi ha hl
  obtain ⟨tag, acct, rg, e3, e4⟩ := groupEffect_ctl (s := ((issueAt s c).setCore c { s.core c with group := [v] }).setCore c
    { s.core c with group := [v] }) (c := c) (k := { s.core c with group := [v] }) (w := w) (hold := 0) r.slot r.notEnd hld hst hw
  have hbf : (w.ctl == .brk) = false := beq_false_of_ne hb
  rw [hbf] at e3
  have hct : ∀ u : State, (∀ a, u.memWord a = s.memWord a) →
      ctlTurn u c (({ s.core c with group := [v] } : Core).issued w (s.core c).stLeft tag acct) w.ctl ((s.core c).pc + 4) (s.core c).stLeft
        = ctlTurn s c ((s.core c).issued w (s.core c).stLeft tag acct) w.ctl ((s.core c).pc + 4) (s.core c).stLeft := by
    intro u hu
    have : ({ s.core c with group := [v] } : Core).issued w (s.core c).stLeft tag acct = (s.core c).issued w (s.core c).stLeft tag acct := rfl
    rw [this]
    have hg : ∀ a, groupWords u c a = groupWords s c a := by
      intro a; unfold groupWords; simp only [hu]
    unfold ctlTurn
    cases w.ctl <;> simp only [hg]
  have hmw : ∀ a, (((issueAt s c).setCore c { s.core c with group := [v] }).setCore c { s.core c with group := [v] }).memWord a
      = s.memWord a := by
    intro a
    obtain ⟨q, hq⟩ := issueAt_shape s c
    rw [hq]; rfl
  rw [hct _ hmw] at e3
  generalize hx : ctlTurn s c ((s.core c).issued w (s.core c).stLeft tag acct) w.ctl ((s.core c).pc + 4) (s.core c).stLeft = x at e3
  have hd1 := ctlTurn_debug s c ((s.core c).issued w (s.core c).stLeft tag acct) w.ctl ((s.core c).pc + 4) (s.core c).stLeft
  have hd := Core.ticks_debug (1 + x.2) x.1
  rw [hx] at hd1
  have hq := debugEnd_quiet (k := Core.ticks (1 + x.2) x.1)
    (b := ((((issueAt s c).setCore c { s.core c with group := [v] }).setCore c { s.core c with group := [v] }).rawFlag (R.CORE_DBG_SEL.halt_en c.val)))
    (hd.1.trans (hd1.1.trans r.haltReq)) (hd.2.1.trans (hd1.2.1.trans r.haltCmd)) (hd.2.2.trans (hd1.2.2.trans r.stepping))
  rw [hq] at e3
  have hfin : issueWord c true f s.begin = { (issueAt s c).setCore c (Core.ticks (1 + x.2) x.1) with mem := s.mem, regs := rg }
      ∧ (s.rawFlag R.PERF_CTRL.run = false → rg = s.regs) := by
    rw [e1, e2, e3]
    obtain ⟨q, hq⟩ := issueAt_shape s c
    refine ⟨?_, fun g => ?_⟩
    · simp only [Bool.false_and, Bool.false_eq_true, if_false]
      rw [State.setCore_setCore, State.setCore_setCore, hq]
      rfl
    · have := e4 hb
      rw [hq] at this
      exact this g
  obtain ⟨t, h1, h2, h3, h4, h5⟩ := coreFrame r.quiet hfin.1 hfin.2
  exact ⟨t, tag, acct, h1, by rw [h2, hx], sameMemory h3 h4, h5⟩

end Sys2Proof.Machine
end

