-- ==== Sys2Proof/Laws/Keeps.lean ====
section
/-!
SUPPORT. What every operation keeps: the canonical forms, the fault queue's form, the fuses and the queue of commands.
Each operation's own lemma is named `<operation>_keeps`.
-/
namespace Sys2Proof.Machine

/-- From s to t the canonical forms and the fault queue's form last, and the fuses and the waiting commands are the same. -/
structure Keeps (s t : State) : Prop where
  pending : t.pending = s.pending
  fuses : t.sys.fuses = s.sys.fuses
  mem : Memory.wf s.mem = true → Memory.wf t.mem = true
  regs : Sparse.wf regReset s.regs = true → Sparse.wf regReset t.regs = true
  shadow : Sparse.wf regReset s.shadow = true → Sparse.wf regReset t.shadow = true
  flash : Sparse.wf flashDflt s.flash = true → Sparse.wf flashDflt t.flash = true
  queue : queueOk s.flt.queue → queueOk t.flt.queue

theorem Keeps.refl (s : State) : Keeps s s := ⟨rfl, rfl, id, id, id, id, id⟩

theorem Keeps.trans {s t u : State} (h : Keeps s t) (k : Keeps t u) : Keeps s u :=
  ⟨k.pending.trans h.pending, k.fuses.trans h.fuses, k.mem ∘ h.mem, k.regs ∘ h.regs, k.shadow ∘ h.shadow,
    k.flash ∘ h.flash, k.queue ∘ h.queue⟩

/-- The parts of a state that the relation speaks of. -/
abbrev State.kept (s : State) : List Instr × Fuses × List Host.Cell × Sparse 32 × Sparse 32 × List Host.Cell × List FaultRec :=
  (s.pending, s.sys.fuses, s.mem, s.regs, s.shadow, s.flash, s.flt.queue)

/-- An update of other fields keeps what it keeps of the state it updates. -/
theorem Keeps.upd {s t u : State} (h : Keeps s t) (e : u.kept = t.kept) : Keeps s u := by
  simp only [State.kept, Prod.mk.injEq] at e
  obtain ⟨p, f, m, r, sh, fl, q⟩ := e
  exact h.trans ⟨p, f, fun x => by rw [m]; exact x, fun x => by rw [r]; exact x, fun x => by rw [sh]; exact x,
    fun x => by rw [fl]; exact x, fun x => by rw [q]; exact x⟩

/-- The state part of a pair. -/
theorem Keeps.ofPair {α : Type} {s t : State} {p : α × State} {a : α} (h : p = (a, t)) (k : Keeps s p.2) : Keeps s t := by
  rw [h] at k; exact k

theorem Keeps.ofPair1 {α : Type} {s t : State} {p : State × α} {a : α} (h : p = (t, a)) (k : Keeps s p.1) : Keeps s t := by
  rw [h] at k; exact k

theorem Keeps.ofPair22 {α β : Type} {s t : State} {p : α × β × State} {a : α} {b : β} (h : p = (a, b, t))
    (k : Keeps s p.2.2) : Keeps s t := by
  rw [h] at k; exact k

theorem Keeps.ite {s t u : State} {c : Prop} [Decidable c] (h : Keeps s t) (k : Keeps s u) : Keeps s (if c then t else u) := by
  split <;> assumption

theorem Keeps.iteVia {γ : Type} {π : γ → State} {s : State} {a b : γ} {c : Prop} [Decidable c] (h : Keeps s (π a))
    (k : Keeps s (π b)) : Keeps s (π (if c then a else b)) := by
  split <;> assumption

theorem Keeps.dite {s : State} {c : Prop} [Decidable c] {t : c → State} {u : ¬c → State} (h : ∀ x, Keeps s (t x))
    (k : ∀ x, Keeps s (u x)) : Keeps s (if x : c then t x else u x) := by
  split
  · exact h _
  · exact k _

/-- A fold of an operation that keeps. -/
theorem Keeps.foldlT {α : Type} {s0 s : State} {f : State → α → State} {l : List α} (h : Keeps s0 s)
    (hf : ∀ s x, Keeps s0 s → Keeps s0 (f s x)) : Keeps s0 (l.foldl f s) := by
  induction l generalizing s with
  | nil => exact h
  | cons x t ih => exact ih (hf s x h)

/-- A fold that carries a state in π. -/
theorem Keeps.foldlVia {α γ : Type} {π : γ → State} {s0 : State} {p : γ} {f : γ → α → γ} {l : List α} (h : Keeps s0 (π p))
    (hf : ∀ p x, Keeps s0 (π p) → Keeps s0 (π (f p x))) : Keeps s0 (π (l.foldl f p)) := by
  induction l generalizing p with
  | nil => exact h
  | cons x t ih => exact ih (hf p x h)

/-- A fold that carries a state beside something. -/
theorem Keeps.foldlPairT {α β : Type} {s0 : State} {p : β × State} {f : β × State → α → β × State} {l : List α}
    (h : Keeps s0 p.2) (hf : ∀ p x, Keeps s0 p.2 → Keeps s0 (f p x).2) : Keeps s0 (l.foldl f p).2 :=
  .foldlVia (π := Prod.snd) h hf

/-! ## The fault queue -/

/-- A queue with some records taken out. -/
theorem queueOk_filter {q : List FaultRec} (f : FaultRec → Bool) (h : queueOk q) : queueOk (q.filter f) := by
  refine ⟨?_, ?_⟩
  · exact List.Nodup.sublist (List.Sublist.map _ List.filter_sublist) h.1
  · exact List.all_eq_true.2 fun r hr => List.all_eq_true.1 h.2 r ((List.mem_filter.1 hr).1)

/-- A change of every record that leaves its slot and keeps it legal. -/
theorem queueOk_map {q : List FaultRec} (f : FaultRec → FaultRec) (hf : ∀ r, (f r).slot = r.slot ∧ (r.ok = true → (f r).ok = true))
    (h : queueOk q) : queueOk (q.map f) := by
  refine ⟨?_, ?_⟩
  · have : (q.map f).map (·.slot) = q.map (·.slot) := by
      rw [List.map_map]; exact List.map_congr_left fun r _ => (hf r).1
    rw [this]; exact h.1
  · rw [List.all_map]
    exact List.all_eq_true.2 fun r hr => (hf r).2 (List.all_eq_true.1 h.2 r hr)

/-- A coalesced record counts up, to 65,535 (R393). -/
theorem queueOk_count {q : List FaultRec} {x : Raised} (h : queueOk q) :
    queueOk (q.map (fun r => if r.same x then { r with count := min (r.count + 1) 65535 } else r)) := by
  refine queueOk_map _ (fun r => ⟨by split <;> rfl, fun k => ?_⟩) h
  split
  · simp only [FaultRec.ok, Bool.and_eq_true, decide_eq_true_eq] at k ⊢
    exact ⟨⟨k.1.1, by omega⟩, k.2⟩
  · exact k

/-- A free slot lies in its range and no record stands in it. -/
theorem freeSlot_spec {q : List FaultRec} {lo n k : Nat} (h : freeSlot q lo n = some k) :
    lo ≤ k ∧ k < lo + n ∧ ∀ r ∈ q, r.slot ≠ k := by
  have h1 := List.mem_of_find?_eq_some h
  have h2 := List.find?_some h
  simp at h1 h2
  obtain ⟨a, ha, rfl⟩ := h1
  exact ⟨by omega, by omega, fun r hr => h2 r hr⟩

/-- Where a new record goes: a slot that fits its class and that is free, or held by the record that it overwrites. -/
theorem placeRec_spec {q : List FaultRec} {cls k : Nat} {o : Option FaultRec} (h : placeRec q cls = some (k, o)) :
    k < 64 ∧ (56 ≤ k → cls = 3) ∧ (o = none → ∀ r ∈ q, r.slot ≠ k) ∧ (∀ r, o = some r → r ∈ q ∧ r.slot = k) := by
  unfold placeRec at h
  split at h
  · rename_i k' e
    cases h
    split at e
    · have := freeSlot_spec e
      exact ⟨by omega, fun _ => by assumption, fun _ => this.2.2, fun _ h => nomatch h⟩
    · cases e
  · split at h
    · rename_i k' e
      cases h
      have := freeSlot_spec e
      exact ⟨by omega, fun _ => by omega, fun _ => this.2.2, fun _ h => nomatch h⟩
    · obtain ⟨v, _, hv⟩ := List.exists_of_findSome?_eq_some h
      rw [Option.map_eq_some_iff] at hv
      obtain ⟨r, hr, hk⟩ := hv
      simp only [Prod.mk.injEq] at hk
      obtain ⟨rfl, rfl⟩ := hk
      have h1 := List.mem_of_find?_eq_some hr
      have h2 := List.find?_some hr
      simp only [Nat.blt_eq, Bool.and_eq_true] at h2
      refine ⟨by omega, fun _ => by omega, fun h => (nomatch h), fun _ h => ?_⟩
      cases h
      exact ⟨h1, rfl⟩

/-- A placed record keeps the queue legal. -/
theorem queueOk_place {q : List FaultRec} {cls k blk code detail p w u : Nat} {b : Bool} {o : Option FaultRec} (h : queueOk q)
    (e : placeRec q cls = some (k, o)) :
    queueOk ((match o with | none => q | some r => q.filter (· != r)) ++ [⟨cls, blk, code, detail, 0, b, p, w, k, u⟩]) := by
  obtain ⟨hk, h3, hn, ho⟩ := placeRec_spec e
  have key : ∀ q', queueOk q' → (∀ r ∈ q', r.slot ≠ k) → queueOk (q' ++ [⟨cls, blk, code, detail, 0, b, p, w, k, u⟩]) := by
    intro q' hq' hs
    refine ⟨?_, ?_⟩
    · rw [List.map_append, List.nodup_append]
      refine ⟨hq'.1, by simp, ?_⟩
      intro a ha b hb
      simp at ha hb
      obtain ⟨r, hr, rfl⟩ := ha
      rw [hb]; exact hs r hr
    · rw [List.all_append, hq'.2]
      simp only [FaultRec.ok, List.all_cons, List.all_nil, Bool.and_true, Bool.true_and, Bool.and_eq_true, Bool.or_eq_true,
        decide_eq_true_eq, beq_iff_eq]
      refine ⟨⟨hk, by omega⟩, ?_⟩
      by_cases c : k < 56
      · exact .inl c
      · exact .inr (h3 (by omega))
  cases o with
  | none => exact key q h (hn rfl)
  | some r =>
    refine key _ (queueOk_filter _ h) ?_
    intro x hx hxk
    obtain ⟨hr, hrk⟩ := ho r rfl
    have hxq := (List.mem_filter.1 hx).1
    have hne : x ≠ r := by have := (List.mem_filter.1 hx).2; simpa using this
    have : ∀ (l : List FaultRec), (l.map (·.slot)).Nodup → x ∈ l → r ∈ l → x = r := by
      intro l
      induction l with
      | nil => intro _ hx; cases hx
      | cons y t ih =>
        intro hn hx hr
        simp only [List.map_cons, List.nodup_cons, List.mem_map, not_exists, not_and] at hn
        rcases List.mem_cons.1 hx with h1 | h1 <;> rcases List.mem_cons.1 hr with h2 | h2
        · rw [h1, h2]
        · exact absurd (by rw [hrk, ← hxk, h1]) (hn.1 r h2)
        · exact absurd (by rw [hxk, ← hrk, h2]) (hn.1 x h1)
        · exact ih hn.2 h1 h2
    exact hne (this q h.1 hxq hr)

/-- The registers at reset are canonical. -/
theorem reset_regs_wf : Sparse.wf regReset State.reset.regs = true := by decide

end Sys2Proof.Machine
end

