-- ==== Sys2Proof/Laws/KeepsOps.lean ====
section
/-!
SUPPORT. What the operations of Machine/Ops.lean keep.
-/
namespace Sys2Proof.Machine

theorem State.setReg_keeps {s0 s : State} {a : Nat} {v : Word} (h : Keeps s0 s) : Keeps s0 (s.setReg a v) :=
  ⟨h.pending, h.fuses, h.mem, fun x => Sparse.wf_set _ _ (h.regs x), h.shadow, h.flash, h.queue⟩

theorem State.setShReg_keeps {s0 s : State} {a : Nat} {v : Word} (h : Keeps s0 s) : Keeps s0 (s.setShReg a v) :=
  ⟨h.pending, h.fuses, h.mem, h.regs, fun x => Sparse.wf_set _ _ (h.shadow x), h.flash, h.queue⟩

theorem State.put_keeps {s0 s : State} {l : Loc} {v : Nat} (h : Keeps s0 s) :
    Keeps s0 (State.put s l v) :=
  State.setReg_keeps h

theorem State.mark_keeps {s0 s : State} {l : Loc} (h : Keeps s0 s) :
    Keeps s0 (State.mark s l) :=
  State.put_keeps h

theorem State.unmark_keeps {s0 s : State} {l : Loc} (h : Keeps s0 s) :
    Keeps s0 (State.unmark s l) :=
  State.put_keeps h

theorem State.bump_keeps {s0 s : State} {l : Loc} {n : optParam Nat 1} (h : Keeps s0 s) :
    Keeps s0 (State.bump s l n) :=
  State.put_keeps h

theorem State.bumpSat_keeps {s0 s : State} {l : Loc} (h : Keeps s0 s) :
    Keeps s0 (State.bumpSat s l) :=
  State.put_keeps h

theorem State.enter_keeps {s0 s : State} {e : EngState} (h : Keeps s0 s) :
    Keeps s0 (State.enter s e) := by
  unfold State.enter
  extract_lets v1
  exact .ite h (State.mark_keeps (.upd h rfl))

theorem State.freeWord_keeps {s0 s : State} (h : Keeps s0 s) :
    Keeps s0 (State.freeWord s).2 :=
  .upd h rfl

theorem State.freeByte_keeps {s0 s : State} (h : Keeps s0 s) :
    Keeps s0 (State.freeByte s).2 :=
  .upd h rfl

theorem State.freeNat_keeps {s0 s : State} (h : Keeps s0 s) :
    Keeps s0 (State.freeNat s).2 :=
  .upd h rfl

theorem State.freeInt_keeps {s0 s : State} (h : Keeps s0 s) :
    Keeps s0 (State.freeInt s).2 :=
  .upd h rfl

theorem State.emit_keeps {s0 s : State} {o : Out} (h : Keeps s0 s) :
    Keeps s0 (State.emit s o) :=
  .upd h rfl

theorem perfAdd_keeps {s0 s : State} {i : Nat} {amt : Nat} (h : Keeps s0 s) :
    Keeps s0 (perfAdd s i amt) := by
  unfold perfAdd
  extract_lets v1 v2 v3 v4 v5 v6
  have h3 : Keeps s0 v3 := State.setReg_keeps h
  have h6 : Keeps s0 v6 := State.setReg_keeps h3
  exact .ite h3 (.ite (.ite h6 (State.put_keeps h6)) (State.put_keeps h3))

theorem State.count_keeps {s0 s : State} {ev : Nat} {amt : Nat} (h : Keeps s0 s) :
    Keeps s0 (State.count s ev amt) :=
  .ite h (.foldlT h (fun _ _ h => .ite (perfAdd_keeps h) h))

theorem State.bwAdd_keeps {s0 s : State} {m : Nat} {n : Nat} (h : Keeps s0 s) :
    Keeps s0 (State.bwAdd s m n) := by
  unfold State.bwAdd
  extract_lets v1
  try clear_value v1
  split
  · exact .upd h rfl
  · exact h

theorem State.raise_keeps {s0 s : State} {cls : Nat} {blk : Nat} {code : Nat} {detail : Nat} (h : Keeps s0 s) :
    Keeps s0 (State.raise s cls blk code detail) := by
  unfold State.raise
  extract_lets v1
  exact .upd h rfl

theorem noteLocal_keeps {s0 s : State} {x : Raised} (h : Keeps s0 s) :
    Keeps s0 (noteLocal s x) := by
  unfold noteLocal
  extract_lets v1
  try clear_value v1
  exact .ite (.upd h rfl) h

theorem enqueue_keeps {s0 s : State} {x : Raised} (h : Keeps s0 s) : Keeps s0 (enqueue s x) := by
  unfold enqueue
  extract_lets s1 f1 s2 f2
  have h1 : Keeps s0 s1 := noteLocal_keeps h
  have h2 : Keeps s0 s2 := .ite (.upd h1 rfl) h1
  clear_value f2 s2 f1 s1
  split
  · exact ⟨h2.pending, h2.fuses, h2.mem, h2.regs, h2.shadow, h2.flash, fun q => queueOk_count (h2.queue q)⟩
  · split
    · exact State.bump_keeps h2
    · rename_i k past e
      extract_lets q s3
      have h3 : Keeps s0 s3 :=
        ⟨h2.pending, h2.fuses, h2.mem, h2.regs, h2.shadow, h2.flash, fun y => queueOk_place (h2.queue y) e⟩
      clear_value s3
      split
      · exact h3
      · exact State.bump_keeps h3

theorem selfYield_keeps {s0 s : State} (h : Keeps s0 s) :
    Keeps s0 (selfYield s) := by
  unfold selfYield
  extract_lets v1 v2 v3 v4
  have h2 : Keeps s0 v2 := State.mark_keeps (.upd h rfl)
  try clear_value v2 v1
  have h3 : Keeps s0 v3 := State.bump_keeps h2
  try clear_value v3
  try clear_value v4
  exact .upd h3 rfl

theorem twinAlarm_keeps {s0 s : State} {l : List Raised} (h : Keeps s0 s) :
    Keeps s0 (twinAlarm l s) :=
  .ite (selfYield_keeps h) h

theorem flushFaults_keeps {s0 s : State} (h : Keeps s0 s) :
    Keeps s0 (flushFaults s) := by
  unfold flushFaults
  extract_lets v1 v2
  have h2 : Keeps s0 v2 := .upd h rfl
  try clear_value v2
  split
  · exact h
  · exact twinAlarm_keeps (State.count_keeps (.foldlT h2 (fun _ _ h => enqueue_keeps h)))

theorem State.touch1_keeps {s0 s : State} {a : Nat} (h : Keeps s0 s) :
    Keeps s0 (State.touch1 s a) := by
  unfold State.touch1
  extract_lets v1
  try clear_value v1
  split
  · exact h
  · exact .ite (State.raise_keeps (State.setReg_keeps (State.setReg_keeps h))) (State.raise_keeps (.upd h rfl))

theorem State.touch_keeps {s0 s : State} {a : Nat} {n : Nat} (h : Keeps s0 s) :
    Keeps s0 (State.touch s a n) :=
  .ite h (.foldlT h (fun _ _ h => State.touch1_keeps h))

theorem State.pokeByte_keeps {s0 s : State} {a : Nat} {b : Byte} (h : Keeps s0 s) : Keeps s0 (s.pokeByte a b) :=
  ⟨h.pending, h.fuses, fun x => Sparse.wf_set _ _ (h.mem x), h.regs, h.shadow, h.flash, h.queue⟩

theorem State.poke_keeps {s0 s : State} {a : Nat} {l : List Byte} (h : Keeps s0 s) : Keeps s0 (s.poke a l) := by
  induction l generalizing s a with
  | nil => exact h
  | cons b t ih => exact ih (State.pokeByte_keeps h)

theorem State.preWrite_keeps {s0 s : State} {a : Nat} {n : Nat} (h : Keeps s0 s) :
    Keeps s0 (State.preWrite s a n) := by
  unfold State.preWrite
  refine Keeps.ite ?_ ?_
  · exact h
  · refine Keeps.foldlT h (fun s i h => ?_)
    extract_lets v1 v2 v3 v4
    have h3 : Keeps s0 v3 := .ite h (State.touch1_keeps h)
    try clear_value v3
    try clear_value v4
    split
    · exact h
    · extract_lets v5
      have h5 : Keeps s0 v5 := .upd h3 rfl
      exact .ite (State.poke_keeps h5) h5

theorem State.memWrite_keeps {s0 s : State} {a : Nat} {bs : List Byte} (h : Keeps s0 s) :
    Keeps s0 (State.memWrite s a bs) :=
  State.poke_keeps (State.preWrite_keeps h)

theorem State.memWriteWord_keeps {s0 s : State} {a : Nat} {v : Word} (h : Keeps s0 s) :
    Keeps s0 (State.memWriteWord s a v) :=
  State.memWrite_keeps h

theorem State.setCore_keeps {s0 s : State} {c : Fin 16} {k : Core} (h : Keeps s0 s) :
    Keeps s0 (State.setCore s c k) :=
  .upd h rfl

theorem State.setIo_keeps {s0 s : State} {c : Fin 16} {k : CoreIo} (h : Keeps s0 s) :
    Keeps s0 (State.setIo s c k) :=
  .upd h rfl

theorem irqUpdate_keeps {s0 s : State} (h : Keeps s0 s) : Keeps s0 (irqUpdate s) := by
  obtain ⟨x, o, e⟩ := irqUpdate_shape s
  rw [e]
  exact .upd h rfl

theorem State.begin_keeps {s0 s : State} (h : Keeps s0 s) :
    Keeps s0 (State.begin s) :=
  .upd h rfl

theorem Cmd.run_keeps {s0 s t : State} {f : State → State} (h : Keeps s0 s) (hf : ∀ s, Keeps s0 s → Keeps s0 (f s))
    (e : Cmd.run f s = .next t) : Keeps s0 t := by
  unfold Cmd.run at e
  cases e
  exact .ite (State.begin_keeps h) (irqUpdate_keeps (flushFaults_keeps (hf _ (State.begin_keeps h))))

end Sys2Proof.Machine
end

