-- ==== Sys2Proof/Laws/KeepsCoreOps.lean ====
section
/-!
SUPPORT. What the operations of Machine/CoreOps.lean keep.
-/
namespace Sys2Proof.Machine

theorem fadeReturns_keeps {s0 s : State} {c : Fin 16} (h : Keeps s0 s) :
    Keeps s0 (fadeReturns s c) := by
  unfold fadeReturns
  extract_lets v1
  split
  · exact State.setIo_keeps h
  · exact State.setIo_keeps h
  · exact State.setIo_keeps h
  · exact h

theorem coreStop_keeps {s0 s : State} {c : Fin 16} {reason : Nat} (h : Keeps s0 s) :
    Keeps s0 (coreStop s c reason) := by
  unfold coreStop
  extract_lets v1
  exact fadeReturns_keeps (State.raise_keeps (State.setCore_keeps h))

theorem coreFault_keeps {s0 s : State} {c : Fin 16} {cause : Nat} (h : Keeps s0 s) :
    Keeps s0 (coreFault s c cause) := by
  unfold coreFault
  extract_lets v1 v2 v3 v4 v5 v6
  have h3 : Keeps s0 v3 := State.put_keeps (State.put_keeps h)
  have h4 : Keeps s0 v4 := State.mark_keeps h3
  have h6 : Keeps s0 v6 := .ite h4 (State.mark_keeps h4)
  exact .ite (State.count_keeps (State.setCore_keeps h4)) (coreStop_keeps (State.setCore_keeps h6))

theorem groupEffect_keeps {s0 s : State} {c : Fin 16} {k : Core} {ws : List WordEff} {hold : Nat} (h : Keeps s0 s) :
    Keeps s0 (groupEffect s c k ws hold) := by
  unfold groupEffect
  extract_lets v1 v2 v3 v4 v5 v6 v7 v8 v9 v10 v11 v12 v13 v14
  have h4 : Keeps s0 v4 := .foldlT h (fun _ _ h => State.touch_keeps h)
  try clear_value v4
  have h6 : Keeps s0 v6 := .foldlT h4 (fun _ _ h => State.memWrite_keeps h)
  try clear_value v6
  split
  · extract_lets v15 v16
    split
    · extract_lets v17 v18 v19
      have h18 : Keeps s0 v18 := .ite (State.mark_keeps h6) h6
      exact State.count_keeps (State.count_keeps (State.count_keeps (State.count_keeps (State.count_keeps (State.setCore_keeps h18)))))

theorem issueGroup_keeps {s0 s : State} {c : Fin 16} (h : Keeps s0 s) :
    Keeps s0 (issueGroup s c) := by
  unfold issueGroup
  extract_lets v1 v2 v3 v4 v5 v6
  have h5 : Keeps s0 v5 := State.setCore_keeps h
  exact .ite (coreFault_keeps h5) (.ite (coreFault_keeps h5) (.ite (coreFault_keeps h5) (groupEffect_keeps h5)))

theorem State.request_keeps {s0 s : State} {c : Nat} (h : Keeps s0 s) :
    Keeps s0 (State.request s c) := by
  unfold State.request
  extract_lets v1
  try clear_value v1
  exact .upd h rfl

theorem issueWord_keeps {s0 s : State} {c : Fin 16} {last : Bool} {f : CView → WordEff} (h : Keeps s0 s) :
    Keeps s0 (issueWord c last f s) := by
  unfold issueWord
  extract_lets v1 v2 v3 v4
  have h2 : Keeps s0 v2 := .ite h (State.request_keeps h)
  have h4 : Keeps s0 v4 := State.setCore_keeps h2
  exact .ite h (.ite (.ite (coreFault_keeps h2) (.ite (issueGroup_keeps h4) h4)) h2)

theorem coreCmd_keeps {s0 s : State} {c : Fin 16} {last : Bool} {f : CView → WordEff} (h : Keeps s0 s) {t : State}
    (e : coreCmd c last f s = .next t) : Keeps s0 t :=
  Cmd.run_keeps h (fun _ h => issueWord_keeps h) e

theorem ageTo_keeps {s0 s : State} {c : Fin 16} {cyc : Nat} (h : Keeps s0 s) :
    Keeps s0 (ageTo s c cyc) := by
  unfold ageTo
  extract_lets v1 v2 v3 v4 v5 v6 v7
  exact .ite h (State.count_keeps (State.count_keeps (State.setCore_keeps h)))

end Sys2Proof.Machine
end

