-- ==== Sys2Proof/Laws/KeepsSieve.lean ====
section
/-!
SUPPORT. What the operations of Machine/Sieve.lean keep.
-/
namespace Sys2Proof.Machine

theorem State.svGrant_keeps {s0 s : State} {act : Nat} {cls : Nat} {n : Nat} (h : Keeps s0 s) :
    Keeps s0 (State.svGrant s act cls n) := by
  unfold State.svGrant
  extract_lets v1
  try clear_value v1
  exact State.count_keeps (.upd h rfl)

theorem State.svRt_keeps {s0 s : State} {act : Nat} {cls : Nat} {n : Nat} (h : Keeps s0 s) :
    Keeps s0 (State.svRt s act cls n) := by
  unfold State.svRt
  extract_lets v1 v2 v3 v4 v5 v6 v7 v8
  have h4 : Keeps s0 v4 := State.svGrant_keeps h
  try clear_value v4
  have h6 : Keeps s0 v6 := .ite h4 (State.count_keeps (State.mark_keeps (.upd h4 rfl)))
  try clear_value v6 v5
  have h7 : Keeps s0 v7 := State.count_keeps (State.mark_keeps h6)
  try clear_value v7
  try clear_value v8
  exact .ite h (.ite (State.svGrant_keeps h) (.ite h6 (.ite h7 (State.raise_keeps (.upd h7 rfl)))))

theorem State.svBe_keeps {s0 s : State} {act : Nat} {cls : Nat} {n : Nat} (h : Keeps s0 s) :
    Keeps s0 (State.svBe s act cls n) := by
  unfold State.svBe
  extract_lets v1
  have h1 : Keeps s0 v1 := State.svGrant_keeps h
  exact .ite (State.mark_keeps h1) h1

theorem State.svCharge_keeps {s0 s : State} {act : Nat} {cls : Nat} {n : Nat} (h : Keeps s0 s) :
    Keeps s0 (State.svCharge s act cls n) :=
  .ite (State.svRt_keeps h) (State.svBe_keeps h)

theorem State.powerWork_keeps {s0 s : State} {act : Nat} (h : Keeps s0 s) :
    Keeps s0 (State.powerWork s act) := by
  unfold State.powerWork
  extract_lets v1
  try clear_value v1
  split
  · exact h
  · exact .upd h rfl

theorem sieveRenew_keeps {s0 s : State} (h : Keeps s0 s) :
    Keeps s0 (sieveRenew s) := by
  unfold sieveRenew
  extract_lets v1 v2 v5
  have h2 : Keeps s0 v2 := by
    unfold v2
    unfold v1
    extract_lets v3 v4
    have h3 : Keeps s0 v3 := .foldlT h (fun _ _ h => State.setReg_keeps h)
    try clear_value v3
    have h4 : Keeps s0 v4 := .foldlT h3 (fun _ _ h => State.put_keeps h)
    try clear_value v4
    exact .foldlT h4 (fun _ _ h => State.put_keeps h)
  try clear_value v2
  try clear_value v5
  exact .upd h2 rfl

theorem powerGrant_keeps {s0 s : State} (h : Keeps s0 s) :
    Keeps s0 (powerGrant s) := by
  unfold powerGrant
  extract_lets v1 v2 v3 v4
  split
  · split
    · extract_lets v5 v8
      have h5 : Keeps s0 v5 := by
        unfold v5
        refine Keeps.foldlT h (fun s i h => ?_)
        extract_lets v6 v7
        exact State.setReg_keeps h
      try clear_value v5
      try clear_value v8
      exact State.put_keeps (.upd h5 rfl)

theorem powerStart_keeps {s0 s : State} (h : Keeps s0 s) :
    Keeps s0 (powerStart s).2 := by
  unfold powerStart
  extract_lets v1 v2 v3 v4
  have h3 : Keeps s0 v3 := State.put_keeps h
  try clear_value v3
  refine Keeps.iteVia (π := Prod.snd) ?_ ?_
  · exact State.raise_keeps h3
  · exact .ite (State.raise_keeps h3) h3

theorem execAllowanceExpiry_keeps {s0 s : State} {c : Fin 21} (h : Keeps s0 s) {t : State}
    (e : execAllowanceExpiry c s = .next t) : Keeps s0 t :=
  Cmd.run_keeps h (fun _ h => .ite h (State.mark_keeps h)) e

theorem execPwrWarnAssert_keeps {s0 s : State} (h : Keeps s0 s) {t : State}
    (e : execPwrWarnAssert s = .next t) : Keeps s0 t := by
  refine Cmd.run_keeps h (fun s h => ?_) e
  extract_lets v1 v2 v5 v6 v7 v8
  have h2 : Keeps s0 v2 := by
    unfold v2
    refine Keeps.foldlT h (fun s i h => ?_)
    extract_lets v3 v4
    have h4 : Keeps s0 v4 := State.put_keeps h
    exact .ite h (.ite (State.mark_keeps h4) h4)
  try clear_value v2
  have h6 : Keeps s0 v6 := .upd h2 rfl
  have h7 : Keeps s0 v7 := State.mark_keeps (State.mark_keeps h6)
  have h8 : Keeps s0 v8 := State.put_keeps (State.bump_keeps h7)
  exact .ite h (State.raise_keeps h8)

theorem execPwrWarnDeassert_keeps {s0 s : State} (h : Keeps s0 s) {t : State}
    (e : execPwrWarnDeassert s = .next t) : Keeps s0 t := by
  refine Cmd.run_keeps h (fun s h => ?_) e
  extract_lets v1
  try clear_value v1
  exact State.unmark_keeps (.upd h rfl)

end Sys2Proof.Machine
end

