-- ==== Sys2Proof/Laws/KeepsCask.lean ====
section
/-!
SUPPORT. What the operations of Machine/Cask.lean keep.
-/
namespace Sys2Proof.Machine

theorem caskUncorrectable_keeps {s0 s : State} {k : Fin 2} {o : Nat} {who : CaskAcc} (h : Keeps s0 s) :
    Keeps s0 (caskUncorrectable s k o who) := by
  unfold caskUncorrectable
  extract_lets v1 v2 v3
  have h1 : Keeps s0 v1 := State.bump_keeps h
  try clear_value v1
  have h2 : Keeps s0 v2 := State.setReg_keeps (State.setReg_keeps h1)
  try clear_value v2
  try clear_value v3
  split
  · exact State.raise_keeps (.upd h2 rfl)
  · exact State.raise_keeps (.upd h2 rfl)
  · exact State.raise_keeps h2

theorem caskCorrected_keeps {s0 s : State} {k : Fin 2} {o : Nat} (h : Keeps s0 s) :
    Keeps s0 (caskCorrected s k o) := by
  unfold caskCorrected
  extract_lets v1 v2 v3 v4
  have h1 : Keeps s0 v1 := State.raise_keeps (State.count_keeps (State.bump_keeps h))
  try clear_value v1
  have h4 : Keeps s0 v4 := .upd h1 rfl
  exact .ite (State.raise_keeps h4) h4

theorem caskCheck_keeps {s0 s : State} {k : Fin 2} {o : Nat} {x : Nat} {who : CaskAcc} (h : Keeps s0 s) :
    Keeps s0 (caskCheck s k o x who).2 := by
  unfold caskCheck
  extract_lets v1 v2
  try clear_value v2
  refine Keeps.iteVia (π := Prod.snd) ?_ ?_
  · exact h
  · refine Keeps.iteVia (π := Prod.snd) ?_ ?_
    · exact caskUncorrectable_keeps h
    · refine Keeps.iteVia (π := Prod.snd) ?_ ?_
      · exact h
      · exact caskCorrected_keeps (.upd h rfl)

theorem caskSized_keeps {s0 s : State} (h : Keeps s0 s) :
    Keeps s0 (caskSized s) :=
  State.put_keeps h

theorem strike_keeps {s0 s : State} {a : Nat} {hard : Bool} (h : Keeps s0 s) :
    Keeps s0 (strike s a hard) := by
  unfold strike
  extract_lets v1 v2 v3
  try clear_value v3
  refine Keeps.ite ?_ ?_
  · split
    · rename_i _ s4 q4
      have h4 : Keeps s0 s4 := .ofPair q4 (State.freeByte_keeps h)
      exact State.pokeByte_keeps h4
  · split
    · exact .upd h rfl
    · exact .upd h rfl

theorem strikes_keeps {s0 s : State} {l : List (Nat × Bool)} (h : Keeps s0 s) :
    Keeps s0 (strikes s l) :=
  .foldlT h (fun _ _ h => strike_keeps h)

theorem caskRow_keeps {s0 s : State} {k : Nat} (h : Keeps s0 s) :
    Keeps s0 (caskRow s k) := by
  unfold caskRow
  refine Keeps.ite ?_ ?_
  · exact h
  · split
    · rename_i _ s1 q1
      have h1 : Keeps s0 s1 := .ofPair q1 (State.freeNat_keeps h)
      split
      · rename_i _ s2 q2
        have h2 : Keeps s0 s2 := .ofPair q2 (State.freeNat_keeps h1)
        exact State.count_keeps (State.count_keeps h2)

theorem caskGranule_keeps {s0 s : State} {o : Nat} {who : CaskAcc} (h : Keeps s0 s) {r : List Byte × State}
    (e : caskGranule s o who = some r) : Keeps s0 r.2 := by
  unfold caskGranule at e
  split at e
  · cases e
  split at e
  · cases e
  · cases e
    exact State.bwAdd_keeps (State.count_keeps (caskRow_keeps (caskCheck_keeps h)))

theorem caskPut_keeps {s0 s : State} {o : Nat} {bytes : List (Option Byte)} {who : CaskAcc} (h : Keeps s0 s) :
    Keeps s0 (caskPut s o bytes who) := by
  unfold caskPut
  extract_lets v1
  split
  · exact h
  · refine Keeps.ite ?_ ?_
    · exact h
    · split
      · rename_i _ s2 q2
        have h2 : Keeps s0 s2 := .ofPair q2 (by
          refine Keeps.iteVia (π := Prod.snd) ?_ ?_
          · exact h
          · exact caskCheck_keeps h)
        extract_lets v3 v4 v5 v6
        have h4 : Keeps s0 v4 := .upd h2 rfl
        try clear_value v4 v3
        have h5 : Keeps s0 v5 := .ite h4 (State.poke_keeps h4)
        try clear_value v5
        have h6 : Keeps s0 v6 := by
          unfold v6
          refine Keeps.foldlT h5 (fun s i h => ?_)
          split
          · exact State.pokeByte_keeps h
          · exact h
        exact State.bwAdd_keeps (State.count_keeps (caskRow_keeps h6))

theorem caskReject_keeps {s0 s : State} {kind : Nat} {n : Nat} (h : Keeps s0 s) :
    Keeps s0 (caskReject s kind n) :=
  State.raise_keeps (State.mark_keeps h)

theorem checkLines_keeps {s0 s : State} {l ok : List Nat} (h : Keeps s0 s) : Keeps s0 (checkLines s l ok) := by
  induction l generalizing s ok with
  | nil => exact h
  | cons x t ih =>
    unfold checkLines
    extract_lets s1
    have h1 : Keeps s0 s1 := State.put_keeps h
    exact .ite (ih (caskReject_keeps (State.mark_keeps h1))) (ih h1)

theorem checkCaps_keeps {s0 s : State} {l taken : List Nat} (h : Keeps s0 s) : Keeps s0 (checkCaps s l taken) := by
  induction l generalizing s taken with
  | nil => exact h
  | cons x t ih =>
    unfold checkCaps
    exact .ite (ih (caskReject_keeps (State.mark_keeps h))) (ih h)

theorem checkPlays_keeps {s0 s : State} {l : List Nat} (h : Keeps s0 s) : Keeps s0 (checkPlays s l) := by
  induction l generalizing s with
  | nil => exact h
  | cons x t ih =>
    unfold checkPlays
    exact .ite (ih (State.mark_keeps h)) (.ite (ih (caskReject_keeps (State.mark_keeps h))) (ih h))

theorem caskStart_keeps {s0 s : State} (h : Keeps s0 s) :
    Keeps s0 (caskStart s).2 := by
  unfold caskStart
  extract_lets v1 v2 v3 v4 v5 v6 v7 v8
  have h2 : Keeps s0 v2 := .foldlT h (fun _ _ h => State.unmark_keeps h)
  try clear_value v2
  have h3 : Keeps s0 v3 := .foldlT h2 (fun _ _ h => State.unmark_keeps h)
  try clear_value v3
  have h4 : Keeps s0 v4 := .foldlT h3 (fun _ _ h => State.unmark_keeps h)
  try clear_value v4
  have h5 : Keeps s0 v5 := checkLines_keeps h4
  try clear_value v5
  have h6 : Keeps s0 v6 := checkCaps_keeps h5
  try clear_value v6
  have h7 : Keeps s0 v7 := checkPlays_keeps h6
  try clear_value v7
  have h8 : Keeps s0 v8 := State.unmark_keeps h7
  try clear_value v8
  split
  · rename_i _ s9 q9
    have h9 : Keeps s0 s9 := .ofPair q9 (by
      refine Keeps.foldlPairT h8 (fun s i h => ?_)
      extract_lets v10 v11 v12
      have h10 : Keeps s0 v10 := h
      try clear_value v10
      have h12 : Keeps s0 v12 := State.setReg_keeps h10
      try clear_value v12
      refine Keeps.iteVia (π := Prod.snd) ?_ ?_
      · exact State.raise_keeps (State.mark_keeps h12)
      · exact h12)
    extract_lets v13 v14 v15 v16
    have h14 : Keeps s0 v14 := .foldlT h9 (fun _ _ h => State.raise_keeps h)
    try clear_value v14
    try clear_value v16
    exact .upd h14 rfl

theorem capPush_keeps {s0 s : State} {c : Nat} {m : Int} {v : Int} (h : Keeps s0 s) :
    Keeps s0 (capPush s c m v) := by
  unfold capPush
  extract_lets v1 v2 v3 v4 v5 v6 v7
  try clear_value v7
  exact .upd h rfl

theorem capWords_keeps {s0 s : State} {l : List (Option Word)} (h : Keeps s0 s) : Keeps s0 (capWords s l).2 := by
  induction l generalizing s with
  | nil => exact h
  | cons w t ih =>
    cases w with
    | none => exact ih (State.freeWord_keeps h)
    | some v => exact ih h

theorem execCaptureWrite_keeps {s0 s : State} {c : Fin 256} (h : Keeps s0 s) {t : State}
    (e : execCaptureWrite c s = .next t) : Keeps s0 t := by
  refine Cmd.run_keeps h (fun s h => ?_) e
  split
  · exact h
  · split
    · rename_i _ s1 q1
      have h1 : Keeps s0 s1 := .ofPair q1 (capWords_keeps h)
      extract_lets v2 v3 v4
      have h3 : Keeps s0 v3 := .upd h1 rfl
      have h4 : Keeps s0 v4 := State.svCharge_keeps h3
      exact caskPut_keeps h4

theorem caskLate_keeps {s0 s : State} {l : Nat} (h : Keeps s0 s) :
    Keeps s0 (caskLate s l) := by
  unfold caskLate
  extract_lets v1
  exact State.raise_keeps (State.count_keeps (State.bump_keeps h))

theorem capLate_keeps {s0 s : State} {g : CapGranule} (h : Keeps s0 s) :
    Keeps s0 (capLate s g) := by
  unfold capLate
  extract_lets v1
  try clear_value v1
  exact caskLate_keeps (.upd h rfl)

theorem execCaptureLate_keeps {s0 s : State} {c : Fin 256} (h : Keeps s0 s) {t : State}
    (e : execCaptureLate c s = .next t) : Keeps s0 t := by
  refine Cmd.run_keeps h (fun s h => ?_) e
  split
  · exact h
  · exact capLate_keeps h

theorem playLatch_keeps {s0 s : State} {lo : Int} {hi : Int} (h : Keeps s0 s) :
    Keeps s0 (playLatch s lo hi) := by
  unfold playLatch
  refine Keeps.foldlT h (fun s i h => ?_)
  extract_lets v1 v2
  refine Keeps.foldlT h (fun s i h => ?_)
  extract_lets v3 v4 v5 v6
  try clear_value v6
  exact .ite h (.upd h rfl)

theorem playEnd_keeps {s0 s : State} {g : PlayGranule} {ws : List Word} (h : Keeps s0 s) :
    Keeps s0 (playEnd s g ws) := by
  unfold playEnd
  extract_lets v1
  try clear_value v1
  exact .upd h rfl

theorem execPlaybackFetch_keeps {s0 s : State} {c : Fin 256} {struck : List (Nat × Bool)} (h : Keeps s0 s) {t : State}
    (e : execPlaybackFetch c struck s = .next t) : Keeps s0 t := by
  refine Cmd.run_keeps h (fun s h => ?_) e
  extract_lets v1 v2
  have h1 : Keeps s0 v1 := strikes_keeps h
  try clear_value v1
  have h2 : Keeps s0 v2 := State.svCharge_keeps h1
  try clear_value v2
  split
  · exact h1
  · split
    · exact playEnd_keeps h2
    · refine Keeps.ite ?_ ?_
      · exact playEnd_keeps h2
      · split
        · rename_i _ s3 q3
          have h3 : Keeps s0 s3 := .ofPair q3 (caskCheck_keeps h2)
          extract_lets v4
          have h4 : Keeps s0 v4 := State.bwAdd_keeps (State.count_keeps (caskRow_keeps h3))
          exact playEnd_keeps h4

theorem playLate_keeps {s0 s : State} {g : PlayGranule} (h : Keeps s0 s) :
    Keeps s0 (playLate s g) :=
  caskLate_keeps (playEnd_keeps h)

theorem execPlaybackLate_keeps {s0 s : State} {c : Fin 256} (h : Keeps s0 s) {t : State}
    (e : execPlaybackLate c s = .next t) : Keeps s0 t := by
  refine Cmd.run_keeps h (fun s h => ?_) e
  split
  · exact h
  · exact playLate_keeps h

theorem caskBoundary_keeps {s0 s : State} {q : Int} {first : Bool} (h : Keeps s0 s) :
    Keeps s0 (caskBoundary s q first) := by
  unfold caskBoundary
  extract_lets v1 v2 v3 v4 v5 v6
  have h2 : Keeps s0 v2 := .foldlT h (fun _ _ h => .ite (playLate_keeps h) h)
  try clear_value v2
  have h3 : Keeps s0 v3 := .foldlT h2 (fun _ _ h => .ite (capLate_keeps h) h)
  try clear_value v3
  have h6 : Keeps s0 v6 := .upd h3 rfl
  exact .ite h (playLatch_keeps h6)

theorem execCaskTrainingDone_keeps {s0 s : State} {k : Fin 2} {ok : Bool} (h : Keeps s0 s) {t : State}
    (e : execCaskTrainingDone k ok s = .next t) : Keeps s0 t := by
  refine Cmd.run_keeps h (fun s h => ?_) e
  extract_lets s1 c1 s2 zero s3
  have h1 : Keeps s0 s1 := caskSized_keeps (State.mark_keeps h)
  clear_value c1 s1
  have h2 : Keeps s0 s2 := .upd h1 rfl
  clear_value zero s2
  have h3 : Keeps s0 s3 := State.mark_keeps h
  exact .ite h (.ite (.ite h1 (.ite h2 ⟨h2.pending, h2.fuses, fun x => Sparse.wf_filter _ (h2.mem x), h2.regs, h2.shadow, h2.flash,
    h2.queue⟩)) (.ite (State.raise_keeps h3) (State.raise_keeps h3)))

theorem execCaskEccFillDone_keeps {s0 s : State} {k : Fin 2} (h : Keeps s0 s) {t : State}
    (e : execCaskEccFillDone k s = .next t) : Keeps s0 t := by
  refine Cmd.run_keeps h (fun s h => ?_) e
  split
  · exact h
  · exact ⟨h.pending, h.fuses, fun x => Sparse.wf_filter _ (h.mem x), h.regs, h.shadow, h.flash, h.queue⟩

theorem execCaskRefresh_keeps {s0 s : State} {k : Fin 2} (h : Keeps s0 s) {t : State}
    (e : execCaskRefresh k s = .next t) : Keeps s0 t :=
  Cmd.run_keeps h (fun _ h => .ite (State.count_keeps h) h) e

theorem execCaskTempPoll_keeps {s0 s : State} {k : Fin 2} {quarters : Nat} (h : Keeps s0 s) {t : State}
    (e : execCaskTempPoll k quarters s = .next t) : Keeps s0 t := by
  refine Cmd.run_keeps h (fun s h => ?_) e
  extract_lets v1 v2 v3 v4
  have h2 : Keeps s0 v2 := .upd h rfl
  have h4 : Keeps s0 v4 := State.put_keeps h2
  exact .ite h (.ite (State.raise_keeps h4) h4)

theorem execCaskRetrain_keeps {s0 s : State} {x0 : Fin 2} (h : Keeps s0 s) {t : State}
    (e : execCaskRetrain x0 s = .next t) : Keeps s0 t :=
  Cmd.run_keeps h (fun _ h => h) e

theorem execCaskZqCal_keeps {s0 s : State} {x0 : Fin 2} (h : Keeps s0 s) {t : State}
    (e : execCaskZqCal x0 s = .next t) : Keeps s0 t :=
  Cmd.run_keeps h (fun _ h => h) e

theorem scrubOne_keeps {s0 s : State} {k : Fin 2} {v : Nat} (h : Keeps s0 s) :
    Keeps s0 (scrubOne s k v) := by
  unfold scrubOne
  extract_lets v1 v2 v3
  try clear_value v2
  refine Keeps.ite ?_ ?_
  · split
    · exact h
    · exact .ite (caskUncorrectable_keeps h) (caskCorrected_keeps (.upd h rfl))
  · exact caskCheck_keeps h

theorem execCaskScrubRead_keeps {s0 s : State} {k : Fin 2} {struck : List (Nat × Bool)} (h : Keeps s0 s) {t : State}
    (e : execCaskScrubRead k struck s = .next t) : Keeps s0 t := by
  refine Cmd.run_keeps h (fun s h => ?_) e
  extract_lets v1 v2 v3 v4 v5 v6
  have h1 : Keeps s0 v1 := strikes_keeps h
  try clear_value v1
  have h3 : Keeps s0 v3 := State.count_keeps (scrubOne_keeps h1)
  try clear_value v3
  have h5 : Keeps s0 v5 := .upd h3 rfl
  try clear_value v5 v4
  try clear_value v6
  exact .ite h1 (.ite (State.bump_keeps (.upd h5 rfl)) h5)

theorem caskSleep_keeps {s0 s : State} (h : Keeps s0 s) :
    Keeps s0 (caskSleep s) := by
  unfold caskSleep
  extract_lets v1 v2
  have h1 : Keeps s0 v1 := caskSized_keeps (State.put_keeps h)
  try clear_value v1
  try clear_value v2
  exact .ite (.upd h1 rfl) h

theorem caskWake_keeps {s0 s : State} (h : Keeps s0 s) :
    Keeps s0 (caskWake s) := by
  unfold caskWake
  extract_lets v1
  try clear_value v1
  exact .upd h rfl

end Sys2Proof.Machine
end

