-- ==== Sys2Proof/Laws/KeepsMgp.lean ====
section
/-!
SUPPORT. What the operations of Machine/Mgp.lean keep.
-/
namespace Sys2Proof.Machine

theorem fltPopOp_keeps {s0 s : State} {c3First : Bool} (h : Keeps s0 s) : Keeps s0 (fltPopOp s c3First).2 := by
  unfold fltPopOp
  split
  · exact State.unmark_keeps h
  · extract_lets f1 s1 s2
    have h1 : Keeps s0 s1 :=
      ⟨h.pending, h.fuses, h.mem, h.regs, h.shadow, h.flash, fun q => queueOk_filter _ (h.queue q)⟩
    clear_value s1
    have h2 : Keeps s0 s2 := .foldlT h1 (fun _ _ h => State.setReg_keeps h)
    exact State.mark_keeps h2

theorem trigFltPop_keeps {s0 s : State} {v : Word} (h : Keeps s0 s) :
    Keeps s0 (trigFltPop s v) := by
  unfold trigFltPop
  extract_lets v1
  have h1 : Keeps s0 v1 := State.put_keeps h
  exact .ite (fltPopOp_keeps h1) h1

theorem mbAppend_keeps {s0 s : State} {m : List Word} (h : Keeps s0 s) :
    Keeps s0 (mbAppend s m) := by
  unfold mbAppend
  extract_lets v1
  exact .ite h (.ite (.upd h rfl) (.ite (State.bump_keeps h) (.upd h rfl)))

theorem mbRefill_keeps {s0 s : State} (h : Keeps s0 s) :
    Keeps s0 (mbRefill s) := by
  unfold mbRefill
  extract_lets v1 v2
  exact .upd h rfl

theorem trigMbPop_keeps {s0 s : State} {v : Word} (h : Keeps s0 s) :
    Keeps s0 (trigMbPop s v) := by
  unfold trigMbPop
  extract_lets v1
  exact .ite (mbRefill_keeps (.upd h rfl)) h

theorem execMgpDrainPop_keeps {s0 s : State} (h : Keeps s0 s) {t : State}
    (e : execMgpDrainPop s = .next t) : Keeps s0 t := by
  refine Cmd.run_keeps h (fun s h => ?_) e
  refine Keeps.ite ?_ ?_
  · exact h
  · split
    · rename_i s1 q1
      have h1 : Keeps s0 s1 := .ofPair q1 (fltPopOp_keeps h)
      exact h
    · rename_i _ s2 q2
      have h2 : Keeps s0 s2 := .ofPair q2 (fltPopOp_keeps h)
      extract_lets v3 v4
      have h3 : Keeps s0 v3 := mbAppend_keeps h2
      try clear_value v3
      exact .upd h3 rfl

theorem trigMbGo_keeps {s0 s : State} {v : Word} (h : Keeps s0 s) :
    Keeps s0 (trigMbGo s v) :=
  .ite (State.mark_keeps h) (.ite h (.ite (State.mark_keeps h) (State.mark_keeps (State.mark_keeps h))))

theorem trigMbIn_keeps {s0 s : State} {a : Nat} {v : Word} (h : Keeps s0 s) :
    Keeps s0 (trigMbIn s a v) :=
  .ite (State.mark_keeps h) (State.setReg_keeps h)

theorem mbReply_keeps {s0 s : State} {status : Nat} {data : List Word} (h : Keeps s0 s) :
    Keeps s0 (mbReply s status data) := by
  unfold mbReply
  extract_lets v1 v2
  have h2 : Keeps s0 v2 := State.unmark_keeps (State.unmark_keeps h)
  exact mbAppend_keeps h2

theorem mbTake_keeps {s0 s : State} {ty : Nat → Bool} {f : Nat → State → State} (h : Keeps s0 s)
    (hf : ∀ x0 s, Keeps s0 s → Keeps s0 (f x0 s)) :
    Keeps s0 (mbTake ty f s) :=
  .ite (hf _ _ h) h

theorem execMbIdentify_keeps {s0 s : State} (h : Keeps s0 s) {t : State}
    (e : execMbIdentify s = .next t) : Keeps s0 t :=
  Cmd.run_keeps h (fun _ h => mbTake_keeps h (fun _ s h => .ite (mbReply_keeps h) (mbReply_keeps h))) e

theorem execMbSetClockAttr_keeps {s0 s : State} (h : Keeps s0 s) {t : State}
    (e : execMbSetClockAttr s = .next t) : Keeps s0 t := by
  refine Cmd.run_keeps h (fun s h => ?_) e
  refine mbTake_keeps h (fun _ s h => ?_)
  extract_lets v1 v2 v3
  have h3 : Keeps s0 v3 := .upd h rfl
  exact .ite (mbReply_keeps h3) (mbReply_keeps h)

theorem execMbReadClockState_keeps {s0 s : State} {gm : BitVec 64} {steps : BitVec 16} {cls : Byte} {prio : Byte}
    (h : Keeps s0 s) {t : State}
    (e : execMbReadClockState gm steps cls prio s = .next t) : Keeps s0 t :=
  Cmd.run_keeps h (fun _ h => mbTake_keeps h (fun _ s h => .ite (mbReply_keeps h) (mbReply_keeps h))) e

theorem execMbUnknownType_keeps {s0 s : State} (h : Keeps s0 s) {t : State}
    (e : execMbUnknownType s = .next t) : Keeps s0 t :=
  Cmd.run_keeps h (fun _ h => mbTake_keeps h (fun _ s h => mbReply_keeps h)) e

theorem mbPtpReport_keeps {s0 s : State} {d : Nat} {ports : Word} {parent : BitVec 64} {pp : BitVec 16} (h : Keeps s0 s) :
    Keeps s0 (mbPtpReport s d ports parent pp) :=
  mbAppend_keeps h

theorem mbEeeReport_keeps {s0 s : State} {p : Nat} {tw : Nat} (h : Keeps s0 s) :
    Keeps s0 (mbEeeReport s p tw) :=
  mbAppend_keeps h

theorem mbLockReport_keeps {s0 s : State} {refused : Bool} {target : Nat} {addr : Nat} (h : Keeps s0 s) :
    Keeps s0 (mbLockReport s refused target addr) :=
  mbAppend_keeps h

theorem mgpStart_keeps {s0 s : State} (h : Keeps s0 s) :
    Keeps s0 (mgpStart s) := by
  unfold mgpStart
  extract_lets v1
  exact State.mark_keeps (.upd h rfl)

theorem mgpDropIn_keeps {s0 s : State} (h : Keeps s0 s) :
    Keeps s0 (mgpDropIn s) :=
  .ite (State.mark_keeps (State.unmark_keeps (State.unmark_keeps h))) h

theorem execMgpWdogExpiry_keeps {s0 s : State} (h : Keeps s0 s) {t : State}
    (e : execMgpWdogExpiry s = .next t) : Keeps s0 t := by
  refine Cmd.run_keeps h (fun s h => ?_) e
  extract_lets v1 v2 v3 v4 v5
  have h3 : Keeps s0 v3 := mgpDropIn_keeps (.upd h rfl)
  try clear_value v3
  have h5 : Keeps s0 v5 := .upd h3 rfl
  exact .ite h (.ite (State.raise_keeps (State.unmark_keeps h5)) (State.raise_keeps (State.bump_keeps (mgpStart_keeps h3))))

theorem trigMgpRestart_keeps {s0 s : State} {v : Word} (h : Keeps s0 s) :
    Keeps s0 (trigMgpRestart s v) := by
  unfold trigMgpRestart
  extract_lets v1
  exact .ite (mgpStart_keeps (.upd h rfl)) h

theorem trigWdog_keeps {s0 s : State} {v : Word} (h : Keeps s0 s) :
    Keeps s0 (trigWdog s v) := by
  unfold trigWdog
  extract_lets v1 v2 v3
  have h2 : Keeps s0 v2 := State.setReg_keeps h
  try clear_value v2
  exact .upd h2 rfl

theorem trigKick_keeps {s0 s : State} {v : Word} (h : Keeps s0 s) :
    Keeps s0 (trigKick s v) := by
  unfold trigKick
  extract_lets v1
  exact .ite (.upd h rfl) h

theorem staleFaults_keeps {s0 s : State} (h : Keeps s0 s) : Keeps s0 (staleFaults s) :=
  ⟨h.pending, h.fuses, h.mem, h.regs, h.shadow, h.flash, fun q => queueOk_map _ (fun r => by
    constructor
    · split <;> rfl
    · intro k; split
      · exact k
      · exact k) (h.queue q)⟩

end Sys2Proof.Machine
end

