-- ==== Sys2Proof/Laws/KeepsFabric.lean ====
section
/-!
SUPPORT. What the operations of Machine/Fabric.lean keep.
-/
namespace Sys2Proof.Machine

theorem decodeError_keeps {s0 s : State} {master : Nat} {write : Bool} {a : Nat} (h : Keeps s0 s) :
    Keeps s0 (decodeError s master write a) := by
  unfold decodeError
  extract_lets v1 v2 v3
  have h2 : Keeps s0 v2 := State.put_keeps (State.put_keeps h)
  have h3 : Keeps s0 v3 := .ite (State.setReg_keeps (State.setReg_keeps (State.mark_keeps h2))) h
  exact State.raise_keeps (State.count_keeps (State.bumpSat_keeps h3))

theorem beatRead_keeps {s0 s : State} {act : Nat} {t : Nat} {a : Nat} {n : Nat} (h : Keeps s0 s) :
    Keeps s0 (beatRead s act t a n).2 := by
  unfold beatRead
  refine Keeps.iteVia (π := Prod.snd) ?_ ?_
  · split
    · rename_i s1 q1
      have h1 : Keeps s0 s1 := caskGranule_keeps h q1
      exact h1
    · exact h
  · exact State.touch_keeps h

theorem beatWrite_keeps {s0 s : State} {t : Nat} {a : Nat} {bs : List (Option Byte)} {act : Nat} (h : Keeps s0 s) :
    Keeps s0 (beatWrite s t a bs act) := by
  unfold beatWrite
  extract_lets v1 v2
  refine Keeps.ite ?_ ?_
  · split
    · exact State.raise_keeps h
    · exact caskPut_keeps h
  · exact .ite (State.raise_keeps h) (.foldlT h (fun _ _ h => State.memWrite_keeps h))

theorem beatCount_keeps {s0 s : State} {act : Nat} {t : Nat} {bytes : Nat} (h : Keeps s0 s) :
    Keeps s0 (beatCount s act t bytes) := by
  unfold beatCount
  extract_lets v1
  have h1 : Keeps s0 v1 := .ite (State.put_keeps h) h
  exact .ite (State.bwAdd_keeps (State.count_keeps (State.count_keeps h1))) h1

theorem noTarget_keeps {s0 s : State} {act : Nat} {write : Bool} {a : Nat} (h : Keeps s0 s) :
    Keeps s0 (noTarget s act write a) :=
  .ite h (decodeError_keeps h)

theorem beatDo_keeps {s0 s : State} {act : Nat} {b : Beat} (h : Keeps s0 s) :
    Keeps s0 (beatDo s act b).2 := by
  unfold beatDo
  split
  · exact noTarget_keeps h
  · exact noTarget_keeps h
  · exact beatRead_keeps (beatCount_keeps h)
  · exact beatWrite_keeps (beatCount_keeps h)

theorem beatRun_keeps {s0 s : State} {act : Nat} {b : Beat} (h : Keeps s0 s) :
    Keeps s0 (beatRun s act b).2 := by
  unfold beatRun
  split
  · exact beatDo_keeps h
  · exact beatDo_keeps (State.svCharge_keeps h)

theorem beatStalled_keeps {s0 s : State} {act : Nat} {b : Beat} (h : Keeps s0 s) :
    Keeps s0 (beatStalled s act b) := by
  unfold beatStalled
  split
  · exact .ite (State.mark_keeps h) h
  · exact h

theorem beatsRun_keeps {s0 s : State} {act : Nat} {l : List Beat} (h : Keeps s0 s) : Keeps s0 (beatsRun s act l).2.2 := by
  induction l generalizing s with
  | nil => exact h
  | cons b t ih =>
    unfold beatsRun
    split
    · exact ih (beatRun_keeps h)
    · exact beatStalled_keeps h

theorem beatOut_keeps {s0 s : State} {b : Beat} {bs : List Byte} (h : Keeps s0 s) :
    Keeps s0 (beatOut s b bs) :=
  State.emit_keeps h

theorem beatTurn_keeps {s0 s : State} {act : Nat} {b : Beat} (h : Keeps s0 s) :
    Keeps s0 (beatTurn s act b) := by
  unfold beatTurn
  refine Keeps.ite ?_ ?_
  · split
    · rename_i _ s1 q1
      have h1 : Keeps s0 s1 := .ofPair q1 (beatRun_keeps h)
      exact beatOut_keeps h1
  · exact beatStalled_keeps h

theorem execRapidTransaction_keeps {s0 s : State} {act : Fin 41} {beat : Beat} {struck : List (Nat × Bool)}
    (h : Keeps s0 s) {t : State}
    (e : execRapidTransaction act beat struck s = .next t) : Keeps s0 t :=
  Cmd.run_keeps h (fun _ h => .foldlT (State.powerWork_keeps (strikes_keeps h)) (fun _ _ h => beatTurn_keeps h)) e

theorem lockGrant_keeps {s0 s : State} {t : Nat} (h : Keeps s0 s) :
    Keeps s0 (lockGrant s t) := by
  unfold lockGrant
  extract_lets v1 v2
  try clear_value v2
  exact .upd h rfl

theorem seqServe_keeps {s0 s : State} {act : Nat} {bs : List Beat} (h : Keeps s0 s) :
    Keeps s0 (seqServe s act bs).2 := by
  unfold seqServe
  refine Keeps.foldlPairT h (fun s i h => ?_)
  split
  · rename_i _ s1 q1
    have h1 : Keeps s0 s1 := .ofPair q1 (beatRun_keeps h)
    exact h1

theorem lockRefuse_keeps {s0 s : State} {mgp : Bool} {bs : List Beat} (h : Keeps s0 s) :
    Keeps s0 (lockRefuse s mgp bs) := by
  unfold lockRefuse
  extract_lets v1 v2 v3
  have h2 : Keeps s0 v2 := State.raise_keeps (State.mark_keeps (State.put_keeps h))
  exact .ite (mbLockReport_keeps h2) h2

theorem lockBroken_keeps {s0 s : State} {mgp : Bool} {t : Nat} {a : Nat} {n : Nat} (h : Keeps s0 s) :
    Keeps s0 (lockBroken s mgp t a n) := by
  unfold lockBroken
  extract_lets v1 v2 v3
  have h2 : Keeps s0 v2 := State.mark_keeps (State.put_keeps (State.put_keeps h))
  try clear_value v2
  have h3 : Keeps s0 v3 := State.raise_keeps (State.bump_keeps h2)
  try clear_value v3
  exact .ite (mbLockReport_keeps (.foldlT h3 (fun _ _ h => State.emit_keeps h))) (State.emit_keeps (State.raise_keeps (State.mark_keeps h3)))

theorem issueOrWait_keeps {s0 s : State} {act : Nat} {b : Beat} (h : Keeps s0 s) :
    Keeps s0 (issueOrWait s act b) := by
  unfold issueOrWait
  extract_lets v1 v2
  have h1 : Keeps s0 v1 := State.powerWork_keeps h
  try clear_value v1
  try clear_value v2
  refine Keeps.ite ?_ ?_
  · exact State.emit_keeps h1
  · refine Keeps.ite ?_ ?_
    · split
      · rename_i _ s3 q3
        have h3 : Keeps s0 s3 := .ofPair q3 (beatRun_keeps h1)
        exact beatOut_keeps h3
    · exact beatStalled_keeps (.upd h1 rfl)

theorem seqPresent_keeps {s0 s : State} {mgp : Bool} {bs : List Beat} {cut : Option Nat} (h : Keeps s0 s) {t : State}
    (e : seqPresent s mgp bs cut = some t) : Keeps s0 t := by
  unfold seqPresent at e
  extract_lets act at e
  split at e
  · cases e
    exact .foldlT (lockRefuse_keeps h) (fun _ _ h => issueOrWait_keeps h)
  split at e
  · cases e
  extract_lets s1 at e
  have h1 : Keeps s0 s1 := lockGrant_keeps h
  clear_value s1
  split at e
  · have h2 : Keeps s0 (seqServe s1 act bs).2 := seqServe_keeps h1
    generalize seqServe s1 act bs = r at e h2
    obtain ⟨ds, s2⟩ := r
    cases e
    exact .foldlT h2 (fun _ _ h => beatOut_keeps h)
  · rename_i n
    have h2 : Keeps s0 (seqServe s1 act (bs.take n)).2 := seqServe_keeps h1
    generalize seqServe s1 act (bs.take n) = r at e h2
    obtain ⟨ds, s2⟩ := r
    cases e
    exact lockBroken_keeps (State.svCharge_keeps h2)

theorem waitFor_keeps {s0 s : State} {w : Wait} (h : Keeps s0 s) :
    Keeps s0 (waitFor s w) := by
  unfold waitFor
  extract_lets v1
  try clear_value v1
  exact .upd h rfl

theorem seqGo_keeps {s0 s : State} {mgp : Bool} {bs : List Beat} {cut : Option Nat} (h : Keeps s0 s) :
    Keeps s0 (seqGo s mgp bs cut) := by
  unfold seqGo
  extract_lets v1
  have h1 : Keeps s0 v1 := State.powerWork_keeps h
  try clear_value v1
  split
  · rename_i s2 q2
    have h2 : Keeps s0 s2 := seqPresent_keeps h1 q2
    exact h2
  · exact waitFor_keeps h1

theorem execLockedSequence_keeps {s0 s : State} {mgp : Bool} {beats : List Beat} (h : Keeps s0 s) {t : State}
    (e : execLockedSequence mgp beats s = .next t) : Keeps s0 t :=
  Cmd.run_keeps h (fun _ h => seqGo_keeps h) e

theorem execLockBreak_keeps {s0 s : State} {mgp : Bool} {granted : Nat} {beats : List Beat} (h : Keeps s0 s) {t : State}
    (e : execLockBreak mgp granted beats s = .next t) : Keeps s0 t :=
  Cmd.run_keeps h (fun _ h => seqGo_keeps h) e

theorem execBar2Read_keeps {s0 s : State} {w : BitVec 24} {len : Nat} (h : Keeps s0 s) {t : State}
    (e : execBar2Read w len s = .next t) : Keeps s0 t :=
  Cmd.run_keeps h (fun _ h => .ite h (.foldlT h (fun _ _ h => issueOrWait_keeps h))) e

theorem execBar2Write_keeps {s0 s : State} {w : BitVec 24} {bytes : List (Option Byte)} (h : Keeps s0 s) {t : State}
    (e : execBar2Write w bytes s = .next t) : Keeps s0 t := by
  refine Cmd.run_keeps h (fun s h => ?_) e
  extract_lets v1
  exact .ite h (.foldlT h (fun _ _ h => issueOrWait_keeps h))

theorem atomicServe_keeps {s0 s : State} {a : Nat} {wide : Bool} {op : Atomic} (h : Keeps s0 s) :
    Keeps s0 (atomicServe s a wide op) := by
  unfold atomicServe
  extract_lets v1
  split
  · rename_i _ s2 q2
    have h2 : Keeps s0 s2 := .ofPair q2 (seqServe_keeps h)
    extract_lets v3 v4 v5
    exact State.emit_keeps (seqServe_keeps h2)

theorem atomicDo_keeps {s0 s : State} {a : Nat} {wide : Bool} {op : Atomic} {broken : Bool} (h : Keeps s0 s) {t : State}
    (e : atomicDo s a wide op broken = some t) : Keeps s0 t := by
  unfold atomicDo at e
  extract_lets rd all at e
  split at e
  · cases e; exact State.emit_keeps h
  split at e
  · cases e
  split at e
  · cases e; exact atomicServe_keeps (lockRefuse_keeps h)
  extract_lets s1 s2 at e
  have h1 : Keeps s0 s1 := lockGrant_keeps h
  have h2 : Keeps s0 s2 := seqServe_keeps h1
  split at e
  · cases e; exact lockBroken_keeps (State.svCharge_keeps h2)
  · cases e; exact atomicServe_keeps h1

theorem atomicGo_keeps {s0 s : State} {a : Nat} {wide : Bool} {op : Atomic} {broken : Bool} (h : Keeps s0 s) :
    Keeps s0 (atomicGo s a wide op broken) := by
  unfold atomicGo
  extract_lets v1
  have h1 : Keeps s0 v1 := State.powerWork_keeps h
  try clear_value v1
  split
  · rename_i s2 q2
    have h2 : Keeps s0 s2 := atomicDo_keeps h1 q2
    exact h2
  · exact waitFor_keeps h1

theorem atomicCmd_keeps {s0 s : State} {w : BitVec 24} {wide : Bool} {broken : Bool} {op : Atomic} (h : Keeps s0 s) {t : State}
    (e : atomicCmd w wide broken op s = .next t) : Keeps s0 t :=
  Cmd.run_keeps h (fun _ h => .ite h (atomicGo_keeps h)) e

theorem execAtomicFetchadd_keeps {s0 s : State} {w : BitVec 24} {wide : Bool} {broken : Bool} {v : BitVec 64}
    (h : Keeps s0 s) {t : State}
    (e : execAtomicFetchadd w wide broken v s = .next t) : Keeps s0 t :=
  atomicCmd_keeps h e

theorem execAtomicSwap_keeps {s0 s : State} {w : BitVec 24} {wide : Bool} {broken : Bool} {v : BitVec 64}
    (h : Keeps s0 s) {t : State}
    (e : execAtomicSwap w wide broken v s = .next t) : Keeps s0 t :=
  atomicCmd_keeps h e

theorem execAtomicCas_keeps {s0 s : State} {w : BitVec 24} {wide : Bool} {broken : Bool} {cmp : BitVec 64}
    {v : BitVec 64} (h : Keeps s0 s) {t : State}
    (e : execAtomicCas w wide broken cmp v s = .next t) : Keeps s0 t :=
  atomicCmd_keeps h e

theorem waitRetry_keeps {s0 s : State} {w : Wait} (h : Keeps s0 s) :
    Keeps s0 (waitRetry s w) := by
  unfold waitRetry
  split
  · exact issueOrWait_keeps h
  · exact atomicGo_keeps h
  · exact seqGo_keeps h

theorem waitDrain_keeps {s0 s : State} (h : Keeps s0 s) :
    Keeps s0 (waitDrain s) := by
  unfold waitDrain
  extract_lets v1
  try clear_value v1
  exact .foldlT (.upd h rfl) (fun _ _ h => waitRetry_keeps h)

end Sys2Proof.Machine
end

