-- ==== Sys2Proof/Laws/KeepsCoreIo.lean ====
section
/-!
SUPPORT. What the operations of Machine/CoreIo.lean keep.
-/
namespace Sys2Proof.Machine

theorem State.tunRead_keeps {s0 s : State} {a : Nat} (h : Keeps s0 s) :
    Keeps s0 (State.tunRead s a).2 :=
  State.touch_keeps h

theorem putHeader_keeps {s0 s : State} {c : Nat} {p : Nat} {param : Nat} {first : Nat} {taken : Nat} {swaps : Nat}
    (h : Keeps s0 s) :
    Keeps s0 (putHeader s c p param first taken swaps) :=
  State.memWrite_keeps h

theorem swapSettle_keeps {s0 s : State} {c : Fin 16} {p : Nat} (h : Keeps s0 s) :
    Keeps s0 (swapSettle s c p) := by
  unfold swapSettle
  extract_lets v1 v2
  have h2 : Keeps s0 v2 := State.setIo_keeps h
  exact .ite (State.setIo_keeps h) (.ite (State.setIo_keeps h) (.ite h2 (State.raise_keeps (State.mark_keeps h2))))

theorem headerWrite_keeps {s0 s : State} {c : Fin 16} {p : Nat} (h : Keeps s0 s) :
    Keeps s0 (headerWrite s c p) := by
  unfold headerWrite
  extract_lets v1 v2
  have h1 : Keeps s0 v1 := swapSettle_keeps h
  exact putHeader_keeps h1

theorem execHeaderWrite_keeps {s0 s : State} {c : Fin 16} (h : Keeps s0 s) {t : State}
    (e : execHeaderWrite c s = .next t) : Keeps s0 t :=
  Cmd.run_keeps h (fun _ h => .ite (headerWrite_keeps h) h) e

theorem headersMissing_keeps {s0 s : State} {p : Nat} (h : Keeps s0 s) :
    Keeps s0 (headersMissing s p) :=
  .foldlT h (fun _ _ h => .ite h (.ite (headerWrite_keeps h) (swapSettle_keeps h)))

theorem trigPwin_keeps {s0 s : State} {c : Fin 16} {o : Nat} {v : Word} {boot : Bool} (h : Keeps s0 s) :
    Keeps s0 (trigPwin s c o v boot) := by
  unfold trigPwin
  extract_lets v1 v2 v3 v4
  have h1 : Keeps s0 v1 := State.memWriteWord_keeps h
  have h4 : Keeps s0 v4 := State.setIo_keeps h1
  exact .ite h (.ite (State.memWriteWord_keeps h1) (State.put_keeps h4))

theorem paramSwap_keeps {s0 s : State} {c : Fin 16} (h : Keeps s0 s) :
    Keeps s0 (paramSwap s c) := by
  unfold paramSwap
  extract_lets v1 v2 v3
  have h2 : Keeps s0 v2 := State.bump_keeps (State.put_keeps h)
  have h3 : Keeps s0 v3 := State.setIo_keeps h2
  exact State.put_keeps h3

theorem execParamCopyDone_keeps {s0 s : State} {c : Fin 16} (h : Keeps s0 s) {t : State}
    (e : execParamCopyDone c s = .next t) : Keeps s0 t := by
  refine Cmd.run_keeps h (fun s h => ?_) e
  extract_lets v1 v2 v4
  have h2 : Keeps s0 v2 := by
    unfold v2
    refine Keeps.foldlT h (fun s i h => ?_)
    split
    · rename_i _ s3 q3
      have h3 : Keeps s0 s3 := .ofPair q3 (State.tunRead_keeps h)
      exact State.memWriteWord_keeps h3
  exact State.unmark_keeps (State.setIo_keeps h2)

theorem sendsWrite_keeps {s0 s : State} {c : Nat} {p : Nat} {sends : Nat → List Int} (h : Keeps s0 s) :
    Keeps s0 (sendsWrite s c p sends) := by
  unfold sendsWrite
  extract_lets v1 v2 v3 v4
  have h4 : Keeps s0 v4 := State.svRt_keeps h
  try clear_value v4
  exact .foldlT h4 (fun _ _ h => State.memWrite_keeps h)

theorem returnsRead_keeps {s0 s : State} {c : Nat} {p : Nat} (h : Keeps s0 s) :
    Keeps s0 (returnsRead s c p).2 := by
  unfold returnsRead
  extract_lets v1 v2 v3 v4
  exact State.touch_keeps (State.svRt_keeps h)

theorem haltFade_keeps {s0 s : State} {c : Fin 16} (h : Keeps s0 s) :
    Keeps s0 (haltFade s c) := by
  unfold haltFade
  extract_lets v1
  split
  · exact State.setIo_keeps h
  · exact State.setIo_keeps h
  · exact State.setIo_keeps h
  · exact State.unmark_keeps (State.setIo_keeps h)
  · exact h

theorem takeReturns_keeps {s0 s : State} {c : Fin 16} {p : Nat} (h : Keeps s0 s) :
    Keeps s0 (takeReturns s c p) := by
  unfold takeReturns
  extract_lets v1 v2
  have h2 : Keeps s0 v2 := State.unmark_keeps h
  try clear_value v2
  refine Keeps.ite ?_ ?_
  · exact .ite (State.raise_keeps (State.bump_keeps h2)) h2
  · split
    · rename_i _ s3 q3
      have h3 : Keeps s0 s3 := .ofPair q3 (State.tunRead_keeps (haltFade_keeps h))
      extract_lets v4 v5
      have h5 : Keeps s0 v5 := State.unmark_keeps (State.setIo_keeps h3)
      try clear_value v5
      refine Keeps.ite ?_ ?_
      · split
        · rename_i _ s6 q6
          have h6 : Keeps s0 s6 := .ofPair q6 (returnsRead_keeps h3)
          extract_lets v7 v8 v9
          have h9 : Keeps s0 v9 := State.setIo_keeps h6
          exact State.put_keeps (State.mark_keeps h9)
      · exact .ite h5 (State.raise_keeps (State.bump_keeps h5))

theorem fadesNext_keeps {s0 s : State} (h : Keeps s0 s) :
    Keeps s0 (fadesNext s) := by
  unfold fadesNext
  refine Keeps.foldlT h (fun s i h => ?_)
  extract_lets v1 v2
  exact .ite h (State.put_keeps (State.setIo_keeps h))

theorem coreBegin_keeps {s0 s : State} {c : Fin 16} {fade : RetFade} (h : Keeps s0 s) :
    Keeps s0 (coreBegin s c fade) := by
  unfold coreBegin
  extract_lets v1 v2 v3 v4 v5 v6 v7 v8
  have h5 : Keeps s0 v5 := State.setCore_keeps h
  have h7 : Keeps s0 v7 := State.setIo_keeps h5
  have h8 : Keeps s0 v8 := State.unmark_keeps (State.unmark_keeps h7)
  exact putHeader_keeps h8

theorem coresStart_keeps {s0 s : State} (h : Keeps s0 s) :
    Keeps s0 (coresStart s) :=
  .foldlT h (fun _ _ h => .ite (.ite (coreBegin_keeps h) (State.raise_keeps h)) h)

theorem coresStop_keeps {s0 s : State} (h : Keeps s0 s) :
    Keeps s0 (coresStop s) := by
  unfold coresStop
  refine Keeps.foldlT h (fun s i h => ?_)
  extract_lets v1
  exact State.setCore_keeps h

theorem overrun_keeps {s0 s : State} {c : Fin 16} (h : Keeps s0 s) :
    Keeps s0 (overrun s c) := by
  unfold overrun
  extract_lets v1 v2 v3 v4 v5
  have h3 : Keeps s0 v3 := State.raise_keeps (State.mark_keeps (State.setCore_keeps h))
  try clear_value v3
  have h5 : Keeps s0 v5 := State.setIo_keeps h3
  try clear_value v5
  split
  · exact .ite (coreStop_keeps h5) h5
  · exact h5

theorem bell_keeps {s0 s : State} {c : Fin 16} (h : Keeps s0 s) :
    Keeps s0 (bell s c) := by
  unfold bell
  extract_lets v1 v2 v3 v4
  have h1 : Keeps s0 v1 := ageTo_keeps h
  have h3 : Keeps s0 v3 := State.setCore_keeps h1
  exact .ite h (.ite (overrun_keeps h3) (State.setCore_keeps h3))

theorem bells_keeps {s0 s : State} (h : Keeps s0 s) :
    Keeps s0 (bells s) := by
  unfold bells
  refine Keeps.foldlT h (fun s i h => ?_)
  extract_lets v1
  exact bell_keeps (State.setIo_keeps h)

theorem headersNext_keeps {s0 s : State} (h : Keeps s0 s) :
    Keeps s0 (headersNext s) := by
  unfold headersNext
  refine Keeps.foldlT h (fun s i h => ?_)
  extract_lets v1
  exact State.setIo_keeps h

theorem trigCoreRun_keeps {s0 s : State} {c : Fin 16} {v : Word} (h : Keeps s0 s) :
    Keeps s0 (trigCoreRun s c v) := by
  unfold trigCoreRun
  extract_lets v1
  exact .ite (State.mark_keeps (.upd h rfl)) h

theorem coreRestart_keeps {s0 s : State} {c : Fin 16} (h : Keeps s0 s) :
    Keeps s0 (coreRestart s c) := by
  unfold coreRestart
  extract_lets v1
  have h1 : Keeps s0 v1 := State.unmark_keeps h
  exact .ite (coreBegin_keeps h1) h1

theorem descWords_keeps {s0 s : State} {a : Nat} (h : Keeps s0 s) :
    Keeps s0 (descWords s a).2 :=
  State.touch_keeps h

theorem descEnd_keeps {s0 s : State} {a : Nat} {w3 : Nat} (h : Keeps s0 s) :
    Keeps s0 (descEnd s a w3) := by
  unfold descEnd
  split
  · rename_i _ s1 q1
    have h1 : Keeps s0 s1 := .ofPair q1 (State.tunRead_keeps h)
    exact State.memWriteWord_keeps (State.memWriteWord_keeps h1)

theorem dmaRefuse_keeps {s0 s : State} {c : Nat} {x : DmaX} (h : Keeps s0 s) :
    Keeps s0 (dmaRefuse s c x) :=
  State.raise_keeps (State.mark_keeps (descEnd_keeps h))

theorem rtTake_keeps {s0 s : State} {c : Fin 16} {n : Nat} (h : Keeps s0 s) : Keeps s0 (rtTake c n s) := by
  induction n generalizing s with
  | zero => exact h
  | succ n ih =>
    unfold rtTake
    extract_lets io a
    have h1 : Keeps s0 (descWords s a).2 := descWords_keeps h
    split
    rename_i w s1 q
    have h2 : Keeps s0 s1 := .ofPair q h1
    clear q h1
    split
    · exact h2
    · exact ih (.ite (dmaRefuse_keeps (State.bump_keeps (State.setIo_keeps h2)))
        (State.setIo_keeps (State.svRt_keeps (State.svRt_keeps (State.bump_keeps (State.setIo_keeps h2))))))

theorem dmaLate_keeps {s0 s : State} {c : Fin 16} (h : Keeps s0 s) :
    Keeps s0 (dmaLate s c) := by
  unfold dmaLate
  extract_lets v1 v2
  exact .foldlT (State.setIo_keeps h) (fun _ _ h => State.raise_keeps (State.mark_keeps h))

theorem dmaBoundary_keeps {s0 s : State} {c : Fin 16} (h : Keeps s0 s) :
    Keeps s0 (dmaBoundary s c) := by
  unfold dmaBoundary
  extract_lets v1
  have h1 : Keeps s0 v1 := dmaLate_keeps h
  exact .ite (State.put_keeps h1) (rtTake_keeps (State.put_keeps h1))

theorem dmaFund_keeps {s0 s : State} {c : Fin 16} (h : Keeps s0 s) :
    Keeps s0 (dmaFund s c) := by
  unfold dmaFund
  extract_lets v1 v2
  have h2 : Keeps s0 v2 := State.powerWork_keeps h
  try clear_value v2
  split
  · exact h
  · extract_lets v3 v4 v5 v6 v7 v8
    have h6 : Keeps s0 v6 := .ite h2 (State.svBe_keeps (State.svBe_keeps h2))
    have h7 : Keeps s0 v7 := .ite (State.mark_keeps h6) h6
    exact State.setIo_keeps h7

theorem execBeDmaStart_keeps {s0 s : State} {c : Fin 16} (h : Keeps s0 s) {t : State}
    (e : execBeDmaStart c s = .next t) : Keeps s0 t := by
  refine Cmd.run_keeps h (fun s h => ?_) e
  extract_lets v1 v2
  refine Keeps.ite ?_ ?_
  · exact h
  · split
    · rename_i _ s3 q3
      have h3 : Keeps s0 s3 := .ofPair q3 (descWords_keeps h)
      extract_lets v4 v5 v6 v7
      have h6 : Keeps s0 v6 := State.setIo_keeps h3
      exact .ite h3 (.ite (dmaRefuse_keeps h6) (dmaFund_keeps (State.setIo_keeps h6)))

theorem dmaMove_keeps {s0 s : State} {c : Nat} {act : Nat} {x : DmaX} (h : Keeps s0 s) :
    Keeps s0 (dmaMove s c act x) := by
  unfold dmaMove
  extract_lets v1 v2 v3
  refine Keeps.ite ?_ ?_
  · exact .foldlT (State.touch_keeps h) (fun _ _ h => beatDo_keeps h)
  · split
    · rename_i _ s4 q4
      have h4 : Keeps s0 s4 := .ofPair q4 (by
        refine Keeps.foldlPairT h (fun s i h => ?_)
        split
        · rename_i _ s5 q5
          have h5 : Keeps s0 s5 := .ofPair q5 (beatDo_keeps h)
          exact h5)
      exact State.memWrite_keeps h4

theorem execDmaTransferDone_keeps {s0 s : State} {c : Fin 16} {rt : Bool} (h : Keeps s0 s) {t : State}
    (e : execDmaTransferDone c rt s = .next t) : Keeps s0 t := by
  refine Cmd.run_keeps h (fun s h => ?_) e
  extract_lets v1
  have h1 : Keeps s0 v1 := dmaFund_keeps h
  try clear_value v1
  refine Keeps.ite ?_ ?_
  · split
    · exact h
    · extract_lets v2 v3 v4
      have h2 : Keeps s0 v2 := dmaMove_keeps h
      have h4 : Keeps s0 v4 := State.setIo_keeps h2
      exact descEnd_keeps h4
  · split
    · exact h1
    · extract_lets v5 v6 v7 v8
      have h5 : Keeps s0 v5 := dmaMove_keeps h1
      have h7 : Keeps s0 v7 := descEnd_keeps (State.setIo_keeps h5)
      exact .ite h1 (.ite (State.bump_keeps (State.setCore_keeps h7)) h7)

theorem trigMboxIn_keeps {s0 s : State} {c : Fin 16} {i : Nat} {v : Word} (h : Keeps s0 s) :
    Keeps s0 (trigMboxIn s c i v) := by
  unfold trigMboxIn
  extract_lets v1 v2 v3
  have h1 : Keeps s0 v1 := State.memWriteWord_keeps h
  have h2 : Keeps s0 v2 := .ite (State.mark_keeps h1) h1
  exact .ite (State.setCore_keeps (State.mark_keeps h2)) h2

theorem execMboxInAck_keeps {s0 s : State} {c : Fin 16} (h : Keeps s0 s) {t : State}
    (e : execMboxInAck c s = .next t) : Keeps s0 t := by
  refine Cmd.run_keeps h (fun s h => ?_) e
  refine Keeps.ite ?_ ?_
  · exact h
  · split
    · rename_i _ s1 q1
      have h1 : Keeps s0 s1 := .ofPair q1 (State.tunRead_keeps h)
      exact .ite (State.unmark_keeps h1) h1

theorem execMboxOutCopy_keeps {s0 s : State} {c : Fin 16} (h : Keeps s0 s) {t : State}
    (e : execMboxOutCopy c s = .next t) : Keeps s0 t := by
  refine Cmd.run_keeps h (fun s h => ?_) e
  extract_lets v1
  refine Keeps.ite ?_ ?_
  · exact h
  · split
    · rename_i _ s2 q2
      have h2 : Keeps s0 s2 := .ofPair q2 (State.tunRead_keeps h)
      extract_lets v3
      have h3 : Keeps s0 v3 := by
        unfold v3
        refine Keeps.foldlT h2 (fun s i h => ?_)
        split
        · rename_i _ s4 q4
          have h4 : Keeps s0 s4 := .ofPair q4 (State.tunRead_keeps h)
          exact State.setReg_keeps h4
      exact .ite h2 (State.mark_keeps (State.memWriteWord_keeps h3))

end Sys2Proof.Machine
end

