-- ==== Sys2Proof/Laws/KeepsRings.lean ====
section
/-!
SUPPORT. What the operations of Machine/Rings.lean keep.
-/
namespace Sys2Proof.Machine

theorem ethCount_keeps {s0 s : State} {p : Nat} {e : Nat} {n : Nat} (h : Keeps s0 s) :
    Keeps s0 (ethCount s p e n) :=
  State.count_keeps h

theorem State.setRing_keeps {s0 s : State} {q : Fin 4} {x : RingS} (h : Keeps s0 s) :
    Keeps s0 (State.setRing s q x) := by
  unfold State.setRing
  extract_lets v1
  try clear_value v1
  exact .upd h rfl

theorem lqAdvance_keeps {s0 s : State} {q : Fin 4} (h : Keeps s0 s) :
    Keeps s0 (lqAdvance s q) :=
  State.put_keeps h

theorem rxEnd_keeps {s0 s : State} {q : Fin 4} {up : Nat} (h : Keeps s0 s) :
    Keeps s0 (rxEnd s q up) := by
  unfold rxEnd
  extract_lets v1 v2 v3
  have h2 : Keeps s0 v2 := lqAdvance_keeps h
  exact State.setRing_keeps h2

theorem txEnd_keeps {s0 s : State} {q : Fin 4} (h : Keeps s0 s) :
    Keeps s0 (txEnd s q) := by
  unfold txEnd
  extract_lets v1 v2
  have h1 : Keeps s0 v1 := lqAdvance_keeps h
  exact State.setRing_keeps h1

theorem tagLoad_keeps {s0 s : State} {c : Fin 16} (h : Keeps s0 s) :
    Keeps s0 (tagLoad s c) := by
  unfold tagLoad
  extract_lets v1 v2
  exact State.setCore_keeps h

theorem recordGone_keeps {s0 s : State} {x1 : RingSink} (h : Keeps s0 s) :
    Keeps s0 (recordGone s x1) := by
  unfold recordGone
  extract_lets v1
  try clear_value v1
  split
  · exact h
  · exact .ite (tagLoad_keeps h) h
  · exact State.unmark_keeps (.upd h rfl)

theorem recordEnd_keeps {s0 s : State} {k : RingSink} {up : Nat} (h : Keeps s0 s) :
    Keeps s0 (recordEnd s k up) := by
  unfold recordEnd
  extract_lets v1 v2 v3 v4 v5
  have h3 : Keeps s0 v3 := recordGone_keeps (State.put_keeps h)
  try clear_value v3
  try clear_value v5 v4
  split
  · exact .upd h3 rfl
  · exact h3
  · exact State.mark_keeps (.upd h3 rfl)

theorem ringWorkEnd_keeps {s0 s : State} {x1 : RingEnd} (h : Keeps s0 s) :
    Keeps s0 (ringWorkEnd s x1) := by
  unfold ringWorkEnd
  split
  · exact rxEnd_keeps h
  · exact txEnd_keeps h
  · exact recordEnd_keeps h

theorem writeRun_keeps {s0 s : State} {act : Nat} {bs : List Beat} {fin : RingEnd} (h : Keeps s0 s) :
    Keeps s0 (writeRun s act bs fin).2 := by
  unfold writeRun
  split
  · rename_i _ _ s1 q1
    have h1 : Keeps s0 s1 := .ofPair22 q1 (beatsRun_keeps h)
    refine Keeps.iteVia (π := Prod.snd) ?_ ?_
    · exact ringWorkEnd_keeps h1
    · exact h1

theorem rxRun_keeps {s0 s : State} {w : RingWork} {q : Fin 4} {p : Nat} {b : List Byte} {w2 : Nat} {tail : List Byte}
    {up : Nat} (h : Keeps s0 s) :
    Keeps s0 (rxRun s w q p b w2 tail up).2 := by
  unfold rxRun
  extract_lets v1 v2 v3
  refine Keeps.iteVia (π := Prod.snd) ?_ ?_
  · exact ethCount_keeps (State.bump_keeps h)
  · split
    · rename_i _ _ s4 q4
      have h4 : Keeps s0 s4 := .ofPair22 q4 (beatsRun_keeps h)
      extract_lets v5 v6 v7
      refine Keeps.iteVia (π := Prod.snd) ?_ ?_
      · exact h4
      · exact writeRun_keeps h4

theorem recordRun_keeps {s0 s : State} {act : Nat} {k : RingSink} {bs : List Byte} {up : Nat} (h : Keeps s0 s) :
    Keeps s0 (recordRun s act k bs up).2 := by
  unfold recordRun
  extract_lets v1
  split
  · refine Keeps.iteVia (π := Prod.snd) ?_ ?_
    · exact recordGone_keeps (State.bump_keeps h)
    · exact writeRun_keeps h

theorem workRun_keeps {s0 s : State} {act : Nat} {w : RingWork} (h : Keeps s0 s) :
    Keeps s0 (workRun s act w).2 := by
  unfold workRun
  split
  · exact writeRun_keeps h
  · exact recordRun_keeps h
  · exact rxRun_keeps h
  · exact h
  · exact h

theorem State.setRingQ_keeps {s0 s : State} {act : Nat} {l : List RingWork} (h : Keeps s0 s) :
    Keeps s0 (State.setRingQ s act l) := by
  unfold State.setRingQ
  extract_lets v1
  try clear_value v1
  exact .ite (.upd h rfl) (.upd h rfl)

theorem ringWait_keeps {s0 s : State} {act : Nat} {w : Option RingWork} (h : Keeps s0 s) :
    Keeps s0 (ringWait s act w) :=
  State.setRingQ_keeps h

theorem workGo_keeps {s0 s : State} {act : Nat} {w : RingWork} (h : Keeps s0 s) :
    Keeps s0 (workGo s act w) := by
  unfold workGo
  extract_lets v1
  have h1 : Keeps s0 v1 := State.powerWork_keeps h
  try clear_value v1
  refine Keeps.ite ?_ ?_
  · split
    · rename_i _ s2 q2
      have h2 : Keeps s0 s2 := .ofPair q2 (workRun_keeps h1)
      exact ringWait_keeps h2
  · exact ringWait_keeps h1

theorem ringEnd_keeps {s0 s : State} {q : Fin 4} {err : Nat} (h : Keeps s0 s) :
    Keeps s0 (ringEnd s q err) :=
  workGo_keeps h

end Sys2Proof.Machine
end

