-- ==== Sys2Proof/Laws/KeepsEth.lean ====
section
/-!
SUPPORT. What the operations of Machine/Eth.lean keep.
-/
namespace Sys2Proof.Machine

theorem State.setEport_keeps {s0 s : State} {p : Fin 8} {x : EthPort} (h : Keeps s0 s) :
    Keeps s0 (State.setEport s p x) := by
  unfold State.setEport
  extract_lets v1
  try clear_value v1
  exact .upd h rfl

theorem ringCopy_keeps {s0 s : State} {q : Nat} {err : Nat} (h : Keeps s0 s) :
    Keeps s0 (ringCopy s q err) := by
  unfold ringCopy
  extract_lets v1 v2 v3
  exact .ite h (.ite (ringEnd_keeps h) (State.setRing_keeps h))

theorem frameGone_keeps {s0 s : State} {f : QFrame} {err : Nat} (h : Keeps s0 s) :
    Keeps s0 (frameGone s f err) := by
  unfold frameGone
  split
  · exact ringCopy_keeps h
  · exact h

theorem ethQueue_keeps {s0 s : State} {p : Nat} {tc : Nat} {f : QFrame} (h : Keeps s0 s) :
    Keeps s0 (ethQueue s p tc f) := by
  unfold ethQueue
  extract_lets v1 v2 v3
  exact .ite (frameGone_keeps (ethCount_keeps (State.bump_keeps h))) (.ite (frameGone_keeps h) (.ite (frameGone_keeps (ethCount_keeps (State.bump_keeps h))) (State.setEport_keeps h)))

theorem gateDropHead_keeps {s0 s : State} {p k : Fin 8} {n : Nat} (h : Keeps s0 s) : Keeps s0 (gateDropHead s p k n) := by
  induction n generalizing s with
  | zero => exact h
  | succ n ih =>
    unfold gateDropHead
    extract_lets x
    split
    · refine .ite h (ih (frameGone_keeps (ethCount_keeps (State.bump_keeps (State.setEport_keeps h)))))
    · exact h

theorem gateDrops_keeps {s0 s : State} {p : Fin 8} (h : Keeps s0 s) :
    Keeps s0 (gateDrops s p) :=
  .foldlT h (fun _ _ h => gateDropHead_keeps h)

theorem gateCommit_keeps {s0 s : State} {old : State} (h : Keeps s0 s) :
    Keeps s0 (gateCommit old s) := by
  unfold gateCommit
  refine Keeps.foldlT h (fun s i h => ?_)
  extract_lets v1
  refine Keeps.ite ?_ ?_
  · exact h
  · split
    · extract_lets v2 v3
      have h2 : Keeps s0 v2 := .ite (State.raise_keeps (State.mark_keeps h)) h
      exact State.setEport_keeps h2

theorem txPreempt_keeps {s0 s : State} {p : Fin 8} {now : Nat} (h : Keeps s0 s) :
    Keeps s0 (txPreempt s p now) := by
  unfold txPreempt
  extract_lets v1 v2
  split
  · exact h
  · extract_lets v3
    exact .ite (ethCount_keeps (State.bump_keeps (State.setEport_keeps h))) h

theorem gateTo_keeps {s0 s : State} {p : Fin 8} {g : Gcl} {i : Nat} {now : Nat} (h : Keeps s0 s) :
    Keeps s0 (gateTo s p g i now) := by
  unfold gateTo
  extract_lets v1 v2 v3
  have h2 : Keeps s0 v2 := State.setEport_keeps h
  try clear_value v2
  have h3 : Keeps s0 v3 := by
    unfold v3
    split
    · exact .ite h2 (txPreempt_keeps h2)
    · exact h2
  exact gateDrops_keeps h3

theorem ethBoundary1_keeps {s0 s : State} {p : Fin 8} (h : Keeps s0 s) :
    Keeps s0 (ethBoundary1 s p) := by
  unfold ethBoundary1
  extract_lets v1 v2 v3 v4
  have h4 : Keeps s0 v4 := State.setEport_keeps h
  try clear_value v4
  split
  · exact .ite (gateTo_keeps h4) h4
  · exact h4

theorem ethBoundary_keeps {s0 s : State} (h : Keeps s0 s) :
    Keeps s0 (ethBoundary s) :=
  .foldlT h (fun _ _ h => ethBoundary1_keeps h)

theorem execGateEntryChange_keeps {s0 s : State} {p : Fin 8} (h : Keeps s0 s) {t : State}
    (e : execGateEntryChange p s = .next t) : Keeps s0 t := by
  refine Cmd.run_keeps h (fun s h => ?_) e
  extract_lets v1
  split
  · exact h
  · extract_lets v2
    exact gateTo_keeps h

theorem execPreemption_keeps {s0 s : State} {p : Fin 8} {ts : Nat} (h : Keeps s0 s) {t : State}
    (e : execPreemption p ts s = .next t) : Keeps s0 t := by
  refine Cmd.run_keeps h (fun s h => ?_) e
  extract_lets v1 v2
  exact .ite (txPreempt_keeps h) h

theorem execPreemptVerifyTimeout_keeps {s0 s : State} {p : Fin 8} (h : Keeps s0 s) {t : State}
    (e : execPreemptVerifyTimeout p s = .next t) : Keeps s0 t := by
  refine Cmd.run_keeps h (fun s h => ?_) e
  extract_lets v1 v2 v3
  have h3 : Keeps s0 v3 := State.setEport_keeps h
  exact .ite h (.ite (State.raise_keeps (State.put_keeps h3)) (State.emit_keeps h3))

theorem State.setFdb_keeps {s0 s : State} {l : List FdbEnt} (h : Keeps s0 s) :
    Keeps s0 (State.setFdb s l) := by
  unfold State.setFdb
  extract_lets v1 v2 v3
  have h2 : Keeps s0 v2 := .upd h rfl
  exact State.put_keeps (State.put_keeps h2)

theorem learn_keeps {s0 s : State} {mac : Nat} {vid : Nat} {p : Nat} (h : Keeps s0 s) :
    Keeps s0 (learn s mac vid p) := by
  unfold learn
  split
  · exact .ite h (State.setFdb_keeps h)
  · split
    · exact State.setFdb_keeps h
    · exact State.raise_keeps (State.mark_keeps (State.bump_keeps h))

theorem execFdbAgeing_keeps {s0 s : State} {slot : Fin 4160} (h : Keeps s0 s) {t : State}
    (e : execFdbAgeing slot s = .next t) : Keeps s0 t :=
  Cmd.run_keeps h (fun _ h => .ite h (State.setFdb_keeps h)) e

theorem trigFdb_keeps {s0 s : State} {v : Word} (h : Keeps s0 s) :
    Keeps s0 (trigFdb s v) := by
  unfold trigFdb
  extract_lets v1 v2 v3 v4 v5
  have h1 : Keeps s0 v1 := State.setReg_keeps h
  try clear_value v1
  have h5 : Keeps s0 v5 := State.unmark_keeps h1
  try clear_value v5
  refine Keeps.ite ?_ ?_
  · exact h1
  · split
    · split
      · extract_lets v6 v7
        have h6 : Keeps s0 v6 := State.put_keeps (State.put_keeps h5)
        have h7 : Keeps s0 v7 := State.put_keeps (State.put_keeps h6)
        exact State.put_keeps (State.mark_keeps h7)
      · exact State.unmark_keeps (State.unmark_keeps h5)
    · split
      · exact State.put_keeps (State.setFdb_keeps h5)
      · split
        · exact State.put_keeps (State.setFdb_keeps h5)
        · exact State.mark_keeps h5
    · exact State.setFdb_keeps h5
    · exact State.setFdb_keeps h5
    · exact State.setFdb_keeps h5
    · exact State.mark_keeps h5

theorem strCommit_keeps {s0 s : State} {old : State} (h : Keeps s0 s) :
    Keeps s0 (strCommit old s) := by
  unfold strCommit
  refine Keeps.foldlT h (fun s i h => ?_)
  extract_lets v1
  exact .ite (State.raise_keeps h) h

theorem stormTake_keeps {s0 s : State} {i : Fin 8} {k : Nat} {n : Nat} (h : Keeps s0 s) :
    Keeps s0 (stormTake s i k n).2 := by
  unfold stormTake
  extract_lets v1 v2
  refine Keeps.iteVia (π := Prod.snd) ?_ ?_
  · exact h
  · refine Keeps.iteVia (π := Prod.snd) ?_ ?_
    · exact State.setEport_keeps h
    · exact State.bump_keeps h

theorem txTrunc_keeps {s0 s : State} {e : Nat} {f : QFrame} (h : Keeps s0 s) :
    Keeps s0 (txTrunc s e f).2 := by
  unfold txTrunc
  refine Keeps.iteVia (π := Prod.snd) ?_ ?_
  · exact h
  · exact State.bump_keeps h

theorem cutSend_keeps {s0 s : State} {e : Nat} {maxl : Nat} {f : QFrame} {bad : Bool} (h : Keeps s0 s) :
    Keeps s0 (cutSend s e maxl f bad) := by
  unfold cutSend
  extract_lets v1 v2 v3 v4 v5 v6
  have h4 : Keeps s0 v4 := .ite (State.bump_keeps h) h
  have h5 : Keeps s0 v5 := .ite (State.bump_keeps h4) h4
  have h6 : Keeps s0 v6 := State.bump_keeps (State.bump_keeps (State.bump_keeps h5))
  exact State.emit_keeps (State.bwAdd_keeps (ethCount_keeps (ethCount_keeps h6)))

theorem ringFill_keeps {s0 s : State} {q : Fin 4} {b : List Byte} {p : Nat} {trunc : Bool} {tag : Option (Nat × Nat)}
    {vid : Nat} {pcp : Nat} {ts : Nat} (h : Keeps s0 s) :
    Keeps s0 (ringFill s q b p trunc tag vid pcp ts) := by
  unfold ringFill
  extract_lets v1
  exact workGo_keeps h

theorem lookupCopies_keeps {s0 s : State} {b : List Byte} (h : Keeps s0 s) :
    Keeps s0 (lookupCopies s b).2 := by
  unfold lookupCopies
  extract_lets v1
  split
  · rename_i _ s2 q2
    have h2 : Keeps s0 s2 := .ofPair q2 (State.freeNat_keeps h)
    split
    · extract_lets v3
      exact h2

theorem txTake_keeps {s0 s : State} {q : Fin 4} {d : List Byte} {b : List Byte} (h : Keeps s0 s) :
    Keeps s0 (txTake s q d b) := by
  unfold txTake
  extract_lets v1 v2 v3 v4
  split
  · exact ringEnd_keeps h
  · refine Keeps.ite ?_ ?_
    · exact ringEnd_keeps h
    · refine Keeps.ite ?_ ?_
      · exact ringEnd_keeps (.ite (ethCount_keeps (State.bump_keeps h)) h)
      · split
        · rename_i _ s5 q5
          have h5 : Keeps s0 s5 := .ofPair q5 (by
            refine Keeps.iteVia (π := Prod.snd) ?_ ?_
            · refine Keeps.foldlPairT h (fun s i h => ?_)
              split
              · rename_i _ s6 q6
                have h6 : Keeps s0 s6 := .ofPair q6 (lookupCopies_keeps h)
                exact h6
            · exact h)
          extract_lets v7 v8
          have h8 : Keeps s0 v8 := State.setRing_keeps h5
          try clear_value v8
          refine Keeps.ite ?_ ?_
          · exact ringEnd_keeps h5
          · refine Keeps.foldlT h8 (fun s i h => ?_)
            split
            · exact ethQueue_keeps h

theorem fetchRun_keeps {s0 s : State} {q : Fin 4} {d : List Byte} {got : List Byte} {left : List Beat} (h : Keeps s0 s) :
    Keeps s0 (fetchRun s q d got left).2 := by
  unfold fetchRun
  split
  · rename_i _ _ s1 q1
    have h1 : Keeps s0 s1 := .ofPair22 q1 (beatsRun_keeps h)
    refine Keeps.iteVia (π := Prod.snd) ?_ ?_
    · exact txTake_keeps h1
    · exact h1

theorem txRun_keeps {s0 s : State} {q : Fin 4} (h : Keeps s0 s) :
    Keeps s0 (txRun s q).2 := by
  unfold txRun
  split
  · rename_i _ _ s1 q1
    have h1 : Keeps s0 s1 := .ofPair22 q1 (beatsRun_keeps h)
    extract_lets v2 v3 v4 v5
    refine Keeps.iteVia (π := Prod.snd) ?_ ?_
    · exact h1
    · refine Keeps.iteVia (π := Prod.snd) ?_ ?_
      · exact ringEnd_keeps h1
      · refine Keeps.iteVia (π := Prod.snd) ?_ ?_
        · exact ringEnd_keeps h1
        · exact fetchRun_keeps h1

theorem ringTurn_keeps {s0 s : State} {act : Nat} {w : RingWork} (h : Keeps s0 s) :
    Keeps s0 (ringTurn s act w).2 := by
  unfold ringTurn
  split
  · exact txRun_keeps h
  · exact fetchRun_keeps h
  · exact workRun_keeps h

theorem ringGo_keeps {s0 s : State} {act : Nat} {w : RingWork} (h : Keeps s0 s) :
    Keeps s0 (ringGo s act w) := by
  unfold ringGo
  extract_lets v1
  have h1 : Keeps s0 v1 := State.powerWork_keeps h
  try clear_value v1
  refine Keeps.ite ?_ ?_
  · split
    · rename_i _ s2 q2
      have h2 : Keeps s0 s2 := .ofPair q2 (ringTurn_keeps h1)
      exact ringWait_keeps h2
  · exact ringWait_keeps h1

theorem ringDrain_keeps {s0 s : State} {act : Nat} (h : Keeps s0 s) :
    Keeps s0 (ringDrain s act) :=
  .foldlT (State.setRingQ_keeps h) (fun _ _ h => ringGo_keeps h)

theorem ringsRequest_keeps {s0 s : State} (h : Keeps s0 s) :
    Keeps s0 (ringsRequest s) :=
  .ite (State.powerWork_keeps h) h

theorem execTxRingDescriptor_keeps {s0 s : State} {mgp : Bool} (h : Keeps s0 s) {t : State}
    (e : execTxRingDescriptor mgp s = .next t) : Keeps s0 t := by
  refine Cmd.run_keeps h (fun s h => ?_) e
  extract_lets v1 v2
  exact .ite h (ringGo_keeps (State.setRing_keeps h))

theorem execLpiEntry_keeps {s0 s : State} {p : Fin 8} (h : Keeps s0 s) {t : State}
    (e : execLpiEntry p s = .next t) : Keeps s0 t := by
  refine Cmd.run_keeps h (fun s h => ?_) e
  extract_lets v1 v2
  exact .ite (State.bump_keeps (State.mark_keeps h)) h

theorem execLpiWake_keeps {s0 s : State} {p : Fin 8} (h : Keeps s0 s) {t : State}
    (e : execLpiWake p s = .next t) : Keeps s0 t :=
  Cmd.run_keeps h (fun _ h => State.unmark_keeps h) e

theorem execRxLpiChange_keeps {s0 s : State} {p : Fin 8} {on : Bool} (h : Keeps s0 s) {t : State}
    (e : execRxLpiChange p on s = .next t) : Keeps s0 t :=
  Cmd.run_keeps h (fun _ h => .ite (State.put_keeps h) h) e

theorem txPick_keeps {s0 s : State} {p : Fin 8} {at_ : Nat} {now : Nat} (h : Keeps s0 s) : Keeps s0 (txPick s p at_ now).2 := by
  unfold txPick
  extract_lets s1 x waits
  have h1 : Keeps s0 s1 := gateDrops_keeps h
  clear_value waits x s1
  split
  · split
    · dsimp only
      exact gateDrops_keeps (State.setEport_keeps h1)
    · exact h1
  · split
    · exact Keeps.iteVia (π := Prod.snd) (State.setEport_keeps h1) h1
    · exact h1

theorem txSent_keeps {s0 s : State} {p : Fin 8} (h : Keeps s0 s) :
    Keeps s0 (txSent s p) := by
  unfold txSent
  extract_lets v1 v2
  have h2 : Keeps s0 v2 := State.setEport_keeps h
  try clear_value v2
  split
  · exact h
  · extract_lets v3 v4 v5
    have h3 : Keeps s0 v3 := State.bump_keeps (State.bump_keeps h2)
    try clear_value v3
    have h4 : Keeps s0 v4 := State.bwAdd_keeps (ethCount_keeps h3)
    try clear_value v4
    have h5 : Keeps s0 v5 := State.emit_keeps h4
    try clear_value v5
    split
    · exact ringCopy_keeps h5
    · exact .ite (State.bump_keeps h5) (State.bump_keeps h5)
    · exact h5

theorem execEthTxFrameSent_keeps {s0 s : State} {p : Fin 8} (h : Keeps s0 s) {t : State}
    (e : execEthTxFrameSent p s = .next t) : Keeps s0 t :=
  Cmd.run_keeps h (fun _ h => txSent_keeps h) e

theorem linkDrop_keeps {s0 s : State} {p : Fin 8} (h : Keeps s0 s) :
    Keeps s0 (linkDrop s p) := by
  unfold linkDrop
  extract_lets v1 v2 v3 v4
  have h3 : Keeps s0 v3 := State.setEport_keeps h
  try clear_value v3
  have h4 : Keeps s0 v4 := ethCount_keeps (State.bump_keeps h3)
  try clear_value v4
  exact .foldlT h4 (fun _ _ h => frameGone_keeps h)

end Sys2Proof.Machine
end

