-- ==== Sys2Proof/Laws/KeepsWhisk.lean ====
section
/-!
SUPPORT. What the operations of Machine/Whisk.lean keep.
-/
namespace Sys2Proof.Machine

theorem xpReport_keeps {s0 s : State} {x : XpEnt} (h : Keeps s0 s) :
    Keeps s0 (xpReport s x) := by
  unfold xpReport
  extract_lets v1 v2
  have h2 : Keeps s0 v2 := State.put_keeps h
  try clear_value v2
  split
  · exact State.put_keeps h2
  · exact h2

theorem State.setXp_keeps {s0 s : State} {x : XpEnt} (h : Keeps s0 s) :
    Keeps s0 (State.setXp s x) := by
  unfold State.setXp
  extract_lets v1
  try clear_value v1
  exact xpReport_keeps (.upd h rfl)

theorem xpBusy_keeps {s0 s : State} (h : Keeps s0 s) :
    Keeps s0 (xpBusy s) := by
  unfold xpBusy
  extract_lets v1
  exact State.put_keeps (State.put_keeps h)

theorem slotTake_keeps {s0 s : State} {k : Nat} {e : Nat} {src : Nat} {dst : Nat} {g : Int} {T : Nat} {lin : Bool}
    (h : Keeps s0 s) :
    Keeps s0 (slotTake s k e src dst g T lin) := by
  unfold slotTake
  extract_lets v1 v2
  have h2 : Keeps s0 v2 := .upd h rfl
  exact State.count_keeps (State.setReg_keeps (xpBusy_keeps h2))

theorem dipCount_keeps {s0 s : State} {e : Nat} (h : Keeps s0 s) :
    Keeps s0 (dipCount s e) :=
  State.raise_keeps (State.count_keeps (State.put_keeps (State.setReg_keeps h)))

theorem dipStart_keeps {s0 s : State} {x : XpEnt} {lvl : Int} {rt : XpRoute} (h : Keeps s0 s) :
    Keeps s0 (dipStart s x lvl rt) :=
  State.setXp_keeps (dipCount_keeps h)

theorem routeChange_keeps {s0 s : State} {x : XpEnt} {rt : XpRoute} (h : Keeps s0 s) :
    Keeps s0 (routeChange s x rt) := by
  unfold routeChange
  extract_lets v1
  refine Keeps.ite ?_ ?_
  · exact State.setXp_keeps (State.put_keeps h)
  · refine Keeps.ite ?_ ?_
    · exact dipStart_keeps h
    · split
      · exact dipStart_keeps h
      · extract_lets v2
        have h2 : Keeps s0 v2 := slotTake_keeps h
        exact State.setXp_keeps (State.put_keeps h2)

theorem reviveChange_keeps {s0 s : State} {x : XpEnt} {rt : XpRoute} (h : Keeps s0 s) :
    Keeps s0 (reviveChange s x rt) := by
  unfold reviveChange
  extract_lets v1 v2
  refine Keeps.ite ?_ ?_
  · exact State.setXp_keeps h
  · split
    · exact State.setXp_keeps (slotTake_keeps h)
    · exact State.setXp_keeps (dipCount_keeps h)

theorem xpChange_keeps {s0 s : State} {e : Nat} {new : Option XpRoute} {rampT : Nat} {law : Bool} (h : Keeps s0 s) :
    Keeps s0 (xpChange s e new rampT law) := by
  unfold xpChange
  extract_lets v1
  split
  · exact h
  · exact State.setXp_keeps h
  · exact .ite h (State.setXp_keeps h)
  · split
    · exact .ite (State.setXp_keeps h) (.ite (State.setXp_keeps h) (reviveChange_keeps h))
    · exact .ite h (.ite (.ite (State.setXp_keeps h) (State.setXp_keeps h)) (routeChange_keeps h))

theorem xpBoundary_keeps {s0 s : State} (h : Keeps s0 s) :
    Keeps s0 (xpBoundary s) := by
  unfold xpBoundary
  extract_lets v1 v2 v3 v4
  have h4 : Keeps s0 v4 := .ite h (xpBusy_keeps (.upd h rfl))
  try clear_value v4 v3
  refine Keeps.foldlT h4 (fun s i h => ?_)
  extract_lets v5 v6
  split
  · exact .ite (State.setXp_keeps h) (.ite (State.setXp_keeps h) h)
  · exact .ite (State.setXp_keeps h) h

theorem xpEndPass_keeps {s0 s : State} (h : Keeps s0 s) :
    Keeps s0 (xpEndPass s) := by
  unfold xpEndPass
  extract_lets v1 v2 v5 v6
  have h2 : Keeps s0 v2 := by
    unfold v2
    refine Keeps.foldlT h (fun s i h => ?_)
    extract_lets v3 v4
    exact .ite h (State.setXp_keeps h)
  try clear_value v2
  try clear_value v6
  exact .upd h2 rfl

theorem State.setDstW_keeps {s0 s : State} {x : DstW} (h : Keeps s0 s) :
    Keeps s0 (State.setDstW s x) := by
  unfold State.setDstW
  extract_lets v1
  try clear_value v1
  exact .upd h rfl

theorem dstChange_keeps {s0 s : State} {d : Nat} {T : Nat} (h : Keeps s0 s) :
    Keeps s0 (dstChange s d T) := by
  unfold dstChange
  extract_lets v1 v2 v3
  exact State.setDstW_keeps h

theorem reactHold_keeps {s0 s : State} {k : React} {d : Nat} {target : Int} {T : Nat} (h : Keeps s0 s) :
    Keeps s0 (reactHold s k d target T) := by
  unfold reactHold
  extract_lets v1 v2
  exact State.setDstW_keeps h

theorem reactRelease_keeps {s0 s : State} {k : React} {d : Nat} (h : Keeps s0 s) :
    Keeps s0 (reactRelease s k d) := by
  unfold reactRelease
  extract_lets v1
  split
  · exact h
  · exact State.setDstW_keeps h

theorem dstEndPass_keeps {s0 s : State} (h : Keeps s0 s) :
    Keeps s0 (dstEndPass s) := by
  unfold dstEndPass
  extract_lets v1 v2 v3 v4 v5
  try clear_value v5
  exact .upd h rfl

end Sys2Proof.Machine
end

