-- ==== Sys2Proof/Laws/KeepsMash.lean ====
section
/-!
SUPPORT. What the operations of Machine/Mash.lean keep.
-/
namespace Sys2Proof.Machine

theorem mashXpCommit_keeps {s0 s : State} {old : State} {rest : Bool} (h : Keeps s0 s) :
    Keeps s0 (mashXpCommit old s rest) := by
  unfold mashXpCommit
  extract_lets v1 v2 v3 v4 v5 v6 v8 v9
  have h6 : Keeps s0 v6 := by
    unfold v6
    refine Keeps.foldlT h (fun s i h => ?_)
    split
    · extract_lets v7
      exact .ite h (State.raise_keeps (State.mark_keeps h))
  try clear_value v6
  have h8 : Keeps s0 v8 := by
    unfold v8
    refine Keeps.foldlT h6 (fun s i h => ?_)
    split
    · exact .ite h (State.raise_keeps (State.mark_keeps h))
  try clear_value v8
  refine Keeps.foldlT h8 (fun s i h => ?_)
  extract_lets v10 v11 v12 v13
  have h13 : Keeps s0 v13 := .ite h (State.put_keeps h)
  try clear_value v13
  refine Keeps.ite ?_ ?_
  · try clear_value v12
    split
    · exact State.setXp_keeps h13
    · exact h13
  · exact xpChange_keeps h13

theorem mashDstCommit_keeps {s0 s : State} (h : Keeps s0 s) :
    Keeps s0 (mashDstCommit s) :=
  .foldlT h (fun _ _ h => dstChange_keeps h)

theorem condReport_keeps {s0 s : State} (h : Keeps s0 s) :
    Keeps s0 (condReport s) := by
  unfold condReport
  refine Keeps.foldlT h (fun s i h => ?_)
  extract_lets v1
  exact .ite h (State.put_keeps h)

theorem mashCondCommit_keeps {s0 s : State} (h : Keeps s0 s) :
    Keeps s0 (mashCondCommit s) := by
  unfold mashCondCommit
  extract_lets v1 v2 v3
  try clear_value v3
  exact condReport_keeps (.upd h rfl)

theorem condRun_keeps {s0 s : State} {which : Nat → Bool} {src : Nat → List Int} (h : Keeps s0 s) :
    Keeps s0 (condRun s which src).2 := by
  unfold condRun
  extract_lets v1 v2
  try clear_value v2
  exact .upd h rfl

theorem delayTarget_keeps {s0 s : State} {u : DlyU} {raw : Word} (h : Keeps s0 s) :
    Keeps s0 (delayTarget s u raw).2 := by
  unfold delayTarget
  extract_lets v1 v2
  refine Keeps.iteVia (π := Prod.snd) ?_ ?_
  · exact State.raise_keeps (State.mark_keeps h)
  · exact h

theorem State.setDly_keeps {s0 s : State} {u : DlyU} (h : Keeps s0 s) :
    Keeps s0 (State.setDly s u) := by
  unfold State.setDly
  extract_lets v1
  try clear_value v1
  exact .upd h rfl

theorem delayLatch_keeps {s0 s : State} (h : Keeps s0 s) :
    Keeps s0 (delayLatch s) := by
  unfold delayLatch
  refine Keeps.ite ?_ ?_
  · exact h
  · refine Keeps.foldlT h (fun s i h => ?_)
    extract_lets v1 v2
    refine Keeps.ite ?_ ?_
    · exact h
    · split
      · rename_i _ s3 q3
        have h3 : Keeps s0 s3 := .ofPair q3 (delayTarget_keeps h)
        extract_lets v4
        exact .ite (State.setDly_keeps h3) (.ite (State.setDly_keeps h3) (.ite (State.setDly_keeps h3) (State.setDly_keeps h3)))

theorem clipMark_keeps {s0 s : State} {d : Nat} {k : Nat} (h : Keeps s0 s) :
    Keeps s0 (clipMark s d k) :=
  .ite h (State.count_keeps (State.mark_keeps (State.mark_keeps h)))

theorem dstPass_keeps {s0 s : State} {d : Nat} (h : Keeps s0 s) :
    Keeps s0 (dstPass s d).2 := by
  unfold dstPass
  extract_lets v1 v2
  try clear_value v2
  split
  · extract_lets v3 v4
    have h3 : Keeps s0 v3 := .upd h rfl
    try clear_value v3
    have h4 : Keeps s0 v4 := by
      unfold v4
      split
      · exact State.setDly_keeps h3
      · exact h3
    exact clipMark_keeps h4

theorem dstPasses_keeps {s0 s : State} {which : Nat → Bool} (h : Keeps s0 s) :
    Keeps s0 (dstPasses s which).2 := by
  unfold dstPasses
  extract_lets v1
  refine Keeps.foldlPairT h (fun s i h => ?_)
  split
  · rename_i _ s2 q2
    have h2 : Keeps s0 s2 := .ofPair q2 (dstPass_keeps h)
    exact h2

theorem passStart_keeps {s0 s : State} {src : Nat → List Int} (h : Keeps s0 s) :
    Keeps s0 (passStart s src) := by
  unfold passStart
  extract_lets v1
  have h1 : Keeps s0 v1 := delayLatch_keeps h
  try clear_value v1
  refine Keeps.ite ?_ ?_
  · exact h
  · split
    · rename_i _ s2 q2
      have h2 : Keeps s0 s2 := .ofPair q2 (condRun_keeps h1)
      extract_lets v3 v4 v5
      have h5 : Keeps s0 v5 := .upd h2 rfl
      try clear_value v5 v4
      split
      · rename_i _ s6 q6
        have h6 : Keeps s0 s6 := .ofPair q6 (dstPasses_keeps h5)
        extract_lets v7
        try clear_value v7
        exact .upd h6 rfl

theorem sendPoint_keeps {s0 s : State} (h : Keeps s0 s) :
    Keeps s0 (sendPoint s) := by
  unfold sendPoint
  extract_lets v1 v2
  have h1 : Keeps s0 v1 := .foldlT h (fun _ _ h => .ite (sendsWrite_keeps h) h)
  try clear_value v1
  try clear_value v2
  exact .ite h (.upd h1 rfl)

theorem execSendPoint_keeps {s0 s : State} (h : Keeps s0 s) {t : State}
    (e : execSendPoint s = .next t) : Keeps s0 t :=
  Cmd.run_keeps h (fun _ h => sendPoint_keeps h) e

theorem returnPoint_keeps {s0 s : State} (h : Keeps s0 s) :
    Keeps s0 (returnPoint s) := by
  unfold returnPoint
  extract_lets v1 v2 v3
  have h1 : Keeps s0 v1 := sendPoint_keeps h
  try clear_value v1
  have h2 : Keeps s0 v2 := .foldlT h1 (fun _ _ h => .ite (takeReturns_keeps h) h)
  try clear_value v2
  try clear_value v3
  exact .ite h1 (.upd h2 rfl)

theorem execReturnPoint_keeps {s0 s : State} (h : Keeps s0 s) {t : State}
    (e : execReturnPoint s = .next t) : Keeps s0 t :=
  Cmd.run_keeps h (fun _ h => returnPoint_keeps h) e

theorem caskMissed_keeps {s0 s : State} (h : Keeps s0 s) :
    Keeps s0 (caskMissed s) := by
  unfold caskMissed
  extract_lets v1 v2
  try clear_value v2
  exact .upd h rfl

theorem passEnd_keeps {s0 s : State} (h : Keeps s0 s) :
    Keeps s0 (passEnd s) := by
  unfold passEnd
  extract_lets v1
  have h1 : Keeps s0 v1 := caskMissed_keeps (returnPoint_keeps h)
  try clear_value v1
  refine Keeps.ite ?_ ?_
  · exact h
  · split
    · rename_i _ s2 q2
      have h2 : Keeps s0 s2 := .ofPair q2 (condRun_keeps h1)
      extract_lets v3 v4 v5
      have h5 : Keeps s0 v5 := .upd h2 rfl
      try clear_value v5 v4
      split
      · rename_i _ s6 q6
        have h6 : Keeps s0 s6 := .ofPair q6 (dstPasses_keeps h5)
        extract_lets v7 v8 v9 v10
        have h7 : Keeps s0 v7 := by
          unfold v7
          refine Keeps.foldlT h6 (fun s i h => ?_)
          split
          · exact .ite (.foldlT h (fun _ _ h => capPush_keeps h)) h
        try clear_value v7
        have h8 : Keeps s0 v8 := State.count_keeps h7
        try clear_value v8
        have h10 : Keeps s0 v10 := .upd h8 rfl
        exact condReport_keeps (fadesNext_keeps (dstEndPass_keeps (xpEndPass_keeps h10)))

theorem presRotate_keeps {s0 s : State} (h : Keeps s0 s) :
    Keeps s0 (presRotate s) := by
  unfold presRotate
  extract_lets v1
  try clear_value v1
  exact .upd h rfl

theorem passAbandon_keeps {s0 s : State} (h : Keeps s0 s) :
    Keeps s0 (passAbandon s) := by
  unfold passAbandon
  extract_lets v1
  try clear_value v1
  exact .upd h rfl

theorem mashCheck_keeps {s0 s : State} (h : Keeps s0 s) :
    Keeps s0 (mashCheck s) := by
  unfold mashCheck
  extract_lets v1 v2 v3
  have h1 : Keeps s0 v1 := State.put_keeps h
  try clear_value v1
  have h3 : Keeps s0 v3 := State.put_keeps h1
  try clear_value v3
  exact .foldlT h3 (fun _ _ h => State.raise_keeps h)

theorem dlyAlloc_keeps {s0 s : State} (h : Keeps s0 s) :
    Keeps s0 (dlyAlloc s).2 := by
  unfold dlyAlloc
  refine Keeps.foldlPairT h (fun s i h => ?_)
  extract_lets v1
  split
  · extract_lets v3 v4
    split
    · rename_i _ s5 q5
      have h5 : Keeps s0 s5 := .ofPair q5 (by
        refine Keeps.iteVia (π := Prod.snd) ?_ ?_
        · exact State.raise_keeps (State.mark_keeps h)
        · exact h)
      extract_lets v6 v7
      refine Keeps.iteVia (π := Prod.snd) ?_ ?_
      · exact State.raise_keeps (State.mark_keeps h5)
      · split
        · rename_i _ s8 q8
          have h8 : Keeps s0 s8 := .ofPair q8 (delayTarget_keeps h5)
          exact h8

theorem mashStart_keeps {s0 s : State} (h : Keeps s0 s) :
    Keeps s0 (mashStart s) := by
  unfold mashStart
  extract_lets v1 v2 v3 v4
  have h4 : Keeps s0 v4 := condReport_keeps (.upd h rfl)
  try clear_value v4 v3
  refine Keeps.ite ?_ ?_
  · exact h
  · split
    · rename_i _ s5 q5
      have h5 : Keeps s0 s5 := .ofPair q5 (dlyAlloc_keeps h4)
      extract_lets v6 v7
      have h7 : Keeps s0 v7 := .upd h5 rfl
      exact mashXpCommit_keeps (State.mark_keeps h7)

theorem mashStill_keeps {s0 s : State} (h : Keeps s0 s) :
    Keeps s0 (mashStill s) := by
  unfold mashStill
  extract_lets v1
  have h1 : Keeps s0 v1 := .foldlT (State.put_keeps h) (fun _ _ h => State.put_keeps h)
  try clear_value v1
  exact .foldlT h1 (fun _ _ h => State.unmark_keeps h)

theorem mashStop_keeps {s0 s : State} (h : Keeps s0 s) :
    Keeps s0 (mashStop s) := by
  unfold mashStop
  extract_lets v1 v2
  have h1 : Keeps s0 v1 := mashStill_keeps h
  try clear_value v1
  try clear_value v2
  exact State.unmark_keeps (.upd h1 rfl)

end Sys2Proof.Machine
end

