-- ==== Sys2Proof/Laws/KeepsTwinLink.lean ====
section
/-!
SUPPORT. What the operations of Machine/TwinLink.lean keep.
-/
namespace Sys2Proof.Machine

theorem twinOut_keeps {s0 s : State} {lseq : Nat} {pn : Nat} {m : TwinMsg} {payload : List Byte} (h : Keeps s0 s) :
    Keeps s0 (twinOut s lseq pn m payload) := by
  unfold twinOut
  extract_lets v1
  split
  · rename_i _ s2 q2
    have h2 : Keeps s0 s2 := .ofPair q2 (State.freeNat_keeps h)
    extract_lets v3 v4
    try clear_value v4
    exact ethQueue_keeps (.upd h2 rfl)

theorem twinSend_keeps {s0 s : State} {pn : Nat} {m : TwinMsg} (h : Keeps s0 s) :
    Keeps s0 (twinSend s pn m) := by
  unfold twinSend
  split
  · rename_i _ s1 q1
    have h1 : Keeps s0 s1 := .ofPair q1 (by
      split
      · exact h
      · exact h
      · exact State.freeNat_keeps h)
    extract_lets v2 v3 v4 v5 v6
    have h5 : Keeps s0 v5 := .ite (.upd h1 rfl) h1
    try clear_value v5 v4
    have h6 : Keeps s0 v6 := twinOut_keeps h5
    try clear_value v6
    split
    · exact State.count_keeps h6
    · exact h6

theorem noteSent_keeps {s0 s : State} {m : Nat} {n : Nat} (h : Keeps s0 s) :
    Keeps s0 (noteSent s m n) := by
  unfold noteSent
  extract_lets v1
  try clear_value v1
  exact .upd h rfl

theorem mirrorSend_keeps {s0 s : State} {fuel : Nat} {recs : List MirRec} (h : Keeps s0 s) :
    Keeps s0 (mirrorSend s fuel recs) := by
  induction fuel generalizing s recs with
  | zero => exact h
  | succ n ih =>
    cases recs with
    | nil => exact h
    | cons r t => exact ih (twinSend_keeps h)

theorem mirrorFlush_keeps {s0 s : State} (h : Keeps s0 s) :
    Keeps s0 (mirrorFlush s) := by
  unfold mirrorFlush
  extract_lets v1 v2 v3 v4
  have h3 : Keeps s0 v3 := .foldlT h (fun _ _ h => noteSent_keeps h)
  try clear_value v3
  try clear_value v4
  exact .ite h (mirrorSend_keeps (.upd h3 rfl))

theorem mirrorTrip_keeps {s0 s : State} {c : Nat} {m : Nat} {n : Nat} {j : Nat} (h : Keeps s0 s) :
    Keeps s0 (mirrorTrip s c m n j) := by
  unfold mirrorTrip
  extract_lets v1
  exact .ite h (twinSend_keeps (noteSent_keeps h))

end Sys2Proof.Machine
end

