-- ==== Sys2Proof/Laws/KeepsXio.lean ====
section
/-!
SUPPORT. What the operations of Machine/Xio.lean keep.
-/
namespace Sys2Proof.Machine

theorem mirrorNote_keeps {s0 s : State} {src : Nat} {n : Nat} {v : Word} (h : Keeps s0 s) :
    Keeps s0 (mirrorNote s src n v) := by
  unfold mirrorNote
  extract_lets v1
  try clear_value v1
  exact .ite (.upd h rfl) h

theorem storePut_keeps {s0 s : State} {src : Nat} {n : Nat} {v : Word} (h : Keeps s0 s) :
    Keeps s0 (storePut s src n v).2 := by
  unfold storePut
  extract_lets v1 v2 v3 v4 v5 v6
  try clear_value v5
  split
  · exact mirrorNote_keeps (.upd h rfl)
  · refine Keeps.iteVia (π := Prod.snd) ?_ ?_
    · refine Keeps.iteVia (π := Prod.snd) ?_ ?_
      · exact h
      · exact mirrorNote_keeps (.upd h rfl)
    · exact mirrorNote_keeps (.upd h rfl)

theorem State.setGrp_keeps {s0 s : State} {g : Fin 4} {x : XioGrp} (h : Keeps s0 s) :
    Keeps s0 (State.setGrp s g x) := by
  unfold State.setGrp
  extract_lets v1
  try clear_value v1
  exact .upd h rfl

theorem State.setBridge_keeps {s0 s : State} {x : BridgeU} (h : Keeps s0 s) :
    Keeps s0 (State.setBridge s x) := by
  unfold State.setBridge
  extract_lets v1
  try clear_value v1
  exact .upd h rfl

theorem bridgeUnlock_keeps {s0 s : State} {b : Nat} (h : Keeps s0 s) :
    Keeps s0 (bridgeUnlock s b) := by
  unfold bridgeUnlock
  split
  · exact h
  · extract_lets v1 v2
    have h1 : Keeps s0 v1 := State.setBridge_keeps h
    have h2 : Keeps s0 v2 := State.bump_keeps (State.mark_keeps (State.unmark_keeps h1))
    exact .ite h (State.count_keeps (State.raise_keeps (State.setReg_keeps h2)))

theorem bridgesUnlock_keeps {s0 s : State} {which : Nat → Bool} (h : Keeps s0 s) :
    Keeps s0 (bridgesUnlock s which) :=
  .foldlT h (fun _ _ h => .ite (bridgeUnlock_keeps h) h)

theorem execBridgeLock_keeps {s0 s : State} {b : Fin 256} {ratio : Word} (h : Keeps s0 s) {t : State}
    (e : execBridgeLock b ratio s = .next t) : Keeps s0 t := by
  refine Cmd.run_keeps h (fun s h => ?_) e
  extract_lets v1 v2
  have h2 : Keeps s0 v2 := State.setReg_keeps h
  try clear_value v2
  split
  · exact h
  · extract_lets v3
    have h3 : Keeps s0 v3 := State.setBridge_keeps h2
    exact .ite (bridgeUnlock_keeps h2) (.ite h2 (State.setReg_keeps (State.mark_keeps h3)))

theorem bridgeInput_keeps {s0 s : State} {b : Nat} {v : Int} (h : Keeps s0 s) :
    Keeps s0 (bridgeInput s b v) := by
  unfold bridgeInput
  split
  · exact h
  · exact State.setBridge_keeps h

theorem bridgeSample_keeps {s0 s : State} {b : Nat} {rate : Nat} {lag : Int} (h : Keeps s0 s) :
    Keeps s0 (bridgeSample s b rate lag).2 := by
  unfold bridgeSample
  extract_lets v1
  split
  · exact h
  · extract_lets v2 v3 v4
    split
    · rename_i _ s5 q5
      have h5 : Keeps s0 s5 := .ofPair q5 (State.freeWord_keeps h)
      extract_lets v6 v7
      exact State.setBridge_keeps h5

theorem bridgeGrid_keeps {s0 s : State} {b : Nat} {i : Nat} (h : Keeps s0 s) :
    Keeps s0 (bridgeGrid s b i).2 := by
  unfold bridgeGrid
  extract_lets v1
  exact bridgeSample_keeps h

theorem bridgeLocal_keeps {s0 s : State} {b : Nat} {j : Nat} (h : Keeps s0 s) :
    Keeps s0 (bridgeLocal s b j).2 := by
  unfold bridgeLocal
  extract_lets v1 v2
  exact bridgeSample_keeps h

theorem slotDrive_keeps {s0 s : State} {p : Nat} {k : Nat} {i : Nat} (h : Keeps s0 s) :
    Keeps s0 (slotDrive s p k i).2 := by
  unfold slotDrive
  extract_lets v1
  refine Keeps.iteVia (π := Prod.snd) ?_ ?_
  · exact h
  · refine Keeps.iteVia (π := Prod.snd) ?_ ?_
    · split
      · exact h
      · exact h
    · split
      · split
        · rename_i _ s2 q2
          have h2 : Keeps s0 s2 := .ofPair q2 (bridgeLocal_keeps h)
          exact h2
      · exact h

theorem frameDrive_keeps {s0 s : State} {g : Nat} {i : Nat} (h : Keeps s0 s) :
    Keeps s0 (frameDrive s g i).2 := by
  unfold frameDrive
  refine Keeps.foldlPairT h (fun s i h => ?_)
  split
  · rename_i _ s1 q1
    have h1 : Keeps s0 s1 := .ofPair q1 (by
      refine Keeps.foldlPairT h (fun s i h => ?_)
      split
      · rename_i _ s2 q2
        have h2 : Keeps s0 s2 := .ofPair q2 (slotDrive_keeps h)
        exact h2)
    exact h1

theorem tdmSend_keeps {s0 s : State} {g : Nat} {o : TdmOut} (h : Keeps s0 s) :
    Keeps s0 (tdmSend s g o) :=
  State.emit_keeps h

theorem frameStore_keeps {s0 s : State} {g : Fin 4} {f : TdmFrame} {n : Nat} (h : Keeps s0 s) :
    Keeps s0 (frameStore s g f n) := by
  unfold frameStore
  extract_lets v1
  refine Keeps.foldlT h (fun s i h => ?_)
  extract_lets v2 v3 v4
  exact .ite h (storePut_keeps h)

theorem frameBridges_keeps {s0 s : State} {g : Nat} {f : TdmFrame} (h : Keeps s0 s) :
    Keeps s0 (frameBridges s g f) := by
  unfold frameBridges
  refine Keeps.foldlT h (fun s i h => ?_)
  extract_lets v1
  exact .ite h (bridgeInput_keeps h)

theorem slip_keeps {s0 s : State} {g : Nat} (h : Keeps s0 s) :
    Keeps s0 (slip s g) :=
  State.count_keeps (State.raise_keeps (State.bump_keeps h))

theorem grpTake_keeps {s0 s : State} {g : Fin 4} {f : TdmFrame} (h : Keeps s0 s) :
    Keeps s0 (grpTake s g f) := by
  unfold grpTake
  extract_lets v1 v2 v3 v4 v5
  have h3 : Keeps s0 v3 := .ite (frameStore_keeps h) (frameBridges_keeps h)
  exact .ite (State.setGrp_keeps h) (State.setGrp_keeps h3)

theorem slaveTake_keeps {s0 s : State} {g : Fin 4} (h : Keeps s0 s) :
    Keeps s0 (slaveTake s g) := by
  unfold slaveTake
  extract_lets v1
  refine Keeps.ite ?_ ?_
  · exact h
  · split
    · rename_i _ s2 q2
      have h2 : Keeps s0 s2 := .ofPair q2 (frameDrive_keeps h)
      extract_lets v3
      refine Keeps.ite ?_ ?_
      · exact grpTake_keeps h2
      · refine Keeps.ite ?_ ?_
        · exact State.setGrp_keeps h2
        · split
          · exact grpTake_keeps (State.setGrp_keeps h2)
          · exact grpTake_keeps (State.setGrp_keeps (slip_keeps h2))

theorem slaveTakes_keeps {s0 s : State} {g : Fin 4} {n : Nat} (h : Keeps s0 s) : Keeps s0 (slaveTakes g n s) := by
  induction n generalizing s with
  | zero => exact h
  | succ n ih => exact ih (slaveTake_keeps h)

theorem slavePush_keeps {s0 s : State} {g : Fin 4} {f : TdmFrame} (h : Keeps s0 s) :
    Keeps s0 (slavePush s g f) := by
  unfold slavePush
  extract_lets v1 v2 v3
  exact .ite (.ite (tdmSend_keeps (State.setGrp_keeps h)) (tdmSend_keeps (State.setGrp_keeps h))) (.ite (tdmSend_keeps (State.setGrp_keeps (slip_keeps h))) (tdmSend_keeps (State.setGrp_keeps h)))

theorem clockLoss_keeps {s0 s : State} {g : Fin 4} (h : Keeps s0 s) :
    Keeps s0 (clockLoss s g) := by
  unfold clockLoss
  extract_lets v1 v2 v3
  have h2 : Keeps s0 v2 := State.raise_keeps (State.unmark_keeps h)
  have h3 : Keeps s0 v3 := State.setGrp_keeps h2
  exact .ite h (bridgesUnlock_keeps h3)

theorem domUnlock_keeps {s0 s : State} {d : Nat} (h : Keeps s0 s) :
    Keeps s0 (domUnlock s d) :=
  .ite h (bridgesUnlock_keeps (State.unmark_keeps h))

theorem frameLoss_keeps {s0 s : State} {g : Fin 4} (h : Keeps s0 s) :
    Keeps s0 (frameLoss s g) := by
  unfold frameLoss
  extract_lets v1 v2 v3
  have h1 : Keeps s0 v1 := clockLoss_keeps h
  try clear_value v1
  have h3 : Keeps s0 v3 := State.setGrp_keeps h1
  try clear_value v3
  exact .ite h (.foldlT h3 (fun _ _ h => .ite (domUnlock_keeps h) h))

theorem execTdmClockLoss_keeps {s0 s : State} {g : Fin 4} (h : Keeps s0 s) {t : State}
    (e : execTdmClockLoss g s = .next t) : Keeps s0 t :=
  Cmd.run_keeps h (fun _ h => frameLoss_keeps h) e

theorem slaveCheck_keeps {s0 s : State} {g : Fin 4} {f : TdmFrame} {bits : Nat} {onTime : Bool} (h : Keeps s0 s) :
    Keeps s0 (slaveCheck s g f bits onTime).2 := by
  unfold slaveCheck
  extract_lets v1 v2 v3 v4 v5 v6 v7
  have h4 : Keeps s0 v4 := .ite h (State.count_keeps (State.mark_keeps h))
  try clear_value v4
  have h5 : Keeps s0 v5 := State.setGrp_keeps h4
  try clear_value v5
  have h6 : Keeps s0 v6 := .ite (clockLoss_keeps h5) h5
  try clear_value v6
  refine Keeps.iteVia (π := Prod.snd) ?_ ?_
  · exact State.setGrp_keeps (State.mark_keeps h6)
  · exact h6

theorem ratioTrack_keeps {s0 s : State} {g : Nat} {ratio : Word} (h : Keeps s0 s) :
    Keeps s0 (ratioTrack s g ratio) := by
  unfold ratioTrack
  refine Keeps.foldlT h (fun s i h => ?_)
  extract_lets v1
  have h1 : Keeps s0 v1 := State.setReg_keeps h
  exact .ite h (.ite h1 (bridgeUnlock_keeps h1))

theorem execTdmFrame_keeps {s0 s : State} {g : Fin 4} {slots : List (List Word)} {bits : Nat} {onTime : Bool}
    {took : Nat} {phase : Word} {ratio : Word} (h : Keeps s0 s) {t : State}
    (e : execTdmFrame g slots bits onTime took phase ratio s = .next t) : Keeps s0 t := by
  refine Cmd.run_keeps h (fun s h => ?_) e
  extract_lets v1 v2 v3
  have h2 : Keeps s0 v2 := .ite h (ratioTrack_keeps h)
  try clear_value v2
  have h3 : Keeps s0 v3 := State.setReg_keeps h2
  try clear_value v3
  refine Keeps.ite ?_ ?_
  · exact h
  · refine Keeps.ite ?_ ?_
    · refine Keeps.ite ?_ ?_
      · exact h2
      · split
        · rename_i _ s4 q4
          have h4 : Keeps s0 s4 := .ofPair q4 (frameDrive_keeps h2)
          exact mirrorFlush_keeps (grpTake_keeps (tdmSend_keeps h4))
    · split
      · rename_i _ s5 q5
        have h5 : Keeps s0 s5 := .ofPair q5 (slaveCheck_keeps h3)
        extract_lets v6 v7
        have h6 : Keeps s0 v6 := slaveTakes_keeps h5
        try clear_value v6
        have h7 : Keeps s0 v7 := by
          unfold v7
          refine Keeps.ite ?_ ?_
          · split
            · rename_i _ s8 q8
              have h8 : Keeps s0 s8 := .ofPair q8 (frameDrive_keeps h5)
              extract_lets v9
              have h9 : Keeps s0 v9 := .ite (tdmSend_keeps h8) h8
              exact grpTake_keeps h9
          · exact .ite (slavePush_keeps h6) h6
        exact mirrorFlush_keeps (State.put_keeps h7)

theorem xioPeriodEnd_keeps {s0 s : State} (h : Keeps s0 s) :
    Keeps s0 (xioPeriodEnd s) := by
  unfold xioPeriodEnd
  extract_lets v1
  have h1 : Keeps s0 v1 := by
    unfold v1
    refine Keeps.foldlT h (fun s i h => ?_)
    extract_lets v2 v3 v4
    have h3 : Keeps s0 v3 := .ite (slaveTakes_keeps h) h
    exact .ite h (State.put_keeps (State.setGrp_keeps h3))
  try clear_value v1
  refine Keeps.ite ?_ ?_
  · exact h1
  · refine mirrorFlush_keeps ?_
    refine Keeps.foldlT h1 (fun s i h => ?_)
    refine Keeps.ite ?_ ?_
    · exact h
    · refine Keeps.foldlT h (fun s i h => ?_)
      split
      · rename_i _ s5 q5
        have h5 : Keeps s0 s5 := .ofPair q5 (bridgeGrid_keeps h)
        exact storePut_keeps h5

theorem bridgesPresent_keeps {s0 s : State} (h : Keeps s0 s) :
    Keeps s0 (bridgesPresent s) :=
  .foldlT h (fun _ _ h => .ite h (.foldlT h (fun _ _ h => bridgeInput_keeps h)))

theorem mapsStart_keeps {s0 s : State} (h : Keeps s0 s) :
    Keeps s0 (mapsStart s) := by
  unfold mapsStart
  extract_lets v1
  have h1 : Keeps s0 v1 := by
    unfold v1
    refine Keeps.foldlT h (fun s i h => ?_)
    extract_lets v2
    exact State.put_keeps h
  try clear_value v1
  refine Keeps.foldlPairT h1 (fun s i h => ?_)
  extract_lets v3 v4 v5
  have h3 : Keeps s0 v3 := h
  try clear_value v3
  refine Keeps.iteVia (π := Prod.snd) ?_ ?_
  · exact State.unmark_keeps h3
  · refine Keeps.iteVia (π := Prod.snd) ?_ ?_
    · exact State.raise_keeps (State.unmark_keeps h3)
    · exact State.mark_keeps h3

theorem bridgesStart_keeps {s0 s : State} (h : Keeps s0 s) :
    Keeps s0 (bridgesStart s) := by
  unfold bridgesStart
  split
  · rename_i _ _ s1 q1
    have h1 : Keeps s0 s1 := .ofPair22 q1 (by
      refine Keeps.foldlVia (π := fun x : _ × _ × _ => x.2.2) h (fun s i h => ?_)
      split
      · extract_lets v3 v4
        split
        · exact State.raise_keeps h
        · split
          · split
            · exact h
            · exact h
          · exact h)
    extract_lets v5
    try clear_value v5
    exact .upd h1 rfl

theorem grpClock_keeps {s0 s : State} {g : Fin 4} {on : Bool} (h : Keeps s0 s) :
    Keeps s0 (grpClock s g on) := by
  unfold grpClock
  extract_lets v1
  exact .ite h (State.emit_keeps (State.setGrp_keeps h))

theorem grpStart_keeps {s0 s : State} {g : Fin 4} (h : Keeps s0 s) :
    Keeps s0 (grpStart s g) := by
  unfold grpStart
  extract_lets v1 v2 v3 v4 v5
  have h2 : Keeps s0 v2 := .ite (State.raise_keeps h) h
  have h4 : Keeps s0 v4 := State.put_keeps (State.mark_keeps h2)
  exact .ite h (.ite (State.raise_keeps (grpClock_keeps h)) (grpClock_keeps (State.setGrp_keeps h4)))

theorem xioStart_keeps {s0 s : State} (h : Keeps s0 s) :
    Keeps s0 (xioStart s) :=
  .foldlT (bridgesStart_keeps h) (fun _ _ h => grpStart_keeps h)

theorem xioEarly_keeps {s0 s : State} (h : Keeps s0 s) :
    Keeps s0 (xioEarly s) :=
  .foldlT h (fun _ _ h => .ite (grpClock_keeps h) h)

theorem xioStop_keeps {s0 s : State} (h : Keeps s0 s) :
    Keeps s0 (xioStop s) := by
  unfold xioStop
  extract_lets v1 v2 v4
  have h1 : Keeps s0 v1 := bridgesUnlock_keeps h
  try clear_value v1
  have h2 : Keeps s0 v2 := by
    unfold v2
    refine Keeps.foldlT h1 (fun s i h => ?_)
    extract_lets v3
    have h3 : Keeps s0 v3 := State.unmark_keeps (State.unmark_keeps (State.setGrp_keeps (grpClock_keeps h)))
    exact State.setReg_keeps (State.put_keeps h3)
  try clear_value v2
  try clear_value v4
  exact .upd h2 rfl

end Sys2Proof.Machine
end

