-- ==== Sys2Proof/Laws/KeepsStreams.lean ====
section
/-!
SUPPORT. What the operations of Machine/Streams.lean keep.
-/
namespace Sys2Proof.Machine

theorem inCheck_keeps {s0 s : State} (h : Keeps s0 s) :
    Keeps s0 (inCheck s) := by
  unfold inCheck
  extract_lets v1
  have h1 : Keeps s0 v1 := .foldlT h (fun _ _ h => .ite h (State.unmark_keeps h))
  try clear_value v1
  refine Keeps.foldlPairT h1 (fun s i h => ?_)
  split
  · refine Keeps.iteVia (π := Prod.snd) ?_ ?_
    · exact State.raise_keeps (State.mark_keeps (State.mark_keeps h))
    · exact State.unmark_keeps h

theorem egCheck_keeps {s0 s : State} (h : Keeps s0 s) :
    Keeps s0 (egCheck s) := by
  unfold egCheck
  extract_lets v1
  have h1 : Keeps s0 v1 := .foldlT h (fun _ _ h => .ite h (State.unmark_keeps h))
  try clear_value v1
  exact .foldlT h1 (fun _ _ h => .ite (State.raise_keeps (State.mark_keeps (State.mark_keeps h))) (State.unmark_keeps h))

theorem genTake_keeps {s0 s : State} {i : Nat} (h : Keeps s0 s) :
    Keeps s0 (genTake s i) := by
  unfold genTake
  extract_lets v1
  try clear_value v1
  exact .ite (State.bump_keeps h) (State.put_keeps (.upd h rfl))

theorem egRunning_keeps {s0 s : State} (h : Keeps s0 s) :
    Keeps s0 (egRunning s) := by
  unfold egRunning
  extract_lets v1
  have h1 : Keeps s0 v1 := .foldlT h (fun _ _ h => State.unmark_keeps h)
  try clear_value v1
  exact .ite (.foldlT h1 (fun _ _ h => State.mark_keeps h)) h1

theorem sxeCheck_keeps {s0 s : State} (h : Keeps s0 s) :
    Keeps s0 (sxeCheck s) := by
  unfold sxeCheck
  extract_lets v1 v2 v3 v4 v5 v6 v7 v8 v9
  have h1 : Keeps s0 v1 := egCheck_keeps (inCheck_keeps h)
  have h7 : Keeps s0 v7 := State.setReg_keeps (State.setReg_keeps h1)
  have h8 : Keeps s0 v8 := State.put_keeps (State.put_keeps h7)
  have h9 : Keeps s0 v9 := .ite (State.raise_keeps h8) h8
  exact .ite (State.raise_keeps h9) h9

theorem sxeStart_keeps {s0 s : State} {fresh : Bool} (h : Keeps s0 s) :
    Keeps s0 (sxeStart s fresh) := by
  unfold sxeStart
  extract_lets v1 v2 v3
  have h2 : Keeps s0 v2 := .upd h rfl
  try clear_value v2 v1
  have h3 : Keeps s0 v3 := .foldlT (State.mark_keeps h2) (fun _ _ h => State.unmark_keeps h)
  try clear_value v3
  exact .ite h (egRunning_keeps (.ite (.foldlT h3 (fun _ _ h => genTake_keeps h)) h3))

theorem sxeStop_keeps {s0 s : State} (h : Keeps s0 s) :
    Keeps s0 (sxeStop s) := by
  unfold sxeStop
  extract_lets v1
  try clear_value v1
  exact egRunning_keeps (State.unmark_keeps (.upd h rfl))

theorem inCommit_keeps {s0 s : State} {old : State} (h : Keeps s0 s) :
    Keeps s0 (inCommit old s) := by
  unfold inCommit
  extract_lets v1 v2 v3 v4 v5
  have h1 : Keeps s0 v1 := inCheck_keeps h
  try clear_value v1
  have h2 : Keeps s0 v2 := .foldlT h1 (fun _ _ h => .ite h (State.unmark_keeps h))
  try clear_value v2
  try clear_value v5
  exact .upd h2 rfl

theorem egCommit_keeps {s0 s : State} {old : State} (h : Keeps s0 s) :
    Keeps s0 (egCommit old s) := by
  unfold egCommit
  extract_lets v1 v2 v3 v4
  have h1 : Keeps s0 v1 := egCheck_keeps h
  try clear_value v1
  have h2 : Keeps s0 v2 := .foldlT h1 (fun _ _ h => .ite (genTake_keeps h) h)
  try clear_value v2
  try clear_value v4
  exact egRunning_keeps (.upd h2 rfl)

theorem State.setIn_keeps {s0 s : State} {x : InCtx} (h : Keeps s0 s) :
    Keeps s0 (State.setIn s x) := by
  unfold State.setIn
  extract_lets v1 v2
  try clear_value v2
  exact .upd h rfl

theorem inCount_keeps {s0 s : State} {l : Loc} {ev : Nat} (h : Keeps s0 s) :
    Keeps s0 (inCount s l ev) :=
  State.count_keeps (State.bump_keeps h)

theorem recover_keeps {s0 s : State} {i : Nat} {pth : Bool} {g : Nat} {sq : Nat} (h : Keeps s0 s) :
    Keeps s0 (recover s i pth g sq).2 := by
  unfold recover
  extract_lets v1 v2 v3 v4 v5 v6 v7 v8 v9 v10 v11
  have h11 : Keeps s0 v11.2.2 := by
    unfold v11
    split
    · exact State.mark_keeps (State.put_keeps h)
    · split
      · split
        · exact h
        · exact State.put_keeps h
      · exact h
  try clear_value v11
  try clear_value v11
  split
  · exact inCount_keeps (State.setIn_keeps h11)
  · extract_lets v14 v15 v16 v17 v18
    refine Keeps.iteVia (π := Prod.snd) ?_ ?_
    · exact State.setIn_keeps (State.put_keeps h11)
    · refine Keeps.iteVia (π := Prod.snd) ?_ ?_
      · exact inCount_keeps (State.setIn_keeps h11)
      · refine Keeps.iteVia (π := Prod.snd) ?_ ?_
        · exact State.setIn_keeps (State.put_keeps h11)
        · refine Keeps.iteVia (π := Prod.snd) ?_ ?_
          · exact inCount_keeps (State.setIn_keeps h11)
          · exact State.setIn_keeps h11

theorem storeFrame_keeps {s0 s : State} {i : Nat} {n : Nat} {rows : List (List Word)} (h : Keeps s0 s) :
    Keeps s0 (storeFrame s i n rows) := by
  unfold storeFrame
  split
  · rename_i _ _ s1 q1
    have h1 : Keeps s0 s1 := .ofPair22 q1 (by
      refine Keeps.foldlVia (π := fun x : _ × _ × _ => x.2.2) h (fun s i h => ?_)
      extract_lets v2
      refine Keeps.foldlVia (π := fun x : _ × _ × _ => x.2.2) h (fun s i h => ?_)
      split
      · split
        · rename_i _ s4 q4
          have h4 : Keeps s0 s4 := .ofPair q4 (storePut_keeps h)
          exact h4)
    extract_lets v5 v6
    have h5 : Keeps s0 v5 := .ite (inCount_keeps h1) h1
    exact .ite (State.setIn_keeps (inCount_keeps h5)) h5

theorem storeWindow_keeps {s0 s : State} {i : Nat} {a : Nat} {n : Int} {rows : List (List Word)} (h : Keeps s0 s) :
    Keeps s0 (storeWindow s i a n rows) := by
  unfold storeWindow
  extract_lets v1 v2 v3 v4 v5 v6 v7
  have h5 : Keeps s0 v5 := .ite (inCount_keeps h) h
  try clear_value v5
  have h6 : Keeps s0 v6 := .ite (inCount_keeps h5) h5
  try clear_value v6
  try clear_value v7
  split
  · exact h6
  · exact storeFrame_keeps h6

theorem malformed_keeps {s0 s : State} {i : Nat} (h : Keeps s0 s) :
    Keeps s0 (malformed s i) :=
  inCount_keeps h

theorem rxNative_keeps {s0 s : State} {i : Nat} {v : List Byte} {a : Nat} (h : Keeps s0 s) :
    Keeps s0 (rxNative s i v a) := by
  unfold rxNative
  extract_lets v1 v2 v3 v4 v5 v6
  refine Keeps.ite ?_ ?_
  · exact malformed_keeps h
  · refine Keeps.ite ?_ ?_
    · exact inCount_keeps h
    · refine Keeps.ite ?_ ?_
      · exact inCount_keeps h
      · refine Keeps.ite ?_ ?_
        · exact State.bump_keeps h
        · split
          · rename_i s7 q7
            have h7 : Keeps s0 s7 := .ofPair q7 (recover_keeps h)
            exact h7
          · rename_i s8 q8
            have h8 : Keeps s0 s8 := .ofPair q8 (recover_keeps h)
            exact storeFrame_keeps h8

theorem rxAaf_keeps {s0 s : State} {i : Nat} {v : List Byte} {a : Nat} {t16 : Nat} (h : Keeps s0 s) :
    Keeps s0 (rxAaf s i v a t16) := by
  unfold rxAaf
  extract_lets v1 v2 v3 v4 v5 v6 v7 v8 v9 v10
  exact .ite (malformed_keeps h) (storeWindow_keeps h)

theorem rxAes67_keeps {s0 s : State} {i : Nat} {u : UdpPkt} {a : Nat} {t16 : Nat} (h : Keeps s0 s) :
    Keeps s0 (rxAes67 s i u a t16) := by
  unfold rxAes67
  extract_lets v1 v2 v3 v4 v5 v6
  split
  · exact malformed_keeps h
  · extract_lets v7 v8
    exact .ite (malformed_keeps h) (storeWindow_keeps h)

theorem claim_keeps {s0 s : State} {i : Nat} {p : Nat} {trunc : Bool} {f : State → State} (h : Keeps s0 s)
    (hf : ∀ s, Keeps s0 s → Keeps s0 (f s)) :
    Keeps s0 (claim s i p trunc f) :=
  .ite (malformed_keeps h) (mirrorFlush_keeps (hf _ h))

theorem sxeReceive_keeps {s0 s : State} {p : Nat} {b : List Byte} {trunc : Bool} {ts : Nat} (h : Keeps s0 s) :
    Keeps s0 (sxeReceive s p b trunc ts).2 := by
  unfold sxeReceive
  extract_lets v1 v2 v3 v4 v5
  refine Keeps.iteVia (π := Prod.snd) ?_ ?_
  · exact h
  · refine Keeps.iteVia (π := Prod.snd) ?_ ?_
    · refine Keeps.iteVia (π := Prod.snd) ?_ ?_
      · exact h
      · split
        · exact claim_keeps h (fun s h => .ite (rxNative_keeps h) (rxAaf_keeps h))
        · exact State.bump_keeps h
    · split
      · exact h
      · split
        · exact claim_keeps h (fun s h => rxAes67_keeps h)
        · exact h

theorem State.setChSub_keeps {s0 s : State} {c : ChSub} (h : Keeps s0 s) :
    Keeps s0 (State.setChSub s c) := by
  unfold State.setChSub
  extract_lets v1 v2
  try clear_value v2
  exact .upd h rfl

theorem ctxDeadline_keeps {s0 s : State} {i : Nat} {read : Nat → List (Option Word)} (h : Keeps s0 s) :
    Keeps s0 (ctxDeadline s i read).2 := by
  unfold ctxDeadline
  extract_lets v1 v2
  split
  · rename_i _ _ s3 q3
    have h3 : Keeps s0 s3 := .ofPair22 q3 (by
      refine Keeps.foldlVia (π := fun x : _ × _ × _ => x.2.2) h (fun s i h => ?_)
      split
      · extract_lets v5 v6 v7
        split
        · exact State.setChSub_keeps h)
    extract_lets v8
    have h8 : Keeps s0 v8 := State.put_keeps h3
    exact .ite h8 (State.count_keeps (State.raise_keeps (State.bump_keeps h8)))

theorem sxeDeadline_keeps {s0 s : State} {read : Nat → List (Option Word)} (h : Keeps s0 s) :
    Keeps s0 (sxeDeadline s read).2 := by
  unfold sxeDeadline
  refine Keeps.iteVia (π := Prod.snd) ?_ ?_
  · exact h
  · refine Keeps.foldlPairT h (fun s i h => ?_)
    split
    · extract_lets v2 v3 v4 v5
      have h5 : Keeps s0 v5 := State.setIn_keeps h
      try clear_value v5
      split
      · rename_i _ s6 q6
        have h6 : Keeps s0 s6 := .ofPair q6 (ctxDeadline_keeps h5)
        exact h6

theorem egSend_keeps {s0 s : State} {i : Nat} {k : Nat} {et : Nat} {body : Bool → List Byte} {aOk : Bool} {bOk : Bool}
    (h : Keeps s0 s) :
    Keeps s0 (egSend s i k et body aOk bOk) := by
  unfold egSend
  extract_lets v1 v2 v3 v4
  have h4 : Keeps s0 v4 := .ite (ethQueue_keeps h) h
  exact .ite (ethQueue_keeps h4) h4

theorem aesRows_keeps {s0 s : State} {i k : Nat} {aOk bOk : Bool} {n : Nat} {l : List (List Int)} (h : Keeps s0 s) :
    Keeps s0 (aesRows s i k aOk bOk n l) := by
  induction l generalizing s n with
  | nil => exact h
  | cons row t ih =>
    unfold aesRows
    extract_lets S put
    split
    rename_i sq rows s1 q
    have h1 : Keeps s0 s1 := .ofPair22 q (by
      split
      · exact h
      · exact State.freeNat_keeps h)
    clear q
    extract_lets rows2 s2
    have h2 : Keeps s0 s2 := .ite (egSend_keeps (.upd (State.freeNat_keeps h1) rfl)) (.upd h1 rfl)
    exact ih h2

theorem egPack_keeps {s0 s : State} {aOk : Bool} {bOk : Bool} (h : Keeps s0 s) :
    Keeps s0 (egPack s aOk bOk) := by
  unfold egPack
  extract_lets v1
  refine Keeps.ite ?_ ?_
  · exact h
  · refine Keeps.foldlT h (fun s i h => ?_)
    extract_lets v2 v3 v4 v5
    split
    · exact aesRows_keeps h
    · exact egSend_keeps h

theorem egDrop_keeps {s0 s : State} {gone : Nat → Bool} {tell : State → Nat → State} (h : Keeps s0 s)
    (hf : ∀ s x1, Keeps s0 s → Keeps s0 (tell s x1)) :
    Keeps s0 (egDrop s gone tell) := by
  unfold egDrop
  extract_lets v1
  refine Keeps.foldlT h (fun s i h => ?_)
  extract_lets v2 v3 v4
  have h4 : Keeps s0 v4 := State.setEport_keeps h
  try clear_value v4
  refine Keeps.ite ?_ ?_
  · exact h
  · refine Keeps.foldlT h4 (fun s i h => ?_)
    split
    · exact hf _ _ h
    · exact h

theorem egLate_keeps {s0 s : State} (h : Keeps s0 s) :
    Keeps s0 (egLate s) :=
  egDrop_keeps h (fun s _ h => State.count_keeps (State.bump_keeps h))

theorem sxeTimeSet_keeps {s0 s : State} (h : Keeps s0 s) :
    Keeps s0 (sxeTimeSet s) := by
  unfold sxeTimeSet
  extract_lets v1 v2
  have h1 : Keeps s0 v1 := egDrop_keeps h (fun s _ h => h)
  try clear_value v1
  try clear_value v2
  exact .upd h1 rfl

end Sys2Proof.Machine
end

