-- ==== Sys2Proof/Laws/KeepsCommit.lean ====
section
/-!
SUPPORT. What the operations of Machine/Commit.lean keep.
-/
namespace Sys2Proof.Machine

theorem journalAdd_keeps {s0 s : State} {w : List Word} (h : Keeps s0 s) :
    Keeps s0 (journalAdd s w) := by
  unfold journalAdd
  extract_lets v1
  try clear_value v1
  exact .upd h rfl

theorem journalWrite_keeps {s0 s : State} {route : Route} {kind : Nat} {a : Nat} {v : Word} {target : Nat} {pn : Nat}
    {tag : Option FwdTag} (h : Keeps s0 s) :
    Keeps s0 (journalWrite s route kind a v target pn tag) := by
  unfold journalWrite
  extract_lets v1 v2 v3
  have h3 : Keeps s0 v3 := State.count_keeps h
  exact .ite h (journalAdd_keeps h3)

theorem staleJournal_keeps {s0 s : State} (h : Keeps s0 s) :
    Keeps s0 (staleJournal s) := by
  unfold staleJournal
  extract_lets v1
  try clear_value v1
  exact .upd h rfl

theorem State.setGroup_keeps {s0 s : State} {g : Fin 32} {x : CommitGroup} (h : Keeps s0 s) :
    Keeps s0 (State.setGroup s g x) := by
  unfold State.setGroup
  extract_lets v1
  try clear_value v1
  exact .upd h rfl

theorem fixOpen_keeps {s0 s : State} {g : Fin 32} (h : Keeps s0 s) :
    Keeps s0 (fixOpen s g) := by
  unfold fixOpen
  extract_lets v1
  have h1 : Keeps s0 v1 := .ite (State.bump_keeps h) h
  try clear_value v1
  split
  · exact h
  · exact State.setGroup_keeps h1

theorem unfix_keeps {s0 s : State} {g : Fin 32} {p : Nat} (h : Keeps s0 s) :
    Keeps s0 (unfix s g p) := by
  unfold unfix
  split
  · exact .ite (State.setGroup_keeps h) h
  · exact h

theorem fixPast_keeps {s0 s : State} {g : Fin 32} (h : Keeps s0 s) :
    Keeps s0 (fixPast s g) := by
  unfold fixPast
  split
  · exact .ite (fixOpen_keeps h) h
  · exact h

theorem commitWrite_keeps {s0 s : State} {g : Fin 32} {v : Word} {tag : Option FwdTag} (h : Keeps s0 s) :
    Keeps s0 (commitWrite s g v tag).2 := by
  unfold commitWrite
  extract_lets v1 v2
  refine Keeps.iteVia (π := Prod.snd) ?_ ?_
  · exact State.setGroup_keeps h
  · refine Keeps.iteVia (π := Prod.snd) ?_ ?_
    · exact State.raise_keeps (State.mark_keeps h)
    · split
      · extract_lets v3 v4 v5 v6
        have h3 : Keeps s0 v3 := .ite (State.raise_keeps (State.mark_keeps h)) h
        have h4 : Keeps s0 v4 := State.bump_keeps h3
        have h5 : Keeps s0 v5 := .ite (State.bump_keeps h4) h4
        exact fixPast_keeps (State.setGroup_keeps h5)

theorem applyContent_keeps {s0 s : State} {l : List (Nat × Word)} (h : Keeps s0 s) :
    Keeps s0 (applyContent s l) := by
  unfold applyContent
  refine Keeps.foldlT h (fun s i h => ?_)
  split
  · extract_lets v1
    exact State.setReg_keeps h

theorem groupHook_keeps {s0 s : State} {old : State} {g : Nat} (h : Keeps s0 s) :
    Keeps s0 (groupHook old s g) := by
  unfold groupHook
  split
  · exact gateCommit_keeps h
  · exact strCommit_keeps h
  · exact .ite (inCommit_keeps h) (inCheck_keeps h)
  · exact .ite (egCommit_keeps h) (egCheck_keeps h)
  · exact .ite (mashXpCommit_keeps h) h
  · exact .ite (mashDstCommit_keeps h) h
  · exact .ite (mashCondCommit_keeps h) h
  · exact .ite (paramSwap_keeps h) h

theorem commitApply_keeps {s0 s : State} {g : Fin 32} {f : Fixed} (h : Keeps s0 s) :
    Keeps s0 (commitApply s g f) := by
  unfold commitApply
  extract_lets v1 v2 v3 v4 v5
  have h1 : Keeps s0 v1 := h
  have h2 : Keeps s0 v2 := groupHook_keeps (applyContent_keeps h)
  have h4 : Keeps s0 v4 := State.setGroup_keeps h2
  have h5 : Keeps s0 v5 := State.put_keeps (State.put_keeps h4)
  exact State.count_keeps (State.mark_keeps h5)

theorem groupApply_keeps {s0 s : State} {g : Fin 32} (h : Keeps s0 s) :
    Keeps s0 (groupApply s g) := by
  unfold groupApply
  split
  · exact h
  · exact .ite h (.ite h (commitApply_keeps h))

theorem commitBoundary_keeps {s0 s : State} (h : Keeps s0 s) :
    Keeps s0 (commitBoundary s) := by
  unfold commitBoundary
  extract_lets v1
  have h1 : Keeps s0 v1 := .ite (.foldlT h (fun _ _ h => groupApply_keeps h)) h
  try clear_value v1
  exact .foldlT h1 (fun _ _ h => fixPast_keeps h)

end Sys2Proof.Machine
end

