-- ==== Sys2Proof/Laws/KeepsCoreEvents.lean ====
section
/-!
SUPPORT. What the operations of Machine/CoreEvents.lean keep.
-/
namespace Sys2Proof.Machine

theorem execSliceTimer_keeps {s0 s : State} {c : Fin 16} {i : Fin 8} (h : Keeps s0 s) {t : State}
    (e : execSliceTimer c i s = .next t) : Keeps s0 t := by
  refine Cmd.run_keeps h (fun s h => ?_) e
  extract_lets v1 v2 v3
  have h2 : Keeps s0 v2 := ageTo_keeps h
  exact .ite h (.ite (State.mark_keeps h2) (State.setCore_keeps h2))

theorem execLevel1EventEntry_keeps {s0 s : State} {c : Fin 16} (h : Keeps s0 s) {t : State}
    (e : execLevel1EventEntry c s = .next t) : Keeps s0 t := by
  refine Cmd.run_keeps h (fun s h => ?_) e
  extract_lets v1
  exact .ite (State.setCore_keeps h) h

theorem execLevel2EventEntry_keeps {s0 s : State} {c : Fin 16} (h : Keeps s0 s) {t : State}
    (e : execLevel2EventEntry c s = .next t) : Keeps s0 t := by
  refine Cmd.run_keeps h (fun s h => ?_) e
  extract_lets v1
  refine Keeps.ite ?_ ?_
  · split
    · extract_lets v2
      exact State.count_keeps (State.setCore_keeps h)
  · exact h

theorem debugRequest_keeps {s0 s : State} {c : Fin 16} {k' : Core} (h : Keeps s0 s) :
    Keeps s0 (debugRequest s c k') := by
  unfold debugRequest
  extract_lets v1 v2
  have h2 : Keeps s0 v2 := State.mark_keeps h
  exact .ite h (.ite (.ite (State.setCore_keeps h2) (State.setCore_keeps h2)) (.ite (State.mark_keeps (State.setCore_keeps h)) h))

theorem debugHalt_keeps {s0 s : State} {c : Fin 16} (h : Keeps s0 s) :
    Keeps s0 (debugHalt s c) := by
  unfold debugHalt
  extract_lets v1
  exact .ite h (debugRequest_keeps h)

theorem coreRest_keeps {s0 s : State} {c : Fin 16} (h : Keeps s0 s) :
    Keeps s0 (coreRest s c) := by
  unfold coreRest
  extract_lets v1
  have h1 : Keeps s0 v1 := ageTo_keeps h
  exact State.setCore_keeps h1

theorem debugResume_keeps {s0 s : State} {c : Fin 16} (h : Keeps s0 s) :
    Keeps s0 (debugResume s c) := by
  unfold debugResume
  extract_lets v1 v2
  have h1 : Keeps s0 v1 := coreRest_keeps h
  exact .ite (State.setCore_keeps h1) h

theorem debugStep_keeps {s0 s : State} {c : Fin 16} (h : Keeps s0 s) :
    Keeps s0 (debugStep s c) := by
  unfold debugStep
  extract_lets v1 v2 v3
  have h2 : Keeps s0 v2 := coreRest_keeps h
  exact .ite h (.ite (State.mark_keeps (State.setCore_keeps h2)) (debugRequest_keeps h))

theorem trigCoreCtrl_keeps {s0 s : State} {c : Fin 16} {data : Word} (h : Keeps s0 s) :
    Keeps s0 (trigCoreCtrl s c data) := by
  unfold trigCoreCtrl
  extract_lets v1 v2
  have h1 : Keeps s0 v1 := .ite (debugHalt_keeps h) h
  have h2 : Keeps s0 v2 := .ite (debugResume_keeps h1) h1
  exact .ite (debugStep_keeps h2) h2

theorem execBreakpointMatch_keeps {s0 s : State} {c : Fin 16} (h : Keeps s0 s) {t : State}
    (e : execBreakpointMatch c s = .next t) : Keeps s0 t := by
  refine Cmd.run_keeps h (fun s h => ?_) e
  extract_lets v1 v2 v3
  exact .ite (State.mark_keeps (State.setCore_keeps h)) h

theorem debugWrite_keeps {s0 s : State} {c : Fin 16} {v : Word} (h : Keeps s0 s) :
    Keeps s0 (debugWrite s c v) := by
  unfold debugWrite
  extract_lets v1 v2 v3 v4 v5 v6 v7 v8
  exact .ite h (.ite (State.setCore_keeps h) (.ite (State.setCore_keeps h) (.ite (State.setCore_keeps h) h)))

end Sys2Proof.Machine
end

