-- ==== Sys2Proof/Laws/KeepsFlash.lean ====
section
/-!
SUPPORT. What the operations of Machine/Flash.lean keep.
-/
namespace Sys2Proof.Machine

theorem State.setFlash_keeps {s0 s : State} {a : Nat} {b : Byte} (h : Keeps s0 s) : Keeps s0 (s.setFlash a b) :=
  ⟨h.pending, h.fuses, h.mem, h.regs, h.shadow, fun x => Sparse.wf_set _ _ (h.flash x), h.queue⟩

theorem flashErase_keeps {s0 s : State} {a n : Nat} (h : Keeps s0 s) : Keeps s0 (flashErase s a n) :=
  ⟨h.pending, h.fuses, h.mem, h.regs, h.shadow, fun x => Sparse.wf_filter _ (h.flash x), h.queue⟩

theorem flashProgram_keeps {s0 s : State} {a : Nat} {b : Byte} (h : Keeps s0 s) :
    Keeps s0 (flashProgram s a b) := by
  unfold flashProgram
  extract_lets v1
  refine Keeps.ite ?_ ?_
  · exact State.setFlash_keeps h
  · split
    · rename_i _ s2 q2
      have h2 : Keeps s0 s2 := .ofPair q2 (State.freeByte_keeps h)
      exact State.setFlash_keeps h2

theorem trigFlash_keeps {s0 s : State} {v : Word} {status : Option Word} (h : Keeps s0 s) :
    Keeps s0 (trigFlash s v status) := by
  unfold trigFlash
  extract_lets v1 v2
  have h2 : Keeps s0 v2 := State.put_keeps h
  try clear_value v2
  refine Keeps.ite ?_ ?_
  · exact h2
  · refine Keeps.ite ?_ ?_
    · exact State.mark_keeps h2
    · split
      · refine Keeps.ite ?_ ?_
        · exact State.raise_keeps (State.mark_keeps h2)
        · split
          · rename_i _ s3 q3
            have h3 : Keeps s0 s3 := .ofPair q3 (by
              split
              · exact h2
              · exact State.freeWord_keeps h2)
            extract_lets v4 v5
            have h5 : Keeps s0 v5 := .upd h3 rfl
            exact State.mark_keeps (State.unmark_keeps h5)

theorem flashDone_keeps {s0 s : State} {op : Nat} {a : Nat} {w : Word} (h : Keeps s0 s) :
    Keeps s0 (flashDone s op a w) := by
  unfold flashDone
  split
  · exact .foldlT h (fun _ _ h => State.setReg_keeps h)
  · refine Keeps.foldlT h (fun s i h => ?_)
    split
    · exact flashProgram_keeps h
  · exact State.setReg_keeps h
  · exact flashErase_keeps h

theorem flashFailed_keeps {s0 s : State} {op : Nat} {a : Nat} (h : Keeps s0 s) :
    Keeps s0 (flashFailed s op a) := by
  unfold flashFailed
  refine Keeps.ite ?_ ?_
  · exact h
  · refine Keeps.foldlT h (fun s i h => ?_)
    split
    · rename_i _ s1 q1
      have h1 : Keeps s0 s1 := .ofPair q1 (State.freeByte_keeps h)
      exact State.setFlash_keeps h1

theorem execFlOpComplete_keeps {s0 s : State} {ok : Bool} (h : Keeps s0 s) {t : State}
    (e : execFlOpComplete ok s = .next t) : Keeps s0 t := by
  refine Cmd.run_keeps h (fun s h => ?_) e
  extract_lets v1 v2
  have h2 : Keeps s0 v2 := State.unmark_keeps (.upd h rfl)
  try clear_value v2 v1
  split
  · exact h
  · exact .ite (flashDone_keeps h2) (State.mark_keeps (flashFailed_keeps h2))

end Sys2Proof.Machine
end

