-- ==== Sys2Proof/Laws/KeepsKiln.lean ====
section
/-!
SUPPORT. What the operations of Machine/Kiln.lean keep.
-/
namespace Sys2Proof.Machine

theorem State.setPend_keeps {s0 s : State} {v : Int} (h : Keeps s0 s) :
    Keeps s0 (State.setPend s v) := by
  unfold State.setPend
  extract_lets v1
  try clear_value v1
  exact .upd h rfl

theorem segNote_keeps {s0 s : State} (h : Keeps s0 s) :
    Keeps s0 (segNote s) := by
  unfold segNote
  extract_lets v1 v2
  try clear_value v1
  exact .upd h rfl

theorem loopTo_keeps {s0 s : State} {g : Int} (h : Keeps s0 s) :
    Keeps s0 (loopTo s g) := by
  unfold loopTo
  extract_lets v1 v2
  have h1 : Keeps s0 v1 := segNote_keeps h
  try clear_value v1
  try clear_value v2
  exact .upd h1 rfl

theorem driftWritten_keeps {s0 s : State} {old : Nat} (h : Keeps s0 s) :
    Keeps s0 (driftWritten old s) := by
  unfold driftWritten
  extract_lets v1 v2 v3
  have h2 : Keeps s0 v2 := segNote_keeps h
  try clear_value v2
  try clear_value v3
  exact .upd h2 rfl

theorem addPend_keeps {s0 s : State} {d : Int} (h : Keeps s0 s) :
    Keeps s0 (addPend s d) := by
  unfold addPend
  extract_lets v1 v2 v3 v4 v5
  have h3 : Keeps s0 v3 := .ite h (State.raise_keeps (State.mark_keeps h))
  try clear_value v3
  have h4 : Keeps s0 v4 := State.setPend_keeps h3
  try clear_value v4
  try clear_value v5
  exact .ite h (.ite (.upd h4 rfl) h4)

theorem slewWritten_keeps {s0 s : State} {old : Nat} (h : Keeps s0 s) :
    Keeps s0 (slewWritten old s) := by
  unfold slewWritten
  extract_lets v1 v2 v3
  have h2 : Keeps s0 v2 := State.setPend_keeps h
  try clear_value v2
  try clear_value v3
  exact .ite (.upd h2 rfl) h2

theorem trigPhaseStep_keeps {s0 s : State} {v : Word} (h : Keeps s0 s) :
    Keeps s0 (trigPhaseStep s v) := by
  unfold trigPhaseStep
  extract_lets v1
  exact .upd h rfl

theorem trigAlign_keeps {s0 s : State} {v : Word} (h : Keeps s0 s) :
    Keeps s0 (trigAlign s v) := by
  unfold trigAlign
  extract_lets v1
  exact .ite h (State.mark_keeps (.upd h rfl))

theorem State.setKref_keeps {s0 s : State} {i : Nat} {x : KilnRef} (h : Keeps s0 s) :
    Keeps s0 (State.setKref s i x) := by
  unfold State.setKref
  extract_lets v1
  try clear_value v1
  exact .upd h rfl

theorem setQual_keeps {s0 s : State} {i : Nat} {q : Nat} (h : Keeps s0 s) :
    Keeps s0 (setQual s i q) := by
  unfold setQual
  extract_lets v1
  have h1 : Keeps s0 v1 := .ite (State.mark_keeps h) h
  exact State.put_keeps h1

theorem refUpdate_keeps {s0 s : State} {i : Nat} {dt : Nat} (h : Keeps s0 s) :
    Keeps s0 (refUpdate s i dt) := by
  unfold refUpdate
  extract_lets v1 v2 v3 v4 v5 v6 v7
  exact .ite (State.setKref_keeps (setQual_keeps h)) (.ite h (.ite (State.setKref_keeps (setQual_keeps h)) (State.setKref_keeps (setQual_keeps h))))

theorem watchRefs_keeps {s0 s : State} (h : Keeps s0 s) :
    Keeps s0 (watchRefs s) := by
  unfold watchRefs
  extract_lets v1 v2 v3 v4 v5 v6
  have h5 : Keeps s0 v5 := .ite (State.raise_keeps (State.mark_keeps h)) h
  have h6 : Keeps s0 v6 := .ite (State.raise_keeps (State.mark_keeps h5)) h5
  exact State.put_keeps (State.put_keeps h6)

theorem refChosen_keeps {s0 s : State} (h : Keeps s0 s) :
    Keeps s0 (refChosen s) := by
  unfold refChosen
  extract_lets v1
  try clear_value v1
  exact watchRefs_keeps (.upd h rfl)

theorem refActive_keeps {s0 s : State} {i : Nat} {on : Bool} (h : Keeps s0 s) :
    Keeps s0 (refActive s i on) :=
  .ite h (refChosen_keeps (refUpdate_keeps (State.put_keeps h)))

theorem refFollow_keeps {s0 s : State} {i : Nat} (h : Keeps s0 s) :
    Keeps s0 (refFollow s i) :=
  .ite (refActive_keeps h) h

theorem lockWatch_keeps {s0 s : State} (h : Keeps s0 s) :
    Keeps s0 (lockWatch s) := by
  unfold lockWatch
  extract_lets v1 v2
  try clear_value v2
  exact .upd h rfl

theorem loopFollow_keeps {s0 s : State} {i : Nat} (h : Keeps s0 s) :
    Keeps s0 (loopFollow s i) := by
  unfold loopFollow
  extract_lets v1 v2 v3 v4
  exact .ite (loopTo_keeps (.upd h rfl)) h

theorem refMeasured_keeps {s0 s : State} {i : Nat} {f : Int} {dt : Nat} {ph : Int} (h : Keeps s0 s) :
    Keeps s0 (refMeasured s i f dt ph) := by
  unfold refMeasured
  extract_lets v1 v2 v3 v4
  have h1 : Keeps s0 v1 := State.setReg_keeps (State.mark_keeps h)
  have h3 : Keeps s0 v3 := State.setKref_keeps h1
  have h4 : Keeps s0 v4 := .ite (State.setReg_keeps h3) h3
  exact lockWatch_keeps (refChosen_keeps (refUpdate_keeps (loopFollow_keeps h4)))

theorem execRefMeasurement_keeps {s0 s : State} {i : Fin 14} {f : BitVec 32} {dt : Nat} {ph : BitVec 32}
    (h : Keeps s0 s) {t : State}
    (e : execRefMeasurement i f dt ph s = .next t) : Keeps s0 t := by
  refine Cmd.run_keeps h (fun s h => ?_) e
  extract_lets v1 v2
  have h2 : Keeps s0 v2 := refMeasured_keeps h
  try clear_value v2 v1
  refine Keeps.ite ?_ ?_
  · exact h
  · refine Keeps.dite (fun _ => ?_) (fun _ => ?_)
    · extract_lets v3 v4 v5
      have h4 : Keeps s0 v4 := .upd h rfl
      exact .ite h (refMeasured_keeps h4)
    · exact .ite (.foldlT h2 (fun _ _ h => .ite (domUnlock_keeps h) h)) h2

theorem execSlewComplete_keeps {s0 s : State} (h : Keeps s0 s) {t : State}
    (e : execSlewComplete s = .next t) : Keeps s0 t :=
  Cmd.run_keeps h (fun _ h => .ite h (lockWatch_keeps (State.setPend_keeps h))) e

theorem execRefActivityLoss_keeps {s0 s : State} {i : Fin 14} (h : Keeps s0 s) {t : State}
    (e : execRefActivityLoss i s = .next t) : Keeps s0 t :=
  Cmd.run_keeps h (fun _ h => .ite h (.foldlT (refActive_keeps h) (fun _ _ h => .ite (domUnlock_keeps h) h))) e

theorem refReset_keeps {s0 s : State} {i : Nat} (h : Keeps s0 s) :
    Keeps s0 (refReset s i) := by
  unfold refReset
  extract_lets v1
  exact refChosen_keeps (State.setKref_keeps (setQual_keeps h))

theorem refCfgWritten_keeps {s0 s : State} {old : Word} {i : Nat} (h : Keeps s0 s) :
    Keeps s0 (refCfgWritten old i s) := by
  unfold refCfgWritten
  extract_lets v1
  have h1 : Keeps s0 v1 := .ite (refReset_keeps h) (watchRefs_keeps h)
  exact .ite (refChosen_keeps (refUpdate_keeps (State.unmark_keeps h1))) (.ite (refActive_keeps h1) h1)

theorem execLockDeclare_keeps {s0 s : State} (h : Keeps s0 s) {t : State}
    (e : execLockDeclare s = .next t) : Keeps s0 t := by
  refine Cmd.run_keeps h (fun s h => ?_) e
  extract_lets v1 v2
  try clear_value v2
  exact .ite (.upd h rfl) h

theorem execFreerunReturn_keeps {s0 s : State} (h : Keeps s0 s) {t : State}
    (e : execFreerunReturn s = .next t) : Keeps s0 t := by
  refine Cmd.run_keeps h (fun s h => ?_) e
  extract_lets v1
  try clear_value v1
  exact .ite (.upd h rfl) h

theorem execHoldoverExpiry_keeps {s0 s : State} (h : Keeps s0 s) {t : State}
    (e : execHoldoverExpiry s = .next t) : Keeps s0 t := by
  refine Cmd.run_keeps h (fun s h => ?_) e
  extract_lets v1
  try clear_value v1
  exact .ite (.upd h rfl) h

theorem ptpRequest_keeps {s0 s : State} {d : Nat} (h : Keeps s0 s) :
    Keeps s0 (ptpRequest s d) := by
  unfold ptpRequest
  extract_lets v1 v2 v3 v4
  have h1 : Keeps s0 v1 := State.mark_keeps h
  try clear_value v1
  try clear_value v4 v3
  exact .upd h1 rfl

theorem State.setLag_keeps {s0 s : State} {n : Int} (h : Keeps s0 s) :
    Keeps s0 (State.setLag s n) := by
  unfold State.setLag
  extract_lets v1 v2
  try clear_value v2
  exact State.put_keeps (.upd h rfl)

theorem timeSet_keeps {s0 s : State} (h : Keeps s0 s) :
    Keeps s0 (timeSet s) := by
  unfold timeSet
  extract_lets v1 v2 v3 v4 v5 v6 v7 v8 v9 v10 v11 v12
  have h6 : Keeps s0 v6 := .upd h rfl
  try clear_value v6
  have h7 : Keeps s0 v7 := State.setLag_keeps h6
  try clear_value v7
  have h8 : Keeps s0 v8 := State.setPend_keeps h7
  try clear_value v8
  have h11 : Keeps s0 v11 := .upd h8 rfl
  have h12 : Keeps s0 v12 := State.bump_keeps (State.mark_keeps (State.unmark_keeps h11))
  exact State.raise_keeps h12

theorem kilnSet_keeps {s0 s : State} (h : Keeps s0 s) :
    Keeps s0 (kilnSet s).2 := by
  unfold kilnSet
  extract_lets v1
  have h1 : Keeps s0 v1 := timeSet_keeps h
  try clear_value v1
  split
  · refine Keeps.iteVia (π := Prod.snd) ?_ ?_
    · exact h1
    · exact h
  · exact h

theorem kilnSwitch_keeps {s0 s : State} (h : Keeps s0 s) :
    Keeps s0 (kilnSwitch s).2 := by
  unfold kilnSwitch
  extract_lets v1 v2
  split
  · extract_lets v3 v4 v5 v6 v7 v8 v9
    have h3 : Keeps s0 v3 := State.put_keeps (State.put_keeps h)
    try clear_value v3
    have h5 : Keeps s0 v5 := State.mark_keeps (State.bump_keeps h3)
    try clear_value v5
    have h6 : Keeps s0 v6 := .foldlT h5 (fun _ _ h => State.raise_keeps h)
    try clear_value v6
    have h7 : Keeps s0 v7 := State.put_keeps h6
    try clear_value v7
    have h8 : Keeps s0 v8 := watchRefs_keeps h7
    try clear_value v8
    have h9 : Keeps s0 v9 := State.setReg_keeps h8
    try clear_value v9
    refine Keeps.iteVia (π := Prod.snd) ?_ ?_
    · exact h
    · refine Keeps.iteVia (π := Prod.snd) ?_ ?_
      · exact h8
      · refine Keeps.iteVia (π := Prod.snd) ?_ ?_
        · exact h9
        · refine Keeps.iteVia (π := Prod.snd) ?_ ?_
          · refine Keeps.iteVia (π := Prod.snd) ?_ ?_
            · exact h9
            · exact ptpRequest_keeps h9
          · exact h9

theorem kilnTo_keeps {s0 s : State} {st : Nat} {lock : Bool} (h : Keeps s0 s) :
    Keeps s0 (kilnTo s st lock) := by
  unfold kilnTo
  extract_lets v1 v2 v3 v4 v5 v6 v7 v8 v9
  have h3 : Keeps s0 v3 := .ite (State.raise_keeps h) h
  try clear_value v3
  have h4 : Keeps s0 v4 := .ite (State.raise_keeps (State.mark_keeps h3)) h3
  try clear_value v4
  have h5 : Keeps s0 v5 := segNote_keeps h4
  try clear_value v5
  have h6 : Keeps s0 v6 := loopTo_keeps h5
  try clear_value v6
  have h9 : Keeps s0 v9 := .ite (State.raise_keeps (State.mark_keeps (.upd h6 rfl))) (.ite (loopTo_keeps h5) (.ite (.upd h5 rfl) h5))
  exact State.put_keeps (State.put_keeps h9)

theorem kilnTransition_keeps {s0 s : State} {req0 : Option Nat} (h : Keeps s0 s) :
    Keeps s0 (kilnTransition req0 s) := by
  unfold kilnTransition
  extract_lets v1 v2 v3 v4 v5 v6
  have h4 : Keeps s0 v4 := .upd h rfl
  try clear_value v4 v3
  try clear_value v6
  split
  · exact kilnTo_keeps (.upd h4 rfl)
  · split
    · exact .ite (kilnTo_keeps h4) (kilnTo_keeps h4)
    · exact .ite (kilnTo_keeps h4) (.ite (kilnTo_keeps h4) h4)
    · exact .ite h4 (.ite (kilnTo_keeps h4) (kilnTo_keeps h4))
    · exact .ite (kilnTo_keeps h4) (.ite (kilnTo_keeps h4) h4)

theorem kilnRealign_keeps {s0 s : State} (h : Keeps s0 s) :
    Keeps s0 (kilnRealign s) := by
  unfold kilnRealign
  extract_lets v1 v2 v3 v4 v5 v6
  have h2 : Keeps s0 v2 := .foldlT h (fun _ _ h => .ite (grpTake_keeps h) h)
  try clear_value v2 v1
  have h6 : Keeps s0 v6 := .upd h2 rfl
  exact State.mark_keeps (State.unmark_keeps (State.setLag_keeps h6))

theorem poutPulse_keeps {s0 s : State} (h : Keeps s0 s) :
    Keeps s0 (poutPulse s) := by
  unfold poutPulse
  extract_lets v1
  exact .ite (State.emit_keeps h) h

theorem ppsPulse_keeps {s0 s : State} (h : Keeps s0 s) :
    Keeps s0 (ppsPulse s) :=
  .ite (State.emit_keeps h) h

theorem pulsesDue_keeps {s0 s : State} (h : Keeps s0 s) :
    Keeps s0 (pulsesDue s) := by
  unfold pulsesDue
  extract_lets v1 v2 v3 v4 v5
  have h5 : Keeps s0 v5 := .upd h rfl
  try clear_value v5 v4
  exact .foldlT (.foldlT h5 (fun _ _ h => poutPulse_keeps h)) (fun _ _ h => ppsPulse_keeps h)

theorem wckWave_keeps {s0 s : State} {k : Nat} (h : Keeps s0 s) :
    Keeps s0 (wckWave s k) := by
  unfold wckWave
  extract_lets v1 v2 v3
  exact .ite (State.emit_keeps h) h

theorem kilnPulses_keeps {s0 s : State} (h : Keeps s0 s) :
    Keeps s0 (kilnPulses s) := by
  unfold kilnPulses
  extract_lets v1 v2 v3 v4 v5 v6 v7 v8 v9
  have h6 : Keeps s0 v6 := .upd h rfl
  try clear_value v6 v2
  have h7 : Keeps s0 v7 := pulsesDue_keeps h6
  try clear_value v7
  have h8 : Keeps s0 v8 := .ite (.foldlT h7 (fun _ _ h => wckWave_keeps h)) h7
  try clear_value v8
  try clear_value v9
  exact .upd h8 rfl

theorem kilnBoundary_keeps {s0 s : State} {steps : Int} {align : Bool} (h : Keeps s0 s) :
    Keeps s0 (kilnBoundary s steps align) := by
  unfold kilnBoundary
  extract_lets v1
  split
  · rename_i _ s2 q2
    have h2 : Keeps s0 s2 := .ofPair q2 (kilnSwitch_keeps h)
    extract_lets v3 v4 v5 v6
    have h3 : Keeps s0 v3 := kilnTransition_keeps h2
    have h4 : Keeps s0 v4 := addPend_keeps h3
    have h5 : Keeps s0 v5 := State.put_keeps h4
    have h6 : Keeps s0 v6 := watchRefs_keeps (lockWatch_keeps h5)
    exact .ite (kilnRealign_keeps h6) h6

theorem kilnIdle_keeps {s0 s : State} {steps : Int} {align : Bool} (h : Keeps s0 s) :
    Keeps s0 (kilnIdle s steps align) := by
  unfold kilnIdle
  extract_lets v1
  have h1 : Keeps s0 v1 := addPend_keeps h
  exact .ite (kilnRealign_keeps h1) h1

theorem synthStart_keeps {s0 s : State} {run : Bool} (h : Keeps s0 s) :
    Keeps s0 (synthStart s run) :=
  .foldlT h (fun _ _ h => .ite (State.put_keeps h) h)

theorem domWritten_keeps {s0 s : State} {old : Word} {d : Nat} (h : Keeps s0 s) :
    Keeps s0 (domWritten old s d) :=
  .ite (State.unmark_keeps h) h

theorem execDomainSynthLock_keeps {s0 s : State} {d : Fin 2} (h : Keeps s0 s) {t : State}
    (e : execDomainSynthLock d s = .next t) : Keeps s0 t :=
  Cmd.run_keeps h (fun _ h => .ite h (State.mark_keeps h)) e

theorem execDomainSynthUnlock_keeps {s0 s : State} {d : Fin 2} (h : Keeps s0 s) {t : State}
    (e : execDomainSynthUnlock d s = .next t) : Keeps s0 t :=
  Cmd.run_keeps h (fun _ h => domUnlock_keeps h) e

end Sys2Proof.Machine
end

