-- ==== Sys2Proof/Laws/KeepsPerf.lean ====
section
/-!
SUPPORT. What the operations of Machine/Perf.lean keep.
-/
namespace Sys2Proof.Machine

theorem perfTime_keeps {s0 s : State} {dt : Nat} (h : Keeps s0 s) :
    Keeps s0 (perfTime s dt) := by
  unfold perfTime
  refine Keeps.ite ?_ ?_
  · exact h
  · refine Keeps.foldlT h (fun s i h => ?_)
    refine Keeps.ite ?_ ?_
    · exact h
    · split
      · exact h
      · extract_lets v1 v2
        exact .ite h (perfAdd_keeps h)

theorem trigPerf_keeps {s0 s : State} {v : Word} (h : Keeps s0 s) :
    Keeps s0 (trigPerf s v) := by
  unfold trigPerf
  extract_lets v1 v2 v3 v4
  have h1 : Keeps s0 v1 := State.put_keeps h
  try clear_value v1
  have h3 : Keeps s0 v3 := .ite h1 (.upd h1 rfl)
  try clear_value v3 v2
  have h4 : Keeps s0 v4 := .foldlT h3 (fun _ _ h => State.setReg_keeps h)
  try clear_value v4
  exact .ite h3 (.foldlT h4 (fun _ _ h => State.setReg_keeps h))

theorem perfCntRead_keeps {s0 s : State} {i : Nat} (h : Keeps s0 s) :
    Keeps s0 (perfCntRead s i).2 := by
  unfold perfCntRead
  extract_lets v1 v2 v3
  have h3 : Keeps s0 v3 := .ite (.upd h rfl) h
  try clear_value v3 v2
  refine Keeps.iteVia (π := Prod.snd) ?_ ?_
  · exact h3
  · exact h

theorem execPerfCntRead_keeps {s0 s : State} {i : Fin 128} (h : Keeps s0 s) {t : State}
    (e : execPerfCntRead i s = .next t) : Keeps s0 t := by
  refine Cmd.run_keeps h (fun s h => ?_) e
  split
  · rename_i _ s1 q1
    have h1 : Keeps s0 s1 := .ofPair q1 (perfCntRead_keeps h)
    exact State.emit_keeps h1

theorem bwBoundary_keeps {s0 s : State} (h : Keeps s0 s) :
    Keeps s0 (bwBoundary s) := by
  unfold bwBoundary
  refine Keeps.ite ?_ ?_
  · exact h
  · refine Keeps.foldlT h (fun s i h => ?_)
    extract_lets v1 v2 v4
    have h2 : Keeps s0 v2 := by
      unfold v2
      split
      · exact h
      · extract_lets v3
        exact State.put_keeps (State.put_keeps h)
    try clear_value v2
    try clear_value v4
    exact .ite h (.upd h2 rfl)

theorem bwWritten_keeps {s0 s : State} {m : Nat} (h : Keeps s0 s) :
    Keeps s0 (bwWritten s m) := by
  unfold bwWritten
  extract_lets v1
  try clear_value v1
  exact State.put_keeps (.upd h rfl)

theorem tagWritten_keeps {s0 s : State} {old : State} {c : Fin 16} (h : Keeps s0 s) :
    Keeps s0 (tagWritten old s c) := by
  unfold tagWritten
  extract_lets v1 v2 v3 v4 v5
  have h3 : Keeps s0 v3 := .ite (.upd h rfl) h
  exact tagLoad_keeps (State.setCore_keeps h3)

theorem execTagCountdownExpiry_keeps {s0 s : State} {c : Fin 16} (h : Keeps s0 s) {t : State}
    (e : execTagCountdownExpiry c s = .next t) : Keeps s0 t := by
  refine Cmd.run_keeps h (fun s h => ?_) e
  extract_lets v1
  exact .ite h (workGo_keeps h)

theorem dumpWritten_keeps {s0 s : State} {old : State} (h : Keeps s0 s) :
    Keeps s0 (dumpWritten old s) := by
  unfold dumpWritten
  extract_lets v1
  try clear_value v1
  refine Keeps.ite ?_ ?_
  · exact h
  · split
    · exact .ite (.upd h rfl) (State.mark_keeps (State.unmark_keeps h))

theorem dumpSnapshot_keeps {s0 s : State} {b : Nat} (h : Keeps s0 s) :
    Keeps s0 (dumpSnapshot s b) := by
  unfold dumpSnapshot
  extract_lets v1 v2 v3 v4 v5 v6
  have h3 : Keeps s0 v3 := State.bump_keeps h
  try clear_value v3 v2
  try clear_value v5
  exact .ite h (.ite h (.ite (State.bump_keeps (.upd h rfl)) (State.mark_keeps (.upd h3 rfl))))

theorem dumpRequest_keeps {s0 s : State} (h : Keeps s0 s) :
    Keeps s0 (dumpRequest s) :=
  .ite (State.powerWork_keeps h) h

theorem execDumpRecordWritten_keeps {s0 s : State} (h : Keeps s0 s) {t : State}
    (e : execDumpRecordWritten s = .next t) : Keeps s0 t := by
  refine Cmd.run_keeps h (fun s h => ?_) e
  split
  · exact h
  · exact .ite h (workGo_keeps h)

end Sys2Proof.Machine
end

