-- ==== Sys2Proof/Laws/KeepsPtp.lean ====
section
/-!
SUPPORT. What the operations of Machine/Ptp.lean keep.
-/
namespace Sys2Proof.Machine

theorem State.setPdom_keeps {s0 s : State} {d : Fin 2} {x : PtpDom} (h : Keeps s0 s) :
    Keeps s0 (State.setPdom s d x) := by
  unfold State.setPdom
  extract_lets v1
  try clear_value v1
  exact .upd h rfl

theorem State.setPport_keeps {s0 s : State} {p : Fin 8} {x : PtpPort} (h : Keeps s0 s) :
    Keeps s0 (State.setPport s p x) := by
  unfold State.setPport
  extract_lets v1
  try clear_value v1
  exact .upd h rfl

theorem servoReset_keeps {s0 s : State} {d : Fin 2} (h : Keeps s0 s) :
    Keeps s0 (servoReset s d) := by
  unfold servoReset
  extract_lets v1 v2 v3
  have h2 : Keeps s0 v2 := State.setPdom_keeps h
  have h3 : Keeps s0 v3 := State.unmark_keeps (State.put_keeps (State.unmark_keeps h2))
  exact refFollow_keeps h3

theorem servoSync_keeps {s0 s : State} {d : Fin 2} {y : SyncRx} (h : Keeps s0 s) :
    Keeps s0 (servoSync s d y) := by
  unfold servoSync
  extract_lets v1 v2 v3 v4 v5 v6 v7 v8 v9 v10 v11
  have h2 : Keeps s0 v2 := State.setPdom_keeps h
  try clear_value v2
  have h8 : Keeps s0 v8 := by
    unfold v8
    split
    · exact .ite h2 (State.put_keeps h2)
    · exact h2
  try clear_value v8
  split
  · exact h2
  · extract_lets v12 v13 v14 v15 v16
    have h15 : Keeps s0 v15 := State.setPdom_keeps h8
    have h16 : Keeps s0 v16 := State.put_keeps h15
    exact .ite h2 (.ite (State.bump_keeps (State.setPdom_keeps h2)) (.ite (refFollow_keeps (State.mark_keeps h16)) h16))

theorem servoDelay_keeps {s0 s : State} {d : Fin 2} {y : SyncRx} {t3 : Int} {t4 : Int} {c4 : Int} (h : Keeps s0 s) :
    Keeps s0 (servoDelay s d y t3 t4 c4) := by
  unfold servoDelay
  extract_lets v1 v2 v3
  exact State.put_keeps (State.mark_keeps (State.setPdom_keeps h))

theorem domCfgWritten_keeps {s0 s : State} {old : State} {d : Fin 2} (h : Keeps s0 s) :
    Keeps s0 (domCfgWritten old s d) := by
  unfold domCfgWritten
  extract_lets v1
  have h1 : Keeps s0 v1 := servoReset_keeps h
  exact .ite (State.raise_keeps h1) h1

theorem domPortsWritten_keeps {s0 s : State} {old : State} {d : Fin 2} (h : Keeps s0 s) :
    Keeps s0 (domPortsWritten old s d) := by
  unfold domPortsWritten
  extract_lets v1
  have h1 : Keeps s0 v1 := .ite (servoReset_keeps h) h
  exact .ite (State.raise_keeps h1) h1

theorem parentWritten_keeps {s0 s : State} {d : Fin 2} (h : Keeps s0 s) :
    Keeps s0 (parentWritten s d) := by
  unfold parentWritten
  extract_lets v1 v2
  exact servoReset_keeps (State.setPdom_keeps h)

theorem trigServo_keeps {s0 s : State} {d : Fin 2} {v : Word} (h : Keeps s0 s) :
    Keeps s0 (trigServo s d v) :=
  .ite (servoReset_keeps h) h

theorem execNofuTimeout_keeps {s0 s : State} {d : Fin 2} (h : Keeps s0 s) {t : State}
    (e : execNofuTimeout d s = .next t) : Keeps s0 t := by
  refine Cmd.run_keeps h (fun s h => ?_) e
  extract_lets v1
  split
  · exact h
  · exact State.bump_keeps (State.setPdom_keeps h)

theorem execDomainValidTimeout_keeps {s0 s : State} {d : Fin 2} (h : Keeps s0 s) {t : State}
    (e : execDomainValidTimeout d s = .next t) : Keeps s0 t :=
  Cmd.run_keeps h (fun _ h => refFollow_keeps (State.unmark_keeps h)) e

theorem execPtpStepHoldExpiry_keeps {s0 s : State} {d : Fin 2} (h : Keeps s0 s) {t : State}
    (e : execPtpStepHoldExpiry d s = .next t) : Keeps s0 t :=
  Cmd.run_keeps h (fun _ h => .ite (.ite (ptpRequest_keeps h) (State.raise_keeps (State.mark_keeps h))) h) e

theorem ptpSend_keeps {s0 s : State} {p : Nat} {tr : Nat} {da : Nat} {event : Bool} {m : List Byte} {src : FrameSrc}
    (h : Keeps s0 s) :
    Keeps s0 (ptpSend s p tr da event m src) := by
  unfold ptpSend
  extract_lets v1 v2
  split
  · rename_i _ s3 q3
    have h3 : Keeps s0 s3 := .ofPair q3 (by
      refine Keeps.iteVia (π := Prod.snd) ?_ ?_
      · exact h
      · exact State.freeNat_keeps h)
    split
    · rename_i _ s4 q4
      have h4 : Keeps s0 s4 := .ofPair q4 (by
        refine Keeps.iteVia (π := Prod.snd) ?_ ?_
        · exact h3
        · exact State.freeNat_keeps h3)
      extract_lets v5
      exact ethQueue_keeps h4

theorem execSyncTx_keeps {s0 s : State} {d : Fin 2} {p : Fin 8} (h : Keeps s0 s) {t : State}
    (e : execSyncTx d p s = .next t) : Keeps s0 t := by
  refine Cmd.run_keeps h (fun s h => ?_) e
  extract_lets v1 v2 v3 v4 v5 v6
  have h3 : Keeps s0 v3 := State.setPdom_keeps h
  exact .ite h (ptpSend_keeps h3)

theorem execFollowUpTx_keeps {s0 s : State} {d : Fin 2} {p : Fin 8} (h : Keeps s0 s) {t : State}
    (e : execFollowUpTx d p s = .next t) : Keeps s0 t := by
  refine Cmd.run_keeps h (fun s h => ?_) e
  extract_lets v1
  split
  · exact h
  · extract_lets v2 v3 v4 v5 v6
    have h2 : Keeps s0 v2 := State.setPdom_keeps h
    exact ptpSend_keeps h2

theorem execDelayRespTx_keeps {s0 s : State} {d : Fin 2} (h : Keeps s0 s) {t : State}
    (e : execDelayRespTx d s = .next t) : Keeps s0 t := by
  refine Cmd.run_keeps h (fun s h => ?_) e
  extract_lets v1
  split
  · exact h
  · extract_lets v2 v3
    have h2 : Keeps s0 v2 := State.setPdom_keeps h
    exact ptpSend_keeps h2

theorem execDelayReqTx_keeps {s0 s : State} {d : Fin 2} (h : Keeps s0 s) {t : State}
    (e : execDelayReqTx d s = .next t) : Keeps s0 t := by
  refine Cmd.run_keeps h (fun s h => ?_) e
  extract_lets v1 v2 v3
  have h3 : Keeps s0 v3 := State.setPdom_keeps h
  try clear_value v3
  split
  · exact h
  · extract_lets v4
    exact .ite h (ptpSend_keeps h3)

theorem execPdelayReqTx_keeps {s0 s : State} {p : Fin 8} (h : Keeps s0 s) {t : State}
    (e : execPdelayReqTx p s = .next t) : Keeps s0 t := by
  refine Cmd.run_keeps h (fun s h => ?_) e
  extract_lets v1 v2 v3 v4 v5
  have h3 : Keeps s0 v3 := State.setPport_keeps h
  exact .ite h (ptpSend_keeps h3)

theorem execPdelayLost_keeps {s0 s : State} {p : Fin 8} (h : Keeps s0 s) {t : State}
    (e : execPdelayLost p s = .next t) : Keeps s0 t := by
  refine Cmd.run_keeps h (fun s h => ?_) e
  extract_lets v1 v2
  have h2 : Keeps s0 v2 := State.bump_keeps (State.setPport_keeps h)
  exact .ite h (.ite (State.unmark_keeps h2) h2)

theorem logWritten_keeps {s0 s : State} {old : State} (h : Keeps s0 s) :
    Keeps s0 (logWritten old s) := by
  unfold logWritten
  extract_lets v1
  try clear_value v1
  exact .ite h (.upd h rfl)

theorem tsLog_keeps {s0 s : State} {t : Int} {p : Nat} {tx : Bool} {cls : Nat} {m : List Byte} (h : Keeps s0 s) :
    Keeps s0 (tsLog s t p tx cls m) := by
  unfold tsLog
  extract_lets v1 v2
  exact .ite h (workGo_keeps h)

theorem ldTake_keeps {s0 s : State} {p : Fin 8} {v : Int} (h : Keeps s0 s) :
    Keeps s0 (ldTake s p v) := by
  unfold ldTake
  extract_lets v1 v2 v3
  exact State.mark_keeps (State.put_keeps (State.setPport_keeps h))

theorem pdelayReceive_keeps {s0 s : State} {p : Fin 8} {m : List Byte} {t : Int} (h : Keeps s0 s) :
    Keeps s0 (pdelayReceive s p m t) := by
  unfold pdelayReceive
  extract_lets v1 v2 v3 v4 v5
  refine Keeps.ite ?_ ?_
  · exact h
  · split
    · exact ptpSend_keeps h
    · exact .ite h (.ite (State.setPport_keeps h) (ldTake_keeps h))
    · split
      · exact .ite (ldTake_keeps h) h
      · exact h
    · exact h

theorem domReceive_keeps {s0 s : State} {d : Fin 2} {p : Fin 8} {m : List Byte} {t : Int} (h : Keeps s0 s) :
    Keeps s0 (domReceive s d p m t) := by
  unfold domReceive
  extract_lets v1 v2 v3 v4
  have h4 : Keeps s0 v4 := State.setPdom_keeps h
  try clear_value v4
  split
  · exact .ite h (.ite (State.bump_keeps h) (.ite (State.setPdom_keeps h) (servoSync_keeps h)))
  · refine Keeps.ite ?_ ?_
    · exact h
    · split
      · exact h
      · exact servoSync_keeps (State.setPdom_keeps h)
  · exact .ite (State.setPdom_keeps h) h
  · refine Keeps.ite ?_ ?_
    · exact h
    · split
      · refine Keeps.ite ?_ ?_
        · split
          · exact servoDelay_keeps h4
          · exact h4
        · exact h
      · exact h
  · exact h

theorem ptpReceive_keeps {s0 s : State} {p : Fin 8} {tr : Nat} {m : List Byte} {t : Int} {good : Bool} (h : Keeps s0 s) :
    Keeps s0 (ptpReceive s p tr m t good).2 := by
  unfold ptpReceive
  extract_lets v1 v2 v3 v4 v5
  have h2 : Keeps s0 v2 := .ite (tsLog_keeps h) h
  try clear_value v2
  have h4 : Keeps s0 v4 := .ite (pdelayReceive_keeps h2) h2
  try clear_value v4
  refine Keeps.iteVia (π := Prod.snd) ?_ ?_
  · exact State.bump_keeps h
  · split
    · exact State.bump_keeps h4
    · refine Keeps.iteVia (π := Prod.snd) ?_ ?_
      · refine Keeps.iteVia (π := Prod.snd) ?_ ?_
        · exact h4
        · exact State.bump_keeps h4
      · refine Keeps.iteVia (π := Prod.snd) ?_ ?_
        · exact h4
        · exact domReceive_keeps h4

theorem stampTx_keeps {s0 s : State} {p : Fin 8} {f : QFrame} {t : Int} (h : Keeps s0 s) :
    Keeps s0 (stampTx s p f t).2 := by
  unfold stampTx
  split
  · exact h
  · extract_lets v1 v2 v3 v4 v5 v6
    have h3 : Keeps s0 v3 := tsLog_keeps h
    try clear_value v3
    have h5 : Keeps s0 v5 := tsLog_keeps h
    try clear_value v5
    split
    · split
      · exact h3
      · exact h3
    · extract_lets v7 v8 v9
      have h8 : Keeps s0 v8 := State.bump_keeps (tsLog_keeps h)
      try clear_value v8
      refine Keeps.iteVia (π := Prod.snd) ?_ ?_
      · exact State.setPdom_keeps h8
      · exact h8
    · extract_lets v10 v11
      exact State.setPdom_keeps h5
    · exact State.setPport_keeps h5
    · exact h5
    · exact h

theorem execEthTxStart_keeps {s0 s : State} {p : Fin 8} {ts : Nat} (h : Keeps s0 s) {t : State}
    (e : execEthTxStart p ts s = .next t) : Keeps s0 t := by
  refine Cmd.run_keeps h (fun s h => ?_) e
  refine Keeps.ite ?_ ?_
  · exact h
  · split
    · rename_i s1 q1
      have h1 : Keeps s0 s1 := .ofPair q1 (txPick_keeps h)
      exact h1
    · rename_i _ _ s2 q2
      have h2 : Keeps s0 s2 := .ofPair q2 (txPick_keeps h)
      split
      · rename_i _ s3 q3
        have h3 : Keeps s0 s3 := .ofPair q3 (by
          refine Keeps.iteVia (π := Prod.snd) ?_ ?_
          · exact h2
          · split
            · rename_i _ s4 q4
              have h4 : Keeps s0 s4 := .ofPair q4 (stampTx_keeps h2)
              split
              · exact txTrunc_keeps h4
              · exact h4)
        extract_lets v5
        exact State.setEport_keeps h3

end Sys2Proof.Machine
end

