-- ==== Sys2Proof/Laws/KeepsPwm.lean ====
section
/-!
SUPPORT. What the operations of Machine/Pwm.lean keep.
-/
namespace Sys2Proof.Machine

theorem State.setPwm_keeps {s0 s : State} {c : Fin 24} {k : PwmCh} (h : Keeps s0 s) :
    Keeps s0 (State.setPwm s c k) :=
  .upd h rfl

theorem pwmReport_keeps {s0 s : State} {c : Nat} (h : Keeps s0 s) :
    Keeps s0 (pwmReport s c) :=
  State.put_keeps (State.put_keeps h)

theorem pwmTo_keeps {s0 s : State} {c : Fin 24} {t : Nat} (h : Keeps s0 s) :
    Keeps s0 (pwmTo s c t) := by
  unfold pwmTo
  extract_lets v1 v2 v3 v4 v5 v6 v7 v8 v9 v10
  have h9 : Keeps s0 v9 := State.put_keeps (State.setPwm_keeps h)
  have h10 : Keeps s0 v10 := .ite (State.put_keeps h9) h9
  exact .ite h (pwmReport_keeps h10)

theorem pwmCond_keeps {s0 s : State} {c : Fin 24} (h : Keeps s0 s) :
    Keeps s0 (pwmCond s c) := by
  unfold pwmCond
  extract_lets v1
  have h1 : Keeps s0 v1 := pwmTo_keeps h
  try clear_value v1
  refine Keeps.ite ?_ ?_
  · exact h
  · split
    · exact .ite h (.ite h1 (pwmTo_keeps h1))
    · exact .ite h (pwmTo_keeps h)
    · exact .ite h (pwmTo_keeps h)
    · exact .ite (pwmTo_keeps h) (.ite (pwmTo_keeps h) h)
    · exact h

theorem pwmOn_keeps {s0 s : State} (h : Keeps s0 s) :
    Keeps s0 (pwmOn s) :=
  .foldlT h (fun _ _ h => .ite (pwmTo_keeps h) h)

theorem pwmHardStop_keeps {s0 s : State} (h : Keeps s0 s) :
    Keeps s0 (pwmHardStop s) :=
  .foldlT h (fun _ _ h => .ite h (pwmTo_keeps h))

theorem demand_keeps {s0 s : State} {c : Fin 24} {r : PwmLate} (h : Keeps s0 s) :
    Keeps s0 (demand s c r).2 := by
  unfold demand
  extract_lets v1 v2 v3 v4 v5 v6
  split
  · extract_lets v7 v8
    have h8 : Keeps s0 v8 := State.setPwm_keeps h
    exact .ite h8 (State.count_keeps (State.mark_keeps h8))

theorem pwmPulse_keeps {s0 s : State} {c : Fin 24} {L : Nat} {q : Int} (h : Keeps s0 s) :
    Keeps s0 (pwmPulse s c L q) := by
  unfold pwmPulse
  extract_lets v1
  exact State.setPwm_keeps h

theorem cycleDrive_keeps {s0 s : State} {c : Fin 24} {j : Nat} {L : Nat} (h : Keeps s0 s) :
    Keeps s0 (cycleDrive s c j L) := by
  unfold cycleDrive
  extract_lets v1 v2 v3
  refine Keeps.ite ?_ ?_
  · exact pwmPulse_keeps h
  · split
    · extract_lets v4
      refine Keeps.ite ?_ ?_
      · exact State.setPwm_keeps h
      · split
        · rename_i _ s5 q5
          have h5 : Keeps s0 s5 := .ofPair q5 (demand_keeps h)
          exact pwmPulse_keeps h5

theorem pwmLate1_keeps {s0 s : State} {c : Fin 24} (h : Keeps s0 s) :
    Keeps s0 (pwmLate1 s c) := by
  unfold pwmLate1
  split
  · exact h
  · split
    · rename_i _ s1 q1
      have h1 : Keeps s0 s1 := .ofPair q1 (demand_keeps h)
      extract_lets v2 v3
      have h3 : Keeps s0 v3 := State.setPwm_keeps h1
      exact .ite (pwmPulse_keeps h3) h3

theorem pwmLates_keeps {s0 s : State} (h : Keeps s0 s) :
    Keeps s0 (pwmLates s) :=
  .foldlT h (fun _ _ h => pwmLate1_keeps h)

theorem retryFail_keeps {s0 s : State} {c : Fin 24} (h : Keeps s0 s) :
    Keeps s0 (retryFail s c) := by
  unfold retryFail
  extract_lets v1 v2
  have h2 : Keeps s0 v2 := State.put_keeps h
  exact .ite (State.raise_keeps (pwmTo_keeps h2)) h2

theorem latchGates_keeps {s0 s : State} {c : Fin 24} (h : Keeps s0 s) :
    Keeps s0 (latchGates s c) := by
  unfold latchGates
  extract_lets v1 v2
  have h1 : Keeps s0 v1 := State.raise_keeps (State.mark_keeps (pwmTo_keeps h))
  exact State.setPwm_keeps h1

theorem latchDecide_keeps {s0 s : State} {c : Fin 24} (h : Keeps s0 s) :
    Keeps s0 (latchDecide s c) := by
  unfold latchDecide
  extract_lets v1 v2 v3 v4
  have h3 : Keeps s0 v3 := State.setPwm_keeps h
  have h4 : Keeps s0 v4 := State.unmark_keeps h3
  exact .ite (retryFail_keeps h4) h4

theorem latchOff_keeps {s0 s : State} {c : Fin 24} (h : Keeps s0 s) :
    Keeps s0 (latchOff s c) :=
  .ite (latchGates_keeps h) (latchDecide_keeps (latchGates_keeps h))

theorem tripRecord_keeps {s0 s : State} {c : Fin 24} (h : Keeps s0 s) :
    Keeps s0 (tripRecord s c) := by
  unfold tripRecord
  extract_lets v1 v2 v3 v4 v5
  have h3 : Keeps s0 v3 := State.setPwm_keeps h
  exact .ite h (mirrorTrip_keeps h3)

theorem trip_keeps {s0 s : State} {c : Fin 24} (h : Keeps s0 s) :
    Keeps s0 (trip s c) := by
  unfold trip
  extract_lets v1 v2 v3 v4
  have h2 : Keeps s0 v2 := State.setPwm_keeps h
  have h3 : Keeps s0 v3 := State.count_keeps (State.bump_keeps (State.mark_keeps h2))
  have h4 : Keeps s0 v4 := tripRecord_keeps h3
  exact .ite h (.ite (latchOff_keeps h4) h4)

theorem tripAgreed_keeps {s0 s : State} {c : Fin 24} {m : Nat} {i : Nat} (h : Keeps s0 s) :
    Keeps s0 (tripAgreed s c m i) := by
  unfold tripAgreed
  extract_lets v1 v2 v3
  have h3 : Keeps s0 v3 := State.setPwm_keeps h
  exact .ite (latchDecide_keeps (.ite h3 (latchGates_keeps h3))) h3

theorem tripUnion1_keeps {s0 s : State} {c : Fin 24} {k : Nat} (h : Keeps s0 s) :
    Keeps s0 (tripUnion1 s c k) := by
  unfold tripUnion1
  extract_lets v1 v2
  exact .ite h (.foldlT (State.setPwm_keeps h) (fun _ _ h => tripAgreed_keeps h))

theorem tripUnion_keeps {s0 s : State} {k : Nat} (h : Keeps s0 s) :
    Keeps s0 (tripUnion s k) :=
  .foldlT h (fun _ _ h => tripUnion1_keeps h)

theorem execOcfltAssert_keeps {s0 s : State} {c : Fin 24} (h : Keeps s0 s) {t : State}
    (e : execOcfltAssert c s = .next t) : Keeps s0 t := by
  refine Cmd.run_keeps h (fun s h => ?_) e
  extract_lets v1
  have h1 : Keeps s0 v1 := State.mark_keeps h
  exact .ite h (.ite h1 (trip_keeps (State.setPwm_keeps h1)))

theorem execOcfltDeassert_keeps {s0 s : State} {c : Fin 24} (h : Keeps s0 s) {t : State}
    (e : execOcfltDeassert c s = .next t) : Keeps s0 t :=
  Cmd.run_keeps h (fun _ h => State.unmark_keeps h) e

theorem cycleStart_keeps {s0 s : State} {c : Fin 24} {j : Nat} (h : Keeps s0 s) :
    Keeps s0 (cycleStart s c j) := by
  unfold cycleStart
  extract_lets v1 v2 v3
  exact State.setPwm_keeps h

theorem execCarrierCycle_keeps {s0 s : State} {c : Fin 24} (h : Keeps s0 s) {t : State}
    (e : execCarrierCycle c s = .next t) : Keeps s0 t := by
  refine Cmd.run_keeps h (fun s h => ?_) e
  extract_lets v1 v2 v3 v4 v5 v6
  have h2 : Keeps s0 v2 := cycleStart_keeps h
  have h3 : Keeps s0 v3 := .ite (pwmTo_keeps h2) (pwmCond_keeps h2)
  have h4 : Keeps s0 v4 := cycleDrive_keeps h3
  have h6 : Keeps s0 v6 := State.setPwm_keeps h4
  exact .ite h (.ite h3 (.ite (trip_keeps h6) h6))

theorem limUpdate_keeps {s0 s : State} {r : Nat} {c : Fin 24} (h : Keeps s0 s) :
    Keeps s0 (limUpdate s r c) := by
  unfold limUpdate
  extract_lets v1 v2 v3 v4 v5 v6 v7 v8 v9
  exact .ite h (.ite (State.setPwm_keeps h) (State.put_keeps (State.setPwm_keeps h)))

theorem railCheck_keeps {s0 s : State} {r : Nat} (h : Keeps s0 s) :
    Keeps s0 (railCheck s r) := by
  unfold railCheck
  extract_lets v1 v2 v3
  exact .ite (State.unmark_keeps h) (.ite (.ite (State.unmark_keeps h) h) (.ite (State.raise_keeps (State.mark_keeps (State.mark_keeps h))) h))

theorem railWindow_keeps {s0 s : State} {c : Fin 24} (h : Keeps s0 s) :
    Keeps s0 (railWindow s c) := by
  unfold railWindow
  extract_lets v1
  exact .ite (State.setPwm_keeps h) h

theorem execRailConversion_keeps {s0 s : State} {r : Fin 8} {code : BitVec 12} (h : Keeps s0 s) {t : State}
    (e : execRailConversion r code s = .next t) : Keeps s0 t := by
  refine Cmd.run_keeps h (fun s h => ?_) e
  extract_lets v1 v2 v3 v4
  have h1 : Keeps s0 v1 := State.put_keeps h
  try clear_value v1
  have h2 : Keeps s0 v2 := State.put_keeps h1
  try clear_value v2
  have h3 : Keeps s0 v3 := railCheck_keeps h2
  try clear_value v3
  have h4 : Keeps s0 v4 := .foldlT h3 (fun _ _ h => railWindow_keeps (limUpdate_keeps h))
  try clear_value v4
  exact .ite h (.foldlT h4 (fun _ _ h => pwmCond_keeps h))

theorem execBootComplete_keeps {s0 s : State} {c : Fin 24} (h : Keeps s0 s) {t : State}
    (e : execBootComplete c s = .next t) : Keeps s0 t :=
  Cmd.run_keeps h (fun _ h => .ite (pwmTo_keeps h) h) e

theorem execSettleComplete_keeps {s0 s : State} {c : Fin 24} (h : Keeps s0 s) {t : State}
    (e : execSettleComplete c s = .next t) : Keeps s0 t :=
  Cmd.run_keeps h (fun _ h => .ite (pwmTo_keeps h) h) e

theorem execStopComplete_keeps {s0 s : State} {c : Fin 24} (h : Keeps s0 s) {t : State}
    (e : execStopComplete c s = .next t) : Keeps s0 t :=
  Cmd.run_keeps h (fun _ h => .ite (pwmCond_keeps (pwmTo_keeps h)) h) e

theorem retryGo_keeps {s0 s : State} {c : Fin 24} (h : Keeps s0 s) :
    Keeps s0 (retryGo s c) := by
  unfold retryGo
  extract_lets v1 v2 v3 v4 v5 v6
  have h2 : Keeps s0 v2 := State.setPwm_keeps h
  have h3 : Keeps s0 v3 := State.mark_keeps (pwmTo_keeps h2)
  exact .ite (State.setPwm_keeps h) (State.setDstW_keeps h3)

theorem execRetryStart_keeps {s0 s : State} {c : Fin 24} (h : Keeps s0 s) {t : State}
    (e : execRetryStart c s = .next t) : Keeps s0 t := by
  refine Cmd.run_keeps h (fun s h => ?_) e
  extract_lets v1
  exact .ite (retryGo_keeps h) h

theorem execRetryWindowEnd_keeps {s0 s : State} {c : Fin 24} (h : Keeps s0 s) {t : State}
    (e : execRetryWindowEnd c s = .next t) : Keeps s0 t := by
  refine Cmd.run_keeps h (fun s h => ?_) e
  extract_lets v1
  exact .ite (reactRelease_keeps (State.setPwm_keeps (State.unmark_keeps h))) h

theorem execRetryCountReset_keeps {s0 s : State} {c : Fin 24} (h : Keeps s0 s) {t : State}
    (e : execRetryCountReset c s = .next t) : Keeps s0 t := by
  refine Cmd.run_keeps h (fun s h => ?_) e
  extract_lets v1
  exact .ite (State.setPwm_keeps (State.put_keeps h)) h

theorem trigPwmClear_keeps {s0 s : State} {c : Fin 24} {v : Word} (h : Keeps s0 s) :
    Keeps s0 (trigPwmClear s c v) := by
  unfold trigPwmClear
  extract_lets v1
  exact .ite (State.mark_keeps (.upd h rfl)) h

theorem pwmClear_keeps {s0 s : State} {c : Nat} (h : Keeps s0 s) :
    Keeps s0 (pwmClear s c) := by
  unfold pwmClear
  extract_lets v1 v2
  have h2 : Keeps s0 v2 := State.unmark_keeps h
  exact .ite (retryGo_keeps (State.put_keeps h2)) h2

theorem pwmBoundary1_keeps {s0 s : State} {c : Fin 24} (h : Keeps s0 s) :
    Keeps s0 (pwmBoundary1 s c) := by
  unfold pwmBoundary1
  extract_lets v1 v2 v3 v4 v5 v6
  have h2 : Keeps s0 v2 := .ite (reactHold_keeps (State.setPwm_keeps h)) h
  have h3 : Keeps s0 v3 := .ite (retryGo_keeps h2) h2
  exact .ite h (pwmCond_keeps (State.setPwm_keeps h3))

theorem pwmBoundary_keeps {s0 s : State} (h : Keeps s0 s) :
    Keeps s0 (pwmBoundary s) :=
  .foldlT h (fun _ _ h => pwmBoundary1_keeps h)

theorem pwmTimeSet_keeps {s0 s : State} (h : Keeps s0 s) :
    Keeps s0 (pwmTimeSet s) := by
  unfold pwmTimeSet
  refine Keeps.foldlT h (fun s i h => ?_)
  extract_lets v1
  exact State.setPwm_keeps h

end Sys2Proof.Machine
end

