-- ==== Sys2Proof/Laws/KeepsTwc.lean ====
section
/-!
SUPPORT. What the operations of Machine/Twc.lean keep.
-/
namespace Sys2Proof.Machine

theorem State.setTwc_keeps {s0 s : State} {k : Fin 2} {x : TwcU} (h : Keeps s0 s) :
    Keeps s0 (State.setTwc s k x) :=
  .upd h rfl

theorem busClear_keeps {s0 s : State} {k : Nat} {ok : Bool} (h : Keeps s0 s) :
    Keeps s0 (busClear s k ok) :=
  .ite (State.unmark_keeps (State.bump_keeps h)) (State.mark_keeps (State.mark_keeps h))

theorem twcRun_keeps {s0 s : State} {k : Fin 2} {speed : Nat} {x : Option Xact} {bus : TwcBus} (h : Keeps s0 s) :
    Keeps s0 (twcRun s k speed x bus).2 := by
  unfold twcRun
  extract_lets v1 v2 v3 v4
  have h2 : Keeps s0 v2 := State.setTwc_keeps h
  try clear_value v2
  have h4 : Keeps s0 v4 := .ite (busClear_keeps h2) h2
  try clear_value v4
  split
  · exact h
  · extract_lets v5 v6 v7
    have h6 : Keeps s0 v6 := State.put_keeps h4
    try clear_value v6
    have h7 : Keeps s0 v7 := .ite (State.mark_keeps h6) h6
    try clear_value v7
    refine Keeps.iteVia (π := Prod.snd) ?_ ?_
    · exact State.mark_keeps h2
    · refine Keeps.iteVia (π := Prod.snd) ?_ ?_
      · exact h4
      · exact State.emit_keeps h7

theorem trigTwc_keeps {s0 s : State} {k : Fin 2} {v : Word} (h : Keeps s0 s) :
    Keeps s0 (trigTwc s k v) := by
  unfold trigTwc
  extract_lets v1 v2
  exact .ite (State.mark_keeps (State.setTwc_keeps h)) h

theorem hostEnd_keeps {s0 s : State} {k : Nat} {r : XEnd} (h : Keeps s0 s) :
    Keeps s0 (hostEnd s k r) := by
  unfold hostEnd
  extract_lets v1 v2 v4
  have h2 : Keeps s0 v2 := by
    unfold v2
    refine Keeps.foldlT h (fun s i h => ?_)
    extract_lets v3
    exact State.setReg_keeps h
  have h4 : Keeps s0 v4 := State.put_keeps (State.put_keeps h2)
  exact State.unmark_keeps (State.mark_keeps h4)

theorem twcKind_keeps {s0 s : State} {k : Fin 2} {kind : Nat} {bus : TwcBus} (h : Keeps s0 s) :
    Keeps s0 (twcKind k kind bus s) := by
  unfold twcKind
  refine Keeps.ite ?_ ?_
  · split
    · rename_i _ s1 q1
      have h1 : Keeps s0 s1 := .ofPair q1 (twcRun_keeps h)
      exact hostEnd_keeps h1
  · exact h

theorem execTwcSendByte_keeps {s0 s : State} {k : Fin 2} {bus : TwcBus} (h : Keeps s0 s) {t : State}
    (e : execTwcSendByte k bus s = .next t) : Keeps s0 t :=
  Cmd.run_keeps h (fun _ h => twcKind_keeps h) e

theorem execTwcReceiveByte_keeps {s0 s : State} {k : Fin 2} {bus : TwcBus} (h : Keeps s0 s) {t : State}
    (e : execTwcReceiveByte k bus s = .next t) : Keeps s0 t :=
  Cmd.run_keeps h (fun _ h => twcKind_keeps h) e

theorem execTwcWriteByte_keeps {s0 s : State} {k : Fin 2} {bus : TwcBus} (h : Keeps s0 s) {t : State}
    (e : execTwcWriteByte k bus s = .next t) : Keeps s0 t :=
  Cmd.run_keeps h (fun _ h => twcKind_keeps h) e

theorem execTwcReadByte_keeps {s0 s : State} {k : Fin 2} {bus : TwcBus} (h : Keeps s0 s) {t : State}
    (e : execTwcReadByte k bus s = .next t) : Keeps s0 t :=
  Cmd.run_keeps h (fun _ h => twcKind_keeps h) e

theorem execTwcWriteWord_keeps {s0 s : State} {k : Fin 2} {bus : TwcBus} (h : Keeps s0 s) {t : State}
    (e : execTwcWriteWord k bus s = .next t) : Keeps s0 t :=
  Cmd.run_keeps h (fun _ h => twcKind_keeps h) e

theorem execTwcReadWord_keeps {s0 s : State} {k : Fin 2} {bus : TwcBus} (h : Keeps s0 s) {t : State}
    (e : execTwcReadWord k bus s = .next t) : Keeps s0 t :=
  Cmd.run_keeps h (fun _ h => twcKind_keeps h) e

theorem execTwcProcessCall_keeps {s0 s : State} {k : Fin 2} {bus : TwcBus} (h : Keeps s0 s) {t : State}
    (e : execTwcProcessCall k bus s = .next t) : Keeps s0 t :=
  Cmd.run_keeps h (fun _ h => twcKind_keeps h) e

theorem execTwcBlockWrite_keeps {s0 s : State} {k : Fin 2} {bus : TwcBus} (h : Keeps s0 s) {t : State}
    (e : execTwcBlockWrite k bus s = .next t) : Keeps s0 t :=
  Cmd.run_keeps h (fun _ h => twcKind_keeps h) e

theorem execTwcBlockRead_keeps {s0 s : State} {k : Fin 2} {bus : TwcBus} (h : Keeps s0 s) {t : State}
    (e : execTwcBlockRead k bus s = .next t) : Keeps s0 t :=
  Cmd.run_keeps h (fun _ h => twcKind_keeps h) e

theorem execTwcI2cWrite_keeps {s0 s : State} {k : Fin 2} {bus : TwcBus} (h : Keeps s0 s) {t : State}
    (e : execTwcI2cWrite k bus s = .next t) : Keeps s0 t :=
  Cmd.run_keeps h (fun _ h => twcKind_keeps h) e

theorem execTwcI2cWriteRead_keeps {s0 s : State} {k : Fin 2} {bus : TwcBus} (h : Keeps s0 s) {t : State}
    (e : execTwcI2cWriteRead k bus s = .next t) : Keeps s0 t :=
  Cmd.run_keeps h (fun _ h => twcKind_keeps h) e

theorem execTwcI2cRead_keeps {s0 s : State} {k : Fin 2} {bus : TwcBus} (h : Keeps s0 s) {t : State}
    (e : execTwcI2cRead k bus s = .next t) : Keeps s0 t :=
  Cmd.run_keeps h (fun _ h => twcKind_keeps h) e

theorem execTwcRefusedKind_keeps {s0 s : State} {k : Fin 2} (h : Keeps s0 s) {t : State}
    (e : execTwcRefusedKind k s = .next t) : Keeps s0 t :=
  Cmd.run_keeps h (fun _ h => .ite (hostEnd_keeps h) h) e

theorem seqResult_keeps {s0 s : State} {k : Nat} {e : Nat} {v : Option Nat} {status : Nat} (h : Keeps s0 s) :
    Keeps s0 (seqResult s k e v status) := by
  unfold seqResult
  extract_lets v1 v2 v3 v4 v5
  have h4 : Keeps s0 v4 := by
    unfold v4
    split
    · exact State.put_keeps h
    · exact h
  have h5 : Keeps s0 v5 := State.bump_keeps (State.put_keeps (State.put_keeps h4))
  exact .ite (State.put_keeps h5) h5

theorem seqEnd_keeps {s0 s : State} {k : Fin 2} {r : XEnd} (h : Keeps s0 s) :
    Keeps s0 (seqEnd s k r) := by
  unfold seqEnd
  extract_lets v1
  split
  · exact h
  · exact seqResult_keeps (State.setTwc_keeps h)

theorem execSeqEntryRun_keeps {s0 s : State} {k : Fin 2} {bus : TwcBus} (h : Keeps s0 s) {t : State}
    (e : execSeqEntryRun k bus s = .next t) : Keeps s0 t := by
  refine Cmd.run_keeps h (fun s h => ?_) e
  split
  · exact h
  · refine Keeps.ite ?_ ?_
    · exact h
    · split
      · rename_i _ s1 q1
        have h1 : Keeps s0 s1 := .ofPair q1 (twcRun_keeps h)
        exact seqEnd_keeps h1

theorem seqBoundary_keeps {s0 s : State} (h : Keeps s0 s) :
    Keeps s0 (seqBoundary s) := by
  unfold seqBoundary
  refine Keeps.foldlT h (fun s i h => ?_)
  refine Keeps.ite ?_ ?_
  · exact h
  · refine Keeps.foldlT h (fun s i h => ?_)
    extract_lets v1 v2
    exact .ite (.ite (State.bump_keeps (seqResult_keeps h)) (State.setTwc_keeps h)) h

theorem twcCut_keeps {s0 s : State} {k : Fin 2} {status : Nat} (h : Keeps s0 s) :
    Keeps s0 (twcCut s k status) :=
  .ite (hostEnd_keeps h) (seqEnd_keeps h)

theorem execStretchTimeout_keeps {s0 s : State} {k : Fin 2} (h : Keeps s0 s) {t : State}
    (e : execStretchTimeout k s = .next t) : Keeps s0 t := by
  refine Cmd.run_keeps h (fun s h => ?_) e
  extract_lets v1 v2
  have h1 : Keeps s0 v1 := State.mark_keeps (State.mark_keeps (twcCut_keeps h))
  exact .ite h (State.setTwc_keeps h1)

theorem execSclStuck_keeps {s0 s : State} {k : Fin 2} (h : Keeps s0 s) {t : State}
    (e : execSclStuck k s = .next t) : Keeps s0 t := by
  refine Cmd.run_keeps h (fun s h => ?_) e
  extract_lets v1
  exact .ite h (State.mark_keeps (State.setTwc_keeps h))

theorem execBusError_keeps {s0 s : State} {k : Fin 2} (h : Keeps s0 s) {t : State}
    (e : execBusError k s = .next t) : Keeps s0 t :=
  Cmd.run_keeps h (fun _ h => .ite h (State.mark_keeps (State.mark_keeps (twcCut_keeps h)))) e

theorem execSdaStuckDetect_keeps {s0 s : State} {k : Fin 2} {clear : Bool} (h : Keeps s0 s) {t : State}
    (e : execSdaStuckDetect k clear s = .next t) : Keeps s0 t :=
  Cmd.run_keeps h (fun _ h => .ite (busClear_keeps h) h) e

theorem resetClear_keeps {s0 s : State} {k : Nat} {clear : Option Bool} (h : Keeps s0 s) :
    Keeps s0 (resetClear s k clear) := by
  unfold resetClear
  split
  · exact busClear_keeps h
  · split
    · rename_i _ s1 q1
      have h1 : Keeps s0 s1 := .ofPair q1 (State.freeNat_keeps h)
      exact busClear_keeps h1

theorem twcCfgWritten_keeps {s0 s : State} {k : Fin 2} {v : Word} {clear : Option Bool} (h : Keeps s0 s) :
    Keeps s0 (twcCfgWritten s k v clear) := by
  unfold twcCfgWritten
  extract_lets v1 v2 v3 v4
  have h1 : Keeps s0 v1 := .ite (twcCut_keeps h) h
  have h3 : Keeps s0 v3 := .ite (resetClear_keeps (State.setTwc_keeps h1)) h
  exact .ite h3 (State.setTwc_keeps h3)

theorem twcStop_keeps {s0 s : State} (h : Keeps s0 s) :
    Keeps s0 (twcStop s) := by
  unfold twcStop
  refine Keeps.foldlT h (fun s i h => ?_)
  extract_lets v1
  exact State.setTwc_keeps h

end Sys2Proof.Machine
end

