-- ==== Sys2Proof/Laws/KeepsStart.lean ====
section
/-!
SUPPORT. What the operations of Machine/Start.lean keep.
-/
namespace Sys2Proof.Machine

theorem engineReset_keeps {s0 s : State} {cause : Nat} (h : Keeps s0 s) : Keeps s0 (engineReset s cause) := by
  unfold engineReset
  extract_lets stat x y z r r1
  have h0 : Keeps s0 r :=
    ⟨h.pending, h.fuses, fun _ => rfl, fun _ => reset_regs_wf, fun _ => rfl, h.flash, fun _ => ⟨List.nodup_nil, rfl⟩⟩
  clear_value r
  have h1 : Keeps s0 r1 := State.setReg_keeps h0
  exact .ite (State.setReg_keeps h1) h1

theorem execResetNAssert_keeps {s0 s : State} (h : Keeps s0 s) {t : State}
    (e : execResetNAssert s = .next t) : Keeps s0 t :=
  Cmd.run_keeps h (fun _ h => engineReset_keeps h) e

theorem execPowerOnDetect_keeps {s0 s : State} (h : Keeps s0 s) {t : State}
    (e : execPowerOnDetect s = .next t) : Keeps s0 t :=
  Cmd.run_keeps h (fun _ h => engineReset_keeps h) e

theorem reactAll_keeps {s0 s : State} {k : React} {held : Nat → Bool} {target : Int} {T : Nat} (h : Keeps s0 s) :
    Keeps s0 (reactAll s k held target T) := by
  unfold reactAll
  extract_lets v1 v2 v3 v4
  try clear_value v4
  exact .upd h rfl

theorem releaseAll_keeps {s0 s : State} {k : React} {held : Nat → Bool} (h : Keeps s0 s) :
    Keeps s0 (releaseAll s k held) := by
  unfold releaseAll
  extract_lets v1
  try clear_value v1
  exact .upd h rfl

theorem endAll_keeps {s0 s : State} {k : React} {held : Nat → Bool} (h : Keeps s0 s) :
    Keeps s0 (endAll s k held) := by
  unfold endAll
  extract_lets v1
  try clear_value v1
  exact .upd h rfl

theorem startChecks_keeps {s0 s : State} (h : Keeps s0 s) :
    Keeps s0 (startChecks s) := by
  unfold startChecks
  extract_lets v1 v2 v3 v4
  have h1 : Keeps s0 v1 := .ite h (bridgesStart_keeps (mapsStart_keeps h))
  have h2 : Keeps s0 v2 := .ite h1 (sxeCheck_keeps h1)
  have h3 : Keeps s0 v3 := .ite h2 (mashCheck_keeps h2)
  have h4 : Keeps s0 v4 := .ite h3 (caskStart_keeps h3)
  exact .ite h4 (powerStart_keeps h4)

theorem safeCause_keeps {s0 s : State} {x : Nat × Nat} (h : Keeps s0 s) :
    Keeps s0 (safeCause s x) :=
  State.put_keeps (State.put_keeps h)

theorem stbyOff_keeps {s0 s : State} (h : Keeps s0 s) :
    Keeps s0 (stbyOff s) := by
  unfold stbyOff
  extract_lets v1
  exact State.unmark_keeps (.upd h rfl)

theorem safeEnter_keeps {s0 s : State} (h : Keeps s0 s) :
    Keeps s0 (safeEnter s) := by
  unfold safeEnter
  extract_lets v1 v2
  have h1 : Keeps s0 v1 := stbyOff_keeps (reactAll_keeps h)
  try clear_value v1
  exact pwmOn_keeps (State.enter_keeps (.upd h1 rfl))

theorem classThree_keeps {s0 s : State} (h : Keeps s0 s) :
    Keeps s0 (classThree s) := by
  unfold classThree
  extract_lets v1 v2
  have h2 : Keeps s0 v2 := .upd h rfl
  try clear_value v2
  split
  · exact h
  · extract_lets v3 v4 v5
    have h4 : Keeps s0 v4 := reactAll_keeps (safeCause_keeps h2)
    try clear_value v4
    split
    · exact safeEnter_keeps (safeCause_keeps h2)
    · exact safeEnter_keeps (safeCause_keeps h2)
    · exact .ite (safeEnter_keeps h2) (.ite (safeEnter_keeps (safeCause_keeps h2)) (.upd h4 rfl))
    · exact h2

theorem twinStart_keeps {s0 s : State} (h : Keeps s0 s) :
    Keeps s0 (twinStart s) := by
  unfold twinStart
  extract_lets v1 v2 v3
  have h1 : Keeps s0 v1 := State.put_keeps h
  try clear_value v1
  have h3 : Keeps s0 v3 := .upd h1 rfl
  exact .ite h (.ite h3 (State.raise_keeps h3))

theorem dataPlaneStart_keeps {s0 s : State} (h : Keeps s0 s) :
    Keeps s0 (dataPlaneStart s) := by
  unfold dataPlaneStart
  extract_lets v1 v2 v3 v4 v5 v6 v7 v8
  have h3 : Keeps s0 v3 := .upd h rfl
  try clear_value v3
  have h4 : Keeps s0 v4 := .foldlT h3 (fun _ _ h => .ite h (grpStart_keeps h))
  try clear_value v4
  have h5 : Keeps s0 v5 := .ite h4 (synthStart_keeps h4)
  try clear_value v5
  have h6 : Keeps s0 v6 := .ite h5 (mashStart_keeps h5)
  try clear_value v6
  have h7 : Keeps s0 v7 := .ite h6 (sxeStart_keeps h6)
  try clear_value v7
  have h8 : Keeps s0 v8 := .foldlT h7 (fun _ _ h => .ite (.ite (coreBegin_keeps h) (State.raise_keeps h)) h)
  exact .ite h (.ite h8 (twinStart_keeps h8))

theorem dataPlaneStop_keeps {s0 s : State} (h : Keeps s0 s) :
    Keeps s0 (dataPlaneStop s) := by
  unfold dataPlaneStop
  extract_lets v1 v2 v3 v4
  have h1 : Keeps s0 v1 := twcStop_keeps (synthStart_keeps (xioStop_keeps (sxeStop_keeps (mashStop_keeps (coresStop_keeps h)))))
  try clear_value v1
  have h2 : Keeps s0 v2 := .ite h1 (State.put_keeps h1)
  try clear_value v2
  try clear_value v4
  exact .upd h2 rfl

end Sys2Proof.Machine
end

