-- ==== Sys2Proof/Laws/KeepsControl.lean ====
section
/-!
SUPPORT. What the operations of Machine/Control.lean keep.
-/
namespace Sys2Proof.Machine

theorem writeFields_keeps {s0 s : State} {d : RegDesc} {a : Nat} {v : Word} {boot : Bool} {later : Bool} (h : Keeps s0 s) :
    Keeps s0 (writeFields s d a v boot later) := by
  unfold writeFields
  extract_lets v1
  have h1 : Keeps s0 v1 := h
  try clear_value v1
  refine Keeps.foldlT h (fun s i h => ?_)
  extract_lets v2 v3
  have h3 : Keeps s0 v3 := State.setShReg_keeps h
  try clear_value v3
  split
  · exact State.put_keeps h
  · exact .ite h (State.put_keeps h)
  · exact .ite (State.put_keeps h3) h3
  · exact .ite h (State.put_keeps h)
  · exact State.setReg_keeps h
  · exact h

theorem rearm_keeps {s0 s : State} {old : State} {d : RegDesc} {a : Nat} (h : Keeps s0 s) :
    Keeps s0 (rearm old s d a) := by
  unfold rearm
  extract_lets v1
  try clear_value v1
  split
  · exact h
  · exact .ite h (.upd h rfl)

theorem timeCapture_keeps {s0 s : State} (h : Keeps s0 s) :
    Keeps s0 (timeCapture s) := by
  unfold timeCapture
  extract_lets v1 v2 v3 v4 v5 v6
  have h1 : Keeps s0 v1 := State.mark_keeps h
  have h3 : Keeps s0 v3 := State.put_keeps h1
  have h4 : Keeps s0 v4 := State.put_keeps (State.put_keeps h3)
  have h5 : Keeps s0 v5 := State.put_keeps (State.put_keeps h4)
  have h6 : Keeps s0 v6 := State.put_keeps (State.put_keeps h5)
  exact .ite h (State.put_keeps h6)

theorem State.later_keeps {s0 s : State} {x : Action} (h : Keeps s0 s) :
    Keeps s0 (State.later s x) := by
  unfold State.later
  extract_lets v1
  exact .upd h rfl

theorem trigStandby_keeps {s0 s : State} {v : Word} (h : Keeps s0 s) :
    Keeps s0 (trigStandby s v) :=
  .ite (State.mark_keeps (State.later_keeps h)) h

theorem trigRelease_keeps {s0 s : State} {v : Word} (h : Keeps s0 s) :
    Keeps s0 (trigRelease s v) :=
  .ite h (.ite (State.mark_keeps (State.later_keeps h)) (State.mark_keeps h))

theorem twinCfgWritten_keeps {s0 s : State} (h : Keeps s0 s) :
    Keeps s0 (twinCfgWritten s) :=
  .ite h (State.put_keeps h)

theorem trigTwinCmd_keeps {s0 s : State} {v : Word} (h : Keeps s0 s) :
    Keeps s0 (trigTwinCmd s v) := by
  unfold trigTwinCmd
  extract_lets v1 v2
  have h2 : Keeps s0 v2 := .ite (State.mark_keeps (.upd h rfl)) h
  exact .ite (State.mark_keeps (State.later_keeps h2)) h2

theorem clipAny_keeps {s0 s : State} (h : Keeps s0 s) :
    Keeps s0 (clipAny s) :=
  State.put_keeps h

theorem decodeLogCleared_keeps {s0 s : State} (h : Keeps s0 s) :
    Keeps s0 (decodeLogCleared s) :=
  .ite h (State.put_keeps h)

theorem writeHook_keeps {s0 s : State} {old : State} {d : RegDesc} {a : Nat} {v : Word} {clear : Option Bool} (h : Keeps s0 s) :
    Keeps s0 (writeHook old s d a v clear) := by
  unfold writeHook
  extract_lets v1 v2 v3 v4 v5
  try clear_value v3
  exact .ite (.ite (.ite (timeCapture_keeps h) h) (.ite (trigStandby_keeps h) h)) (.ite (.ite (slewWritten_keeps h) (.ite (driftWritten_keeps h) (.ite (watchRefs_keeps h) (.ite (refReset_keeps h) (.ite (.upd h rfl) (.ite (trigPhaseStep_keeps h) (.ite (trigAlign_keeps h) (.ite (refCfgWritten_keeps h) (.ite (refReset_keeps h) h))))))))) (.ite (.ite (logWritten_keeps h) (.ite (domCfgWritten_keeps h) (.ite (domPortsWritten_keeps h) (.ite (parentWritten_keeps h) (.ite (trigServo_keeps h) h))))) (.ite (.ite (trigFdb_keeps h) h) (.ite (.ite (clipAny_keeps h) h) (.ite (.ite (trigCoreCtrl_keeps h) (.ite (debugWrite_keeps h) (.ite (trigCoreRun_keeps h) (.ite (trigMboxIn_keeps h) h)))) (.ite (.ite (domWritten_keeps h) (.ite (trigPwmClear_keeps h) (.ite (decodeLogCleared_keeps h) h))) (.ite (.ite (twinCfgWritten_keeps h) (.ite (trigTwinCmd_keeps h) (.ite (trigFltPop_keeps h) (.ite (trigRelease_keeps h) (.ite (trigWdog_keeps h) (.ite (trigKick_keeps h) (.ite (trigMgpRestart_keeps h) h))))))) (.ite (.ite (twcCfgWritten_keeps h) (.ite (trigTwc_keeps h) h)) (.ite (.ite (trigPerf_keeps h) (.ite (bwWritten_keeps h) (.ite (tagWritten_keeps h) (.ite (dumpWritten_keeps h) h)))) (.ite (trigMbPop_keeps h) (.ite (trigMbGo_keeps h) h)))))))))))

theorem specialWrite_keeps {s0 s : State} {d : RegDesc} {a : Nat} {v : Word} {boot : Bool} {flStatus : Option Word}
    (h : Keeps s0 s) {t : State} (e : specialWrite s d a v boot flStatus = some t) : Keeps s0 t := by
  unfold specialWrite at e
  repeat' split at e
  all_goals cases e
  · exact trigPwin_keeps h
  · exact trigMbIn_keeps h
  · exact trigFlash_keeps h

theorem forwardWrite_keeps {s0 s : State} {a : Nat} {v : Word} {target : Nat} {seq : Nat} (h : Keeps s0 s) :
    Keeps s0 (forwardWrite s a v target seq) := by
  unfold forwardWrite
  extract_lets v1 v2
  have h1 : Keeps s0 v1 := twinSend_keeps h
  try clear_value v1
  try clear_value v2
  exact .ite h (.ite (.upd h1 rfl) (State.put_keeps h))

theorem refuseWrite_keeps {s0 s : State} {route : Route} {a : Nat} (h : Keeps s0 s) :
    Keeps s0 (refuseWrite s route a) := by
  unfold refuseWrite
  extract_lets v1
  have h1 : Keeps s0 v1 := State.setReg_keeps h
  exact .ite (State.raise_keeps h) (State.raise_keeps (State.bump_keeps h1))

theorem storeWrite_keeps {s0 s : State} {route : Route} {d : RegDesc} {a : Nat} {v : Word} {later : Bool}
    {flStatus : Option Word} {clear : Option Bool} (h : Keeps s0 s) :
    Keeps s0 (storeWrite s route d a v later flStatus clear).2.2 := by
  unfold storeWrite
  extract_lets v1 v2 v3 v4 v5
  have h4 : Keeps s0 v4 := writeFields_keeps h
  try clear_value v4
  have h5 : Keeps s0 v5 := by
    unfold v5
    split
    · rename_i s6 q6
      have h6 : Keeps s0 s6 := specialWrite_keeps h q6
      exact h6
    · exact writeHook_keeps (rearm_keeps h4)
  try clear_value v5
  split
  · exact refuseWrite_keeps h
  · exact .ite (refuseWrite_keeps h5) h5

theorem regWriteAs_keeps {s0 s : State} {route : Route} {addr : Nat} {v : Word} {tag : Option FwdTag}
    {flStatus : Option Word} {clear : Option Bool} (h : Keeps s0 s) :
    Keeps s0 (regWriteAs route addr v tag flStatus clear s).2 := by
  unfold regWriteAs
  extract_lets v1 v2 v3 v4 v5
  have h2 : Keeps s0 v2 := engineReset_keeps h
  try clear_value v2
  try clear_value v3
  refine Keeps.iteVia (π := Prod.snd) ?_ ?_
  · exact h
  · refine Keeps.iteVia (π := Prod.snd) ?_ ?_
    · exact h
    · split
      · exact .ite (State.raise_keeps h) h
      · extract_lets v6 v7 v8
        refine Keeps.iteVia (π := Prod.snd) ?_ ?_
        · exact h
        · refine Keeps.iteVia (π := Prod.snd) ?_ ?_
          · exact State.bump_keeps h
          · refine Keeps.iteVia (π := Prod.snd) ?_ ?_
            · exact h
            · refine Keeps.iteVia (π := Prod.snd) ?_ ?_
              · refine Keeps.iteVia (π := Prod.snd) ?_ ?_
                · exact .upd h2 rfl
                · exact journalWrite_keeps h
              · refine Keeps.iteVia (π := Prod.snd) ?_ ?_
                · split
                  · rename_i s9 q9
                    have h9 : Keeps s0 s9 := .ofPair q9 (commitWrite_keeps h)
                    exact h9
                  · rename_i s10 q10
                    have h10 : Keeps s0 s10 := .ofPair q10 (commitWrite_keeps h)
                    exact forwardWrite_keeps (journalWrite_keeps h10)
                  · rename_i _ s11 q11
                    have h11 : Keeps s0 s11 := .ofPair q11 (commitWrite_keeps h)
                    extract_lets v12
                    exact forwardWrite_keeps (journalWrite_keeps h11)
                · split
                  · rename_i _ _ s13 q13
                    have h13 : Keeps s0 s13 := .ofPair22 q13 (storeWrite_keeps h)
                    extract_lets v14 v15 v16 v17
                    have h15 : Keeps s0 v15 := .ite (.upd h13 rfl) h13
                    try clear_value v15 v14
                    have h17 : Keeps s0 v17 := .ite h15 (journalWrite_keeps h15)
                    try clear_value v17
                    refine Keeps.iteVia (π := Prod.snd) ?_ ?_
                    · exact h13
                    · exact .ite (forwardWrite_keeps h17) h17

theorem regWrite_keeps {s0 s : State} {route : Route} {addr : Nat} {v : Word} (h : Keeps s0 s) :
    Keeps s0 (regWrite route addr v s) :=
  regWriteAs_keeps h

theorem lvBoundary_keeps {s0 s : State} (h : Keeps s0 s) :
    Keeps s0 (lvBoundary s) := by
  unfold lvBoundary
  extract_lets v1 v2 v3
  have h3 : Keeps s0 v3 := .upd h rfl
  try clear_value v3 v2
  refine Keeps.ite ?_ ?_
  · exact h
  · refine Keeps.foldlT h3 (fun s i h => ?_)
    split
    · split
      · exact h
      · exact .foldlT h (fun _ _ h => .ite (State.put_keeps h) h)

theorem ofsRead_keeps {s0 s : State} {k : Fin 2} (h : Keeps s0 s) :
    Keeps s0 (ofsRead s k).2 := by
  unfold ofsRead
  extract_lets v1 v2
  exact State.setPdom_keeps h

theorem pendRead_keeps {s0 s : State} (h : Keeps s0 s) :
    Keeps s0 (pendRead s).2 := by
  unfold pendRead
  extract_lets v1
  try clear_value v1
  exact .upd h rfl

theorem digRead_keeps {s0 s : State} (h : Keeps s0 s) :
    Keeps s0 (digRead s).2 := by
  unfold digRead
  extract_lets v1
  try clear_value v1
  exact .upd h rfl

theorem eccRead_keeps {s0 s : State} (h : Keeps s0 s) :
    Keeps s0 (eccRead s).2 := by
  unfold eccRead
  extract_lets v1
  try clear_value v1
  exact .upd h rfl

theorem memAddrRead_keeps {s0 s : State} (h : Keeps s0 s) :
    Keeps s0 (memAddrRead s).2 := by
  unfold memAddrRead
  extract_lets v1
  exact .upd h rfl

theorem latchRead_keeps {s0 s : State} {d : RegDesc} {a : Nat} (h : Keeps s0 s) {r : Word × State}
    (e : latchRead s d a = some r) : Keeps s0 r.2 := by
  unfold latchRead at e
  extract_lets b k at e
  repeat' split at e
  all_goals cases e
  · exact ofsRead_keeps h
  · exact h
  · exact pendRead_keeps h
  · exact h
  · exact digRead_keeps h
  · exact h
  · exact eccRead_keeps h
  · exact h
  · exact memAddrRead_keeps h
  · exact h
  · exact perfCntRead_keeps h

theorem regRead_keeps {s0 s : State} {addr : Nat} (h : Keeps s0 s) : Keeps s0 (regRead s addr).2 := by
  unfold regRead
  extract_lets a
  split
  · exact h
  split
  · exact latchRead_keeps h (by assumption)
  · split <;> exact h

theorem readCmd_keeps {s0 s : State} {f : State → Word × State} (h : Keeps s0 s) (hf : ∀ s, Keeps s0 s → Keeps s0
    (f s).2) {t : State}
    (e : readCmd f s = .next t) : Keeps s0 t := by
  refine Cmd.run_keeps h (fun s h => ?_) e
  split
  · rename_i _ s1 q1
    have h1 : Keeps s0 s1 := .ofPair q1 (hf _ h)
    exact State.emit_keeps h1

theorem execPtpDomOfsRead_keeps {s0 s : State} {d : Fin 2} (h : Keeps s0 s) {t : State}
    (e : execPtpDomOfsRead d s = .next t) : Keeps s0 t :=
  readCmd_keeps h (fun s h => ofsRead_keeps h) e

theorem execKilnPendRead_keeps {s0 s : State} (h : Keeps s0 s) {t : State}
    (e : execKilnPendRead s = .next t) : Keeps s0 t :=
  readCmd_keeps h (fun s h => pendRead_keeps h) e

theorem execTwinDigRead_keeps {s0 s : State} (h : Keeps s0 s) {t : State}
    (e : execTwinDigRead s = .next t) : Keeps s0 t :=
  readCmd_keeps h (fun s h => digRead_keeps h) e

theorem execCaskEccAddrRead_keeps {s0 s : State} (h : Keeps s0 s) {t : State}
    (e : execCaskEccAddrRead s = .next t) : Keeps s0 t :=
  readCmd_keeps h (fun s h => eccRead_keeps h) e

theorem execFltMemAddrRead_keeps {s0 s : State} (h : Keeps s0 s) {t : State}
    (e : execFltMemAddrRead s = .next t) : Keeps s0 t :=
  readCmd_keeps h (fun s h => memAddrRead_keeps h) e

end Sys2Proof.Machine
end

