-- ==== Sys2Proof/Laws/KeepsEthRx.lean ====
section
/-!
SUPPORT. What the operations of Machine/EthRx.lean keep.
-/
namespace Sys2Proof.Machine

theorem execEthLinkUp_keeps {s0 s : State} {p : Fin 8} {rxLat : BitVec 16} {txLat : BitVec 16} (h : Keeps s0 s) {t : State}
    (e : execEthLinkUp p rxLat txLat s = .next t) : Keeps s0 t := by
  refine Cmd.run_keeps h (fun s h => ?_) e
  extract_lets v1 v2 v3 v4 v5 v6 v7 v8 v9 v10 v11
  have h2 : Keeps s0 v2 := State.mark_keeps (State.put_keeps (State.put_keeps h))
  try clear_value v2
  have h3 : Keeps s0 v3 := State.put_keeps (State.mark_keeps h2)
  try clear_value v3
  have h4 : Keeps s0 v4 := State.mark_keeps (State.unmark_keeps (State.unmark_keeps h3))
  try clear_value v4
  have h5 : Keeps s0 v5 := State.put_keeps h4
  try clear_value v5
  have h7 : Keeps s0 v7 := State.setEport_keeps h5
  try clear_value v7
  have h8 : Keeps s0 v8 := .ite (State.emit_keeps h7) h7
  try clear_value v8
  have h9 : Keeps s0 v9 := State.raise_keeps h8
  try clear_value v9
  have h11 : Keeps s0 v11 := .ite (.upd h9 rfl) h9
  exact .ite h (refFollow_keeps h11)

theorem ethDown_keeps {s0 s : State} {p : Fin 8} (h : Keeps s0 s) :
    Keeps s0 (ethDown s p) := by
  unfold ethDown
  extract_lets v1 v2 v3 v4 v5 v6 v7
  have h2 : Keeps s0 v2 := State.mark_keeps (State.unmark_keeps h)
  try clear_value v2
  have h3 : Keeps s0 v3 := State.put_keeps (State.unmark_keeps (State.unmark_keeps h2))
  try clear_value v3
  have h4 : Keeps s0 v4 := linkDrop_keeps h3
  try clear_value v4
  have h5 : Keeps s0 v5 := State.setFdb_keeps h4
  try clear_value v5
  have h6 : Keeps s0 v6 := .ite (State.raise_keeps h5) h5
  try clear_value v6
  have h7 : Keeps s0 v7 := .foldlT h6 (fun _ _ h => .ite (servoReset_keeps h) h)
  exact .ite h (refFollow_keeps h7)

theorem execEthLinkDown_keeps {s0 s : State} {p : Fin 8} {blkLock : Bool} {fecAlign : Bool} {lfault : Bool}
    {rfault : Bool} (h : Keeps s0 s) {t : State}
    (e : execEthLinkDown p blkLock fecAlign lfault rfault s = .next t) : Keeps s0 t := by
  refine Cmd.run_keeps h (fun s h => ?_) e
  extract_lets v1 v2
  have h2 : Keeps s0 v2 := State.put_keeps (State.put_keeps (State.put_keeps h))
  exact .ite h (ethDown_keeps (State.put_keeps h2))

theorem wakeUp_keeps {s0 s : State} {source : Nat} (h : Keeps s0 s) :
    Keeps s0 (wakeUp s source) := by
  unfold wakeUp
  extract_lets v1 v2 v3
  have h1 : Keeps s0 v1 := xioEarly_keeps (caskWake_keeps (State.enter_keeps h))
  try clear_value v1
  have h2 : Keeps s0 v2 := State.mark_keeps (State.put_keeps h1)
  try clear_value v2
  try clear_value v3
  exact .ite h (.upd h2 rfl)

theorem ringPut_keeps {s0 s : State} {q : Fin 4} {p : Nat} {f : RxFrame} (h : Keeps s0 s) :
    Keeps s0 (ringPut s q p f) :=
  ringFill_keeps h

theorem ptpDeliver_keeps {s0 s : State} {p : Fin 8} {f : RxFrame} {x : PtpAt} {good : Bool} (h : Keeps s0 s) :
    Keeps s0 (ptpDeliver s p f x good) := by
  unfold ptpDeliver
  split
  · rename_i _ s1 q1
    have h1 : Keeps s0 s1 := .ofPair q1 (ptpReceive_keeps h)
    exact .ite (ringPut_keeps h1) h1

theorem deliver_keeps {s0 s : State} {p : Fin 8} {f : RxFrame} (h : Keeps s0 s) :
    Keeps s0 (deliver s p f) := by
  unfold deliver
  split
  · rename_i _ s1 q1
    have h1 : Keeps s0 s1 := .ofPair q1 (sxeReceive_keeps h)
    refine Keeps.ite ?_ ?_
    · exact h1
    · split
      · exact ptpDeliver_keeps h1
      · exact .ite (ringPut_keeps h1) (.ite h1 (ringPut_keeps h1))

theorem forwardTo_keeps {s0 s : State} {p : Fin 8} {f : RxFrame} {entry : Option Nat} {tc : Nat} {bad : Bool}
    {e : Nat} (h : Keeps s0 s) :
    Keeps s0 (forwardTo s p f entry tc bad e) := by
  unfold forwardTo
  extract_lets v1 v2 v3
  try clear_value v3
  split
  · split
    · rename_i _ s4 q4
      have h4 : Keeps s0 s4 := .ofPair q4 (State.freeNat_keeps h)
      split
      · rename_i _ s5 q5
        have h5 : Keeps s0 s5 := .ofPair q5 (stampTx_keeps h4)
        exact cutSend_keeps h5
  · exact .ite h (ethQueue_keeps h)

theorem forward_keeps {s0 s : State} {p : Fin 8} {f : RxFrame} {full : List Byte} {bad : Bool} (h : Keeps s0 s) :
    Keeps s0 (forward s p f full bad) := by
  unfold forward
  extract_lets v1
  split
  · refine Keeps.ite ?_ ?_
    · exact .ite (State.bump_keeps h) h
    · split
      · rename_i _ s2 q2
        have h2 : Keeps s0 s2 := .ofPair q2 (by
          split
          · refine Keeps.iteVia (π := Prod.snd) ?_ ?_
            · exact h
            · split
              · rename_i _ s3 q3
                have h3 : Keeps s0 s3 := .ofPair q3 (stormTake_keeps h)
                exact .ite h3 (ethCount_keeps h3)
          · exact h)
        extract_lets v4
        exact .ite h2 (.foldlT h2 (fun _ _ h => forwardTo_keeps h))

theorem rxDrop_keeps {s0 s : State} {p : Nat} {l : Loc} (h : Keeps s0 s) :
    Keeps s0 (rxDrop s p l) :=
  ethCount_keeps (State.bump_keeps h)

theorem rxMerge_keeps {s0 s : State} {p : Fin 8} {kind : RxKind} (h : Keeps s0 s) :
    Keeps s0 (rxMerge s p kind).2 := by
  unfold rxMerge
  extract_lets v1
  split
  · exact h
  · refine Keeps.iteVia (π := Prod.snd) ?_ ?_
    · exact h
    · exact rxDrop_keeps h
  · exact rxDrop_keeps h
  · exact .ite (State.emit_keeps h) (rxDrop_keeps h)
  · exact .ite (rxDrop_keeps h) (.ite (State.put_keeps h) h)

theorem rxGood_keeps {s0 s : State} {p : Fin 8} {f : RxFrame} {full : List Byte} (h : Keeps s0 s) :
    Keeps s0 (rxGood s p f full) := by
  unfold rxGood
  extract_lets v1 v2 v3 v4
  have h3 : Keeps s0 v3 := .ite (learn_keeps h) h
  try clear_value v3
  have h4 : Keeps s0 v4 := forward_keeps h3
  try clear_value v4
  refine Keeps.ite ?_ ?_
  · exact h
  · refine Keeps.ite ?_ ?_
    · refine Keeps.ite ?_ ?_
      · split
        · exact wakeUp_keeps (State.mark_keeps (State.put_keeps (State.put_keeps h)))
        · exact h
      · exact h
    · refine Keeps.ite ?_ ?_
      · exact .ite (deliver_keeps h) h
      · refine Keeps.ite ?_ ?_
        · exact rxDrop_keeps h
        · split
          · exact .ite (deliver_keeps h4) (ptpDeliver_keeps h4)
          · exact .ite (deliver_keeps h4) h4

theorem execEthFrameReceive_keeps {s0 s : State} {p : Fin 8} {frame : List Byte} {fcsOk : Bool} {kind : RxKind}
    {corr : Nat} {uncorr : Nat} {ts : Nat} (h : Keeps s0 s) {t : State}
    (e : execEthFrameReceive p frame fcsOk kind corr uncorr ts s = .next t) : Keeps s0 t := by
  refine Cmd.run_keeps h (fun s h => ?_) e
  extract_lets v1 v2 v3
  have h2 : Keeps s0 v2 := State.bump_keeps (State.bump_keeps h)
  try clear_value v2
  refine Keeps.ite ?_ ?_
  · exact h
  · split
    · rename_i _ s4 q4
      have h4 : Keeps s0 s4 := .ofPair q4 (rxMerge_keeps h2)
      extract_lets v5 v6 v7 v8 v9 v10
      have h7 : Keeps s0 v7 := rxDrop_keeps h4
      have h8 : Keeps s0 v8 := State.bump_keeps (State.bump_keeps h4)
      have h9 : Keeps s0 v9 := .ite (State.bump_keeps h8) h8
      have h10 : Keeps s0 v10 := State.bwAdd_keeps (ethCount_keeps h9)
      exact .ite h4 (.ite (rxDrop_keeps h4) (.ite (.ite h7 (forward_keeps h7)) (.ite (rxDrop_keeps h4) (rxGood_keeps h10))))

end Sys2Proof.Machine
end

