-- ==== Sys2Proof/Laws/KeepsBoot.lean ====
section
/-!
SUPPORT. What the operations of Machine/Boot.lean keep.
-/
namespace Sys2Proof.Machine

theorem slotLook_keeps {s0 s : State} {b : Bool} (h : Keeps s0 s) :
    Keeps s0 (slotLook s b) :=
  .ite (State.put_keeps h) h

theorem execResetRelease_keeps {s0 s : State} {bootFlash : Bool} {twtAddr : Fin 4} {ctrlPort : Fin 8}
    {twinRole : Bool} {sfdpOk : Bool} {clear0 : Bool} {clear1 : Bool} (h : Keeps s0 s) {t : State}
    (e : execResetRelease bootFlash twtAddr ctrlPort twinRole sfdpOk clear0 clear1 s = .next t) : Keeps s0 t := by
  refine Cmd.run_keeps h (fun s h => ?_) e
  extract_lets v1 v2 v3 v4 v5 v6 v7 v8 v9 v10 v11 v12
  have h4 : Keeps s0 v4 := .upd h rfl
  try clear_value v4
  have h5 : Keeps s0 v5 := State.put_keeps h4
  try clear_value v5
  have h6 : Keeps s0 v6 := State.put_keeps h5
  try clear_value v6
  have h7 : Keeps s0 v7 := State.put_keeps h6
  try clear_value v7
  have h8 : Keeps s0 v8 := busClear_keeps (busClear_keeps h7)
  try clear_value v8
  have h9 : Keeps s0 v9 := slotLook_keeps (slotLook_keeps h8)
  try clear_value v9
  try clear_value v12
  exact .ite h (.upd h9 rfl)

theorem execLoadComplete_keeps {s0 s : State} (h : Keeps s0 s) {t : State}
    (e : execLoadComplete s = .next t) : Keeps s0 t :=
  Cmd.run_keeps h (fun _ h => .ite (State.enter_keeps h) h) e

theorem execCheckComplete_keeps {s0 s : State} {keyGood : Bool} {sigGood : Bool} (h : Keeps s0 s) {t : State}
    (e : execCheckComplete keyGood sigGood s = .next t) : Keeps s0 t := by
  refine Cmd.run_keeps h (fun s h => ?_) e
  refine Keeps.ite ?_ ?_
  · exact h
  · split
    · exact pwmOn_keeps (State.enter_keeps h)
    · extract_lets v1 v2 v3
      have h2 : Keeps s0 v2 := State.put_keeps h
      try clear_value v2
      try clear_value v3
      refine Keeps.ite ?_ ?_
      · exact State.enter_keeps (.upd h2 rfl)
      · split
        · exact pwmOn_keeps (State.enter_keeps (.upd h2 rfl))
        · exact State.enter_keeps (.upd h2 rfl)

theorem bootWrites_keeps {s0 s : State} {l : List (Nat × Word)} (h : Keeps s0 s) :
    Keeps s0 (bootWrites s l) := by
  unfold bootWrites
  refine Keeps.foldlT h (fun s i h => ?_)
  split
  · exact regWriteAs_keeps h

theorem bootLine_keeps {s0 s : State} {bs : List Byte} {base : Nat} {p : Nat × Nat} (h : Keeps s0 s) :
    Keeps s0 (bootLine bs base s p) := by
  unfold bootLine
  split
  · exact .ite h (State.raise_keeps (decodeError_keeps h))
  · exact beatRun_keeps h

theorem bootFabric_keeps {s0 s : State} {a : Nat} {bs : List Byte} (h : Keeps s0 s) :
    Keeps s0 (bootFabric s a bs) := by
  unfold bootFabric
  extract_lets v1
  split
  · exact State.raise_keeps h
  · exact .foldlT h (fun _ _ h => bootLine_keeps h)

theorem bootRequest_keeps {s0 s : State} (h : Keeps s0 s) :
    Keeps s0 (bootRequest s) := by
  unfold bootRequest
  split
  · exact .ite (State.powerWork_keeps h) h
  · exact h

theorem applySection_keeps {s0 s : State} {x : Section} (h : Keeps s0 s) :
    Keeps s0 (applySection s x) := by
  unfold applySection
  extract_lets v1 v2 v3
  try clear_value v3
  split
  · exact bootWrites_keeps h
  · exact bootWrites_keeps h
  · exact bootFabric_keeps h
  · exact .upd h rfl
  · exact h

theorem imageLoaded_keeps {s0 s : State} (h : Keeps s0 s) : Keeps s0 (imageLoaded s) := by
  unfold imageLoaded
  extract_lets v1 v2 v3 v4
  have h2 : Keeps s0 v2 := State.put_keeps (State.mark_keeps h)
  have h3 : Keeps s0 v3 := State.setReg_keeps (State.setReg_keeps h2)
  exact strCommit_keeps (gateCommit_keeps (xioEarly_keeps (mgpStart_keeps h3)))

theorem execPrepareSection_keeps {s0 s : State} {crcOk : Bool} (h : Keeps s0 s) {t : State}
    (e : execPrepareSection crcOk s = .next t) : Keeps s0 t := by
  refine Cmd.run_keeps h (fun s h => ?_) e
  split
  · exact h
  · extract_lets v1 v2 v3
    have h1 : Keeps s0 v1 := applySection_keeps h
    try clear_value v1
    have h3 : Keeps s0 v3 := .upd h1 rfl
    exact .ite h (.ite (engineReset_keeps (State.mark_keeps (State.put_keeps h))) (.ite h (.ite h1 (.ite (imageLoaded_keeps h3) h3))))

theorem execWakeNEvent_keeps {s0 s : State} (h : Keeps s0 s) {t : State}
    (e : execWakeNEvent s = .next t) : Keeps s0 t :=
  Cmd.run_keeps h (fun _ h => wakeUp_keeps h) e

theorem staleOne_keeps {s0 s : State} {act : Nat} {n : Nat} {sidx : Nat} {eidx : Nat} {byte : Nat → Nat} {k : Nat}
    {x : Nat × Nat} (h : Keeps s0 s) :
    Keeps s0 (staleOne s act n sidx eidx byte k x).2 := by
  unfold staleOne
  extract_lets v1 v2
  refine Keeps.iteVia (π := Prod.snd) ?_ ?_
  · exact h
  · refine Keeps.iteVia (π := Prod.snd) ?_ ?_
    · exact h
    · refine Keeps.iteVia (π := Prod.snd) ?_ ?_
      · exact beatRun_keeps (State.powerWork_keeps h)
      · exact beatStalled_keeps (State.powerWork_keeps h)

theorem staleRing_keeps {s0 s : State} {act : Nat} {ups : List (Nat × Nat)} {n : Nat} {sidx : Nat} {eidx : Nat}
    {byte : Nat → Nat} {k : Nat} (h : Keeps s0 s) :
    Keeps s0 (staleRing s act ups n sidx eidx byte k).2 := by
  unfold staleRing
  refine Keeps.foldlPairT h (fun s i h => ?_)
  split
  · rename_i _ s1 q1
    have h1 : Keeps s0 s1 := .ofPair q1 (staleOne_keeps h)
    exact h1

theorem staleRx_keeps {s0 s : State} {q : Fin 4} (h : Keeps s0 s) :
    Keeps s0 (staleRx s q) := by
  unfold staleRx
  extract_lets v1
  split
  · rename_i _ s2 q2
    have h2 : Keeps s0 s2 := .ofPair q2 (staleRing_keeps h)
    extract_lets v3
    exact State.setRing_keeps h2

theorem staleLog_keeps {s0 s : State} (h : Keeps s0 s) :
    Keeps s0 (staleLog s) := by
  unfold staleLog
  split
  · split
    · rename_i _ s1 q1
      have h1 : Keeps s0 s1 := .ofPair q1 (staleRing_keeps h)
      extract_lets v2
      try clear_value v2
      exact .upd h1 rfl

theorem staleDump_keeps {s0 s : State} (h : Keeps s0 s) :
    Keeps s0 (staleDump s) := by
  unfold staleDump
  split
  · split
    · rename_i _ s1 q1
      have h1 : Keeps s0 s1 := .ofPair q1 (staleRing_keeps h)
      extract_lets v2
      try clear_value v2
      exact .upd h1 rfl

theorem execStaleMark_keeps {s0 s : State} (h : Keeps s0 s) {t : State}
    (e : execStaleMark s = .next t) : Keeps s0 t :=
  Cmd.run_keeps h (fun _ h => staleDump_keeps (staleLog_keeps (.foldlT (staleJournal_keeps (staleFaults_keeps h)) (fun _ _ h => staleRx_keeps h)))) e

theorem execSysTempMeasure_keeps {s0 s : State} {temp : BitVec 12} (h : Keeps s0 s) {t : State}
    (e : execSysTempMeasure temp s = .next t) : Keeps s0 t := by
  refine Cmd.run_keeps h (fun s h => ?_) e
  extract_lets v1 v2 v3 v4
  have h2 : Keeps s0 v2 := State.put_keeps h
  try clear_value v2
  have h3 : Keeps s0 v3 := .ite (State.put_keeps h2) h2
  try clear_value v3
  exact .ite h (.upd h3 rfl)

theorem execPcieLinkUp_keeps {s0 s : State} {width : Fin 4} {gen : Fin 4} {msixEn : Bool} (h : Keeps s0 s) {t : State}
    (e : execPcieLinkUp width gen msixEn s = .next t) : Keeps s0 t :=
  Cmd.run_keeps h (fun _ h => .ite h (State.put_keeps (State.put_keeps (State.put_keeps (State.mark_keeps h))))) e

theorem pcieDown_keeps {s0 s : State} (h : Keeps s0 s) :
    Keeps s0 (pcieDown s) :=
  State.put_keeps (State.put_keeps (State.put_keeps (State.unmark_keeps h)))

theorem execPcieLinkDown_keeps {s0 s : State} (h : Keeps s0 s) {t : State}
    (e : execPcieLinkDown s = .next t) : Keeps s0 t :=
  Cmd.run_keeps h (fun _ h => pcieDown_keeps h) e

end Sys2Proof.Machine
end

