-- ==== Sys2Proof/Laws/KeepsCommands.lean ====
section
/-!
SUPPORT. What the operations of Machine/Commands.lean keep.
-/
namespace Sys2Proof.Machine

theorem writeCmd_keeps {s0 s : State} {route : Route} {a : Nat} {v : Word} (h : Keeps s0 s) {t : State}
    (e : writeCmd route a v s = .next t) : Keeps s0 t :=
  Cmd.run_keeps h (fun _ h => regWrite_keeps h) e

theorem execRegisterWrite_keeps {s0 s : State} {route : Route} {addr : BitVec 25} {data : Word} {be : BitVec 4}
    (h : Keeps s0 s) {t : State}
    (e : execRegisterWrite route addr data be s = .next t) : Keeps s0 t :=
  Cmd.run_keeps h (fun _ h => .ite (.ite h (State.mark_keeps h)) (regWrite_keeps h)) e

theorem execSoftwareReset_keeps {s0 s : State} {route : Route} {data : Word} (h : Keeps s0 s) {t : State}
    (e : execSoftwareReset route data s = .next t) : Keeps s0 t :=
  writeCmd_keeps h e

theorem execSysTimeCapture_keeps {s0 s : State} {route : Route} {data : Word} (h : Keeps s0 s) {t : State}
    (e : execSysTimeCapture route data s = .next t) : Keeps s0 t :=
  writeCmd_keeps h e

theorem execStandbyEnterCmd_keeps {s0 s : State} {route : Route} {data : Word} (h : Keeps s0 s) {t : State}
    (e : execStandbyEnterCmd route data s = .next t) : Keeps s0 t :=
  writeCmd_keeps h e

theorem execHifCtrlWrite_keeps {s0 s : State} {route : Route} {data : Word} (h : Keeps s0 s) {t : State}
    (e : execHifCtrlWrite route data s = .next t) : Keeps s0 t :=
  writeCmd_keeps h e

theorem execCommit_keeps {s0 s : State} {route : Route} {g : Fin 32} {data : Word} (h : Keeps s0 s) {t : State}
    (e : execCommit route g data s = .next t) : Keeps s0 t :=
  writeCmd_keeps h e

theorem execCommitCancel_keeps {s0 s : State} {route : Route} {g : Fin 32} {data : Word} (h : Keeps s0 s) {t : State}
    (e : execCommitCancel route g data s = .next t) : Keeps s0 t :=
  writeCmd_keeps h e

theorem execFltPop_keeps {s0 s : State} {route : Route} {data : Word} (h : Keeps s0 s) {t : State}
    (e : execFltPop route data s = .next t) : Keeps s0 t :=
  writeCmd_keeps h e

theorem execSafeReleaseCmd_keeps {s0 s : State} {route : Route} {data : Word} (h : Keeps s0 s) {t : State}
    (e : execSafeReleaseCmd route data s = .next t) : Keeps s0 t :=
  writeCmd_keeps h e

theorem execHostWdogWrite_keeps {s0 s : State} {route : Route} {data : Word} (h : Keeps s0 s) {t : State}
    (e : execHostWdogWrite route data s = .next t) : Keeps s0 t :=
  writeCmd_keeps h e

theorem execHostWdogKick_keeps {s0 s : State} {route : Route} {data : Word} (h : Keeps s0 s) {t : State}
    (e : execHostWdogKick route data s = .next t) : Keeps s0 t :=
  writeCmd_keeps h e

theorem execHostWdogExpiry_keeps {s0 s : State} (h : Keeps s0 s) {t : State}
    (e : execHostWdogExpiry s = .next t) : Keeps s0 t := by
  refine Cmd.run_keeps h (fun s h => ?_) e
  extract_lets v1 v2
  have h2 : Keeps s0 v2 := State.mark_keeps (.upd h rfl)
  try clear_value v2
  refine Keeps.ite ?_ ?_
  · exact h
  · split
    · exact State.raise_keeps h2
    · exact engineReset_keeps h2
    · exact State.raise_keeps h2

theorem execMgpRestartCmd_keeps {s0 s : State} {route : Route} {data : Word} (h : Keeps s0 s) {t : State}
    (e : execMgpRestartCmd route data s = .next t) : Keeps s0 t :=
  writeCmd_keeps h e

theorem execMbPop_keeps {s0 s : State} {route : Route} {data : Word} (h : Keeps s0 s) {t : State}
    (e : execMbPop route data s = .next t) : Keeps s0 t :=
  writeCmd_keeps h e

theorem execMbGo_keeps {s0 s : State} {route : Route} {data : Word} (h : Keeps s0 s) {t : State}
    (e : execMbGo route data s = .next t) : Keeps s0 t :=
  writeCmd_keeps h e

theorem execMbPtpPortState_keeps {s0 s : State} {d : Fin 2} {ports : Word} {parent : BitVec 64}
    {parentPort : BitVec 16} (h : Keeps s0 s) {t : State}
    (e : execMbPtpPortState d ports parent parentPort s = .next t) : Keeps s0 t := by
  refine Cmd.run_keeps h (fun s h => ?_) e
  extract_lets v1 v2 v3 v4
  have h1 : Keeps s0 v1 := regWrite_keeps h
  have h2 : Keeps s0 v2 := regWrite_keeps h1
  have h3 : Keeps s0 v3 := regWrite_keeps h2
  have h4 : Keeps s0 v4 := regWrite_keeps h3
  exact .ite h (mbPtpReport_keeps h4)

theorem execMbEeeWakeTime_keeps {s0 s : State} {port : Fin 8} {tw : BitVec 16} (h : Keeps s0 s) {t : State}
    (e : execMbEeeWakeTime port tw s = .next t) : Keeps s0 t := by
  refine Cmd.run_keeps h (fun s h => ?_) e
  extract_lets v1 v2
  have h2 : Keeps s0 v2 := regWrite_keeps h
  exact .ite h (mbEeeReport_keeps h2)

theorem execCoreHalt_keeps {s0 s : State} {route : Route} {c : Fin 16} {data : Word} (h : Keeps s0 s) {t : State}
    (e : execCoreHalt route c data s = .next t) : Keeps s0 t :=
  writeCmd_keeps h e

theorem execCoreResume_keeps {s0 s : State} {route : Route} {c : Fin 16} {data : Word} (h : Keeps s0 s) {t : State}
    (e : execCoreResume route c data s = .next t) : Keeps s0 t :=
  writeCmd_keeps h e

theorem execCoreStep_keeps {s0 s : State} {route : Route} {c : Fin 16} {data : Word} (h : Keeps s0 s) {t : State}
    (e : execCoreStep route c data s = .next t) : Keeps s0 t :=
  writeCmd_keeps h e

theorem execCoreDbgDataAccess_keeps {s0 s : State} {route : Route} {c : Fin 16} {wr : Option Word} (h : Keeps s0 s) {t : State}
    (e : execCoreDbgDataAccess route c wr s = .next t) : Keeps s0 t := by
  refine Cmd.run_keeps h (fun s h => ?_) e
  split
  · exact regWrite_keeps h
  · split
    · rename_i _ s1 q1
      have h1 : Keeps s0 s1 := .ofPair q1 (regRead_keeps h)
      exact State.emit_keeps h1

theorem execCoreRestartCmd_keeps {s0 s : State} {route : Route} {c : Fin 16} {data : Word} (h : Keeps s0 s) {t : State}
    (e : execCoreRestartCmd route c data s = .next t) : Keeps s0 t :=
  writeCmd_keeps h e

theorem execCorePwinWrite_keeps {s0 s : State} {route : Route} {c : Fin 16} {o : Fin 8192} {data : Word}
    (h : Keeps s0 s) {t : State}
    (e : execCorePwinWrite route c o data s = .next t) : Keeps s0 t :=
  writeCmd_keeps h e

theorem execMboxInWrite_keeps {s0 s : State} {route : Route} {c : Fin 16} {i : Fin 8} {data : Word} (h : Keeps s0 s) {t : State}
    (e : execMboxInWrite route c i data s = .next t) : Keeps s0 t :=
  writeCmd_keeps h e

theorem execPwmClearCmd_keeps {s0 s : State} {route : Route} {c : Fin 24} {data : Word} (h : Keeps s0 s) {t : State}
    (e : execPwmClearCmd route c data s = .next t) : Keeps s0 t :=
  writeCmd_keeps h e

theorem execFdbReadSlot_keeps {s0 s : State} {route : Route} {data : Word} (h : Keeps s0 s) {t : State}
    (e : execFdbReadSlot route data s = .next t) : Keeps s0 t :=
  writeCmd_keeps h e

theorem execFdbWriteStatic_keeps {s0 s : State} {route : Route} {data : Word} (h : Keeps s0 s) {t : State}
    (e : execFdbWriteStatic route data s = .next t) : Keeps s0 t :=
  writeCmd_keeps h e

theorem execFdbDelete_keeps {s0 s : State} {route : Route} {data : Word} (h : Keeps s0 s) {t : State}
    (e : execFdbDelete route data s = .next t) : Keeps s0 t :=
  writeCmd_keeps h e

theorem execFdbFlushPort_keeps {s0 s : State} {route : Route} {data : Word} (h : Keeps s0 s) {t : State}
    (e : execFdbFlushPort route data s = .next t) : Keeps s0 t :=
  writeCmd_keeps h e

theorem execFdbFlushDynamic_keeps {s0 s : State} {route : Route} {data : Word} (h : Keeps s0 s) {t : State}
    (e : execFdbFlushDynamic route data s = .next t) : Keeps s0 t :=
  writeCmd_keeps h e

theorem execFdbInvalidOp_keeps {s0 s : State} {route : Route} {data : Word} (h : Keeps s0 s) {t : State}
    (e : execFdbInvalidOp route data s = .next t) : Keeps s0 t :=
  writeCmd_keeps h e

theorem execServoResetCmd_keeps {s0 s : State} {route : Route} {d : Fin 2} {data : Word} (h : Keeps s0 s) {t : State}
    (e : execServoResetCmd route d data s = .next t) : Keeps s0 t :=
  writeCmd_keeps h e

theorem execParentPortWrite_keeps {s0 s : State} {route : Route} {d : Fin 2} {data : Word} (h : Keeps s0 s) {t : State}
    (e : execParentPortWrite route d data s = .next t) : Keeps s0 t :=
  writeCmd_keeps h e

theorem execKilnPhaseStepWrite_keeps {s0 s : State} {route : Route} {data : Word} (h : Keeps s0 s) {t : State}
    (e : execKilnPhaseStepWrite route data s = .next t) : Keeps s0 t :=
  writeCmd_keeps h e

theorem execKilnSlewMaxWrite_keeps {s0 s : State} {route : Route} {data : Word} (h : Keeps s0 s) {t : State}
    (e : execKilnSlewMaxWrite route data s = .next t) : Keeps s0 t :=
  writeCmd_keeps h e

theorem execKilnRefConfigWrite_keeps {s0 s : State} {route : Route} {i : Fin 14} {k : Fin 4} {data : Word} (h : Keeps s0 s)
    {t : State} (e : execKilnRefConfigWrite route i k data s = .next t) : Keeps s0 t :=
  writeCmd_keeps h e

theorem execKilnAlignCmd_keeps {s0 s : State} {route : Route} {data : Word} (h : Keeps s0 s) {t : State}
    (e : execKilnAlignCmd route data s = .next t) : Keeps s0 t :=
  writeCmd_keeps h e

theorem execTwinRejoinCmd_keeps {s0 s : State} {route : Route} {data : Word} (h : Keeps s0 s) {t : State}
    (e : execTwinRejoinCmd route data s = .next t) : Keeps s0 t :=
  writeCmd_keeps h e

theorem execTwinYieldCmd_keeps {s0 s : State} {route : Route} {data : Word} (h : Keeps s0 s) {t : State}
    (e : execTwinYieldCmd route data s = .next t) : Keeps s0 t :=
  writeCmd_keeps h e

theorem execTwcResetCmd_keeps {s0 s : State} {route : Route} {k : Fin 2} {data : Word} {clear : Bool} (h : Keeps s0 s)
    {t : State}
    (e : execTwcResetCmd route k data clear s = .next t) : Keeps s0 t :=
  Cmd.run_keeps h (fun _ h => regWriteAs_keeps h) e

theorem execPerfClear_keeps {s0 s : State} {route : Route} {data : Word} (h : Keeps s0 s) {t : State}
    (e : execPerfClear route data s = .next t) : Keeps s0 t :=
  writeCmd_keeps h e

theorem execPerfCntWrite_keeps {s0 s : State} {route : Route} {i : Fin 128} {data : Word} (h : Keeps s0 s) {t : State}
    (e : execPerfCntWrite route i data s = .next t) : Keeps s0 t :=
  writeCmd_keeps h e

theorem execPerfBwCfgWrite_keeps {s0 s : State} {route : Route} {m : Fin 28} {data : Word} (h : Keeps s0 s) {t : State}
    (e : execPerfBwCfgWrite route m data s = .next t) : Keeps s0 t :=
  writeCmd_keeps h e

theorem execPerfTagCfgWrite_keeps {s0 s : State} {route : Route} {c : Fin 16} {data : Word} (h : Keeps s0 s) {t : State}
    (e : execPerfTagCfgWrite route c data s = .next t) : Keeps s0 t :=
  writeCmd_keeps h e

theorem execPerfDumpCtlWrite_keeps {s0 s : State} {route : Route} {data : Word} (h : Keeps s0 s) {t : State}
    (e : execPerfDumpCtlWrite route data s = .next t) : Keeps s0 t :=
  writeCmd_keeps h e

theorem flashCmd_keeps {s0 s : State} {route : Route} {data : Word} {op : Nat} {status : Option Word} (h : Keeps s0 s)
    {t : State}
    (e : flashCmd route data op status s = .next t) : Keeps s0 t :=
  Cmd.run_keeps h (fun _ h => regWriteAs_keeps h) e

theorem execFlRead_keeps {s0 s : State} {route : Route} {data : Word} (h : Keeps s0 s) {t : State}
    (e : execFlRead route data s = .next t) : Keeps s0 t :=
  flashCmd_keeps h e

theorem execFlProgram_keeps {s0 s : State} {route : Route} {data : Word} (h : Keeps s0 s) {t : State}
    (e : execFlProgram route data s = .next t) : Keeps s0 t :=
  flashCmd_keeps h e

theorem execFlErase4k_keeps {s0 s : State} {route : Route} {data : Word} (h : Keeps s0 s) {t : State}
    (e : execFlErase4k route data s = .next t) : Keeps s0 t :=
  flashCmd_keeps h e

theorem execFlErase64k_keeps {s0 s : State} {route : Route} {data : Word} (h : Keeps s0 s) {t : State}
    (e : execFlErase64k route data s = .next t) : Keeps s0 t :=
  flashCmd_keeps h e

theorem execFlReadStatus_keeps {s0 s : State} {route : Route} {data : Word} {status : Word} (h : Keeps s0 s) {t : State}
    (e : execFlReadStatus route data status s = .next t) : Keeps s0 t :=
  flashCmd_keeps h e

theorem execFlInvalidOp_keeps {s0 s : State} {route : Route} {data : Word} (h : Keeps s0 s) {t : State}
    (e : execFlInvalidOp route data s = .next t) : Keeps s0 t :=
  flashCmd_keeps h e

end Sys2Proof.Machine
end

