-- ==== Sys2Proof/Laws/KeepsCoreAlu.lean ====
section
/-!
SUPPORT. What the operations of Machine/CoreAlu.lean keep.
-/
namespace Sys2Proof.Machine

theorem execAdd_keeps {s0 s : State} {c : Fin 16} {last : Bool} {sat : Bool} {d : Fin 32} {a : Fin 32} {b : Fin 32}
    (h : Keeps s0 s) {t : State}
    (e : execAdd c last sat d a b s = .next t) : Keeps s0 t :=
  coreCmd_keeps h e

theorem execSub_keeps {s0 s : State} {c : Fin 16} {last : Bool} {sat : Bool} {d : Fin 32} {a : Fin 32} {b : Fin 32}
    (h : Keeps s0 s) {t : State}
    (e : execSub c last sat d a b s = .next t) : Keeps s0 t :=
  coreCmd_keeps h e

theorem execNeg_keeps {s0 s : State} {c : Fin 16} {last : Bool} {sat : Bool} {d : Fin 32} {a : Fin 32}
    (h : Keeps s0 s) {t : State}
    (e : execNeg c last sat d a s = .next t) : Keeps s0 t :=
  coreCmd_keeps h e

theorem execAbs_keeps {s0 s : State} {c : Fin 16} {last : Bool} {sat : Bool} {d : Fin 32} {a : Fin 32}
    (h : Keeps s0 s) {t : State}
    (e : execAbs c last sat d a s = .next t) : Keeps s0 t :=
  coreCmd_keeps h e

theorem execMin_keeps {s0 s : State} {c : Fin 16} {last : Bool} {d : Fin 32} {a : Fin 32} {b : Fin 32}
    (h : Keeps s0 s) {t : State}
    (e : execMin c last d a b s = .next t) : Keeps s0 t :=
  coreCmd_keeps h e

theorem execMax_keeps {s0 s : State} {c : Fin 16} {last : Bool} {d : Fin 32} {a : Fin 32} {b : Fin 32}
    (h : Keeps s0 s) {t : State}
    (e : execMax c last d a b s = .next t) : Keeps s0 t :=
  coreCmd_keeps h e

theorem execMinu_keeps {s0 s : State} {c : Fin 16} {last : Bool} {d : Fin 32} {a : Fin 32} {b : Fin 32}
    (h : Keeps s0 s) {t : State}
    (e : execMinu c last d a b s = .next t) : Keeps s0 t :=
  coreCmd_keeps h e

theorem execMaxu_keeps {s0 s : State} {c : Fin 16} {last : Bool} {d : Fin 32} {a : Fin 32} {b : Fin 32}
    (h : Keeps s0 s) {t : State}
    (e : execMaxu c last d a b s = .next t) : Keeps s0 t :=
  coreCmd_keeps h e

theorem execAnd_keeps {s0 s : State} {c : Fin 16} {last : Bool} {d : Fin 32} {a : Fin 32} {b : Fin 32}
    (h : Keeps s0 s) {t : State}
    (e : execAnd c last d a b s = .next t) : Keeps s0 t :=
  coreCmd_keeps h e

theorem execOr_keeps {s0 s : State} {c : Fin 16} {last : Bool} {d : Fin 32} {a : Fin 32} {b : Fin 32} (h : Keeps s0 s)
    {t : State}
    (e : execOr c last d a b s = .next t) : Keeps s0 t :=
  coreCmd_keeps h e

theorem execXor_keeps {s0 s : State} {c : Fin 16} {last : Bool} {d : Fin 32} {a : Fin 32} {b : Fin 32}
    (h : Keeps s0 s) {t : State}
    (e : execXor c last d a b s = .next t) : Keeps s0 t :=
  coreCmd_keeps h e

theorem execNot_keeps {s0 s : State} {c : Fin 16} {last : Bool} {d : Fin 32} {a : Fin 32} (h : Keeps s0 s) {t : State}
    (e : execNot c last d a s = .next t) : Keeps s0 t :=
  coreCmd_keeps h e

theorem execLsl_keeps {s0 s : State} {c : Fin 16} {last : Bool} {d : Fin 32} {a : Fin 32} {b : Fin 32}
    (h : Keeps s0 s) {t : State}
    (e : execLsl c last d a b s = .next t) : Keeps s0 t :=
  coreCmd_keeps h e

theorem execLsr_keeps {s0 s : State} {c : Fin 16} {last : Bool} {d : Fin 32} {a : Fin 32} {b : Fin 32}
    (h : Keeps s0 s) {t : State}
    (e : execLsr c last d a b s = .next t) : Keeps s0 t :=
  coreCmd_keeps h e

theorem execAsr_keeps {s0 s : State} {c : Fin 16} {last : Bool} {d : Fin 32} {a : Fin 32} {b : Fin 32}
    (h : Keeps s0 s) {t : State}
    (e : execAsr c last d a b s = .next t) : Keeps s0 t :=
  coreCmd_keeps h e

theorem execAsl_keeps {s0 s : State} {c : Fin 16} {last : Bool} {sat : Bool} {d : Fin 32} {a : Fin 32} {b : Fin 32}
    (h : Keeps s0 s) {t : State}
    (e : execAsl c last sat d a b s = .next t) : Keeps s0 t :=
  coreCmd_keeps h e

theorem execRor_keeps {s0 s : State} {c : Fin 16} {last : Bool} {d : Fin 32} {a : Fin 32} {b : Fin 32}
    (h : Keeps s0 s) {t : State}
    (e : execRor c last d a b s = .next t) : Keeps s0 t :=
  coreCmd_keeps h e

theorem execCls_keeps {s0 s : State} {c : Fin 16} {last : Bool} {d : Fin 32} {a : Fin 32} (h : Keeps s0 s) {t : State}
    (e : execCls c last d a s = .next t) : Keeps s0 t :=
  coreCmd_keeps h e

theorem execClz_keeps {s0 s : State} {c : Fin 16} {last : Bool} {d : Fin 32} {a : Fin 32} (h : Keeps s0 s) {t : State}
    (e : execClz c last d a s = .next t) : Keeps s0 t :=
  coreCmd_keeps h e

theorem execCmp_keeps {s0 s : State} {c : Fin 16} {last : Bool} {a : Fin 32} {b : Fin 32} (h : Keeps s0 s) {t : State}
    (e : execCmp c last a b s = .next t) : Keeps s0 t :=
  coreCmd_keeps h e

theorem execCmpu_keeps {s0 s : State} {c : Fin 16} {last : Bool} {a : Fin 32} {b : Fin 32} (h : Keeps s0 s) {t : State}
    (e : execCmpu c last a b s = .next t) : Keeps s0 t :=
  coreCmd_keeps h e

theorem execSel_keeps {s0 s : State} {c : Fin 16} {last : Bool} {d : Fin 32} {a : Fin 32} {b : Fin 32} {cond : Fin 16}
    (h : Keeps s0 s) {t : State}
    (e : execSel c last d a b cond s = .next t) : Keeps s0 t :=
  coreCmd_keeps h e

theorem execMov_keeps {s0 s : State} {c : Fin 16} {last : Bool} {d : Fin 32} {a : Fin 32} (h : Keeps s0 s) {t : State}
    (e : execMov c last d a s = .next t) : Keeps s0 t :=
  coreCmd_keeps h e

theorem execAddi_keeps {s0 s : State} {c : Fin 16} {last : Bool} {sat : Bool} {d : Fin 32} {a : Fin 32}
    {imm : BitVec 15} (h : Keeps s0 s) {t : State}
    (e : execAddi c last sat d a imm s = .next t) : Keeps s0 t :=
  coreCmd_keeps h e

theorem execAndi_keeps {s0 s : State} {c : Fin 16} {last : Bool} {d : Fin 32} {a : Fin 32} {imm : BitVec 15}
    (h : Keeps s0 s) {t : State}
    (e : execAndi c last d a imm s = .next t) : Keeps s0 t :=
  coreCmd_keeps h e

theorem execOri_keeps {s0 s : State} {c : Fin 16} {last : Bool} {d : Fin 32} {a : Fin 32} {imm : BitVec 15}
    (h : Keeps s0 s) {t : State}
    (e : execOri c last d a imm s = .next t) : Keeps s0 t :=
  coreCmd_keeps h e

theorem execXori_keeps {s0 s : State} {c : Fin 16} {last : Bool} {d : Fin 32} {a : Fin 32} {imm : BitVec 15}
    (h : Keeps s0 s) {t : State}
    (e : execXori c last d a imm s = .next t) : Keeps s0 t :=
  coreCmd_keeps h e

theorem execLsli_keeps {s0 s : State} {c : Fin 16} {last : Bool} {d : Fin 32} {a : Fin 32} {n : Fin 32}
    (h : Keeps s0 s) {t : State}
    (e : execLsli c last d a n s = .next t) : Keeps s0 t :=
  coreCmd_keeps h e

theorem execLsri_keeps {s0 s : State} {c : Fin 16} {last : Bool} {d : Fin 32} {a : Fin 32} {n : Fin 32}
    (h : Keeps s0 s) {t : State}
    (e : execLsri c last d a n s = .next t) : Keeps s0 t :=
  coreCmd_keeps h e

theorem execAsri_keeps {s0 s : State} {c : Fin 16} {last : Bool} {d : Fin 32} {a : Fin 32} {n : Fin 32}
    (h : Keeps s0 s) {t : State}
    (e : execAsri c last d a n s = .next t) : Keeps s0 t :=
  coreCmd_keeps h e

theorem execAsli_keeps {s0 s : State} {c : Fin 16} {last : Bool} {sat : Bool} {d : Fin 32} {a : Fin 32} {n : Fin 32}
    (h : Keeps s0 s) {t : State}
    (e : execAsli c last sat d a n s = .next t) : Keeps s0 t :=
  coreCmd_keeps h e

theorem execBfx_keeps {s0 s : State} {c : Fin 16} {last : Bool} {d : Fin 32} {a : Fin 32} {pos : Fin 32}
    {len1 : Fin 32} {sx : Bool} (h : Keeps s0 s) {t : State}
    (e : execBfx c last d a pos len1 sx s = .next t) : Keeps s0 t :=
  coreCmd_keeps h e

theorem execBfi_keeps {s0 s : State} {c : Fin 16} {last : Bool} {d : Fin 32} {a : Fin 32} {pos : Fin 32}
    {len1 : Fin 32} (h : Keeps s0 s) {t : State}
    (e : execBfi c last d a pos len1 s = .next t) : Keeps s0 t :=
  coreCmd_keeps h e

theorem execMovi_keeps {s0 s : State} {c : Fin 16} {last : Bool} {d : Fin 32} {imm : BitVec 16} (h : Keeps s0 s) {t : State}
    (e : execMovi c last d imm s = .next t) : Keeps s0 t :=
  coreCmd_keeps h e

theorem execMovhi_keeps {s0 s : State} {c : Fin 16} {last : Bool} {d : Fin 32} {imm : BitVec 16} (h : Keeps s0 s) {t : State}
    (e : execMovhi c last d imm s = .next t) : Keeps s0 t :=
  coreCmd_keeps h e

theorem execCmpi_keeps {s0 s : State} {c : Fin 16} {last : Bool} {a : Fin 32} {imm : BitVec 15} (h : Keeps s0 s) {t : State}
    (e : execCmpi c last a imm s = .next t) : Keeps s0 t :=
  coreCmd_keeps h e

theorem execMfc_keeps {s0 s : State} {c : Fin 16} {last : Bool} {d : Fin 32} {cr : Fin 256} (h : Keeps s0 s) {t : State}
    (e : execMfc c last d cr s = .next t) : Keeps s0 t :=
  coreCmd_keeps h e

theorem execMtc_keeps {s0 s : State} {c : Fin 16} {last : Bool} {cr : Fin 256} {d : Fin 32} (h : Keeps s0 s) {t : State}
    (e : execMtc c last cr d s = .next t) : Keeps s0 t :=
  coreCmd_keeps h e

theorem execAddp_keeps {s0 s : State} {c : Fin 16} {last : Bool} {p : Fin 16} {imm : BitVec 16} (h : Keeps s0 s) {t : State}
    (e : execAddp c last p imm s = .next t) : Keeps s0 t :=
  coreCmd_keeps h e

end Sys2Proof.Machine
end

