-- ==== Sys2Proof/Laws/KeepsCoreCtl.lean ====
section
/-!
SUPPORT. What the operations of Machine/CoreCtl.lean keep.
-/
namespace Sys2Proof.Machine

theorem execBr_keeps {s0 s : State} {c : Fin 16} {last : Bool} {cond : Fin 15} {off : BitVec 22} (h : Keeps s0 s) {t : State}
    (e : execBr c last cond off s = .next t) : Keeps s0 t :=
  coreCmd_keeps h e

theorem execCall_keeps {s0 s : State} {c : Fin 16} {last : Bool} {off : BitVec 22} (h : Keeps s0 s) {t : State}
    (e : execCall c last off s = .next t) : Keeps s0 t :=
  coreCmd_keeps h e

theorem execRet_keeps {s0 s : State} {c : Fin 16} {last : Bool} (h : Keeps s0 s) {t : State}
    (e : execRet c last s = .next t) : Keeps s0 t :=
  coreCmd_keeps h e

theorem execBrr_keeps {s0 s : State} {c : Fin 16} {last : Bool} {pn : Fin 16} (h : Keeps s0 s) {t : State}
    (e : execBrr c last pn s = .next t) : Keeps s0 t :=
  coreCmd_keeps h e

theorem execNop_keeps {s0 s : State} {c : Fin 16} {last : Bool} (h : Keeps s0 s) {t : State}
    (e : execNop c last s = .next t) : Keeps s0 t :=
  coreCmd_keeps h e

theorem execLoop_keeps {s0 s : State} {c : Fin 16} {last : Bool} {count : Fin 4096} {endw : Fin 1024} (h : Keeps s0 s)
    {t : State}
    (e : execLoop c last count endw s = .next t) : Keeps s0 t :=
  coreCmd_keeps h e

theorem execLoopr_keeps {s0 s : State} {c : Fin 16} {last : Bool} {dn : Fin 32} {endw : Fin 1024} (h : Keeps s0 s) {t : State}
    (e : execLoopr c last dn endw s = .next t) : Keeps s0 t :=
  coreCmd_keeps h e

theorem execBrk_keeps {s0 s : State} {c : Fin 16} {last : Bool} (h : Keeps s0 s) {t : State}
    (e : execBrk c last s = .next t) : Keeps s0 t :=
  coreCmd_keeps h e

theorem execRte1_keeps {s0 s : State} {c : Fin 16} {last : Bool} (h : Keeps s0 s) {t : State}
    (e : execRte1 c last s = .next t) : Keeps s0 t :=
  coreCmd_keeps h e

theorem execRte2_keeps {s0 s : State} {c : Fin 16} {last : Bool} (h : Keeps s0 s) {t : State}
    (e : execRte2 c last s = .next t) : Keeps s0 t :=
  coreCmd_keeps h e

theorem execIdle_keeps {s0 s : State} {c : Fin 16} {last : Bool} (h : Keeps s0 s) {t : State}
    (e : execIdle c last s = .next t) : Keeps s0 t :=
  coreCmd_keeps h e

theorem execFence_keeps {s0 s : State} {c : Fin 16} {last : Bool} (h : Keeps s0 s) {t : State}
    (e : execFence c last s = .next t) : Keeps s0 t :=
  coreCmd_keeps h e

theorem execIllegalInstruction_keeps {s0 s : State} {c : Fin 16} {words : List Word} (h : Keeps s0 s) {t : State}
    (e : execIllegalInstruction c words s = .next t) : Keeps s0 t := by
  refine Cmd.run_keeps h (fun s h => ?_) e
  extract_lets v1
  exact .ite h (.ite (coreFault_keeps h) (.ite (coreFault_keeps h) h))

end Sys2Proof.Machine
end

