-- ==== Sys2Proof/Laws/KeepsCoreFp.lean ====
section
/-!
SUPPORT. What the operations of Machine/CoreFp.lean keep.
-/
namespace Sys2Proof.Machine

theorem execFadd_keeps {s0 s : State} {c : Fin 16} {last : Bool} {two : Bool} {sat : Bool} {d : Fin 32} {a : Fin 32}
    {b : Fin 32} (h : Keeps s0 s) {t : State}
    (e : execFadd c last two sat d a b s = .next t) : Keeps s0 t :=
  coreCmd_keeps h e

theorem execFsub_keeps {s0 s : State} {c : Fin 16} {last : Bool} {two : Bool} {sat : Bool} {d : Fin 32} {a : Fin 32}
    {b : Fin 32} (h : Keeps s0 s) {t : State}
    (e : execFsub c last two sat d a b s = .next t) : Keeps s0 t :=
  coreCmd_keeps h e

theorem execFmul_keeps {s0 s : State} {c : Fin 16} {last : Bool} {two : Bool} {sat : Bool} {d : Fin 32} {a : Fin 32}
    {b : Fin 32} (h : Keeps s0 s) {t : State}
    (e : execFmul c last two sat d a b s = .next t) : Keeps s0 t :=
  coreCmd_keeps h e

theorem execFmin_keeps {s0 s : State} {c : Fin 16} {last : Bool} {two : Bool} {sat : Bool} {d : Fin 32} {a : Fin 32}
    {b : Fin 32} (h : Keeps s0 s) {t : State}
    (e : execFmin c last two sat d a b s = .next t) : Keeps s0 t :=
  coreCmd_keeps h e

theorem execFma_keeps {s0 s : State} {c : Fin 16} {last : Bool} {two : Bool} {sat : Bool} {d : Fin 32} {a : Fin 32}
    {b : Fin 32} {e : Fin 32} (h : Keeps s0 s) {t : State}
    (e : execFma c last two sat d a b e s = .next t) : Keeps s0 t :=
  coreCmd_keeps h e

theorem execFmax_keeps {s0 s : State} {c : Fin 16} {last : Bool} {two : Bool} {sat : Bool} {d : Fin 32} {a : Fin 32}
    {b : Fin 32} (h : Keeps s0 s) {t : State}
    (e : execFmax c last two sat d a b s = .next t) : Keeps s0 t :=
  coreCmd_keeps h e

theorem execFms_keeps {s0 s : State} {c : Fin 16} {last : Bool} {two : Bool} {sat : Bool} {d : Fin 32} {a : Fin 32}
    {b : Fin 32} {e : Fin 32} (h : Keeps s0 s) {t : State}
    (e : execFms c last two sat d a b e s = .next t) : Keeps s0 t :=
  coreCmd_keeps h e

theorem execFabs_keeps {s0 s : State} {c : Fin 16} {last : Bool} {two : Bool} {d : Fin 32} {a : Fin 32}
    (h : Keeps s0 s) {t : State}
    (e : execFabs c last two d a s = .next t) : Keeps s0 t :=
  coreCmd_keeps h e

theorem execFneg_keeps {s0 s : State} {c : Fin 16} {last : Bool} {two : Bool} {d : Fin 32} {a : Fin 32}
    (h : Keeps s0 s) {t : State}
    (e : execFneg c last two d a s = .next t) : Keeps s0 t :=
  coreCmd_keeps h e

theorem execFcmp_keeps {s0 s : State} {c : Fin 16} {last : Bool} {a : Fin 32} {b : Fin 32} (h : Keeps s0 s) {t : State}
    (e : execFcmp c last a b s = .next t) : Keeps s0 t :=
  coreCmd_keeps h e

theorem execFcvtqf_keeps {s0 s : State} {c : Fin 16} {last : Bool} {two : Bool} {sat : Bool} {d : Fin 32} {a : Fin 32}
    (h : Keeps s0 s) {t : State}
    (e : execFcvtqf c last two sat d a s = .next t) : Keeps s0 t :=
  coreCmd_keeps h e

theorem execFcvtfq_keeps {s0 s : State} {c : Fin 16} {last : Bool} {two : Bool} {d : Fin 32} {a : Fin 32}
    (h : Keeps s0 s) {t : State}
    (e : execFcvtfq c last two d a s = .next t) : Keeps s0 t :=
  coreCmd_keeps h e

theorem execFcvtif_keeps {s0 s : State} {c : Fin 16} {last : Bool} {two : Bool} {sat : Bool} {d : Fin 32} {a : Fin 32}
    (h : Keeps s0 s) {t : State}
    (e : execFcvtif c last two sat d a s = .next t) : Keeps s0 t :=
  coreCmd_keeps h e

theorem execFcvtfi_keeps {s0 s : State} {c : Fin 16} {last : Bool} {two : Bool} {d : Fin 32} {a : Fin 32}
    (h : Keeps s0 s) {t : State}
    (e : execFcvtfi c last two d a s = .next t) : Keeps s0 t :=
  coreCmd_keeps h e

theorem execFrcp_keeps {s0 s : State} {c : Fin 16} {last : Bool} {two : Bool} {sat : Bool} {d : Fin 32} {a : Fin 32}
    (h : Keeps s0 s) {t : State}
    (e : execFrcp c last two sat d a s = .next t) : Keeps s0 t :=
  coreCmd_keeps h e

theorem execFrsq_keeps {s0 s : State} {c : Fin 16} {last : Bool} {two : Bool} {sat : Bool} {d : Fin 32} {a : Fin 32}
    (h : Keeps s0 s) {t : State}
    (e : execFrsq c last two sat d a s = .next t) : Keeps s0 t :=
  coreCmd_keeps h e

end Sys2Proof.Machine
end

