-- ==== Sys2Proof/Laws/KeepsCoreMac.lean ====
section
/-!
SUPPORT. What the operations of Machine/CoreMac.lean keep.
-/
namespace Sys2Proof.Machine

theorem execMpy_keeps {s0 s : State} {c : Fin 16} {last : Bool} {A : Fin 8} {x : Fin 32} {y : Fin 32} {lanes : Fin 4}
    (h : Keeps s0 s) {t : State}
    (e : execMpy c last A x y lanes s = .next t) : Keeps s0 t :=
  coreCmd_keeps h e

theorem execMac_keeps {s0 s : State} {c : Fin 16} {last : Bool} {A : Fin 8} {x : Fin 32} {y : Fin 32} {lanes : Fin 4}
    (h : Keeps s0 s) {t : State}
    (e : execMac c last A x y lanes s = .next t) : Keeps s0 t :=
  coreCmd_keeps h e

theorem execMsu_keeps {s0 s : State} {c : Fin 16} {last : Bool} {A : Fin 8} {x : Fin 32} {y : Fin 32} {lanes : Fin 4}
    (h : Keeps s0 s) {t : State}
    (e : execMsu c last A x y lanes s = .next t) : Keeps s0 t :=
  coreCmd_keeps h e

theorem execMpysu_keeps {s0 s : State} {c : Fin 16} {last : Bool} {A : Fin 8} {x : Fin 32} {y : Fin 32}
    {lanes : Fin 4} (h : Keeps s0 s) {t : State}
    (e : execMpysu c last A x y lanes s = .next t) : Keeps s0 t :=
  coreCmd_keeps h e

theorem execMacsu_keeps {s0 s : State} {c : Fin 16} {last : Bool} {A : Fin 8} {x : Fin 32} {y : Fin 32}
    {lanes : Fin 4} (h : Keeps s0 s) {t : State}
    (e : execMacsu c last A x y lanes s = .next t) : Keeps s0 t :=
  coreCmd_keeps h e

theorem execMacuu_keeps {s0 s : State} {c : Fin 16} {last : Bool} {A : Fin 8} {x : Fin 32} {y : Fin 32}
    {lanes : Fin 4} (h : Keeps s0 s) {t : State}
    (e : execMacuu c last A x y lanes s = .next t) : Keeps s0 t :=
  coreCmd_keeps h e

theorem execMull_keeps {s0 s : State} {c : Fin 16} {last : Bool} {sat : Bool} {d : Fin 32} {x : Fin 32} {y : Fin 32}
    (h : Keeps s0 s) {t : State}
    (e : execMull c last sat d x y s = .next t) : Keeps s0 t :=
  coreCmd_keeps h e

theorem execClra_keeps {s0 s : State} {c : Fin 16} {last : Bool} {A : Fin 8} (h : Keeps s0 s) {t : State}
    (e : execClra c last A s = .next t) : Keeps s0 t :=
  coreCmd_keeps h e

theorem execAdda_keeps {s0 s : State} {c : Fin 16} {last : Bool} {A : Fin 8} {Am : Fin 8} (h : Keeps s0 s) {t : State}
    (e : execAdda c last A Am s = .next t) : Keeps s0 t :=
  coreCmd_keeps h e

theorem execSuba_keeps {s0 s : State} {c : Fin 16} {last : Bool} {A : Fin 8} {Am : Fin 8} (h : Keeps s0 s) {t : State}
    (e : execSuba c last A Am s = .next t) : Keeps s0 t :=
  coreCmd_keeps h e

theorem execNega_keeps {s0 s : State} {c : Fin 16} {last : Bool} {A : Fin 8} (h : Keeps s0 s) {t : State}
    (e : execNega c last A s = .next t) : Keeps s0 t :=
  coreCmd_keeps h e

theorem execSha_keeps {s0 s : State} {c : Fin 16} {last : Bool} {sat : Bool} {A : Fin 8} {n : BitVec 6}
    (h : Keeps s0 s) {t : State}
    (e : execSha c last sat A n s = .next t) : Keeps s0 t :=
  coreCmd_keeps h e

theorem execExt_keeps {s0 s : State} {c : Fin 16} {last : Bool} {sat : Bool} {d : Fin 32} {A : Fin 8} {k : Fin 64}
    (h : Keeps s0 s) {t : State}
    (e : execExt c last sat d A k s = .next t) : Keeps s0 t :=
  coreCmd_keeps h e

theorem execMval_keeps {s0 s : State} {c : Fin 16} {last : Bool} {d : Fin 32} {A : Fin 8} (h : Keeps s0 s) {t : State}
    (e : execMval c last d A s = .next t) : Keeps s0 t :=
  coreCmd_keeps h e

theorem execMvah_keeps {s0 s : State} {c : Fin 16} {last : Bool} {d : Fin 32} {A : Fin 8} (h : Keeps s0 s) {t : State}
    (e : execMvah c last d A s = .next t) : Keeps s0 t :=
  coreCmd_keeps h e

theorem execMvag_keeps {s0 s : State} {c : Fin 16} {last : Bool} {d : Fin 32} {A : Fin 8} (h : Keeps s0 s) {t : State}
    (e : execMvag c last d A s = .next t) : Keeps s0 t :=
  coreCmd_keeps h e

theorem execMova_keeps {s0 s : State} {c : Fin 16} {last : Bool} {A : Fin 8} {x : Fin 32} (h : Keeps s0 s) {t : State}
    (e : execMova c last A x s = .next t) : Keeps s0 t :=
  coreCmd_keeps h e

theorem execTapm_keeps {s0 s : State} {c : Fin 16} {last : Bool} {A : Fin 8} {pi : Fin 16} {pj : Fin 16}
    (h : Keeps s0 s) {t : State}
    (e : execTapm c last A pi pj s = .next t) : Keeps s0 t :=
  coreCmd_keeps h e

theorem execTapmZ_keeps {s0 s : State} {c : Fin 16} {last : Bool} {A : Fin 8} {pi : Fin 16} {pj : Fin 16}
    (h : Keeps s0 s) {t : State}
    (e : execTapmZ c last A pi pj s = .next t) : Keeps s0 t :=
  coreCmd_keeps h e

end Sys2Proof.Machine
end

