-- ==== Sys2Proof/Laws/KeepsCoreMem.lean ====
section
/-!
SUPPORT. What the operations of Machine/CoreMem.lean keep.
-/
namespace Sys2Proof.Machine

theorem execLdW_keeps {s0 s : State} {c : Fin 16} {last : Bool} {d : Fin 32} {p : Fin 16} {m : Fin 16} {mode : Fin 8}
    {imm : BitVec 9} (h : Keeps s0 s) {t : State}
    (e : execLdW c last d p m mode imm s = .next t) : Keeps s0 t :=
  coreCmd_keeps h e

theorem execLdD_keeps {s0 s : State} {c : Fin 16} {last : Bool} {d : Fin 32} {p : Fin 16} {m : Fin 16} {mode : Fin 8}
    {imm : BitVec 9} (h : Keeps s0 s) {t : State}
    (e : execLdD c last d p m mode imm s = .next t) : Keeps s0 t :=
  coreCmd_keeps h e

theorem execLdH_keeps {s0 s : State} {c : Fin 16} {last : Bool} {d : Fin 32} {p : Fin 16} {m : Fin 16} {mode : Fin 8}
    {imm : BitVec 9} (h : Keeps s0 s) {t : State}
    (e : execLdH c last d p m mode imm s = .next t) : Keeps s0 t :=
  coreCmd_keeps h e

theorem execLdHs_keeps {s0 s : State} {c : Fin 16} {last : Bool} {d : Fin 32} {p : Fin 16} {m : Fin 16} {mode : Fin 8}
    {imm : BitVec 9} (h : Keeps s0 s) {t : State}
    (e : execLdHs c last d p m mode imm s = .next t) : Keeps s0 t :=
  coreCmd_keeps h e

theorem execStW_keeps {s0 s : State} {c : Fin 16} {last : Bool} {d : Fin 32} {p : Fin 16} {m : Fin 16} {mode : Fin 8}
    {imm : BitVec 9} (h : Keeps s0 s) {t : State}
    (e : execStW c last d p m mode imm s = .next t) : Keeps s0 t :=
  coreCmd_keeps h e

theorem execStD_keeps {s0 s : State} {c : Fin 16} {last : Bool} {d : Fin 32} {p : Fin 16} {m : Fin 16} {mode : Fin 8}
    {imm : BitVec 9} (h : Keeps s0 s) {t : State}
    (e : execStD c last d p m mode imm s = .next t) : Keeps s0 t :=
  coreCmd_keeps h e

theorem execStH_keeps {s0 s : State} {c : Fin 16} {last : Bool} {sat : Bool} {d : Fin 32} {p : Fin 16} {m : Fin 16}
    {mode : Fin 8} {imm : BitVec 9} (h : Keeps s0 s) {t : State}
    (e : execStH c last sat d p m mode imm s = .next t) : Keeps s0 t :=
  coreCmd_keeps h e

theorem execLda_keeps {s0 s : State} {c : Fin 16} {last : Bool} {A : Fin 8} {p : Fin 16} {m : Fin 16} {mode : Fin 8}
    {imm : BitVec 9} (h : Keeps s0 s) {t : State}
    (e : execLda c last A p m mode imm s = .next t) : Keeps s0 t :=
  coreCmd_keeps h e

theorem execSta_keeps {s0 s : State} {c : Fin 16} {last : Bool} {sat : Bool} {A : Fin 8} {p : Fin 16} {m : Fin 16}
    {mode : Fin 8} {imm : BitVec 9} (h : Keeps s0 s) {t : State}
    (e : execSta c last sat A p m mode imm s = .next t) : Keeps s0 t :=
  coreCmd_keeps h e

theorem execSava_keeps {s0 s : State} {c : Fin 16} {last : Bool} {A : Fin 8} {p : Fin 16} {m : Fin 16} {mode : Fin 8}
    {imm : BitVec 9} (h : Keeps s0 s) {t : State}
    (e : execSava c last A p m mode imm s = .next t) : Keeps s0 t :=
  coreCmd_keeps h e

theorem execRsta_keeps {s0 s : State} {c : Fin 16} {last : Bool} {A : Fin 8} {p : Fin 16} {m : Fin 16} {mode : Fin 8}
    {imm : BitVec 9} (h : Keeps s0 s) {t : State}
    (e : execRsta c last A p m mode imm s = .next t) : Keeps s0 t :=
  coreCmd_keeps h e

end Sys2Proof.Machine
end

