-- ==== Sys2Proof/Laws/KeepsHostIf.lean ====
section
/-!
SUPPORT. What the operations of Machine/HostIf.lean keep.
-/
namespace Sys2Proof.Machine

theorem twtWake_keeps {s0 s : State} (h : Keeps s0 s) :
    Keeps s0 (twtWake s) :=
  State.emit_keeps (State.mark_keeps (wakeUp_keeps h))

theorem twtGate_keeps {s0 s : State} {f : State → State} (h : Keeps s0 s) (hf : ∀ s, Keeps s0 s → Keeps s0 (f s)) :
    Keeps s0 (twtGate f s) := by
  unfold twtGate
  split
  · exact State.emit_keeps h
  · exact twtWake_keeps h
  · exact hf _ h

theorem twtError_keeps {s0 s : State} {cause : Nat} (h : Keeps s0 s) :
    Keeps s0 (twtError s cause) :=
  State.put_keeps (State.bump_keeps h)

theorem twtRefuse_keeps {s0 s : State} (h : Keeps s0 s) :
    Keeps s0 (twtRefuse s) :=
  State.emit_keeps (twtError_keeps h)

theorem twtAdvance_keeps {s0 s : State} {n : Nat} (h : Keeps s0 s) :
    Keeps s0 (twtAdvance s n) :=
  State.bump_keeps h

theorem execTwtSetPointer_keeps {s0 s : State} {a : Word} (h : Keeps s0 s) {t : State}
    (e : execTwtSetPointer a s = .next t) : Keeps s0 t :=
  Cmd.run_keeps h (fun _ h => twtGate_keeps h (fun s h => .ite (twtRefuse_keeps h) (State.put_keeps h))) e

theorem twtWriteWord_keeps {s0 s : State} {v : Word} (h : Keeps s0 s) :
    Keeps s0 (twtWriteWord s v) := by
  unfold twtWriteWord
  split
  · rename_i _ s1 q1
    have h1 : Keeps s0 s1 := .ofPair q1 (regWriteAs_keeps h)
    extract_lets v2
    try clear_value v2
    exact .ite h1 (twtAdvance_keeps (.upd h1 rfl))

theorem execTwtWriteBlock_keeps {s0 s : State} {words : List Word} {pec : Option Byte} (h : Keeps s0 s) {t : State}
    (e : execTwtWriteBlock words pec s = .next t) : Keeps s0 t := by
  refine Cmd.run_keeps h (fun s h => ?_) e
  refine twtGate_keeps h (fun s h => ?_)
  extract_lets v1
  try clear_value v1
  refine Keeps.ite ?_ ?_
  · exact twtRefuse_keeps h
  · split
    · exact .ite (.foldlT h (fun _ _ h => twtWriteWord_keeps h)) (twtError_keeps (.upd h rfl))
    · exact .foldlT h (fun _ _ h => twtWriteWord_keeps h)

theorem twtWords_keeps {s0 s : State} {n : Nat} (h : Keeps s0 s) : Keeps s0 (twtWords n s).2 := by
  induction n generalizing s with
  | zero => exact h
  | succ n ih => exact ih (twtAdvance_keeps (regRead_keeps h))

theorem twtRead_keeps {s0 s : State} {code : Byte} {n : Nat} (h : Keeps s0 s) : Keeps s0 (twtRead code n s) :=
  twtGate_keeps h (fun _ h => State.emit_keeps (twtWords_keeps h))

theorem execTwtReadWord_keeps {s0 s : State} (h : Keeps s0 s) {t : State}
    (e : execTwtReadWord s = .next t) : Keeps s0 t :=
  Cmd.run_keeps h (fun _ h => twtRead_keeps h) e

theorem execTwtReadBlock_keeps {s0 s : State} (h : Keeps s0 s) {t : State}
    (e : execTwtReadBlock s = .next t) : Keeps s0 t :=
  Cmd.run_keeps h (fun _ h => twtRead_keeps h) e

theorem execTwtReadStatus_keeps {s0 s : State} (h : Keeps s0 s) {t : State}
    (e : execTwtReadStatus s = .next t) : Keeps s0 t := by
  refine Cmd.run_keeps h (fun s h => ?_) e
  refine twtGate_keeps h (fun s h => ?_)
  extract_lets v1 v2 v3
  have h2 : Keeps s0 v2 := State.emit_keeps h
  try clear_value v2
  try clear_value v3
  exact .upd h2 rfl

theorem execTwtInvalidCommand_keeps {s0 s : State} {code : Byte} {count : Byte} (h : Keeps s0 s) {t : State}
    (e : execTwtInvalidCommand code count s = .next t) : Keeps s0 t :=
  Cmd.run_keeps h (fun _ h => twtGate_keeps h (fun s h => .ite h (twtRefuse_keeps h))) e

theorem execTwtAbandon_keeps {s0 s : State} {shortBlock : Bool} (h : Keeps s0 s) {t : State}
    (e : execTwtAbandon shortBlock s = .next t) : Keeps s0 t :=
  Cmd.run_keeps h (fun _ h => twtGate_keeps h (fun s h => twtError_keeps h)) e

theorem execTwtSclTimeout_keeps {s0 s : State} (h : Keeps s0 s) {t : State}
    (e : execTwtSclTimeout s = .next t) : Keeps s0 t :=
  Cmd.run_keeps h (fun _ h => twtGate_keeps h (fun s h => twtError_keeps h)) e

theorem execTwtStandbyWake_keeps {s0 s : State} {addr : Fin 128} (h : Keeps s0 s) {t : State}
    (e : execTwtStandbyWake addr s = .next t) : Keeps s0 t :=
  Cmd.run_keeps h (fun _ h => .ite (twtWake_keeps h) h) e

theorem ibAccept_keeps {s0 s : State} {ctr : Nat} (h : Keeps s0 s) :
    Keeps s0 (ibAccept s ctr) := by
  unfold ibAccept
  extract_lets v1 v2
  try clear_value v2
  exact .upd h rfl

theorem ibTake_keeps {s0 s : State} {op : Nat} {l : List Nat} {b : List Byte} (h : Keeps s0 s) :
    Keeps s0 (ibTake op l b s).2 := by
  induction l generalizing s with
  | nil => exact h
  | cons i t ih =>
    unfold ibTake
    refine ih ?_
    split
    · exact regWriteAs_keeps h
    · exact regRead_keeps h

theorem ibDiscard_keeps {s0 s : State} {k : Nat} (h : Keeps s0 s) :
    Keeps s0 (ibDiscard s k) :=
  State.emit_keeps (State.bump_keeps h)

theorem ibRequest_keeps {s0 s : State} {op : Nat} {port : Fin 8} {frame : List Byte} {tagOk : Bool} (h : Keeps s0 s) :
    Keeps s0 (ibRequest op port frame tagOk s) := by
  unfold ibRequest
  extract_lets v1
  refine Keeps.ite ?_ ?_
  · exact h
  · split
    · exact h
    · extract_lets v2 v3 v4 v5
      have h4 : Keeps s0 v4 := State.bump_keeps (ibAccept_keeps h)
      try clear_value v4
      refine Keeps.ite ?_ ?_
      · exact h
      · refine Keeps.ite ?_ ?_
        · exact ibDiscard_keeps h
        · refine Keeps.ite ?_ ?_
          · exact State.raise_keeps (ibDiscard_keeps h)
          · refine Keeps.ite ?_ ?_
            · exact ibDiscard_keeps h
            · refine Keeps.ite ?_ ?_
              · exact ibDiscard_keeps h
              · split
                · rename_i _ s6 q6
                  have h6 : Keeps s0 s6 := .ofPair q6 (ibTake_keeps h4)
                  extract_lets v7
                  try clear_value v7
                  exact .ite h6 (.upd h6 rfl)

theorem execInbandWrite_keeps {s0 s : State} {port : Fin 8} {frame : List Byte} {tagOk : Bool} (h : Keeps s0 s) {t : State}
    (e : execInbandWrite port frame tagOk s = .next t) : Keeps s0 t :=
  Cmd.run_keeps h (fun _ h => ibRequest_keeps h) e

theorem execInbandRead_keeps {s0 s : State} {port : Fin 8} {frame : List Byte} {tagOk : Bool} (h : Keeps s0 s) {t : State}
    (e : execInbandRead port frame tagOk s = .next t) : Keeps s0 t :=
  Cmd.run_keeps h (fun _ h => ibRequest_keeps h) e

theorem execInbandAnswer_keeps {s0 s : State} {tag : BitVec 128} (h : Keeps s0 s) {t : State}
    (e : execInbandAnswer tag s = .next t) : Keeps s0 t := by
  refine Cmd.run_keeps h (fun s h => ?_) e
  split
  · exact h
  · split
    · rename_i _ s1 q1
      have h1 : Keeps s0 s1 := .ofPair q1 (State.freeNat_keeps h)
      extract_lets v2 v3
      try clear_value v3
      exact ethQueue_keeps (.upd h1 rfl)

end Sys2Proof.Machine
end

