-- ==== Sys2Proof/Laws/KeepsTwin.lean ====
section
/-!
SUPPORT. What the operations of Machine/Twin.lean keep.
-/
namespace Sys2Proof.Machine

theorem enterOut_keeps {s0 s : State} {half : Bool} (h : Keeps s0 s) :
    Keeps s0 (enterOut s half) := by
  unfold enterOut
  extract_lets v1 v2
  have h1 : Keeps s0 v1 := State.put_keeps (State.put_keeps h)
  try clear_value v1
  try clear_value v2
  exact .upd h1 rfl

theorem enterAlone_keeps {s0 s : State} (h : Keeps s0 s) :
    Keeps s0 (enterAlone s) := by
  unfold enterAlone
  extract_lets v1 v2
  have h1 : Keeps s0 v1 := State.put_keeps (State.put_keeps h)
  try clear_value v1
  try clear_value v2
  exact .upd h1 rfl

theorem enterSync_keeps {s0 s : State} {rejoiner : Bool} (h : Keeps s0 s) :
    Keeps s0 (enterSync s rejoiner) := by
  unfold enterSync
  extract_lets v1 v2 v3
  have h1 : Keeps s0 v1 := State.put_keeps h
  try clear_value v1
  have h3 : Keeps s0 v3 := .upd h1 rfl
  exact .ite (State.bump_keeps (State.mark_keeps h3)) h3

theorem digestTake_keeps {s0 s : State} (h : Keeps s0 s) :
    Keeps s0 (digestTake s) := by
  unfold digestTake
  extract_lets v1 v2 v3
  have h2 : Keeps s0 v2 := State.setReg_keeps (State.setReg_keeps h)
  try clear_value v2
  try clear_value v3
  exact .ite h (.upd h2 rfl)

theorem mismatch_keeps {s0 s : State} {p : Nat} {own : Bool} {peerRec : Bool} (h : Keeps s0 s) :
    Keeps s0 (mismatch s p own peerRec) := by
  unfold mismatch
  extract_lets v1 v2 v3
  have h1 : Keeps s0 v1 := State.bump_keeps (State.mark_keeps h)
  try clear_value v1
  have h2 : Keeps s0 v2 := State.raise_keeps (State.setReg_keeps h1)
  try clear_value v2
  try clear_value v3
  exact .ite (.ite (selfYield_keeps h2) (.upd h2 rfl)) (.ite (selfYield_keeps h2) (.upd h2 rfl))

theorem digCompare_keeps {s0 s : State} (h : Keeps s0 s) :
    Keeps s0 (digCompare s) := by
  unfold digCompare
  extract_lets v1 v2
  have h2 : Keeps s0 v2 := State.count_keeps (.upd h rfl)
  try clear_value v2 v1
  split
  · extract_lets v3
    exact .ite h (.ite (.ite h2 (mismatch_keeps h2)) (.ite (State.put_keeps h2) h2))
  · exact h

theorem twinRx_keeps {s0 s : State} {f : TwinFrame} {kind : Nat} {body : State → State} (h : Keeps s0 s)
    (hf : ∀ s, Keeps s0 s → Keeps s0 (body s)) :
    Keeps s0 (twinRx f kind body s) := by
  unfold twinRx
  extract_lets v1 v2 v3
  have h2 : Keeps s0 v2 := .upd h rfl
  try clear_value v2 v1
  try clear_value v3
  exact .ite h (.ite (State.bump_keeps h) (.ite h (.ite (State.bump_keeps h) (.ite (hf _ h2) (.ite h2 (hf _ (.upd h2 rfl)))))))

theorem peerShow_keeps {s0 s : State} {a : Agree} (h : Keeps s0 s) :
    Keeps s0 (peerShow s a) := by
  unfold peerShow
  extract_lets v1 v2 v3 v4 v5
  have h2 : Keeps s0 v2 := State.put_keeps (State.put_keeps h)
  have h3 : Keeps s0 v3 := State.put_keeps h2
  have h4 : Keeps s0 v4 := State.put_keeps h3
  have h5 : Keeps s0 v5 := State.put_keeps h4
  exact State.put_keeps h5

theorem fwdAck_keeps {s0 s : State} {jseq : Nat} (h : Keeps s0 s) :
    Keeps s0 (fwdAck s jseq) := by
  unfold fwdAck
  extract_lets v1 v2
  try clear_value v2
  split
  · exact h
  · exact State.put_keeps (.upd h rfl)

theorem peerLeft_keeps {s0 s : State} {a : Agree} {b : Nat} (h : Keeps s0 s) :
    Keeps s0 (peerLeft s a b) := by
  unfold peerLeft
  extract_lets v1 v2 v3
  try clear_value v3
  split
  · exact .ite (.upd h rfl) h
  · exact .ite h (.upd h rfl)
  · exact .ite h (.upd h rfl)
  · split
    · exact .ite (.upd h rfl) h
    · exact h
  · exact h

theorem yieldBack_keeps {s0 s : State} {b : Nat} (h : Keeps s0 s) :
    Keeps s0 (yieldBack s b) := by
  unfold yieldBack
  extract_lets v1 v2 v3
  have h2 : Keeps s0 v2 := State.put_keeps (.upd h rfl)
  try clear_value v2 v1
  refine Keeps.ite ?_ ?_
  · exact .upd h rfl
  · split
    · refine Keeps.ite ?_ ?_
      · exact h
      · split
        · exact h2
        · exact classThree_keeps (endAll_keeps (State.enter_keeps (.upd h2 rfl)))
    · exact h

theorem execTwinAgreementRx_keeps {s0 s : State} {f : TwinFrame} {a : Agree} (h : Keeps s0 s) {t : State}
    (e : execTwinAgreementRx f a s = .next t) : Keeps s0 t := by
  refine Cmd.run_keeps h (fun s h => ?_) e
  refine twinRx_keeps h (fun s h => ?_)
  extract_lets v1 v2 v3
  have h1 : Keeps s0 v1 := .ite (yieldBack_keeps h) h
  try clear_value v1
  have h3 : Keeps s0 v3 := peerShow_keeps (.upd h1 rfl)
  exact digCompare_keeps (peerLeft_keeps (fwdAck_keeps h3))

theorem mirTake_keeps {s0 s : State} {r : MirRec} (h : Keeps s0 s) :
    Keeps s0 (mirTake s r) := by
  unfold mirTake
  extract_lets v1 v2 v3 v4 v5 v6 v7 v8
  have h3 : Keeps s0 v3 := .upd h rfl
  try clear_value v3 v2
  try clear_value v7
  refine Keeps.ite ?_ ?_
  · exact State.bump_keeps h
  · split
    · exact .upd h3 rfl
    · refine Keeps.dite (fun _ => ?_) (fun _ => ?_)
      · extract_lets v9 v10
        exact State.setPwm_keeps h3
      · exact h3
    · exact h3

theorem execTwinMirrorRx_keeps {s0 s : State} {f : TwinFrame} {payload : List Byte} (h : Keeps s0 s) {t : State}
    (e : execTwinMirrorRx f payload s = .next t) : Keeps s0 t :=
  Cmd.run_keeps h (fun _ h => twinRx_keeps h (fun s h => .foldlT (State.count_keeps h) (fun _ _ h => mirTake_keeps h))) e

theorem agreeStore_keeps {s0 s : State} {k : Nat} (h : Keeps s0 s) :
    Keeps s0 (agreeStore s k) := by
  unfold agreeStore
  extract_lets v1 v2 v3 v7
  have h3 : Keeps s0 v3 := by
    unfold v3
    refine Keeps.foldlT h (fun s i h => ?_)
    extract_lets v4 v5 v6
    try clear_value v6
    exact .upd h rfl
  try clear_value v3
  try clear_value v7
  exact .upd h3 rfl

theorem agreement_keeps {s0 s : State} {k : Nat} (h : Keeps s0 s) :
    Keeps s0 (agreement s k) := by
  unfold agreement
  extract_lets v1 v2 v3 v4 v5 v6 v7 v8
  have h3 : Keeps s0 v3 := tripUnion_keeps (agreeStore_keeps h)
  try clear_value v3 v1
  have h6 : Keeps s0 v6 := .upd h3 rfl
  try clear_value v6 v5
  have h7 : Keeps s0 v7 := State.count_keeps (State.bump_keeps h6)
  try clear_value v7
  try clear_value v8
  exact .ite (tripUnion_keeps h) (.ite h6 (.upd h7 rfl))

theorem agreementSend_keeps {s0 s : State} {c3 : Bool} (h : Keeps s0 s) :
    Keeps s0 (agreementSend s c3) := by
  unfold agreementSend
  extract_lets v1 v2 v3
  have h3 : Keeps s0 v3 := .upd h rfl
  try clear_value v3 v2
  split
  · exact h
  · extract_lets v4
    exact digCompare_keeps (twinSend_keeps h3)

theorem schedFrom_keeps {s0 s : State} {old : List (Nat × Action)} {p : Nat} (h : Keeps s0 s) :
    Keeps s0 (schedFrom old s p) := by
  unfold schedFrom
  extract_lets v1
  exact .upd h rfl

theorem forwardedWrite_keeps {s0 s : State} {a : Nat} {data : Word} {tag : FwdTag} (h : Keeps s0 s) :
    Keeps s0 (forwardedWrite s a data tag) := by
  unfold forwardedWrite
  split
  · exact regWriteAs_keeps h
  · exact fixPast_keeps (regWriteAs_keeps (unfix_keeps h))

theorem execTwinControlRx_keeps {s0 s : State} {f : TwinFrame} {jseq : Word} {addr : BitVec 25} {data : Word}
    {target : Nat} (h : Keeps s0 s) {t : State}
    (e : execTwinControlRx f jseq addr data target s = .next t) : Keeps s0 t := by
  refine Cmd.run_keeps h (fun s h => ?_) e
  refine twinRx_keeps h (fun s h => ?_)
  extract_lets v1 v2 v3 v4 v5
  have h3 : Keeps s0 v3 := .ite (State.raise_keeps (State.mark_keeps (.upd h rfl))) h
  try clear_value v3 v2
  have h4 : Keeps s0 v4 := schedFrom_keeps (forwardedWrite_keeps h3)
  try clear_value v4
  try clear_value v5
  exact .ite h (.upd h4 rfl)

theorem State.setMash_keeps {s0 s : State} {m : MashS} (h : Keeps s0 s) :
    Keeps s0 (State.setMash s m) :=
  .upd h rfl

theorem State.setSxe_keeps {s0 s : State} {x : SxeS} (h : Keeps s0 s) :
    Keeps s0 (State.setSxe s x) :=
  .upd h rfl

theorem xferPut_keeps {s0 s : State} {x1 : XferKey} {x2 : XferVal} (h : Keeps s0 s) :
    Keeps s0 (xferPut s x1 x2) := by
  unfold xferPut
  extract_lets v1 v2
  try clear_value v2 v1
  split
  · exact State.setMash_keeps h
  · exact State.poke_keeps h
  · extract_lets v3
    exact State.setShReg_keeps (State.setReg_keeps h)
  · exact State.put_keeps (State.setGroup_keeps h)
  · exact State.setCore_keeps h
  · exact State.setIo_keeps h
  · exact State.setMash_keeps h
  · exact State.setMash_keeps h
  · exact State.setMash_keeps h
  · exact State.setMash_keeps h
  · exact State.setMash_keeps h
  · exact State.setMash_keeps h
  · exact State.setSxe_keeps h
  · exact State.setSxe_keeps h
  · exact State.put_keeps (State.setSxe_keeps h)
  · exact State.setPwm_keeps h
  · exact State.put_keeps h
  · exact h

theorem execTwinTransferRx_keeps {s0 s : State} {f : TwinFrame} {items : List (XferKey × XferVal)} (h : Keeps s0 s)
    {t : State} (e : execTwinTransferRx f items s = .next t) : Keeps s0 t := by
  refine Cmd.run_keeps h (fun s h => ?_) e
  refine twinRx_keeps h (fun s h => ?_)
  extract_lets was l
  clear_value l was
  exact .ite h (.upd h rfl)

theorem batchInstall_keeps {s0 s : State} {q : Nat} {written : List XferKey} (h : Keeps s0 s) :
    Keeps s0 (batchInstall s q written) := by
  unfold batchInstall
  extract_lets v1 v2 v3 v4 v5
  have h3 : Keeps s0 v3 := .foldlT h (fun _ _ h => xferPut_keeps h)
  try clear_value v3
  have h5 : Keeps s0 v5 := .upd h3 rfl
  exact twinSend_keeps h5

theorem xferMsg_keeps {s0 s : State} {x1 : XferCtrl} (h : Keeps s0 s) :
    Keeps s0 (xferMsg s x1) := by
  unfold xferMsg
  extract_lets v1
  try clear_value v1
  split
  · refine Keeps.ite ?_ ?_
    · exact h
    · split
      · exact .ite (twinSend_keeps h) h
      · split
        · rename_i _ s2 q2
          have h2 : Keeps s0 s2 := .ofPair q2 (State.freeNat_keeps h)
          extract_lets v3 v4 v5
          have h5 : Keeps s0 v5 := .upd h2 rfl
          exact twinSend_keeps (State.put_keeps (State.put_keeps h5))
  · exact .ite (.upd h rfl) h
  · exact .ite (batchInstall_keeps h) (.upd h rfl)
  · exact State.put_keeps (State.put_keeps h)
  · exact .ite (.upd h rfl) h

theorem execTwinXferCtrlRx_keeps {s0 s : State} {f : TwinFrame} {m : XferCtrl} (h : Keeps s0 s) {t : State}
    (e : execTwinXferCtrlRx f m s = .next t) : Keeps s0 t :=
  Cmd.run_keeps h (fun _ h => twinRx_keeps h (fun s h => xferMsg_keeps h)) e

theorem transferSend_keeps {s0 s : State} {l : List (XferKey × XferVal)} (h : Keeps s0 s) :
    Keeps s0 (transferSend s l) :=
  .foldlT h (fun _ _ h => twinSend_keeps h)

theorem xferServe_keeps {s0 s : State} (h : Keeps s0 s) :
    Keeps s0 (xferServe s) := by
  unfold xferServe
  extract_lets v1
  refine Keeps.ite ?_ ?_
  · exact h
  · split
    · extract_lets v2 v6 v7 v8 v9 v10
      have h2 : Keeps s0 v2 := by
        unfold v2
        refine Keeps.foldlT h (fun s i h => ?_)
        extract_lets v3
        try clear_value v3
        split
        · extract_lets v4 v5
          have h5 : Keeps s0 v5 := .upd h rfl
          exact twinSend_keeps h5
      try clear_value v2
      have h7 : Keeps s0 v7 := .upd h2 rfl
      try clear_value v7 v6
      have h10 : Keeps s0 v10 := .ite (State.bump_keeps (.upd h7 rfl)) h7
      try clear_value v10 v9
      refine Keeps.ite ?_ ?_
      · exact twinSend_keeps (.upd h7 rfl)
      · split
        · rename_i _ s11 q11
          have h11 : Keeps s0 s11 := .ofPair q11 (State.freeNat_keeps h10)
          extract_lets v12 v13 v14 v15 v16 v17 v18
          have h14 : Keeps s0 v14 := .upd h11 rfl
          try clear_value v14 v13
          have h16 : Keeps s0 v16 := .ite h14 (transferSend_keeps (.upd h14 rfl))
          have h18 : Keeps s0 v18 := State.put_keeps h16
          exact twinSend_keeps h18

theorem execTwinAckRx_keeps {s0 s : State} {f : TwinFrame} (h : Keeps s0 s) {t : State}
    (e : execTwinAckRx f s = .next t) : Keeps s0 t :=
  Cmd.run_keeps h (fun _ h => twinRx_keeps h (fun s h => h)) e

theorem execTwinAckTx_keeps {s0 s : State} (h : Keeps s0 s) {t : State}
    (e : execTwinAckTx s = .next t) : Keeps s0 t :=
  Cmd.run_keeps h (fun _ h => .ite h (twinSend_keeps h)) e

theorem execTwinRetransmit_keeps {s0 s : State} (h : Keeps s0 s) {t : State}
    (e : execTwinRetransmit s = .next t) : Keeps s0 t := by
  refine Cmd.run_keeps h (fun s h => ?_) e
  extract_lets v1 v2 v3
  have h3 : Keeps s0 v3 := .upd h rfl
  try clear_value v3 v2
  exact .ite h (.foldlT (State.count_keeps (State.bump_keeps h3)) (fun _ _ h => twinOut_keeps h))

theorem execRejoinRequest_keeps {s0 s : State} (h : Keeps s0 s) {t : State}
    (e : execRejoinRequest s = .next t) : Keeps s0 t := by
  refine Cmd.run_keeps h (fun s h => ?_) e
  extract_lets v1
  try clear_value v1
  exact .ite h (twinSend_keeps (.upd h rfl))

theorem execRejoinTimeout_keeps {s0 s : State} (h : Keeps s0 s) {t : State}
    (e : execRejoinTimeout s = .next t) : Keeps s0 t := by
  refine Cmd.run_keeps h (fun s h => ?_) e
  extract_lets v1 v2
  have h1 : Keeps s0 v1 := State.bumpSat_keeps (State.bump_keeps (State.mark_keeps h))
  try clear_value v1
  try clear_value v2
  exact .ite h (.upd h1 rfl)

theorem execTwinPeerActChange_keeps {s0 s : State} {level : Bool} (h : Keeps s0 s) {t : State}
    (e : execTwinPeerActChange level s = .next t) : Keeps s0 t :=
  Cmd.run_keeps h (fun _ h => .ite h (State.put_keeps h)) e

theorem heartbeat_keeps {s0 s : State} (h : Keeps s0 s) :
    Keeps s0 (heartbeat s) := by
  unfold heartbeat
  extract_lets v1
  try clear_value v1
  split
  · exact h
  · extract_lets v2 v3 v4 v5 v6 v7
    have h3 : Keeps s0 v3 := .upd h rfl
    try clear_value v3
    have h4 : Keeps s0 v4 := State.raise_keeps (State.bump_keeps (State.mark_keeps h3))
    try clear_value v4
    have h6 : Keeps s0 v6 := by
      unfold v6
      split
      · exact State.put_keeps (.upd h4 rfl)
      · exact h4
    try clear_value v6 v5
    try clear_value v7
    refine Keeps.ite ?_ ?_
    · exact h3
    · split
      · exact .ite (enterAlone_keeps h6) (enterOut_keeps h6)
      · exact .upd h6 rfl
      · exact enterOut_keeps h6
      · exact enterOut_keeps h6
      · exact h6

theorem peerLine_keeps {s0 s : State} (h : Keeps s0 s) :
    Keeps s0 (peerLine s) := by
  unfold peerLine
  extract_lets v1 v2
  try clear_value v2
  exact .upd h rfl

theorem fromOut_keeps {s0 s : State} (h : Keeps s0 s) :
    Keeps s0 (fromOut s) := by
  unfold fromOut
  extract_lets v1 v2 v3 v4
  have h2 : Keeps s0 v2 := enterAlone_keeps h
  try clear_value v2
  try clear_value v4 v3
  refine Keeps.ite ?_ ?_
  · exact h
  · refine Keeps.ite ?_ ?_
    · exact .ite (State.raise_keeps (.upd h2 rfl)) h2
    · split
      · exact .ite h (.ite (State.put_keeps (State.put_keeps h)) (.upd h rfl))
      · exact h

theorem fromJoin_keeps {s0 s : State} (h : Keeps s0 s) :
    Keeps s0 (fromJoin s) := by
  unfold fromJoin
  extract_lets v1
  have h1 : Keeps s0 v1 := enterOut_keeps h
  exact .ite (enterOut_keeps h) (.ite (.ite (State.raise_keeps (State.put_keeps h1)) h1) (.ite (.ite (State.put_keeps (State.put_keeps h)) h) (.ite (enterSync_keeps h) h)))

theorem fromAlone_keeps {s0 s : State} (h : Keeps s0 s) :
    Keeps s0 (fromAlone s) :=
  .ite (State.raise_keeps (enterOut_keeps (State.mark_keeps h))) (.ite (enterSync_keeps h) h)

theorem fromSync_keeps {s0 s : State} (h : Keeps s0 s) :
    Keeps s0 (fromSync s) :=
  .ite (enterOut_keeps h) (.ite (enterAlone_keeps h) h)

theorem rejoinTaken_keeps {s0 s : State} (h : Keeps s0 s) :
    Keeps s0 (rejoinTaken s) := by
  unfold rejoinTaken
  extract_lets v1
  have h1 : Keeps s0 v1 := State.put_keeps (State.unmark_keeps h)
  exact .ite h (.ite (State.put_keeps h1) h1)

theorem twinStep_keeps {s0 s : State} (h : Keeps s0 s) :
    Keeps s0 (twinStep s) := by
  unfold twinStep
  extract_lets v1 v2
  have h1 : Keeps s0 v1 := rejoinTaken_keeps (heartbeat_keeps (peerLine_keeps h))
  try clear_value v1
  have h2 : Keeps s0 v2 := by
    unfold v2
    split
    · exact fromOut_keeps h1
    · exact fromAlone_keeps h1
    · exact fromJoin_keeps h1
    · exact fromJoin_keeps h1
    · exact fromSync_keeps h1
    · exact h1
  exact .ite h (.ite (enterOut_keeps h2) h2)

theorem twinYieldNow_keeps {s0 s : State} (h : Keeps s0 s) :
    Keeps s0 (twinYieldNow s) := by
  unfold twinYieldNow
  extract_lets v1
  have h1 : Keeps s0 v1 := State.unmark_keeps h
  exact .ite h1 (.ite (enterOut_keeps h1) (enterAlone_keeps h1))

theorem classThreeTwin_keeps {s0 s : State} (h : Keeps s0 s) :
    Keeps s0 (classThreeTwin s) := by
  unfold classThreeTwin
  extract_lets v1 v2 v3 v4 v5
  have h3 : Keeps s0 v3 := enterOut_keeps (.upd h rfl)
  try clear_value v3
  have h5 : Keeps s0 v5 := .upd h3 rfl
  try clear_value v5 v4
  refine Keeps.ite ?_ ?_
  · try clear_value v1
    split
    · exact h5
    · exact safeEnter_keeps (safeCause_keeps h5)
  · exact classThree_keeps h

end Sys2Proof.Machine
end

