-- ==== Sys2Proof/Laws/KeepsPeriod.lean ====
section
/-!
SUPPORT. What the operations of Machine/Period.lean keep.
-/
namespace Sys2Proof.Machine

theorem abandonWork_keeps {s0 s : State} (h : Keeps s0 s) :
    Keeps s0 (abandonWork s) :=
  headersNext_keeps (pwmTimeSet_keeps (sxeTimeSet_keeps (passAbandon_keeps h)))

theorem periodEnd_keeps {s0 s : State} (h : Keeps s0 s) :
    Keeps s0 (periodEnd s) := by
  unfold periodEnd
  extract_lets v1 v2 v3 v4 v5
  have h2 : Keeps s0 v2 := bridgesPresent_keeps (presRotate_keeps (xioPeriodEnd_keeps (perfTime_keeps (State.unmark_keeps h))))
  try clear_value v2
  have h3 : Keeps s0 v3 := flushFaults_keeps (.ite (abandonWork_keeps h2) (passEnd_keeps h2))
  try clear_value v3
  have h4 : Keeps s0 v4 := digestTake_keeps h3
  try clear_value v4
  exact pulsesDue_keeps (pwmLates_keeps (.upd h4 rfl))

theorem setNoted_keeps {s0 s : State} (h : Keeps s0 s) :
    Keeps s0 (setNoted s) := by
  unfold setNoted
  extract_lets v1
  try clear_value v1
  exact State.count_keeps (.upd h rfl)

theorem schedTake_keeps {s0 s : State} (h : Keeps s0 s) :
    Keeps s0 (schedTake s).2 := by
  unfold schedTake
  extract_lets v1
  exact .upd h rfl

theorem safeComplete_keeps {s0 s : State} (h : Keeps s0 s) :
    Keeps s0 (safeComplete s) :=
  .ite (safeEnter_keeps h) h

theorem followLock_keeps {s0 s : State} (h : Keeps s0 s) :
    Keeps s0 (followLock s) := by
  unfold followLock
  extract_lets v1 v2
  have h2 : Keeps s0 v2 := State.enter_keeps h
  try clear_value v2
  split
  · exact .ite (.ite h2 (releaseAll_keeps h2)) h
  · exact .ite h (reactAll_keeps (pwmOn_keeps (State.enter_keeps h)))
  · exact h

theorem stbyStart_keeps {s0 s : State} (h : Keeps s0 s) :
    Keeps s0 (stbyStart s) := by
  unfold stbyStart
  extract_lets v1
  exact .ite (reactAll_keeps (.upd h rfl)) (State.unmark_keeps h)

theorem stbyLinks_keeps {s0 s : State} (h : Keeps s0 s) :
    Keeps s0 (stbyLinks s) :=
  .foldlT h (fun _ _ h => .ite h (ethDown_keeps h))

theorem stbyEnd_keeps {s0 s : State} (h : Keeps s0 s) :
    Keeps s0 (stbyEnd s) :=
  .ite (pcieDown_keeps (stbyLinks_keeps (caskSleep_keeps (pwmHardStop_keeps (dataPlaneStop_keeps (State.enter_keeps (stbyOff_keeps h))))))) h

theorem runEnter_keeps {s0 s : State} (h : Keeps s0 s) :
    Keeps s0 (runEnter s) :=
  reactAll_keeps (pwmOn_keeps (State.enter_keeps h))

theorem prepareEnd_keeps {s0 s : State} (h : Keeps s0 s) :
    Keeps s0 (prepareEnd s).2 := by
  unfold prepareEnd
  extract_lets v1 v2 v3
  have h1 : Keeps s0 v1 := startChecks_keeps h
  try clear_value v1
  have h3 : Keeps s0 v3 := .upd h1 rfl
  try clear_value v3 v2
  refine Keeps.iteVia (π := Prod.snd) ?_ ?_
  · exact h
  · refine Keeps.iteVia (π := Prod.snd) ?_ ?_
    · exact h3
    · exact runEnter_keeps h3

theorem safeStart_keeps {s0 s : State} {was : EngState} (h : Keeps s0 s) :
    Keeps s0 (safeStart s was).2 := by
  unfold safeStart
  extract_lets v1 v2
  have h2 : Keeps s0 v2 := .upd h rfl
  try clear_value v2 v1
  refine Keeps.iteVia (π := Prod.snd) ?_ ?_
  · exact h
  · refine Keeps.iteVia (π := Prod.snd) ?_ ?_
    · exact h
    · refine Keeps.iteVia (π := Prod.snd) ?_ ?_
      · exact h
      · refine Keeps.iteVia (π := Prod.snd) ?_ ?_
        · exact startChecks_keeps h2
        · exact h2

theorem safeRelease_keeps {s0 s : State} (h : Keeps s0 s) : Keeps s0 (safeRelease s).2 := by
  unfold safeRelease
  extract_lets s1 b s2 s3
  have h1 : Keeps s0 s1 := State.unmark_keeps h
  clear_value s1
  have h2 : Keeps s0 s2 := startChecks_keeps (.upd h1 rfl)
  clear_value s2 b
  have h3 : Keeps s0 s3 := endAll_keeps (runEnter_keeps h2)
  clear_value s3
  refine Keeps.iteVia (π := Prod.snd) h1 (Keeps.iteVia (π := Prod.snd) h2 ?_)
  dsimp only
  exact releaseAll_keeps h3

theorem actionTake_keeps {s0 s : State} {x : Action} (h : Keeps s0 s) :
    Keeps s0 (actionTake s x) := by
  unfold actionTake
  split
  · exact pwmClear_keeps h
  · exact stbyStart_keeps h
  · exact twinYieldNow_keeps h
  · exact h

theorem stepThree_keeps {s0 s : State} {due : List Action} (h : Keeps s0 s) :
    Keeps s0 (stepThree s due).2 := by
  unfold stepThree
  extract_lets v1 v2 v3 v4 v5
  have h2 : Keeps s0 v2 := classThreeTwin_keeps h
  try clear_value v2
  have h4 : Keeps s0 v4 := .upd h2 rfl
  try clear_value v4 v3
  have h5 : Keeps s0 v5 := .foldlT (followLock_keeps (safeComplete_keeps h4)) (fun _ _ h => actionTake_keeps h)
  try clear_value v5
  split
  · rename_i _ s6 q6
    have h6 : Keeps s0 s6 := .ofPair q6 (prepareEnd_keeps h5)
    split
    · rename_i _ s7 q7
      have h7 : Keeps s0 s7 := .ofPair q7 (by
        refine Keeps.iteVia (π := Prod.snd) ?_ ?_
        · exact safeRelease_keeps h6
        · exact h6)
      extract_lets v8
      have h8 : Keeps s0 v8 := pwmBoundary_keeps (twinStep_keeps (stbyEnd_keeps h7))
      try clear_value v8
      split
      · rename_i _ s9 q9
        have h9 : Keeps s0 s9 := .ofPair q9 (safeStart_keeps h8)
        exact h9

theorem passSources_keeps {s0 s : State} (h : Keeps s0 s) :
    Keeps s0 (passSources s).2 := by
  unfold passSources
  extract_lets v1 v2 v3
  split
  · rename_i _ s4 q4
    have h4 : Keeps s0 s4 := .ofPair q4 (sxeDeadline_keeps h)
    exact h4

theorem twinWork_keeps {s0 s : State} {c3 : Bool} (h : Keeps s0 s) :
    Keeps s0 (twinWork s c3) := by
  unfold twinWork
  extract_lets v1 v2 v3
  have h1 : Keeps s0 v1 := .ite (agreement_keeps h) h
  try clear_value v1
  have h2 : Keeps s0 v2 := agreementSend_keeps h1
  try clear_value v2
  try clear_value v3
  exact .ite h (xferServe_keeps (.upd h2 rfl))

theorem passWork_keeps {s0 s : State} (h : Keeps s0 s) :
    Keeps s0 (passWork s) := by
  unfold passWork
  split
  · extract_lets v1
    have h1 : Keeps s0 v1 := egPack_keeps (egLate_keeps h)
    try clear_value v1
    split
    · rename_i _ s2 q2
      have h2 : Keeps s0 s2 := .ofPair q2 (passSources_keeps h1)
      exact passStart_keeps h2

theorem stepFive_keeps {s0 s : State} {due : List Action} {ran : Bool} {go : Bool} {c3 : Bool} (h : Keeps s0 s) :
    Keeps s0 (stepFive s due ran go c3) := by
  unfold stepFive
  extract_lets v1 v2 v3 v4 v5 v6 v7 v8
  have h1 : Keeps s0 v1 := headersNext_keeps h
  try clear_value v1
  have h2 : Keeps s0 v2 := .ite (dataPlaneStart_keeps h1) h1
  try clear_value v2
  have h3 : Keeps s0 v3 := .ite (bells_keeps h2) h2
  try clear_value v3
  have h4 : Keeps s0 v4 := by
    unfold v4
    refine Keeps.foldlT h3 (fun s i h => ?_)
    split
    · exact coreRestart_keeps h
    · exact h
  try clear_value v4
  have h5 : Keeps s0 v5 := .foldlT h4 (fun _ _ h => dmaBoundary_keeps h)
  have h6 : Keeps s0 v6 := caskBoundary_keeps h5
  have h7 : Keeps s0 v7 := ethBoundary_keeps h6
  have h8 : Keeps s0 v8 := .ite (passWork_keeps (twinWork_keeps h7)) h7
  exact kilnPulses_keeps (seqBoundary_keeps h8)

theorem stepOneTwo_keeps {s0 s : State} {due : List Action} (h : Keeps s0 s) :
    Keeps s0 (stepOneTwo s due) := by
  unfold stepOneTwo
  extract_lets v1 v2 v3 v4 v5 v6
  have h2 : Keeps s0 v2 := .upd h rfl
  try clear_value v2
  have h3 : Keeps s0 v3 := State.count_keeps (dumpSnapshot_keeps (headersMissing_keeps h2))
  try clear_value v3
  have h4 : Keeps s0 v4 := .ite (kilnBoundary_keeps h3) (kilnIdle_keeps h3)
  try clear_value v4
  have h5 : Keeps s0 v5 := xpBoundary_keeps (bwBoundary_keeps h4)
  try clear_value v5
  have h6 : Keeps s0 v6 := powerGrant_keeps (sieveRenew_keeps (bootRequest_keeps (dumpRequest_keeps (ringsRequest_keeps h5))))
  try clear_value v6
  exact .foldlT (ringDrain_keeps (ringDrain_keeps (waitDrain_keeps h6))) (fun _ _ h => dmaFund_keeps h)

theorem boundary_keeps {s0 s : State} (h : Keeps s0 s) :
    Keeps s0 (boundary s) := by
  unfold boundary
  extract_lets v1 v2
  split
  · rename_i _ s3 q3
    have h3 : Keeps s0 s3 := .ofPair q3 (schedTake_keeps h)
    split
    · rename_i _ s4 q4
      have h4 : Keeps s0 s4 := .ofPair q4 (stepThree_keeps (stepOneTwo_keeps h3))
      exact stepFive_keeps (lvBoundary_keeps (commitBoundary_keeps h4))

theorem periodBoundary_keeps {s0 s : State} (h : Keeps s0 s) :
    Keeps s0 (periodBoundary s) := by
  unfold periodBoundary
  refine Keeps.ite ?_ ?_
  · exact h
  · split
    · rename_i s1 q1
      have h1 : Keeps s0 s1 := .ofPair q1 (kilnSet_keeps (periodEnd_keeps h))
      exact boundary_keeps h1
    · rename_i s2 q2
      have h2 : Keeps s0 s2 := .ofPair q2 (kilnSet_keeps (periodEnd_keeps h))
      exact boundary_keeps (setNoted_keeps h2)
    · rename_i s3 q3
      have h3 : Keeps s0 s3 := .ofPair q3 (kilnSet_keeps (periodEnd_keeps h))
      extract_lets v4 v5
      have h4 : Keeps s0 v4 := setNoted_keeps h3
      try clear_value v4
      exact .upd h4 rfl

theorem tick_keeps {s0 s : State} (h : Keeps s0 s) :
    Keeps s0 (tick s) := by
  unfold tick
  extract_lets v1 v2
  have h1 : Keeps s0 v1 := perfTime_keeps (State.unmark_keeps (.upd h rfl))
  try clear_value v1
  exact .ite h (pulsesDue_keeps (.upd h1 rfl))

theorem execPeriodBoundary_keeps {s0 s : State} (h : Keeps s0 s) {t : State}
    (e : execPeriodBoundary s = .next t) : Keeps s0 t :=
  Cmd.run_keeps h (fun _ h => periodBoundary_keeps h) e

end Sys2Proof.Machine
end

