-- ==== Sys2Proof/Laws/KeepsTap.lean ====
section
/-!
SUPPORT. What the operations of Machine/Tap.lean keep.
-/
namespace Sys2Proof.Machine

theorem tapClock_keeps {s0 s : State} {tms : Bool} {tdi : Bool} (h : Keeps s0 s) :
    Keeps s0 (tapClock tms tdi s) := by
  unfold tapClock
  extract_lets v1 v2
  exact .ite (.upd h rfl) (.upd h rfl)

end Sys2Proof.Machine
end

