-- ==== Sys2Proof/Laws/Exec.lean ====
section
/-!
SUPPORT. What holds of every command and of every step: every command completes, in the one frame; each command keeps what the
operations keep.
-/
namespace Sys2Proof.Machine

/-- Every command runs its effect in the frame of `Cmd.run`. -/
theorem exec_run (i : Instr) (s : State) : ∃ f, exec i s = Cmd.run f s := by
  cases i with
  | resetNAssert => exact ⟨_, execResetNAssert.eq_1 ..⟩
  | powerOnDetect => exact ⟨_, execPowerOnDetect.eq_1 ..⟩
  | softwareReset _ _ => exact ⟨_, (execSoftwareReset.eq_1 ..).trans (writeCmd.eq_1 ..)⟩
  | resetRelease _ _ _ _ _ _ _ => exact ⟨_, execResetRelease.eq_1 ..⟩
  | loadComplete => exact ⟨_, execLoadComplete.eq_1 ..⟩
  | checkComplete _ _ => exact ⟨_, execCheckComplete.eq_1 ..⟩
  | prepareSection _ => exact ⟨_, execPrepareSection.eq_1 ..⟩
  | periodBoundary => exact ⟨_, execPeriodBoundary.eq_1 ..⟩
  | sysTimeCapture _ _ => exact ⟨_, (execSysTimeCapture.eq_1 ..).trans (writeCmd.eq_1 ..)⟩
  | standbyEnterCmd _ _ => exact ⟨_, (execStandbyEnterCmd.eq_1 ..).trans (writeCmd.eq_1 ..)⟩
  | wakeNEvent => exact ⟨_, execWakeNEvent.eq_1 ..⟩
  | twtStandbyWake _ => exact ⟨_, execTwtStandbyWake.eq_1 ..⟩
  | staleMark => exact ⟨_, execStaleMark.eq_1 ..⟩
  | sysTempMeasure _ => exact ⟨_, execSysTempMeasure.eq_1 ..⟩
  | pcieLinkUp _ _ _ => exact ⟨_, execPcieLinkUp.eq_1 ..⟩
  | registerWrite _ _ _ _ => exact ⟨_, execRegisterWrite.eq_1 ..⟩
  | hifCtrlWrite _ _ => exact ⟨_, (execHifCtrlWrite.eq_1 ..).trans (writeCmd.eq_1 ..)⟩
  | commit _ _ _ => exact ⟨_, (execCommit.eq_1 ..).trans (writeCmd.eq_1 ..)⟩
  | commitCancel _ _ _ => exact ⟨_, (execCommitCancel.eq_1 ..).trans (writeCmd.eq_1 ..)⟩
  | bar2Read _ _ => exact ⟨_, execBar2Read.eq_1 ..⟩
  | bar2Write _ _ => exact ⟨_, execBar2Write.eq_1 ..⟩
  | atomicFetchadd _ _ _ _ => exact ⟨_, (execAtomicFetchadd.eq_1 ..).trans (atomicCmd.eq_1 ..)⟩
  | atomicSwap _ _ _ _ => exact ⟨_, (execAtomicSwap.eq_1 ..).trans (atomicCmd.eq_1 ..)⟩
  | atomicCas _ _ _ _ _ => exact ⟨_, (execAtomicCas.eq_1 ..).trans (atomicCmd.eq_1 ..)⟩
  | twtSetPointer _ => exact ⟨_, execTwtSetPointer.eq_1 ..⟩
  | twtWriteBlock _ _ => exact ⟨_, execTwtWriteBlock.eq_1 ..⟩
  | twtReadWord => exact ⟨_, execTwtReadWord.eq_1 ..⟩
  | twtReadBlock => exact ⟨_, execTwtReadBlock.eq_1 ..⟩
  | twtReadStatus => exact ⟨_, execTwtReadStatus.eq_1 ..⟩
  | twtInvalidCommand _ _ => exact ⟨_, execTwtInvalidCommand.eq_1 ..⟩
  | twtAbandon _ => exact ⟨_, execTwtAbandon.eq_1 ..⟩
  | twtSclTimeout => exact ⟨_, execTwtSclTimeout.eq_1 ..⟩
  | inbandWrite _ _ _ => exact ⟨_, execInbandWrite.eq_1 ..⟩
  | inbandRead _ _ _ => exact ⟨_, execInbandRead.eq_1 ..⟩
  | inbandAnswer _ => exact ⟨_, execInbandAnswer.eq_1 ..⟩
  | ptpDomOfsRead _ => exact ⟨_, (execPtpDomOfsRead.eq_1 ..).trans (readCmd.eq_1 ..)⟩
  | kilnPendRead => exact ⟨_, (execKilnPendRead.eq_1 ..).trans (readCmd.eq_1 ..)⟩
  | twinDigRead => exact ⟨_, (execTwinDigRead.eq_1 ..).trans (readCmd.eq_1 ..)⟩
  | caskEccAddrRead => exact ⟨_, (execCaskEccAddrRead.eq_1 ..).trans (readCmd.eq_1 ..)⟩
  | fltMemAddrRead => exact ⟨_, (execFltMemAddrRead.eq_1 ..).trans (readCmd.eq_1 ..)⟩
  | fltPop _ _ => exact ⟨_, (execFltPop.eq_1 ..).trans (writeCmd.eq_1 ..)⟩
  | mgpDrainPop => exact ⟨_, execMgpDrainPop.eq_1 ..⟩
  | safeReleaseCmd _ _ => exact ⟨_, (execSafeReleaseCmd.eq_1 ..).trans (writeCmd.eq_1 ..)⟩
  | hostWdogWrite _ _ => exact ⟨_, (execHostWdogWrite.eq_1 ..).trans (writeCmd.eq_1 ..)⟩
  | hostWdogKick _ _ => exact ⟨_, (execHostWdogKick.eq_1 ..).trans (writeCmd.eq_1 ..)⟩
  | hostWdogExpiry => exact ⟨_, execHostWdogExpiry.eq_1 ..⟩
  | mgpWdogExpiry => exact ⟨_, execMgpWdogExpiry.eq_1 ..⟩
  | mgpRestartCmd _ _ => exact ⟨_, (execMgpRestartCmd.eq_1 ..).trans (writeCmd.eq_1 ..)⟩
  | mbPop _ _ => exact ⟨_, (execMbPop.eq_1 ..).trans (writeCmd.eq_1 ..)⟩
  | mbGo _ _ => exact ⟨_, (execMbGo.eq_1 ..).trans (writeCmd.eq_1 ..)⟩
  | mbIdentify => exact ⟨_, execMbIdentify.eq_1 ..⟩
  | mbSetClockAttr => exact ⟨_, execMbSetClockAttr.eq_1 ..⟩
  | mbReadClockState _ _ _ _ => exact ⟨_, execMbReadClockState.eq_1 ..⟩
  | mbUnknownType => exact ⟨_, execMbUnknownType.eq_1 ..⟩
  | mbPtpPortState _ _ _ _ => exact ⟨_, execMbPtpPortState.eq_1 ..⟩
  | mbEeeWakeTime _ _ => exact ⟨_, execMbEeeWakeTime.eq_1 ..⟩
  | rapidTransaction _ _ _ => exact ⟨_, execRapidTransaction.eq_1 ..⟩
  | lockedSequence _ _ => exact ⟨_, execLockedSequence.eq_1 ..⟩
  | lockBreak _ _ _ => exact ⟨_, execLockBreak.eq_1 ..⟩
  | allowanceExpiry _ => exact ⟨_, execAllowanceExpiry.eq_1 ..⟩
  | pwrWarnAssert => exact ⟨_, execPwrWarnAssert.eq_1 ..⟩
  | pwrWarnDeassert => exact ⟨_, execPwrWarnDeassert.eq_1 ..⟩
  | sendPoint => exact ⟨_, execSendPoint.eq_1 ..⟩
  | returnPoint => exact ⟨_, execReturnPoint.eq_1 ..⟩
  | sliceTimer _ _ => exact ⟨_, execSliceTimer.eq_1 ..⟩
  | level1EventEntry _ => exact ⟨_, execLevel1EventEntry.eq_1 ..⟩
  | level2EventEntry _ => exact ⟨_, execLevel2EventEntry.eq_1 ..⟩
  | headerWrite _ => exact ⟨_, execHeaderWrite.eq_1 ..⟩
  | coreHalt _ _ _ => exact ⟨_, (execCoreHalt.eq_1 ..).trans (writeCmd.eq_1 ..)⟩
  | coreResume _ _ _ => exact ⟨_, (execCoreResume.eq_1 ..).trans (writeCmd.eq_1 ..)⟩
  | coreStep _ _ _ => exact ⟨_, (execCoreStep.eq_1 ..).trans (writeCmd.eq_1 ..)⟩
  | breakpointMatch _ => exact ⟨_, execBreakpointMatch.eq_1 ..⟩
  | coreDbgDataAccess _ _ _ => exact ⟨_, execCoreDbgDataAccess.eq_1 ..⟩
  | coreRestartCmd _ _ _ => exact ⟨_, (execCoreRestartCmd.eq_1 ..).trans (writeCmd.eq_1 ..)⟩
  | corePwinWrite _ _ _ _ => exact ⟨_, (execCorePwinWrite.eq_1 ..).trans (writeCmd.eq_1 ..)⟩
  | paramCopyDone _ => exact ⟨_, execParamCopyDone.eq_1 ..⟩
  | beDmaStart _ => exact ⟨_, execBeDmaStart.eq_1 ..⟩
  | dmaTransferDone _ _ => exact ⟨_, execDmaTransferDone.eq_1 ..⟩
  | mboxInWrite _ _ _ _ => exact ⟨_, (execMboxInWrite.eq_1 ..).trans (writeCmd.eq_1 ..)⟩
  | mboxInAck _ => exact ⟨_, execMboxInAck.eq_1 ..⟩
  | mboxOutCopy _ => exact ⟨_, execMboxOutCopy.eq_1 ..⟩
  | add _ _ _ _ _ _ => exact ⟨_, (execAdd.eq_1 ..).trans (coreCmd.eq_1 ..)⟩
  | sub _ _ _ _ _ _ => exact ⟨_, (execSub.eq_1 ..).trans (coreCmd.eq_1 ..)⟩
  | neg _ _ _ _ _ => exact ⟨_, (execNeg.eq_1 ..).trans (coreCmd.eq_1 ..)⟩
  | abs _ _ _ _ _ => exact ⟨_, (execAbs.eq_1 ..).trans (coreCmd.eq_1 ..)⟩
  | min _ _ _ _ _ => exact ⟨_, (execMin.eq_1 ..).trans (coreCmd.eq_1 ..)⟩
  | max _ _ _ _ _ => exact ⟨_, (execMax.eq_1 ..).trans (coreCmd.eq_1 ..)⟩
  | minu _ _ _ _ _ => exact ⟨_, (execMinu.eq_1 ..).trans (coreCmd.eq_1 ..)⟩
  | maxu _ _ _ _ _ => exact ⟨_, (execMaxu.eq_1 ..).trans (coreCmd.eq_1 ..)⟩
  | and _ _ _ _ _ => exact ⟨_, (execAnd.eq_1 ..).trans (coreCmd.eq_1 ..)⟩
  | or _ _ _ _ _ => exact ⟨_, (execOr.eq_1 ..).trans (coreCmd.eq_1 ..)⟩
  | xor _ _ _ _ _ => exact ⟨_, (execXor.eq_1 ..).trans (coreCmd.eq_1 ..)⟩
  | not _ _ _ _ => exact ⟨_, (execNot.eq_1 ..).trans (coreCmd.eq_1 ..)⟩
  | lsl _ _ _ _ _ => exact ⟨_, (execLsl.eq_1 ..).trans (coreCmd.eq_1 ..)⟩
  | lsr _ _ _ _ _ => exact ⟨_, (execLsr.eq_1 ..).trans (coreCmd.eq_1 ..)⟩
  | asr _ _ _ _ _ => exact ⟨_, (execAsr.eq_1 ..).trans (coreCmd.eq_1 ..)⟩
  | asl _ _ _ _ _ _ => exact ⟨_, (execAsl.eq_1 ..).trans (coreCmd.eq_1 ..)⟩
  | ror _ _ _ _ _ => exact ⟨_, (execRor.eq_1 ..).trans (coreCmd.eq_1 ..)⟩
  | cls _ _ _ _ => exact ⟨_, (execCls.eq_1 ..).trans (coreCmd.eq_1 ..)⟩
  | clz _ _ _ _ => exact ⟨_, (execClz.eq_1 ..).trans (coreCmd.eq_1 ..)⟩
  | cmp _ _ _ _ => exact ⟨_, (execCmp.eq_1 ..).trans (coreCmd.eq_1 ..)⟩
  | cmpu _ _ _ _ => exact ⟨_, (execCmpu.eq_1 ..).trans (coreCmd.eq_1 ..)⟩
  | sel _ _ _ _ _ _ => exact ⟨_, (execSel.eq_1 ..).trans (coreCmd.eq_1 ..)⟩
  | mov _ _ _ _ => exact ⟨_, (execMov.eq_1 ..).trans (coreCmd.eq_1 ..)⟩
  | addi _ _ _ _ _ _ => exact ⟨_, (execAddi.eq_1 ..).trans (coreCmd.eq_1 ..)⟩
  | andi _ _ _ _ _ => exact ⟨_, (execAndi.eq_1 ..).trans (coreCmd.eq_1 ..)⟩
  | ori _ _ _ _ _ => exact ⟨_, (execOri.eq_1 ..).trans (coreCmd.eq_1 ..)⟩
  | xori _ _ _ _ _ => exact ⟨_, (execXori.eq_1 ..).trans (coreCmd.eq_1 ..)⟩
  | lsli _ _ _ _ _ => exact ⟨_, (execLsli.eq_1 ..).trans (coreCmd.eq_1 ..)⟩
  | lsri _ _ _ _ _ => exact ⟨_, (execLsri.eq_1 ..).trans (coreCmd.eq_1 ..)⟩
  | asri _ _ _ _ _ => exact ⟨_, (execAsri.eq_1 ..).trans (coreCmd.eq_1 ..)⟩
  | asli _ _ _ _ _ _ => exact ⟨_, (execAsli.eq_1 ..).trans (coreCmd.eq_1 ..)⟩
  | bfx _ _ _ _ _ _ _ => exact ⟨_, (execBfx.eq_1 ..).trans (coreCmd.eq_1 ..)⟩
  | bfi _ _ _ _ _ _ => exact ⟨_, (execBfi.eq_1 ..).trans (coreCmd.eq_1 ..)⟩
  | movi _ _ _ _ => exact ⟨_, (execMovi.eq_1 ..).trans (coreCmd.eq_1 ..)⟩
  | movhi _ _ _ _ => exact ⟨_, (execMovhi.eq_1 ..).trans (coreCmd.eq_1 ..)⟩
  | cmpi _ _ _ _ => exact ⟨_, (execCmpi.eq_1 ..).trans (coreCmd.eq_1 ..)⟩
  | mfc _ _ _ _ => exact ⟨_, (execMfc.eq_1 ..).trans (coreCmd.eq_1 ..)⟩
  | mtc _ _ _ _ => exact ⟨_, (execMtc.eq_1 ..).trans (coreCmd.eq_1 ..)⟩
  | addp _ _ _ _ => exact ⟨_, (execAddp.eq_1 ..).trans (coreCmd.eq_1 ..)⟩
  | ldW _ _ _ _ _ _ _ => exact ⟨_, (execLdW.eq_1 ..).trans (coreCmd.eq_1 ..)⟩
  | ldD _ _ _ _ _ _ _ => exact ⟨_, (execLdD.eq_1 ..).trans (coreCmd.eq_1 ..)⟩
  | ldH _ _ _ _ _ _ _ => exact ⟨_, (execLdH.eq_1 ..).trans (coreCmd.eq_1 ..)⟩
  | ldHs _ _ _ _ _ _ _ => exact ⟨_, (execLdHs.eq_1 ..).trans (coreCmd.eq_1 ..)⟩
  | stW _ _ _ _ _ _ _ => exact ⟨_, (execStW.eq_1 ..).trans (coreCmd.eq_1 ..)⟩
  | stD _ _ _ _ _ _ _ => exact ⟨_, (execStD.eq_1 ..).trans (coreCmd.eq_1 ..)⟩
  | stH _ _ _ _ _ _ _ _ => exact ⟨_, (execStH.eq_1 ..).trans (coreCmd.eq_1 ..)⟩
  | lda _ _ _ _ _ _ _ => exact ⟨_, (execLda.eq_1 ..).trans (coreCmd.eq_1 ..)⟩
  | sta _ _ _ _ _ _ _ _ => exact ⟨_, (execSta.eq_1 ..).trans (coreCmd.eq_1 ..)⟩
  | sava _ _ _ _ _ _ _ => exact ⟨_, (execSava.eq_1 ..).trans (coreCmd.eq_1 ..)⟩
  | rsta _ _ _ _ _ _ _ => exact ⟨_, (execRsta.eq_1 ..).trans (coreCmd.eq_1 ..)⟩
  | mpy _ _ _ _ _ _ => exact ⟨_, (execMpy.eq_1 ..).trans (coreCmd.eq_1 ..)⟩
  | mac _ _ _ _ _ _ => exact ⟨_, (execMac.eq_1 ..).trans (coreCmd.eq_1 ..)⟩
  | msu _ _ _ _ _ _ => exact ⟨_, (execMsu.eq_1 ..).trans (coreCmd.eq_1 ..)⟩
  | mpysu _ _ _ _ _ _ => exact ⟨_, (execMpysu.eq_1 ..).trans (coreCmd.eq_1 ..)⟩
  | macsu _ _ _ _ _ _ => exact ⟨_, (execMacsu.eq_1 ..).trans (coreCmd.eq_1 ..)⟩
  | macuu _ _ _ _ _ _ => exact ⟨_, (execMacuu.eq_1 ..).trans (coreCmd.eq_1 ..)⟩
  | mull _ _ _ _ _ _ => exact ⟨_, (execMull.eq_1 ..).trans (coreCmd.eq_1 ..)⟩
  | clra _ _ _ => exact ⟨_, (execClra.eq_1 ..).trans (coreCmd.eq_1 ..)⟩
  | adda _ _ _ _ => exact ⟨_, (execAdda.eq_1 ..).trans (coreCmd.eq_1 ..)⟩
  | suba _ _ _ _ => exact ⟨_, (execSuba.eq_1 ..).trans (coreCmd.eq_1 ..)⟩
  | nega _ _ _ => exact ⟨_, (execNega.eq_1 ..).trans (coreCmd.eq_1 ..)⟩
  | sha _ _ _ _ _ => exact ⟨_, (execSha.eq_1 ..).trans (coreCmd.eq_1 ..)⟩
  | ext _ _ _ _ _ _ => exact ⟨_, (execExt.eq_1 ..).trans (coreCmd.eq_1 ..)⟩
  | mval _ _ _ _ => exact ⟨_, (execMval.eq_1 ..).trans (coreCmd.eq_1 ..)⟩
  | mvah _ _ _ _ => exact ⟨_, (execMvah.eq_1 ..).trans (coreCmd.eq_1 ..)⟩
  | mvag _ _ _ _ => exact ⟨_, (execMvag.eq_1 ..).trans (coreCmd.eq_1 ..)⟩
  | mova _ _ _ _ => exact ⟨_, (execMova.eq_1 ..).trans (coreCmd.eq_1 ..)⟩
  | tapm _ _ _ _ _ => exact ⟨_, (execTapm.eq_1 ..).trans (coreCmd.eq_1 ..)⟩
  | tapmZ _ _ _ _ _ => exact ⟨_, (execTapmZ.eq_1 ..).trans (coreCmd.eq_1 ..)⟩
  | fadd _ _ _ _ _ _ _ => exact ⟨_, (execFadd.eq_1 ..).trans (coreCmd.eq_1 ..)⟩
  | fsub _ _ _ _ _ _ _ => exact ⟨_, (execFsub.eq_1 ..).trans (coreCmd.eq_1 ..)⟩
  | fmul _ _ _ _ _ _ _ => exact ⟨_, (execFmul.eq_1 ..).trans (coreCmd.eq_1 ..)⟩
  | fma _ _ _ _ _ _ _ _ => exact ⟨_, (execFma.eq_1 ..).trans (coreCmd.eq_1 ..)⟩
  | fms _ _ _ _ _ _ _ _ => exact ⟨_, (execFms.eq_1 ..).trans (coreCmd.eq_1 ..)⟩
  | fmin _ _ _ _ _ _ _ => exact ⟨_, (execFmin.eq_1 ..).trans (coreCmd.eq_1 ..)⟩
  | fmax _ _ _ _ _ _ _ => exact ⟨_, (execFmax.eq_1 ..).trans (coreCmd.eq_1 ..)⟩
  | fabs _ _ _ _ _ => exact ⟨_, (execFabs.eq_1 ..).trans (coreCmd.eq_1 ..)⟩
  | fneg _ _ _ _ _ => exact ⟨_, (execFneg.eq_1 ..).trans (coreCmd.eq_1 ..)⟩
  | fcmp _ _ _ _ => exact ⟨_, (execFcmp.eq_1 ..).trans (coreCmd.eq_1 ..)⟩
  | fcvtqf _ _ _ _ _ _ => exact ⟨_, (execFcvtqf.eq_1 ..).trans (coreCmd.eq_1 ..)⟩
  | fcvtfq _ _ _ _ _ => exact ⟨_, (execFcvtfq.eq_1 ..).trans (coreCmd.eq_1 ..)⟩
  | fcvtif _ _ _ _ _ _ => exact ⟨_, (execFcvtif.eq_1 ..).trans (coreCmd.eq_1 ..)⟩
  | fcvtfi _ _ _ _ _ => exact ⟨_, (execFcvtfi.eq_1 ..).trans (coreCmd.eq_1 ..)⟩
  | frcp _ _ _ _ _ _ => exact ⟨_, (execFrcp.eq_1 ..).trans (coreCmd.eq_1 ..)⟩
  | frsq _ _ _ _ _ _ => exact ⟨_, (execFrsq.eq_1 ..).trans (coreCmd.eq_1 ..)⟩
  | br _ _ _ _ => exact ⟨_, (execBr.eq_1 ..).trans (coreCmd.eq_1 ..)⟩
  | call _ _ _ => exact ⟨_, (execCall.eq_1 ..).trans (coreCmd.eq_1 ..)⟩
  | ret _ _ => exact ⟨_, (execRet.eq_1 ..).trans (coreCmd.eq_1 ..)⟩
  | brr _ _ _ => exact ⟨_, (execBrr.eq_1 ..).trans (coreCmd.eq_1 ..)⟩
  | nop _ _ => exact ⟨_, (execNop.eq_1 ..).trans (coreCmd.eq_1 ..)⟩
  | loop _ _ _ _ => exact ⟨_, (execLoop.eq_1 ..).trans (coreCmd.eq_1 ..)⟩
  | loopr _ _ _ _ => exact ⟨_, (execLoopr.eq_1 ..).trans (coreCmd.eq_1 ..)⟩
  | brk _ _ => exact ⟨_, (execBrk.eq_1 ..).trans (coreCmd.eq_1 ..)⟩
  | rte1 _ _ => exact ⟨_, (execRte1.eq_1 ..).trans (coreCmd.eq_1 ..)⟩
  | rte2 _ _ => exact ⟨_, (execRte2.eq_1 ..).trans (coreCmd.eq_1 ..)⟩
  | idle _ _ => exact ⟨_, (execIdle.eq_1 ..).trans (coreCmd.eq_1 ..)⟩
  | fence _ _ => exact ⟨_, (execFence.eq_1 ..).trans (coreCmd.eq_1 ..)⟩
  | illegalInstruction _ _ => exact ⟨_, execIllegalInstruction.eq_1 ..⟩
  | tdmFrame _ _ _ _ _ _ _ => exact ⟨_, execTdmFrame.eq_1 ..⟩
  | tdmClockLoss _ => exact ⟨_, execTdmClockLoss.eq_1 ..⟩
  | bridgeLock _ _ => exact ⟨_, execBridgeLock.eq_1 ..⟩
  | domainSynthLock _ => exact ⟨_, execDomainSynthLock.eq_1 ..⟩
  | domainSynthUnlock _ => exact ⟨_, execDomainSynthUnlock.eq_1 ..⟩
  | carrierCycle _ => exact ⟨_, execCarrierCycle.eq_1 ..⟩
  | ocfltAssert _ => exact ⟨_, execOcfltAssert.eq_1 ..⟩
  | railConversion _ _ => exact ⟨_, execRailConversion.eq_1 ..⟩
  | bootComplete _ => exact ⟨_, execBootComplete.eq_1 ..⟩
  | settleComplete _ => exact ⟨_, execSettleComplete.eq_1 ..⟩
  | stopComplete _ => exact ⟨_, execStopComplete.eq_1 ..⟩
  | retryStart _ => exact ⟨_, execRetryStart.eq_1 ..⟩
  | retryWindowEnd _ => exact ⟨_, execRetryWindowEnd.eq_1 ..⟩
  | retryCountReset _ => exact ⟨_, execRetryCountReset.eq_1 ..⟩
  | pwmClearCmd _ _ _ => exact ⟨_, (execPwmClearCmd.eq_1 ..).trans (writeCmd.eq_1 ..)⟩
  | ethLinkUp _ _ _ => exact ⟨_, execEthLinkUp.eq_1 ..⟩
  | ethLinkDown _ _ _ _ _ => exact ⟨_, execEthLinkDown.eq_1 ..⟩
  | ethFrameReceive _ _ _ _ _ _ _ => exact ⟨_, execEthFrameReceive.eq_1 ..⟩
  | fdbAgeing _ => exact ⟨_, execFdbAgeing.eq_1 ..⟩
  | fdbReadSlot _ _ => exact ⟨_, (execFdbReadSlot.eq_1 ..).trans (writeCmd.eq_1 ..)⟩
  | fdbWriteStatic _ _ => exact ⟨_, (execFdbWriteStatic.eq_1 ..).trans (writeCmd.eq_1 ..)⟩
  | fdbDelete _ _ => exact ⟨_, (execFdbDelete.eq_1 ..).trans (writeCmd.eq_1 ..)⟩
  | fdbFlushPort _ _ => exact ⟨_, (execFdbFlushPort.eq_1 ..).trans (writeCmd.eq_1 ..)⟩
  | fdbFlushDynamic _ _ => exact ⟨_, (execFdbFlushDynamic.eq_1 ..).trans (writeCmd.eq_1 ..)⟩
  | fdbInvalidOp _ _ => exact ⟨_, (execFdbInvalidOp.eq_1 ..).trans (writeCmd.eq_1 ..)⟩
  | gateEntryChange _ => exact ⟨_, execGateEntryChange.eq_1 ..⟩
  | ethTxStart p ts => exact ⟨_, execEthTxStart.eq_1 p ts s⟩
  | preemption _ _ => exact ⟨_, execPreemption.eq_1 ..⟩
  | preemptVerifyTimeout _ => exact ⟨_, execPreemptVerifyTimeout.eq_1 ..⟩
  | txRingDescriptor _ => exact ⟨_, execTxRingDescriptor.eq_1 ..⟩
  | lpiEntry _ => exact ⟨_, execLpiEntry.eq_1 ..⟩
  | lpiWake _ => exact ⟨_, execLpiWake.eq_1 ..⟩
  | syncTx _ _ => exact ⟨_, execSyncTx.eq_1 ..⟩
  | followUpTx _ _ => exact ⟨_, execFollowUpTx.eq_1 ..⟩
  | delayRespTx _ => exact ⟨_, execDelayRespTx.eq_1 ..⟩
  | delayReqTx _ => exact ⟨_, execDelayReqTx.eq_1 ..⟩
  | pdelayReqTx _ => exact ⟨_, execPdelayReqTx.eq_1 ..⟩
  | pdelayLost _ => exact ⟨_, execPdelayLost.eq_1 ..⟩
  | nofuTimeout _ => exact ⟨_, execNofuTimeout.eq_1 ..⟩
  | domainValidTimeout _ => exact ⟨_, execDomainValidTimeout.eq_1 ..⟩
  | servoResetCmd _ _ _ => exact ⟨_, (execServoResetCmd.eq_1 ..).trans (writeCmd.eq_1 ..)⟩
  | parentPortWrite _ _ _ => exact ⟨_, (execParentPortWrite.eq_1 ..).trans (writeCmd.eq_1 ..)⟩
  | ptpStepHoldExpiry _ => exact ⟨_, execPtpStepHoldExpiry.eq_1 ..⟩
  | refMeasurement _ _ _ _ => exact ⟨_, execRefMeasurement.eq_1 ..⟩
  | refActivityLoss _ => exact ⟨_, execRefActivityLoss.eq_1 ..⟩
  | lockDeclare => exact ⟨_, execLockDeclare.eq_1 ..⟩
  | freerunReturn => exact ⟨_, execFreerunReturn.eq_1 ..⟩
  | holdoverExpiry => exact ⟨_, execHoldoverExpiry.eq_1 ..⟩
  | slewComplete => exact ⟨_, execSlewComplete.eq_1 ..⟩
  | kilnPhaseStepWrite _ _ => exact ⟨_, (execKilnPhaseStepWrite.eq_1 ..).trans (writeCmd.eq_1 ..)⟩
  | kilnSlewMaxWrite _ _ => exact ⟨_, (execKilnSlewMaxWrite.eq_1 ..).trans (writeCmd.eq_1 ..)⟩
  | kilnRefConfigWrite _ _ _ _ => exact ⟨_, (execKilnRefConfigWrite.eq_1 ..).trans (writeCmd.eq_1 ..)⟩
  | kilnAlignCmd _ _ => exact ⟨_, (execKilnAlignCmd.eq_1 ..).trans (writeCmd.eq_1 ..)⟩
  | twinAgreementRx _ _ => exact ⟨_, execTwinAgreementRx.eq_1 ..⟩
  | twinMirrorRx _ _ => exact ⟨_, execTwinMirrorRx.eq_1 ..⟩
  | twinControlRx _ _ _ _ _ => exact ⟨_, execTwinControlRx.eq_1 ..⟩
  | twinTransferRx _ _ => exact ⟨_, execTwinTransferRx.eq_1 ..⟩
  | twinXferCtrlRx _ _ => exact ⟨_, execTwinXferCtrlRx.eq_1 ..⟩
  | twinAckRx _ => exact ⟨_, execTwinAckRx.eq_1 ..⟩
  | twinAckTx => exact ⟨_, execTwinAckTx.eq_1 ..⟩
  | twinRetransmit => exact ⟨_, execTwinRetransmit.eq_1 ..⟩
  | rejoinRequest => exact ⟨_, execRejoinRequest.eq_1 ..⟩
  | rejoinTimeout => exact ⟨_, execRejoinTimeout.eq_1 ..⟩
  | twinRejoinCmd _ _ => exact ⟨_, (execTwinRejoinCmd.eq_1 ..).trans (writeCmd.eq_1 ..)⟩
  | twinYieldCmd _ _ => exact ⟨_, (execTwinYieldCmd.eq_1 ..).trans (writeCmd.eq_1 ..)⟩
  | caskTrainingDone _ _ => exact ⟨_, execCaskTrainingDone.eq_1 ..⟩
  | caskEccFillDone _ => exact ⟨_, execCaskEccFillDone.eq_1 ..⟩
  | caskRefresh _ => exact ⟨_, execCaskRefresh.eq_1 ..⟩
  | caskTempPoll _ _ => exact ⟨_, execCaskTempPoll.eq_1 ..⟩
  | caskRetrain k => exact ⟨_, execCaskRetrain.eq_1 k s⟩
  | caskZqCal k => exact ⟨_, execCaskZqCal.eq_1 k s⟩
  | caskScrubRead _ _ => exact ⟨_, execCaskScrubRead.eq_1 ..⟩
  | captureWrite _ => exact ⟨_, execCaptureWrite.eq_1 ..⟩
  | captureLate _ => exact ⟨_, execCaptureLate.eq_1 ..⟩
  | playbackFetch _ _ => exact ⟨_, execPlaybackFetch.eq_1 ..⟩
  | playbackLate _ => exact ⟨_, execPlaybackLate.eq_1 ..⟩
  | twcSendByte _ _ => exact ⟨_, execTwcSendByte.eq_1 ..⟩
  | twcReceiveByte _ _ => exact ⟨_, execTwcReceiveByte.eq_1 ..⟩
  | twcWriteByte _ _ => exact ⟨_, execTwcWriteByte.eq_1 ..⟩
  | twcReadByte _ _ => exact ⟨_, execTwcReadByte.eq_1 ..⟩
  | twcWriteWord _ _ => exact ⟨_, execTwcWriteWord.eq_1 ..⟩
  | twcReadWord _ _ => exact ⟨_, execTwcReadWord.eq_1 ..⟩
  | twcProcessCall _ _ => exact ⟨_, execTwcProcessCall.eq_1 ..⟩
  | twcBlockWrite _ _ => exact ⟨_, execTwcBlockWrite.eq_1 ..⟩
  | twcBlockRead _ _ => exact ⟨_, execTwcBlockRead.eq_1 ..⟩
  | twcI2cWrite _ _ => exact ⟨_, execTwcI2cWrite.eq_1 ..⟩
  | twcI2cWriteRead _ _ => exact ⟨_, execTwcI2cWriteRead.eq_1 ..⟩
  | twcI2cRead _ _ => exact ⟨_, execTwcI2cRead.eq_1 ..⟩
  | twcRefusedKind _ => exact ⟨_, execTwcRefusedKind.eq_1 ..⟩
  | stretchTimeout _ => exact ⟨_, execStretchTimeout.eq_1 ..⟩
  | sclStuck _ => exact ⟨_, execSclStuck.eq_1 ..⟩
  | busError _ => exact ⟨_, execBusError.eq_1 ..⟩
  | twcResetCmd _ _ _ _ => exact ⟨_, execTwcResetCmd.eq_1 ..⟩
  | sdaStuckDetect _ _ => exact ⟨_, execSdaStuckDetect.eq_1 ..⟩
  | seqEntryRun _ _ => exact ⟨_, execSeqEntryRun.eq_1 ..⟩
  | perfClear _ _ => exact ⟨_, (execPerfClear.eq_1 ..).trans (writeCmd.eq_1 ..)⟩
  | perfCntWrite _ _ _ => exact ⟨_, (execPerfCntWrite.eq_1 ..).trans (writeCmd.eq_1 ..)⟩
  | perfCntRead _ => exact ⟨_, execPerfCntRead.eq_1 ..⟩
  | perfBwCfgWrite _ _ _ => exact ⟨_, (execPerfBwCfgWrite.eq_1 ..).trans (writeCmd.eq_1 ..)⟩
  | perfTagCfgWrite _ _ _ => exact ⟨_, (execPerfTagCfgWrite.eq_1 ..).trans (writeCmd.eq_1 ..)⟩
  | tagCountdownExpiry _ => exact ⟨_, execTagCountdownExpiry.eq_1 ..⟩
  | perfDumpCtlWrite _ _ => exact ⟨_, (execPerfDumpCtlWrite.eq_1 ..).trans (writeCmd.eq_1 ..)⟩
  | dumpRecordWritten => exact ⟨_, execDumpRecordWritten.eq_1 ..⟩
  | flRead _ _ => exact ⟨_, (execFlRead.eq_1 ..).trans (flashCmd.eq_1 ..)⟩
  | flProgram _ _ => exact ⟨_, (execFlProgram.eq_1 ..).trans (flashCmd.eq_1 ..)⟩
  | flErase4k _ _ => exact ⟨_, (execFlErase4k.eq_1 ..).trans (flashCmd.eq_1 ..)⟩
  | flErase64k _ _ => exact ⟨_, (execFlErase64k.eq_1 ..).trans (flashCmd.eq_1 ..)⟩
  | flReadStatus _ _ _ => exact ⟨_, (execFlReadStatus.eq_1 ..).trans (flashCmd.eq_1 ..)⟩
  | flInvalidOp _ _ => exact ⟨_, (execFlInvalidOp.eq_1 ..).trans (flashCmd.eq_1 ..)⟩
  | flOpComplete _ => exact ⟨_, execFlOpComplete.eq_1 ..⟩
  | pcieLinkDown => exact ⟨_, execPcieLinkDown.eq_1 ..⟩
  | ethTxFrameSent _ => exact ⟨_, execEthTxFrameSent.eq_1 ..⟩
  | rxLpiChange _ _ => exact ⟨_, execRxLpiChange.eq_1 ..⟩
  | ocfltDeassert _ => exact ⟨_, execOcfltDeassert.eq_1 ..⟩
  | twinPeerActChange _ => exact ⟨_, execTwinPeerActChange.eq_1 ..⟩

/-- Every command keeps the canonical forms, the fault queue's form, the fuses and the commands that wait. -/
theorem exec_keeps {i : Instr} {s t : State} (e : exec i s = .next t) : Keeps s t := by
  cases i with
  | resetNAssert => exact execResetNAssert_keeps (.refl s) e
  | powerOnDetect => exact execPowerOnDetect_keeps (.refl s) e
  | softwareReset _ _ => exact execSoftwareReset_keeps (.refl s) e
  | resetRelease _ _ _ _ _ _ _ => exact execResetRelease_keeps (.refl s) e
  | loadComplete => exact execLoadComplete_keeps (.refl s) e
  | checkComplete _ _ => exact execCheckComplete_keeps (.refl s) e
  | prepareSection _ => exact execPrepareSection_keeps (.refl s) e
  | periodBoundary => exact execPeriodBoundary_keeps (.refl s) e
  | sysTimeCapture _ _ => exact execSysTimeCapture_keeps (.refl s) e
  | standbyEnterCmd _ _ => exact execStandbyEnterCmd_keeps (.refl s) e
  | wakeNEvent => exact execWakeNEvent_keeps (.refl s) e
  | twtStandbyWake _ => exact execTwtStandbyWake_keeps (.refl s) e
  | staleMark => exact execStaleMark_keeps (.refl s) e
  | sysTempMeasure _ => exact execSysTempMeasure_keeps (.refl s) e
  | pcieLinkUp _ _ _ => exact execPcieLinkUp_keeps (.refl s) e
  | registerWrite _ _ _ _ => exact execRegisterWrite_keeps (.refl s) e
  | hifCtrlWrite _ _ => exact execHifCtrlWrite_keeps (.refl s) e
  | commit _ _ _ => exact execCommit_keeps (.refl s) e
  | commitCancel _ _ _ => exact execCommitCancel_keeps (.refl s) e
  | bar2Read _ _ => exact execBar2Read_keeps (.refl s) e
  | bar2Write _ _ => exact execBar2Write_keeps (.refl s) e
  | atomicFetchadd _ _ _ _ => exact execAtomicFetchadd_keeps (.refl s) e
  | atomicSwap _ _ _ _ => exact execAtomicSwap_keeps (.refl s) e
  | atomicCas _ _ _ _ _ => exact execAtomicCas_keeps (.refl s) e
  | twtSetPointer _ => exact execTwtSetPointer_keeps (.refl s) e
  | twtWriteBlock _ _ => exact execTwtWriteBlock_keeps (.refl s) e
  | twtReadWord => exact execTwtReadWord_keeps (.refl s) e
  | twtReadBlock => exact execTwtReadBlock_keeps (.refl s) e
  | twtReadStatus => exact execTwtReadStatus_keeps (.refl s) e
  | twtInvalidCommand _ _ => exact execTwtInvalidCommand_keeps (.refl s) e
  | twtAbandon _ => exact execTwtAbandon_keeps (.refl s) e
  | twtSclTimeout => exact execTwtSclTimeout_keeps (.refl s) e
  | inbandWrite _ _ _ => exact execInbandWrite_keeps (.refl s) e
  | inbandRead _ _ _ => exact execInbandRead_keeps (.refl s) e
  | inbandAnswer _ => exact execInbandAnswer_keeps (.refl s) e
  | ptpDomOfsRead _ => exact execPtpDomOfsRead_keeps (.refl s) e
  | kilnPendRead => exact execKilnPendRead_keeps (.refl s) e
  | twinDigRead => exact execTwinDigRead_keeps (.refl s) e
  | caskEccAddrRead => exact execCaskEccAddrRead_keeps (.refl s) e
  | fltMemAddrRead => exact execFltMemAddrRead_keeps (.refl s) e
  | fltPop _ _ => exact execFltPop_keeps (.refl s) e
  | mgpDrainPop => exact execMgpDrainPop_keeps (.refl s) e
  | safeReleaseCmd _ _ => exact execSafeReleaseCmd_keeps (.refl s) e
  | hostWdogWrite _ _ => exact execHostWdogWrite_keeps (.refl s) e
  | hostWdogKick _ _ => exact execHostWdogKick_keeps (.refl s) e
  | hostWdogExpiry => exact execHostWdogExpiry_keeps (.refl s) e
  | mgpWdogExpiry => exact execMgpWdogExpiry_keeps (.refl s) e
  | mgpRestartCmd _ _ => exact execMgpRestartCmd_keeps (.refl s) e
  | mbPop _ _ => exact execMbPop_keeps (.refl s) e
  | mbGo _ _ => exact execMbGo_keeps (.refl s) e
  | mbIdentify => exact execMbIdentify_keeps (.refl s) e
  | mbSetClockAttr => exact execMbSetClockAttr_keeps (.refl s) e
  | mbReadClockState _ _ _ _ => exact execMbReadClockState_keeps (.refl s) e
  | mbUnknownType => exact execMbUnknownType_keeps (.refl s) e
  | mbPtpPortState _ _ _ _ => exact execMbPtpPortState_keeps (.refl s) e
  | mbEeeWakeTime _ _ => exact execMbEeeWakeTime_keeps (.refl s) e
  | rapidTransaction _ _ _ => exact execRapidTransaction_keeps (.refl s) e
  | lockedSequence _ _ => exact execLockedSequence_keeps (.refl s) e
  | lockBreak _ _ _ => exact execLockBreak_keeps (.refl s) e
  | allowanceExpiry _ => exact execAllowanceExpiry_keeps (.refl s) e
  | pwrWarnAssert => exact execPwrWarnAssert_keeps (.refl s) e
  | pwrWarnDeassert => exact execPwrWarnDeassert_keeps (.refl s) e
  | sendPoint => exact execSendPoint_keeps (.refl s) e
  | returnPoint => exact execReturnPoint_keeps (.refl s) e
  | sliceTimer _ _ => exact execSliceTimer_keeps (.refl s) e
  | level1EventEntry _ => exact execLevel1EventEntry_keeps (.refl s) e
  | level2EventEntry _ => exact execLevel2EventEntry_keeps (.refl s) e
  | headerWrite _ => exact execHeaderWrite_keeps (.refl s) e
  | coreHalt _ _ _ => exact execCoreHalt_keeps (.refl s) e
  | coreResume _ _ _ => exact execCoreResume_keeps (.refl s) e
  | coreStep _ _ _ => exact execCoreStep_keeps (.refl s) e
  | breakpointMatch _ => exact execBreakpointMatch_keeps (.refl s) e
  | coreDbgDataAccess _ _ _ => exact execCoreDbgDataAccess_keeps (.refl s) e
  | coreRestartCmd _ _ _ => exact execCoreRestartCmd_keeps (.refl s) e
  | corePwinWrite _ _ _ _ => exact execCorePwinWrite_keeps (.refl s) e
  | paramCopyDone _ => exact execParamCopyDone_keeps (.refl s) e
  | beDmaStart _ => exact execBeDmaStart_keeps (.refl s) e
  | dmaTransferDone _ _ => exact execDmaTransferDone_keeps (.refl s) e
  | mboxInWrite _ _ _ _ => exact execMboxInWrite_keeps (.refl s) e
  | mboxInAck _ => exact execMboxInAck_keeps (.refl s) e
  | mboxOutCopy _ => exact execMboxOutCopy_keeps (.refl s) e
  | add _ _ _ _ _ _ => exact execAdd_keeps (.refl s) e
  | sub _ _ _ _ _ _ => exact execSub_keeps (.refl s) e
  | neg _ _ _ _ _ => exact execNeg_keeps (.refl s) e
  | abs _ _ _ _ _ => exact execAbs_keeps (.refl s) e
  | min _ _ _ _ _ => exact execMin_keeps (.refl s) e
  | max _ _ _ _ _ => exact execMax_keeps (.refl s) e
  | minu _ _ _ _ _ => exact execMinu_keeps (.refl s) e
  | maxu _ _ _ _ _ => exact execMaxu_keeps (.refl s) e
  | and _ _ _ _ _ => exact execAnd_keeps (.refl s) e
  | or _ _ _ _ _ => exact execOr_keeps (.refl s) e
  | xor _ _ _ _ _ => exact execXor_keeps (.refl s) e
  | not _ _ _ _ => exact execNot_keeps (.refl s) e
  | lsl _ _ _ _ _ => exact execLsl_keeps (.refl s) e
  | lsr _ _ _ _ _ => exact execLsr_keeps (.refl s) e
  | asr _ _ _ _ _ => exact execAsr_keeps (.refl s) e
  | asl _ _ _ _ _ _ => exact execAsl_keeps (.refl s) e
  | ror _ _ _ _ _ => exact execRor_keeps (.refl s) e
  | cls _ _ _ _ => exact execCls_keeps (.refl s) e
  | clz _ _ _ _ => exact execClz_keeps (.refl s) e
  | cmp _ _ _ _ => exact execCmp_keeps (.refl s) e
  | cmpu _ _ _ _ => exact execCmpu_keeps (.refl s) e
  | sel _ _ _ _ _ _ => exact execSel_keeps (.refl s) e
  | mov _ _ _ _ => exact execMov_keeps (.refl s) e
  | addi _ _ _ _ _ _ => exact execAddi_keeps (.refl s) e
  | andi _ _ _ _ _ => exact execAndi_keeps (.refl s) e
  | ori _ _ _ _ _ => exact execOri_keeps (.refl s) e
  | xori _ _ _ _ _ => exact execXori_keeps (.refl s) e
  | lsli _ _ _ _ _ => exact execLsli_keeps (.refl s) e
  | lsri _ _ _ _ _ => exact execLsri_keeps (.refl s) e
  | asri _ _ _ _ _ => exact execAsri_keeps (.refl s) e
  | asli _ _ _ _ _ _ => exact execAsli_keeps (.refl s) e
  | bfx _ _ _ _ _ _ _ => exact execBfx_keeps (.refl s) e
  | bfi _ _ _ _ _ _ => exact execBfi_keeps (.refl s) e
  | movi _ _ _ _ => exact execMovi_keeps (.refl s) e
  | movhi _ _ _ _ => exact execMovhi_keeps (.refl s) e
  | cmpi _ _ _ _ => exact execCmpi_keeps (.refl s) e
  | mfc _ _ _ _ => exact execMfc_keeps (.refl s) e
  | mtc _ _ _ _ => exact execMtc_keeps (.refl s) e
  | addp _ _ _ _ => exact execAddp_keeps (.refl s) e
  | ldW _ _ _ _ _ _ _ => exact execLdW_keeps (.refl s) e
  | ldD _ _ _ _ _ _ _ => exact execLdD_keeps (.refl s) e
  | ldH _ _ _ _ _ _ _ => exact execLdH_keeps (.refl s) e
  | ldHs _ _ _ _ _ _ _ => exact execLdHs_keeps (.refl s) e
  | stW _ _ _ _ _ _ _ => exact execStW_keeps (.refl s) e
  | stD _ _ _ _ _ _ _ => exact execStD_keeps (.refl s) e
  | stH _ _ _ _ _ _ _ _ => exact execStH_keeps (.refl s) e
  | lda _ _ _ _ _ _ _ => exact execLda_keeps (.refl s) e
  | sta _ _ _ _ _ _ _ _ => exact execSta_keeps (.refl s) e
  | sava _ _ _ _ _ _ _ => exact execSava_keeps (.refl s) e
  | rsta _ _ _ _ _ _ _ => exact execRsta_keeps (.refl s) e
  | mpy _ _ _ _ _ _ => exact execMpy_keeps (.refl s) e
  | mac _ _ _ _ _ _ => exact execMac_keeps (.refl s) e
  | msu _ _ _ _ _ _ => exact execMsu_keeps (.refl s) e
  | mpysu _ _ _ _ _ _ => exact execMpysu_keeps (.refl s) e
  | macsu _ _ _ _ _ _ => exact execMacsu_keeps (.refl s) e
  | macuu _ _ _ _ _ _ => exact execMacuu_keeps (.refl s) e
  | mull _ _ _ _ _ _ => exact execMull_keeps (.refl s) e
  | clra _ _ _ => exact execClra_keeps (.refl s) e
  | adda _ _ _ _ => exact execAdda_keeps (.refl s) e
  | suba _ _ _ _ => exact execSuba_keeps (.refl s) e
  | nega _ _ _ => exact execNega_keeps (.refl s) e
  | sha _ _ _ _ _ => exact execSha_keeps (.refl s) e
  | ext _ _ _ _ _ _ => exact execExt_keeps (.refl s) e
  | mval _ _ _ _ => exact execMval_keeps (.refl s) e
  | mvah _ _ _ _ => exact execMvah_keeps (.refl s) e
  | mvag _ _ _ _ => exact execMvag_keeps (.refl s) e
  | mova _ _ _ _ => exact execMova_keeps (.refl s) e
  | tapm _ _ _ _ _ => exact execTapm_keeps (.refl s) e
  | tapmZ _ _ _ _ _ => exact execTapmZ_keeps (.refl s) e
  | fadd _ _ _ _ _ _ _ => exact execFadd_keeps (.refl s) e
  | fsub _ _ _ _ _ _ _ => exact execFsub_keeps (.refl s) e
  | fmul _ _ _ _ _ _ _ => exact execFmul_keeps (.refl s) e
  | fma _ _ _ _ _ _ _ _ => exact execFma_keeps (.refl s) e
  | fms _ _ _ _ _ _ _ _ => exact execFms_keeps (.refl s) e
  | fmin _ _ _ _ _ _ _ => exact execFmin_keeps (.refl s) e
  | fmax _ _ _ _ _ _ _ => exact execFmax_keeps (.refl s) e
  | fabs _ _ _ _ _ => exact execFabs_keeps (.refl s) e
  | fneg _ _ _ _ _ => exact execFneg_keeps (.refl s) e
  | fcmp _ _ _ _ => exact execFcmp_keeps (.refl s) e
  | fcvtqf _ _ _ _ _ _ => exact execFcvtqf_keeps (.refl s) e
  | fcvtfq _ _ _ _ _ => exact execFcvtfq_keeps (.refl s) e
  | fcvtif _ _ _ _ _ _ => exact execFcvtif_keeps (.refl s) e
  | fcvtfi _ _ _ _ _ => exact execFcvtfi_keeps (.refl s) e
  | frcp _ _ _ _ _ _ => exact execFrcp_keeps (.refl s) e
  | frsq _ _ _ _ _ _ => exact execFrsq_keeps (.refl s) e
  | br _ _ _ _ => exact execBr_keeps (.refl s) e
  | call _ _ _ => exact execCall_keeps (.refl s) e
  | ret _ _ => exact execRet_keeps (.refl s) e
  | brr _ _ _ => exact execBrr_keeps (.refl s) e
  | nop _ _ => exact execNop_keeps (.refl s) e
  | loop _ _ _ _ => exact execLoop_keeps (.refl s) e
  | loopr _ _ _ _ => exact execLoopr_keeps (.refl s) e
  | brk _ _ => exact execBrk_keeps (.refl s) e
  | rte1 _ _ => exact execRte1_keeps (.refl s) e
  | rte2 _ _ => exact execRte2_keeps (.refl s) e
  | idle _ _ => exact execIdle_keeps (.refl s) e
  | fence _ _ => exact execFence_keeps (.refl s) e
  | illegalInstruction _ _ => exact execIllegalInstruction_keeps (.refl s) e
  | tdmFrame _ _ _ _ _ _ _ => exact execTdmFrame_keeps (.refl s) e
  | tdmClockLoss _ => exact execTdmClockLoss_keeps (.refl s) e
  | bridgeLock _ _ => exact execBridgeLock_keeps (.refl s) e
  | domainSynthLock _ => exact execDomainSynthLock_keeps (.refl s) e
  | domainSynthUnlock _ => exact execDomainSynthUnlock_keeps (.refl s) e
  | carrierCycle _ => exact execCarrierCycle_keeps (.refl s) e
  | ocfltAssert _ => exact execOcfltAssert_keeps (.refl s) e
  | railConversion _ _ => exact execRailConversion_keeps (.refl s) e
  | bootComplete _ => exact execBootComplete_keeps (.refl s) e
  | settleComplete _ => exact execSettleComplete_keeps (.refl s) e
  | stopComplete _ => exact execStopComplete_keeps (.refl s) e
  | retryStart _ => exact execRetryStart_keeps (.refl s) e
  | retryWindowEnd _ => exact execRetryWindowEnd_keeps (.refl s) e
  | retryCountReset _ => exact execRetryCountReset_keeps (.refl s) e
  | pwmClearCmd _ _ _ => exact execPwmClearCmd_keeps (.refl s) e
  | ethLinkUp _ _ _ => exact execEthLinkUp_keeps (.refl s) e
  | ethLinkDown _ _ _ _ _ => exact execEthLinkDown_keeps (.refl s) e
  | ethFrameReceive _ _ _ _ _ _ _ => exact execEthFrameReceive_keeps (.refl s) e
  | fdbAgeing _ => exact execFdbAgeing_keeps (.refl s) e
  | fdbReadSlot _ _ => exact execFdbReadSlot_keeps (.refl s) e
  | fdbWriteStatic _ _ => exact execFdbWriteStatic_keeps (.refl s) e
  | fdbDelete _ _ => exact execFdbDelete_keeps (.refl s) e
  | fdbFlushPort _ _ => exact execFdbFlushPort_keeps (.refl s) e
  | fdbFlushDynamic _ _ => exact execFdbFlushDynamic_keeps (.refl s) e
  | fdbInvalidOp _ _ => exact execFdbInvalidOp_keeps (.refl s) e
  | gateEntryChange _ => exact execGateEntryChange_keeps (.refl s) e
  | ethTxStart p ts => exact execEthTxStart_keeps (p := p) (ts := ts) (.refl s) e
  | preemption _ _ => exact execPreemption_keeps (.refl s) e
  | preemptVerifyTimeout _ => exact execPreemptVerifyTimeout_keeps (.refl s) e
  | txRingDescriptor _ => exact execTxRingDescriptor_keeps (.refl s) e
  | lpiEntry _ => exact execLpiEntry_keeps (.refl s) e
  | lpiWake _ => exact execLpiWake_keeps (.refl s) e
  | syncTx _ _ => exact execSyncTx_keeps (.refl s) e
  | followUpTx _ _ => exact execFollowUpTx_keeps (.refl s) e
  | delayRespTx _ => exact execDelayRespTx_keeps (.refl s) e
  | delayReqTx _ => exact execDelayReqTx_keeps (.refl s) e
  | pdelayReqTx _ => exact execPdelayReqTx_keeps (.refl s) e
  | pdelayLost _ => exact execPdelayLost_keeps (.refl s) e
  | nofuTimeout _ => exact execNofuTimeout_keeps (.refl s) e
  | domainValidTimeout _ => exact execDomainValidTimeout_keeps (.refl s) e
  | servoResetCmd _ _ _ => exact execServoResetCmd_keeps (.refl s) e
  | parentPortWrite _ _ _ => exact execParentPortWrite_keeps (.refl s) e
  | ptpStepHoldExpiry _ => exact execPtpStepHoldExpiry_keeps (.refl s) e
  | refMeasurement _ _ _ _ => exact execRefMeasurement_keeps (.refl s) e
  | refActivityLoss _ => exact execRefActivityLoss_keeps (.refl s) e
  | lockDeclare => exact execLockDeclare_keeps (.refl s) e
  | freerunReturn => exact execFreerunReturn_keeps (.refl s) e
  | holdoverExpiry => exact execHoldoverExpiry_keeps (.refl s) e
  | slewComplete => exact execSlewComplete_keeps (.refl s) e
  | kilnPhaseStepWrite _ _ => exact execKilnPhaseStepWrite_keeps (.refl s) e
  | kilnSlewMaxWrite _ _ => exact execKilnSlewMaxWrite_keeps (.refl s) e
  | kilnRefConfigWrite _ _ _ _ => exact execKilnRefConfigWrite_keeps (.refl s) e
  | kilnAlignCmd _ _ => exact execKilnAlignCmd_keeps (.refl s) e
  | twinAgreementRx _ _ => exact execTwinAgreementRx_keeps (.refl s) e
  | twinMirrorRx _ _ => exact execTwinMirrorRx_keeps (.refl s) e
  | twinControlRx _ _ _ _ _ => exact execTwinControlRx_keeps (.refl s) e
  | twinTransferRx _ _ => exact execTwinTransferRx_keeps (.refl s) e
  | twinXferCtrlRx _ _ => exact execTwinXferCtrlRx_keeps (.refl s) e
  | twinAckRx _ => exact execTwinAckRx_keeps (.refl s) e
  | twinAckTx => exact execTwinAckTx_keeps (.refl s) e
  | twinRetransmit => exact execTwinRetransmit_keeps (.refl s) e
  | rejoinRequest => exact execRejoinRequest_keeps (.refl s) e
  | rejoinTimeout => exact execRejoinTimeout_keeps (.refl s) e
  | twinRejoinCmd _ _ => exact execTwinRejoinCmd_keeps (.refl s) e
  | twinYieldCmd _ _ => exact execTwinYieldCmd_keeps (.refl s) e
  | caskTrainingDone _ _ => exact execCaskTrainingDone_keeps (.refl s) e
  | caskEccFillDone _ => exact execCaskEccFillDone_keeps (.refl s) e
  | caskRefresh _ => exact execCaskRefresh_keeps (.refl s) e
  | caskTempPoll _ _ => exact execCaskTempPoll_keeps (.refl s) e
  | caskRetrain _ => exact execCaskRetrain_keeps (x0 := 0) (.refl s) e
  | caskZqCal _ => exact execCaskZqCal_keeps (x0 := 0) (.refl s) e
  | caskScrubRead _ _ => exact execCaskScrubRead_keeps (.refl s) e
  | captureWrite _ => exact execCaptureWrite_keeps (.refl s) e
  | captureLate _ => exact execCaptureLate_keeps (.refl s) e
  | playbackFetch _ _ => exact execPlaybackFetch_keeps (.refl s) e
  | playbackLate _ => exact execPlaybackLate_keeps (.refl s) e
  | twcSendByte _ _ => exact execTwcSendByte_keeps (.refl s) e
  | twcReceiveByte _ _ => exact execTwcReceiveByte_keeps (.refl s) e
  | twcWriteByte _ _ => exact execTwcWriteByte_keeps (.refl s) e
  | twcReadByte _ _ => exact execTwcReadByte_keeps (.refl s) e
  | twcWriteWord _ _ => exact execTwcWriteWord_keeps (.refl s) e
  | twcReadWord _ _ => exact execTwcReadWord_keeps (.refl s) e
  | twcProcessCall _ _ => exact execTwcProcessCall_keeps (.refl s) e
  | twcBlockWrite _ _ => exact execTwcBlockWrite_keeps (.refl s) e
  | twcBlockRead _ _ => exact execTwcBlockRead_keeps (.refl s) e
  | twcI2cWrite _ _ => exact execTwcI2cWrite_keeps (.refl s) e
  | twcI2cWriteRead _ _ => exact execTwcI2cWriteRead_keeps (.refl s) e
  | twcI2cRead _ _ => exact execTwcI2cRead_keeps (.refl s) e
  | twcRefusedKind _ => exact execTwcRefusedKind_keeps (.refl s) e
  | stretchTimeout _ => exact execStretchTimeout_keeps (.refl s) e
  | sclStuck _ => exact execSclStuck_keeps (.refl s) e
  | busError _ => exact execBusError_keeps (.refl s) e
  | twcResetCmd _ _ _ _ => exact execTwcResetCmd_keeps (.refl s) e
  | sdaStuckDetect _ _ => exact execSdaStuckDetect_keeps (.refl s) e
  | seqEntryRun _ _ => exact execSeqEntryRun_keeps (.refl s) e
  | perfClear _ _ => exact execPerfClear_keeps (.refl s) e
  | perfCntWrite _ _ _ => exact execPerfCntWrite_keeps (.refl s) e
  | perfCntRead _ => exact execPerfCntRead_keeps (.refl s) e
  | perfBwCfgWrite _ _ _ => exact execPerfBwCfgWrite_keeps (.refl s) e
  | perfTagCfgWrite _ _ _ => exact execPerfTagCfgWrite_keeps (.refl s) e
  | tagCountdownExpiry _ => exact execTagCountdownExpiry_keeps (.refl s) e
  | perfDumpCtlWrite _ _ => exact execPerfDumpCtlWrite_keeps (.refl s) e
  | dumpRecordWritten => exact execDumpRecordWritten_keeps (.refl s) e
  | flRead _ _ => exact execFlRead_keeps (.refl s) e
  | flProgram _ _ => exact execFlProgram_keeps (.refl s) e
  | flErase4k _ _ => exact execFlErase4k_keeps (.refl s) e
  | flErase64k _ _ => exact execFlErase64k_keeps (.refl s) e
  | flReadStatus _ _ _ => exact execFlReadStatus_keeps (.refl s) e
  | flInvalidOp _ _ => exact execFlInvalidOp_keeps (.refl s) e
  | flOpComplete _ => exact execFlOpComplete_keeps (.refl s) e
  | pcieLinkDown => exact execPcieLinkDown_keeps (.refl s) e
  | ethTxFrameSent _ => exact execEthTxFrameSent_keeps (.refl s) e
  | rxLpiChange _ _ => exact execRxLpiChange_keeps (.refl s) e
  | ocfltDeassert _ => exact execOcfltDeassert_keeps (.refl s) e
  | twinPeerActChange _ => exact execTwinPeerActChange_keeps (.refl s) e

/-- Every command completes. -/
theorem exec_next (i : Instr) (s : State) : ∃ t, exec i s = .next t := by
  obtain ⟨f, e⟩ := exec_run i s
  exact ⟨_, e⟩

/-- Between commands no raised fault stands outside the queue. -/
theorem exec_raised {i : Instr} {s t : State} (h : s.flt.raised = []) (e : exec i s = .next t) : t.flt.raised = [] := by
  obtain ⟨f, e'⟩ := exec_run i s
  obtain ⟨t', k, r⟩ := Cmd.run_raised f h
  rw [e', k] at e
  cases e
  exact r

/-- A cycle in which no command waits keeps the same. -/
theorem step_keeps_idle {s t : State} (h : s.pending = []) (e : step s = .next t) : Keeps s t := by
  unfold step at e
  rw [h] at e
  cases e
  exact tick_keeps (.refl s)

/-- What a step leaves of the waiting commands, the fuses and the canonical forms. -/
theorem step_keeps {s t : State} {c : Instr} {l : List Instr} (h : s.pending = c :: l) (e : step s = .next t) :
    Keeps { s with pending := l } t := by
  unfold step at e
  rw [h] at e
  exact exec_keeps e

/-- What `Keeps` says of the invariant. -/
theorem Keeps.inv {s t : State} (h : Keeps s t) (r : t.flt.raised = []) (i : s.Inv) : t.Inv := by
  obtain ⟨c, q, _⟩ := i
  simp only [State.canonical, Bool.and_eq_true] at c
  refine ⟨?_, h.queue q, r⟩
  simp only [State.canonical, Bool.and_eq_true]
  exact ⟨⟨⟨h.mem c.1.1.1, h.regs c.1.1.2⟩, h.shadow c.1.2⟩, h.flash c.2⟩

end Sys2Proof.Machine
end

