-- ==== Sys2Proof/Laws/Frame.lean ====
section
/-!
SUPPORT. The laws of frames: what the named updates of the state leave, what a counted event leaves, what time leaves between
commands, and the frame of a command that raises no fault.
-/
namespace Sys2Proof.Machine

/-! ## `Only` -/

theorem Only.refl {ps : List Part} {rs : List Nat} {s : State} : Only ps rs s s :=
  ⟨fun p _ => by cases p <;> rfl, fun _ _ _ => rfl⟩

theorem Part.same_trans {s t u : State} {p : Part} (h : p.same s t) (k : p.same t u) : p.same s u := by
  cases p <;> exact Eq.trans k h

theorem Only.trans {ps : List Part} {rs : List Nat} {s t u : State} (h : Only ps rs s t) (k : Only ps rs t u) : Only ps rs s u :=
  ⟨fun p hp => Part.same_trans (h.parts p hp) (k.parts p hp), fun a ha hc => (k.regs a ha hc).trans (h.regs a ha hc)⟩

/-- A write of a register changes that register alone. -/
theorem Only.setReg {ps : List Part} {rs : List Nat} {s t : State} {a : Nat} {v : Word} (h : Only ps rs s t) (ha : a ∈ rs) :
    Only ps rs s (t.setReg a v) :=
  h.trans ⟨fun p _ => by cases p <;> rfl, fun b hb _ => State.reg_setReg_other (fun e => hb (e ▸ ha))⟩

/-- A write of a field changes its register alone. -/
theorem Only.put {ps : List Part} {rs : List Nat} {s t : State} {l : Loc} {v : Nat} (h : Only ps rs s t) (ha : l.addr ∈ rs) :
    Only ps rs s (t.put l v) := h.setReg ha

theorem Only.mark {ps : List Part} {rs : List Nat} {s t : State} {l : Loc} (h : Only ps rs s t) (ha : l.addr ∈ rs) :
    Only ps rs s (t.mark l) := h.setReg ha

theorem Only.unmark {ps : List Part} {rs : List Nat} {s t : State} {l : Loc} (h : Only ps rs s t) (ha : l.addr ∈ rs) :
    Only ps rs s (t.unmark l) := h.setReg ha

theorem Only.bump {ps : List Part} {rs : List Nat} {s t : State} {l : Loc} {n : Nat} (h : Only ps rs s t) (ha : l.addr ∈ rs) :
    Only ps rs s (t.bump l n) := h.setReg ha

theorem Only.ite {ps : List Part} {rs : List Nat} {s a b : State} {c : Prop} [Decidable c] (x : Only ps rs s a) (y : Only ps rs s b) :
    Only ps rs s (if c then a else b) := by
  split
  · exact x
  · exact y

/-! ## Counting -/

theorem Only.perfAdd {ps : List Part} {rs : List Nat} {s t : State} {i amt : Nat} (h : Only ps rs s t) (hi : i < 128) :
    Only ps rs s (perfAdd t i amt) := by
  have step : ∀ {u : State} {a : Nat} {v : Word}, Only ps rs s u → counterAt a = true → Only ps rs s (u.setReg a v) := by
    intro u a v k ha
    refine k.trans ⟨fun p _ => by cases p <;> rfl, fun b _ hb => State.reg_setReg_other (fun e => ?_)⟩
    rw [e, ha] at hb
    cases hb
  have c1 : ∀ j, j < 129 → counterAt (R.PERF_CNT.reg j) = true := fun j hj => by
    simp only [counterAt, decide_eq_true_eq, R.PERF_CNT.reg]; omega
  have c2 : ∀ j, j < 4 → counterAt (R.PERF_OVF.reg j) = true := fun j hj => by
    simp only [counterAt, decide_eq_true_eq, R.PERF_OVF.reg]; omega
  unfold Machine.perfAdd
  extract_lets a n s1 b m s2
  have h1 : Only ps rs s s1 := step h (c1 i (by omega))
  split
  · exact h1
  · split
    · rename_i e
      have e0 : i % 2 = 0 := by simp only [Bool.and_eq_true, decide_eq_true_eq] at e; exact e.1
      have h2 : Only ps rs s s2 := step h1 (c1 (i + 1) (by omega))
      split
      · exact h2
      · exact step h2 (c2 _ (by omega))
    · exact step h1 (c2 _ (by omega))

/-- A counted event changes counters alone. -/
theorem Only.count {ps : List Part} {rs : List Nat} {s t : State} {ev amt : Nat} (h : Only ps rs s t) :
    Only ps rs s (t.count ev amt) := by
  unfold State.count
  split
  · exact h
  · have key : ∀ (l : List Nat) (u : State), (∀ i ∈ l, i < 128) → Only ps rs s u → Only ps rs s (l.foldl (fun s i =>
        if s.get (R.PERF_EVSEL.event i) = ev && !(i % 2 = 1 && s.flag (R.PERF_EVSEL.chain i)) then
          Machine.perfAdd s i (if s.flag (R.PERF_EVSEL.thr_en i) then bit (s.get (R.PERF_EVSEL.thr i) < amt) else amt)
        else s) u) := by
      intro l
      induction l with
      | nil => exact fun _ _ h => h
      | cons i l ih =>
        intro u hl hu
        refine ih _ (fun j hj => hl j (List.mem_cons_of_mem _ hj)) ?_
        exact .ite (hu.perfAdd (hl i List.mem_cons_self)) hu
    exact key _ t (fun i hi => List.mem_range.mp hi) h

/-- A counted event leaves every register but the counters. -/
theorem State.reg_count {s : State} {ev amt a : Nat} (h : counterAt a = false) : (s.count ev amt).reg a = s.reg a :=
  (Only.count (ps := []) (rs := []) .refl).regs a (by simp) h

/-! ## Commands -/

/-- The frame of a command that raises no fault: what its effect leaves, the command leaves. -/
theorem Cmd.run_only {f : State → State} {s : State} (on : s.on) (h : (f s.begin).flt.raised = []) : ∃ t, Cmd.run f s = .next t
    ∧ Only [] [] (f s.begin) t ∧ t.regs = (f s.begin).regs := by
  obtain ⟨x, o, e⟩ := Cmd.run_quiet on h
  refine ⟨_, e, ⟨fun p _ => by cases p <;> rfl, fun _ _ _ => rfl⟩, rfl⟩

/-- What the outputs of the command before do not touch. -/
theorem Only.ofBegin {ps : List Part} {rs : List Nat} {s t : State} (h : Only ps rs s.begin t) : Only ps rs s t :=
  Only.trans (t := s.begin) ⟨fun p _ => by cases p <;> rfl, fun _ _ _ => rfl⟩ h

/-! ## Time between commands -/

/-- The counting of time changes counters alone. -/
theorem perfTime_shape (s : State) (dt : Nat) : ∃ r, perfTime s dt = { s with regs := r } := by
  unfold perfTime
  split
  · exact ⟨s.regs, rfl⟩
  · generalize List.range 128 = l
    have key : ∀ u : State, (∃ r, u = { s with regs := r }) → ∃ r, l.foldl (fun s' i =>
        if i % 2 = 1 && s'.flag (R.PERF_EVSEL.chain i) then s'
        else match timeEvent s' (s'.get (R.PERF_EVSEL.event i)) with
          | none => s'
          | some (amt, div) =>
            let per := if s'.flag (R.PERF_EVSEL.thr_en i) then bit (Nat.blt (s'.get (R.PERF_EVSEL.thr i)) amt) else amt
            let n := per * ((s'.sys.up + dt) / div - s'.sys.up / div)
            if n = 0 then s' else perfAdd s' i n) u = { s with regs := r } := by
      induction l with
      | nil => exact fun u h => h
      | cons i t ih =>
        rintro _ ⟨r, rfl⟩
        refine ih _ ?_
        dsimp only
        split
        · exact ⟨r, rfl⟩
        · split
          · exact ⟨r, rfl⟩
          · have add : ∀ n, ∃ r', (if n = 0 then { s with regs := r } else perfAdd { s with regs := r } i n)
                = { s with regs := r' } := by
              intro n
              split
              · exact ⟨r, rfl⟩
              · exact perfAdd_shape { s with regs := r } i n
            exact add _
    exact key s ⟨s.regs, rfl⟩

/-- The pulses that begin change what is put out and what Kiln waits for. -/
theorem pulsesDue_shape (s : State) : ∃ k o, pulsesDue s = { s with kiln := k, out := o } := by
  have key : ∀ (f : State → State), (∀ u, ∃ o, f u = { u with out := o }) → ∀ (l : List Nat) (u : State),
      ∃ o, l.foldl (fun s _ => f s) u = { u with out := o } := by
    intro f hf l
    induction l with
    | nil => exact fun u => ⟨u.out, rfl⟩
    | cons x t ih =>
      intro u
      obtain ⟨o, h⟩ := hf u
      obtain ⟨o', h'⟩ := ih { u with out := o }
      exact ⟨o', by rw [List.foldl_cons, h, h']⟩
  have emitted : ∀ (u : State) (c : Bool) (x : Out), ∃ o, (if c then u.emit x else u) = { u with out := o } := by
    intro u c x
    cases c
    · exact ⟨u.out, rfl⟩
    · exact ⟨_, rfl⟩
  unfold pulsesDue
  extract_lets now a b k s1
  obtain ⟨o, h⟩ := key poutPulse (fun u => emitted u _ _) a s1
  obtain ⟨o', h'⟩ := key ppsPulse (fun u => emitted u _ _) b { s1 with out := o }
  exact ⟨s1.kiln, o', by simp only [h, h']; rfl⟩

/-- A cycle of CLK_PER between commands raises no fault. -/
theorem tick_raised (s : State) : (tick s).flt.raised = s.flt.raised := by
  unfold tick
  split
  · rfl
  · obtain ⟨r, h⟩ := perfTime_shape (({ s with out := [] } : State).unmark R.SYS_TIME_CAP.capture) 8
    simp only [h]
    obtain ⟨k, o, h'⟩ := pulsesDue_shape { (({ s with out := [] } : State).unmark R.SYS_TIME_CAP.capture) with
      regs := r, sys := { s.sys with et := s.sys.et + 8, up := s.sys.up + 8 } }
    simp only [State.unmark_sys] at h' ⊢
    rw [h']
    rfl

end Sys2Proof.Machine
end

