-- ==== Sys2Proof/WellFormed.lean ====
section
/-!
DEFINITION. Which terms of `Instr` are commands: the operands that the type admits and the hardware has no such command for: a term
that is not well formed is none that the hardware has, and no statement says what it does.
-/
namespace Sys2Proof

/-- A locked sequence is of at least two transactions, each of 1 to 64 bytes within one line (R334, R337). -/
def seqOk (bs : List Beat) : Bool := Nat.ble 2 bs.length && bs.all Beat.ok

/-- An AtomicOp's operand is naturally aligned (R356). -/
def atomicOk (w : BitVec 24) (wide : Bool) : Bool := w.toNat % (if wide then 8 else 4) == 0

/-- The well-formed commands. (DEDUCED, log entry 73.) -/
def Instr.wf : Instr → Bool
  | .rapidTransaction _ b _ => b.ok
  | .lockedSequence _ bs => seqOk bs
  | .lockBreak _ _ bs => seqOk bs
  | .atomicFetchadd w wide _ _ => atomicOk w wide
  | .atomicSwap w wide _ _ => atomicOk w wide
  | .atomicCas w wide _ _ _ => atomicOk w wide
  | _ => true

end Sys2Proof
end

