-- ==== Sys2Proof/Tests/Slice0.lean ====
section
/-!
SUPPORT. Tests of the model: ill-formed terms, one for each check of WellFormed; results worked out by hand from the rules cited; and, for
every statement with hypotheses, a concrete state and operands that meet them (`witness_…`).
-/
open Sys2Proof Sys2Proof.Machine
namespace Sys2Proof.Tests
-- One theorem after another: each waits for the kernel's check of all that stands before it.
set_option Elab.async false

/-! ## Small states -/

/-- s with these fields set. -/
def withFields (s : State) (l : List (Loc × Nat)) : State := l.foldl (fun s p => s.put p.1 p.2) s

/-- s in engine state e. -/
def inState (e : EngState) (s : State) : State := { s with sys := { s.sys with state := e } }

/-- Reset with the host's routes enabled and an image loaded, 16-sample periods, in state e. -/
def upIn (e : EngState) : State :=
  inState e (withFields State.reset
    [(R.SYS_GRID.n_log2, 4), (R.HIF_CTRL.pcie_en, 1), (R.HIF_CTRL.twt_en, 1), (R.HIF_CTRL.ib_en, 1), (R.SYS_STATE.image, 1)])

/-- In RUN-LOCKED with the data plane running. -/
def running : State := let s := upIn .runLocked; { s with sys := { s.sys with dataPlane := true } }

/-- What the command answers meets p. -/
def after (i : Instr) (s : State) (p : State → Bool) : Bool := match exec i s with | .next t => p t | _ => false

/-- A running core at address 0x100 of its program: some operands in D0 to D6, X and Y addresses in P3 and P4. -/
def coreK : Core := { Core.off with
  run := .running, pc := 0x100
  bank0 := { Bank.zero with
    sr := 0x11F#32
    d := Vector.ofFn (fun i => BitVec.ofNat 32 ([0, 0x7FFFFFFF, 0x80000000, 5, 40, 0x3F800000, 0x7FC00001].getD i.val (100 + i.val)))
    p := Vector.ofFn (fun i => BitVec.ofNat 32 ([0x10000, 0x10008, 0x10010, 0x10018, 0x28010].getD i.val 0x10100)) } }

/-- Core 2 is this core, in RUN-LOCKED. -/
def oneCore (k : Core) : State := running.setCore 2 k

/-! ## Core -/

/-- ADD of 5 and 40 delivers 45 and moves the pc by one word; saturated at the largest word it stays there (R106). -/
theorem test_add : after (.add 2 true false 9 3 4) (oneCore coreK) (fun t => (t.core 2).bank0.d[9] == 45#32 && (t.core 2).pc == 0x104#32) = true := by
  decide +kernel
theorem test_add_saturates : after (.add 2 true true 9 1 3) (oneCore coreK)
    (fun t => (t.core 2).bank0.d[9] == 0x7FFFFFFF#32 && (t.core 2).bank0.sr.getLsbD 4) = true := by decide +kernel
/-- The negative of -2^31 wraps to itself (R106). -/
theorem test_neg_wraps : after (.neg 2 true false 9 2) (oneCore coreK) (fun t => (t.core 2).bank0.d[9] == 0x80000000#32) = true := by
  decide +kernel
/-- A shift by 40 takes b[5:0] = 40, not 8 (R106). -/
theorem test_lsr_by_forty : after (.lsr 2 true 9 1 4) (oneCore coreK) (fun t => (t.core 2).bank0.d[9] == 0#32) = true := by decide +kernel
theorem test_asr_by_forty : after (.asr 2 true 9 2 4) (oneCore coreK) (fun t => (t.core 2).bank0.d[9] == 0xFFFFFFFF#32) = true := by
  decide +kernel
/-- CLS of 5 counts the 28 bits after the sign that equal it; CLZ counts 29 zeros (R127). -/
theorem test_cls : after (.cls 2 true 9 3) (oneCore coreK) (fun t => (t.core 2).bank0.d[9] == 28#32) = true := by decide +kernel
theorem test_clz : after (.clz 2 true 9 3) (oneCore coreK) (fun t => (t.core 2).bank0.d[9] == 29#32) = true := by decide +kernel
/-- CMP of 5 and 40: not equal, negative, a borrow, no overflow (R106). -/
theorem test_cmp : after (.cmp 2 true 3 4) (oneCore coreK) (fun t => (t.core 2).bank0.sr == 0x112#32) = true := by decide +kernel
/-- The product of 5 and 40 is on its way to A1 for three cycles (R104). -/
theorem test_mpy : after (.mpy 2 true 1 3 4 0) (oneCore coreK)
    (fun t => (t.core 2).flight == [⟨2, false, .acc 1 ⟨200#80, 0, false⟩ true⟩]) = true := by decide +kernel
/-- 1.0 + 1.0 = 2.0 in binary32 (R112). -/
theorem test_fadd : fadd false false (fdec false 0x3F800000#32) (fdec false 0x3F800000#32) = { v := 0x40000000#32 } := by decide +kernel
/-- 1.0 / 2.0 in binary32: the reciprocal of 2.0 is 0.5 (R112). -/
theorem test_frcp : (frcp false false (fdec false 0x40000000#32)).v = 0x3F000000#32 := by decide +kernel
/-- Two words gather into one group: the second reads D3 as it stood before the first wrote it (R103). -/
theorem test_group : (match exec (.mov 2 false 3 4) (oneCore coreK) with
    | .next u => after (.mov 2 true 4 3) u (fun t => (t.core 2).bank0.d[3] == 40#32 && (t.core 2).bank0.d[4] == 5#32) | _ => false) = true := by
  decide +kernel
/-- A store of D3 at X address 0x10018 writes byte 5 at the core's place in the fabric map (R99, R332). -/
theorem test_store : after (.stW 2 true 3 3 0 0 0#9) (oneCore coreK) (fun t => t.memByte (tunBase 2 + 0x10018) == 5#8) = true := by
  decide +kernel

/-- Core 2 can issue, and what its group waits for. -/
abbrev freeAt (s : State) : Prop :=
  (s.flt.raised = [] ∧ s.tap.testEn = false ∧ (s.core 2).pc.toNat < 0x10000) ∧ canIssue s 2 = true ∧ (s.core 2).group = []
    ∧ (s.core 2).haltReq = false ∧ (s.core 2).haltCmd = false ∧ (s.core 2).stepping = false
theorem core_free (s : State) (h : freeAt s) : CoreFree s 2 :=
  ⟨⟨h.1.1, h.1.2.1⟩, h.1.2.2, h.2.1, h.2.2.1, h.2.2.2.1, h.2.2.2.2.1, h.2.2.2.2.2⟩
theorem core_ready (s : State) (n : Nat) (h : freeAt s ∧ (s.core 2).slot = none ∧ (Core.ticks n (s.core 2)).bank.loop = none) : CoreReady s 2 n :=
  ⟨core_free s h.1, h.2.1, fun _ hl => nomatch h.2.2.symm.trans hl⟩
theorem one_ready : CoreReady (oneCore coreK) 2 0 := core_ready _ _ (by decide +kernel)

/-! ## Witnesses: core -/

theorem witness_AluWritesItsResultSaturatedOrWrapped : CoreReady (oneCore coreK) 2 0 := one_ready
theorem witness_ShiftAndFieldAluWritesItsResult : CoreReady (oneCore coreK) 2 0 := one_ready

/-- The clauses on MFC's control register: each number falls under exactly one of them. -/
theorem witness_ComparesAndRegisterMovesWriteTheirOneTarget : CoreReady (oneCore coreK) 2 0 ∧ ∀ n : Fin 256, let n := n.val
    ([decide (n < 16), decide (16 ≤ n ∧ n - 16 < 16), decide (32 ≤ n ∧ n - 32 < 8), decide (40 ≤ n ∧ n - 40 < 8), decide (48 ≤ n ∧ n - 48 < 3),
      decide (52 ≤ n ∧ n - 52 < 3), decide (56 ≤ n ∧ n - 56 < 3), decide (0x3B ≤ n ∧ n ≤ 0x3B), decide (0x40 ≤ n ∧ n ≤ 0x49),
      decide (n = 0x33 ∨ n = 0x37 ∨ 0x3C ≤ n ∧ n ≤ 0x3F ∨ 0x4A ≤ n)].filter id).length = 1 := ⟨one_ready, by decide +kernel⟩

/-- The hypotheses of a load or store of some bytes: by P3 at 0x10018 of X, with the register D8, after n cycles. -/
def accessMeets (bytes n : Nat) : Prop :=
  let s := oneCore coreK
  let r := effAddr (viewAt s 2 n) 3 0 0 0#9 (if bytes = 2 then 2 else 4)
  CoreReady s 2 n ∧ n = accessWait bytes (s.core 2).cyc ∧ 8 % 2 = 0 ∧ r.illegal = false ∧ r.bad = false ∧ ∀ q ∈ r.pieces bytes, accessBad q.1 q.2 = false

theorem witness_access : accessMeets 2 0 ∧ accessMeets 4 0 ∧ accessMeets 8 0 ∧ accessMeets 16 1 :=
  ⟨⟨one_ready, by decide +kernel⟩, ⟨one_ready, by decide +kernel⟩, ⟨one_ready, by decide +kernel⟩,
    ⟨core_ready _ _ (by decide +kernel), by decide +kernel⟩⟩

theorem witness_LoadsDeliverTheBytesAtTheirAddress :
    (oneCore coreK).fab.upsets = [] ∧ accessMeets 4 0 ∧ accessMeets 8 0 ∧ accessMeets 2 0 ∧ accessMeets 16 1 :=
  ⟨rfl, witness_access.2.1, witness_access.2.2.1, witness_access.1, witness_access.2.2.2⟩
theorem witness_StoresWriteTheBytesAtTheirAddressAlone :
    (oneCore coreK).fab.upsets = [] ∧ accessMeets 4 0 ∧ accessMeets 8 0 ∧ accessMeets 2 0 ∧ accessMeets 16 1 :=
  ⟨rfl, witness_access.2.1, witness_access.2.2.1, witness_access.1, witness_access.2.2.2⟩

theorem witness_MultipliesActLaneByLane : CoreReady (oneCore coreK) 2 0 ∧ ∀ lanes : Fin 4, lanes ≠ 3 →
    let n := if lanes = 0 then 1 else if lanes = 1 then 2 else 4
    (4 : Fin 8).val % n = 0 ∧ (8 : Fin 32).val % n = 0 ∧ (28 : Fin 32).val % n = 0 := ⟨one_ready, by decide⟩

/-- The largest step both ways, the carry count at both ends, LOST clear and set. -/
theorem witness_AccumulatorStaysExactAndDelivers : CoreReady (oneCore coreK) 2 0 ∧
    (-(2 ^ 80) ≤ (-(2 ^ 80) : Int) ∧ (2 ^ 80 - 1 : Int) < 2 ^ 80 ∧ (-7 : Int) ≤ (⟨0, -7, true⟩ : Acc).wc ∧ (⟨0, 7, false⟩ : Acc).wc ≤ 7)
    ∧ (accStep ⟨0, 7, false⟩ 5).1.lost = false ∧ (⟨0, -7, true⟩ : Acc).lost = true ∧ (4 : Fin 32).val % 2 = 0 :=
  ⟨one_ready, by decide, by decide, rfl, rfl⟩

/-- TAPM at the first and the last samples and coefficients that it may read. -/
def tapK (x y : Word) : Core := { coreK with bank0 := { coreK.bank0 with p := (coreK.bank0.p.set 3 x).set 4 y } }
def tapMeets (x y : Word) : Prop :=
  let s := oneCore (tapK x y)
  let v := viewAt s 2 0
  CoreReady s 2 0 ∧ s.fab.upsets = [] ∧ (s.core 2).cyc % 16 ≠ 15 ∧ 0x10004 ≤ (v.p 3).toNat ∧ (v.p 3).toNat + 4 < 0x28000
    ∧ 0x28004 ≤ (v.p 4).toNat ∧ (v.p 4).toNat < 0x40000 ∧ (v.p 3).toNat % 4 = 0 ∧ (v.p 4).toNat % 4 = 0
theorem tap_first : tapMeets 0x10004#32 0x28004#32 := ⟨core_ready _ _ (by decide +kernel), by decide +kernel⟩
theorem tap_last : tapMeets 0x27FF8#32 0x3FFFC#32 := ⟨core_ready _ _ (by decide +kernel), by decide +kernel⟩
theorem witness_ExtractionRoundsAndTapmFilters : tapMeets 0x10004#32 0x28004#32 ∧ tapMeets 0x27FF8#32 0x3FFFC#32
    ∧ 0 < 1 ∧ Acc.zero.wc = 0 ∧ (⟨0, 1, false⟩ : Acc).wc ≠ 0 := ⟨tap_first, tap_last, by decide⟩

/-- Pairs of the format's even registers; the quiet NaN against the largest finite number, and against the least normal one and zero while
denormals are flushed. -/
theorem witness_FloatingPointDeliversItsLanes : CoreReady (oneCore coreK) 2 0 ∧
    ((true : Bool) = true → (8 : Fin 32).val % 2 = 0 ∧ (0 : Fin 32).val % 2 = 0 ∧ (2 : Fin 32).val % 2 = 0 ∧ (30 : Fin 32).val % 2 = 0)
    ∧ isNan 0x7F800001#32 = true ∧ (0x7F7FFFFF#32).toNat % 2 ^ 31 < 0x7F800000
    ∧ (0x800000 ≤ (0x800000#32).toNat % 2 ^ 31) ∧ (0x80000000#32).toNat % 2 ^ 31 = 0 :=
  ⟨one_ready, by decide⟩

/-- A branch with its condition true and false; every kind of turn after a delay slot, an event pending or not. -/
def slotK (d : SlotTo) (lvl : Fin 3) (bell slice : Bool) : Core := { coreK with slot := some d, level := lvl, bell := bell, slice := slice }
def turnMeets (d : SlotTo) (lvl : Fin 3) (bell slice : Bool) : Prop :=
  let s := oneCore (slotK d lvl bell slice)
  CoreFree s 2 ∧ (s.core 2).slot = some d ∧ (s.core 2).flight = [] ∧ (s.core 2).bank.loop = none ∧ (s.core 2).bell = bell
    ∧ (s.core 2).slice = slice
theorem turn_meets (d : SlotTo) (lvl : Fin 3) (bell slice : Bool) (h : freeAt (oneCore (slotK d lvl bell slice)) ∧
    (slotK d lvl bell slice).bank.loop = none) : turnMeets d lvl bell slice := ⟨core_free _ h.1, rfl, rfl, h.2, rfl, rfl⟩
theorem witness_BranchesTurnAfterTheirDelaySlot : CoreReady (oneCore coreK) 2 0
    ∧ (condHolds (oneCore coreK |>.core 2).bank.sr 0 = true ∧ condHolds (oneCore coreK |>.core 2).bank.sr 1 = false)
    ∧ (turnMeets .fall 0 false false ∧ turnMeets (.goto 0xFFFC#32) 0 false false ∧ turnMeets (.goto 0x10000#32) 0 false false)
    ∧ turnMeets .rte1 1 true true ∧ turnMeets .rte1 1 false true ∧ turnMeets .rte1 1 false false ∧ turnMeets .rte2 2 false false := by
  refine ⟨one_ready, by decide +kernel, ⟨turn_meets _ _ _ _ ?_, turn_meets _ _ _ _ ?_, turn_meets _ _ _ _ ?_⟩, turn_meets _ _ _ _ ?_,
    turn_meets _ _ _ _ ?_, turn_meets _ _ _ _ ?_, turn_meets _ _ _ _ ?_⟩ <;> decide +kernel

theorem witness_ReturnsIdleFenceNopAndBreak : CoreReady (oneCore coreK) 2 0 ∧ CoreReady (oneCore { coreK with level := 1 }) 2 0
    ∧ CoreReady (oneCore { coreK with level := 2 }) 2 0 ∧ ((oneCore coreK).core 2).flight = []
    ∧ (oneCore coreK).rawFlag (R.CORE_DBG_SEL.halt_en 2) = false
    ∧ ((oneCore coreK).put (R.CORE_DBG_SEL.halt_en 2) 1).rawFlag (R.CORE_DBG_SEL.halt_en 2) = true
    ∧ canIssue ((oneCore coreK).put (R.CORE_DBG_SEL.halt_en 2) 1) 2 = true :=
  ⟨one_ready, core_ready _ _ (by decide +kernel), core_ready _ _ (by decide +kernel), by decide +kernel⟩

/-- Core 2 at the end of the body of its one loop, with this count. -/
def loopK (n : Word) : Core := { coreK with
  bank0 := { coreK.bank0 with lsp := 1, lcnt := coreK.bank0.lcnt.set 0 n, ltop := coreK.bank0.ltop.set 0 0x40, lend := coreK.bank0.lend.set 0 0x100 } }
def loopMeets (n : Word) : Prop :=
  let s := oneCore (loopK n)
  CoreFree s 2 ∧ (s.core 2).slot = none ∧ (s.core 2).flight = [] ∧ (s.core 2).bank.loop = some (0, n, 0x40, 0x100) ∧ (s.core 2).pc = 0x100
theorem witness_LoopsPushCountAndPop : CoreReady (oneCore coreK) 2 0
    ∧ (((oneCore coreK).core 2).bank.lsp.val < 3 ∧ BitVec.ofNat 32 (4095 : Fin 4096).val ≠ 0 ∧ (0 : Fin 4096).val = 0
      ∧ dReg (oneCore coreK) 2 3 ≠ 0 ∧ dReg (oneCore coreK) 2 0 = 0 ∧ 1 < (2#32).toNat ∧ (1#32).toNat ≤ 1)
    ∧ loopMeets 2 ∧ loopMeets 1 ∧ loopMeets 0 :=
  ⟨one_ready, by decide +kernel, ⟨core_free _ (by decide +kernel), by decide +kernel⟩, ⟨core_free _ (by decide +kernel), by decide +kernel⟩,
    ⟨core_free _ (by decide +kernel), by decide +kernel⟩⟩

/-- A group that is illegal in the background program, where the fault is taken as an event, and at level 1, where it stops the core. -/
theorem witness_IllegalGroupTakesTheFaultEventOrStops : CoreFree (oneCore coreK) 2 ∧ CoreFree (oneCore { coreK with level := 1 }) 2
    ∧ CoreFree (oneCore { coreK with pc := 0xFFFC }) 2 ∧ 0x10000 < (0xFFFC#32).toNat + 4 * min 4 [0#32, 0#32].length
    ∧ (((oneCore coreK).core 2).flight = [] ∧ formsGroup [0x7FFFFFFF#32] = true ∧ wordsIllegal ((oneCore coreK).core 2) [0x7FFFFFFF#32] = true
      ∧ ((oneCore coreK).core 2).level = 0 ∧ ((oneCore coreK).core 2).bank0.sr.getLsbD 8 = true
      ∧ wordsIllegal ((oneCore { coreK with level := 1 }).core 2) [0x7FFFFFFF#32] = true)
    ∧ (oneCore coreK).perfOff :=
  ⟨core_free _ (by decide +kernel), core_free _ (by decide +kernel), core_free _ (by decide +kernel), by decide, by decide +kernel,
    by unfold State.perfOff; decide +kernel⟩

theorem witness_WordsGatherIntoGroupsThatReadFirst : CoreReady (oneCore coreK) 2 0 ∧ ((oneCore coreK).core 2).flight = [] ∧ (9 : Fin 32) ≠ 10 :=
  ⟨one_ready, rfl, by decide⟩

/-! ## Reset, start, time and states -/

/-- The check values of the CRCs over the digits 1 to 9 (R217, R377, R423). -/
def digits : List Byte := (List.range 9).map (fun i => BitVec.ofNat 8 (49 + i))
theorem test_crc32c : crc32c digits = 0xE3069283#32 := by decide +kernel
theorem test_crc16 : crc16 digits = 0x29B1#16 := by decide +kernel
theorem test_crc8 : crc8 digits = 0xF4#8 := by decide +kernel

/-- An image of one empty section of an unknown type, for every variant, of this generation. -/
def image (gen : Nat) : List Byte :=
  let head : List Byte := [0x45, 0x4C, 0x56, 0x41] ++ leBytes 2 1 ++ leBytes 2 1 ++ leBytes 2 0xFFF ++ leBytes 2 0 ++ leBytes 4 gen ++ leBytes 4 0x100
    ++ List.replicate 40 0
  let table : List Byte := [9, 0, 0, 0] ++ leBytes 4 0x80 ++ leBytes 4 0 ++ List.replicate 16 0 ++ leBytes 4 (crc32c []).toNat
  head ++ leBytes 4 (crc32c head).toNat ++ table ++ leBytes 4 (crc32c table).toNat

/-- These bytes in the flash from an address up. -/
def flashAt (a : Nat) (bs : List Byte) : List (Nat × Byte) := ((List.range bs.length).map (fun i => (a + i, bs.getD i 0))).filter (fun c => c.2 != 0xFF#8)

/-- Both slots hold an image; the newer is in B. -/
def bothSlots (s : State) : State := { s with flash := flashAt 0 (image 5) ++ flashAt (s.boot.flashSize / 2) (image 6) }

set_option maxRecDepth 200000 in
theorem image_valid : let s := bothSlots State.reset; headerOk s false = true ∧ slotResult s false true = 1 ∧ slotResult s true false = 1
    ∧ newer (slotGen s true) (slotGen s false) 32 = true := by decide +kernel
set_option maxRecDepth 200000 in
/-- The newer generation is tried first (R380). -/
theorem test_newer_slot_first : after (.resetRelease true 0 0 false true true true) (bothSlots State.reset)
    (fun t => t.boot.cand == [true, false] && t.boot.slot && t.sys.state == .load) = true := by decide +kernel

theorem takes_running (r : Route) (h : r ≠ .twin) : TakesWrite running r := by
  cases r with
  | twin => exact absurd rfl h
  | _ => exact ⟨by decide, by decide, rfl, rfl⟩

theorem witness_ResetClearsTheEngineAndNeedsItsKey : TakesWrite running .pcie ∧ running.on ∧ fieldGet 16 16 0xA5C3FFFF#32 = 0xA5C3
    ∧ fieldGet 16 16 0xA5C2FFFF#32 ≠ 0xA5C3
    ∧ (let s := withFields { running with flt := { running.flt with wdogRun := true } } [(R.FLT_WDOG.action, 2)]
       s.flt.wdogRun = true ∧ s.get R.FLT_WDOG.action = 2 ∧ s.flt.wdogUp + s.get R.FLT_WDOG.timeout * msVco < s.sys.up + s.perVco) :=
  ⟨takes_running _ (by decide), rfl, by decide, by decide, by decide +kernel⟩

set_option maxRecDepth 200000 in
theorem witness_ReleaseChoosesASlotValidByItsChecks : State.reset.quiet ∧ State.reset.sys.state = .reset
    ∧ (let s := bothSlots State.reset
       (headerOk s false = true ∧ s.get (resLoc false) ∉ [2, 3, 4, 5, 6]) ∧ headerOk s true = true ∧ s.get (resLoc true) ∉ [2, 3, 4, 5, 6]) :=
  ⟨⟨rfl, rfl⟩, rfl, by decide +kernel⟩

/-- CHECK of slot A, the other slot to follow or not, with a valid image and without. -/
def checking (l : List Bool) (s : State) : State := let s := inState .check s; { s with boot := { s.boot with cand := l } }
def applying (l : List Section) : State := let s := upIn .prepare; { s with boot := { s.boot with sections := l } }
set_option maxRecDepth 200000 in
theorem witness_CheckLeadsToPrepareWhichApplies :
    (upIn .load).quiet ∧ (upIn .load).sys.state = .load
    ∧ (let s := checking [false, true] (bothSlots State.reset); s.quiet ∧ s.sys.state = .check ∧ s.boot.cand = false :: [true]
        ∧ slotResult s false (true && true) = 1)
    ∧ (let s := checking [false, true] State.reset; s.sys.state = .check ∧ s.boot.cand = false :: [true] ∧ slotResult s false (true && true) ≠ 1)
    ∧ (let s := checking [false] State.reset; s.sys.state = .check ∧ s.boot.cand = [false] ∧ slotResult s false (true && true) ≠ 1)
    ∧ (applying [⟨4, 0x100, 64, 0, 0⟩, ⟨5, 0x100, 64, 0, 0⟩]).quiet
    ∧ (applying [⟨4, 0x100, 64, 0, 0⟩, ⟨5, 0x100, 64, 0, 0⟩]).boot.sections = ⟨4, 0x100, 64, 0, 0⟩ :: [⟨5, 0x100, 64, 0, 0⟩]
    ∧ (applying [⟨5, 0x100, 64, 0, 0⟩]).sys.state = .prepare ∧ (applying [⟨5, 0x100, 64, 0, 0⟩]).boot.sections = [⟨5, 0x100, 64, 0, 0⟩] :=
  ⟨⟨rfl, rfl⟩, rfl, ⟨⟨rfl, rfl⟩, by decide +kernel⟩, by decide +kernel, by decide +kernel, ⟨rfl, rfl⟩, rfl, rfl, rfl⟩

theorem witness_PeriodsFollowTheExactGrid : running.on ∧ running.fsSel ≤ 2 ∧ 0xFFFFFFFF < 2 ^ 32 ∧ running.sys.state ≠ .reset ∧ running.setDue = false :=
  ⟨rfl, by decide +kernel⟩
/-- 16 samples at 96 kHz: a period is 327,680 VCO cycles (R33, R41). -/
theorem test_period_length : running.perVco = 327680 ∧ running.nSamp = 16 ∧ running.fs = 96000 := by decide +kernel
/-- Serial-number comparison at its limit: 2^31 ahead is not newer (R52). -/
theorem test_newer : newer 0x7FFFFFFF 0 32 = true ∧ newer 0x80000000 0 32 = false ∧ newer 0 0xFFFFFFFF 32 = true := by decide

theorem witness_StatusIsCapturedShownAndLatched : TakesWrite running .twt ∧ (5#32).getLsbD 0 = true ∧ (4#32).getLsbD 0 = false
    ∧ running.quiet ∧ running.sys.state ≠ .reset ∧ running.flag R.SYS_TIME_CAP.capture = false
    ∧ (withFields running [(R.SYS_TIME_CAP.capture, 1)]).flag R.SYS_TIME_CAP.capture = true
    ∧ (∀ q, ∀ x ∈ (running.ring q).ups, (running.sys.up - x.2) / msVco ≤ 1000) ∧ running.eth.logUps = [] ∧ running.perf.dumpUp = []
    ∧ running.sys.fuses.absent (R.PTP_DOM_OFS_HI.reg 1) = false ∧ ∃ t, exec .periodBoundary State.reset = .next t :=
  ⟨takes_running _ (by decide), by decide, by decide, ⟨rfl, rfl⟩, by decide, by decide +kernel, by decide +kernel, by decide +kernel, rfl, rfl, rfl,
    ⟨_, rfl⟩⟩

/-- The same state in SAFE, with FLT_SAFE.release set or clear. -/
def inSafe : State := upIn .safe
theorem takes_upIn (e : EngState) (h : e ≠ .reset) : TakesWrite (upIn e) .pcie := by
  cases e with
  | reset => exact absurd rfl h
  | _ => exact ⟨by decide, by decide, rfl, rfl⟩
theorem witness_StandbyIsEnteredAndLeft : TakesWrite running .pcie ∧ TakesWrite (upIn .safe) .pcie ∧ (upIn .standby).quiet
    ∧ ((1#32).getLsbD 0 = true ∧ running.flag R.SYS_STBY.enter = false ∧ (withFields running [(R.SYS_STBY.enter, 1)]).flag R.SYS_STBY.enter = true)
    ∧ ((upIn .safe).flag R.FLT_SAFE.release = false ∧ (upIn .safe).image = true
      ∧ (withFields (upIn .safe) [(R.FLT_SAFE.release, 1)]).flag R.FLT_SAFE.release = true ∧ ¬(running.sys.state = .safe ∧ running.image = true))
    ∧ (upIn .standby).sys.state = .standby ∧ (72 : Fin 128).val = 0x48 + (upIn .standby).sys.straps.twtAddr.val
    ∧ (71 : Fin 128).val ≠ 0x48 + (upIn .standby).sys.straps.twtAddr.val :=
  ⟨takes_running _ (by decide), takes_upIn _ (by decide), ⟨rfl, rfl⟩, by decide +kernel, by decide +kernel, rfl, by decide, by decide⟩

/-! ## Register writes, commits, the fabric -/

/-- The row of the map at an address. -/
def rowAt (a : Nat) : RegDesc := (regFind a).getD ⟨"", 0, [], .none, []⟩

/-- A shadowed register, one with an ST field, in RUN and in PREPARE; a read-only one; no register. -/
theorem witness_RegisterWritesStoreByFieldType : TakesWrite running .pcie ∧ TakesWrite (upIn .prepare) .pcie
    ∧ (let a := R.MASH_XP_W1.reg 16383
       let d := rowAt a
       (0xF#4 = 0xF#4 ∧ a % 4 = 0) ∧ running.regAt a = some d ∧ d.base ∉ actingBases ∧ counterAt a = false ∧ ¬ d.fields.all (fun f => f.kind == .ro)
         ∧ running.twinMode = false ∧ reservedWord d (normWord d a 0x12345678#32) = false
         ∧ d.fields.all (fun f => !stRefused running d a (normWord d a 0x12345678#32) f))
    ∧ (let a := R.SYS_GRID.reg
       let d := rowAt a
       running.regAt a = some d ∧ d.base ∉ actingBases ∧ counterAt a = false ∧ d.base ≠ R.SYS_CFG_REJECT.reg ∧ running.twinMode = false
         ∧ reservedWord d (normWord d a 0x120#32) = false ∧ d.fields.any (stRefused running d a (normWord d a 0x120#32)) = true) :=
  ⟨takes_running _ (by decide), takes_upIn _ (by decide), by decide +kernel, by decide +kernel⟩

theorem witness_HifCtrlEnablesTheRoutes : running.quiet ∧ TakesWrite running .inband ∧ fieldGet 0 3 0xF8#32 = 0 ∧ fieldGet 0 3 4#32 ≠ 0
    ∧ (withFields running [(R.HIF_CTRL.pcie_en, 0)]).flag R.HIF_CTRL.pcie_en = false
    ∧ (let s := withFields running [(R.HIF_CTRL.twt_en, 0)]; s.flag R.HIF_CTRL.twt_en = false ∧ s.sys.state ≠ .reset ∧ s.sys.state ≠ .standby)
    ∧ (withFields running [(R.HIF_CTRL.ib_en, 0)]).flag R.HIF_CTRL.ib_en = false
    ∧ State.reset.sys.state = .reset ∧ (withFields running [(R.HIF_CTRL.twt_en, 0)]).routeOn .twt = false
    ∧ running.regAt 0x1FFFFFC = none ∧ running.regAt R.SYS_IDENT.reg = some (rowAt 0) ∧ (rowAt 0).fields.all (fun f => f.kind == .ro)
    ∧ ¬(0x7#4 = 0xF#4 ∧ 0x100 % 4 = 0) ∧ ¬(0xF#4 = 0xF#4 ∧ 0x102 % 4 = 0) ∧ running.routeOn .pcie = true
    ∧ (fieldGet 0 2 3#32 = 3 ∧ fieldGet 4 3 0x60#32 ∉ [1, 2, 3, 4, 5] ∧ fieldGet 8 6 0x10#32 = 0 ∧ 32 < fieldGet 8 6 0x2100#32) :=
  ⟨⟨rfl, rfl⟩, takes_running _ (by decide), by decide, by decide, by decide +kernel⟩
/-- A write that would leave no route enabled is discarded (R353). -/
theorem test_last_route_stays : after (.hifCtrlWrite .pcie 0#32) running (fun t => t.routeOn .pcie && t.regs == running.regs) = true := by
  decide +kernel
/-- fs_sel = 3 is reserved: the write is refused, recorded and counted (R61). -/
theorem test_reserved_grid : after (.registerWrite .pcie 0x100 0x113#32 0xF) (upIn .prepare)
    (fun t => t.get R.SYS_GRID.fs_sel == 1 && t.get R.SYS_CFG_REJECT_CNT.count == 1 && t.get R.SYS_CFG_REJECT.addr == 0x100) = true := by
  decide +kernel

/-- A commit that expects seq, one that does not; a target whose cutoff has passed and one that is to come; one to be replaced. -/
theorem witness_CommitsAreTakenAppliedAndReported : TakesWrite running .pcie ∧ running.twinMode = false
    ∧ ((0x10001#32).getLsbD 16 = true ∧ fieldGet 0 16 0x10001#32 ≠ running.get (R.HIF_COMMIT_STAT.seq 31))
    ∧ ¬((0x10000#32).getLsbD 16 = true ∧ fieldGet 0 16 0x10000#32 ≠ running.get (R.HIF_COMMIT_STAT.seq 31))
    ∧ ((0#32).getLsbD 17 = false ∧ extend32 running.pn (running.get (R.HIF_COMMIT_TGT.pnl 31)) < (running.pn : Int) + 2)
    ∧ ¬(extend32 running.pn ((withFields running [(R.HIF_COMMIT_TGT.pnl 31, 2)]).get (R.HIF_COMMIT_TGT.pnl 31)) < (running.pn : Int) + 2)
    ∧ (⟨65535, 0, [], 0⟩ : Fixed).seq < 65536 :=
  ⟨takes_running _ (by decide), rfl, by decide +kernel⟩

/-- The PCIe link is up, its window at Larder; PCIe and the MGP may issue 40 beats to Larder in a period. -/
def linked (s : State) : State :=
  withFields s [(R.HIF_STAT.pcie_up, 1), (R.HIF_WIN_BASE.base, 0x200), (R.FAB_SV_BUD.budget 36 0, 40), (R.FAB_SV_BUD.budget 37 0, 40)]
/-- The variant has the fewest cores. -/
def fewCores (s : State) : State := { s with sys := { s.sys with fuses := { s.sys.fuses with variant := 0 } } }
/-- PCIe's budget at Larder is 0. -/
def unbudgeted : State := withFields running [(R.FAB_SV_BUD.budget 36 0, 0)]

/-- An activity with budget left at a class, on a state that power does not hold. -/
theorem may_now (s : State) (act cls n : Nat) (h : s.powerHeld act = false ∧ s.svUsed act cls + n ≤ s.get (R.FAB_SV_BUD.budget act cls)) :
    mayNow s act cls n := ⟨Or.inr h.1, Or.inr h.2⟩
/-- A ring activity with nothing waiting and budget left at every class. -/
theorem ring_may (s : State) (act n : Nat) (h : (s.ringQ act = [] ∧ s.powerHeld act = false)
      ∧ s.svUsed act 0 + n ≤ s.get (R.FAB_SV_BUD.budget act 0) ∧ s.svUsed act 1 + n ≤ s.get (R.FAB_SV_BUD.budget act 1)
      ∧ s.svUsed act 2 + n ≤ s.get (R.FAB_SV_BUD.budget act 2)) : ringMay s act n :=
  ⟨h.1.1, fun cls k => ⟨Or.inr h.1.2, Or.inr (match cls, k with | 0, _ => h.2.1 | 1, _ => h.2.2.1 | 2, _ => h.2.2.2)⟩⟩
/-- A write to Larder is taken whatever runs. -/
theorem larder_takes (s : State) (t : Nat) (b : Beat) (h : t < 8) : beatTakes s t b := fun _ => ⟨fun x => by omega, fun x => by omega⟩

/-- A byte written at the end of its line; beats to an absent core, to no target, over budget and held; a transfer over two lines at the last
byte of the first, read and written; one of no byte. -/
theorem witness_TransactionsReachTheirMemoryOrNone :
    (let s := linked running
     let b := Beat.write 0x2000003F#40 [some 1#8]
     (s.quiet ∧ mayNow s 36 0 1 ∧ beatTakes s 0 b) ∧ s.fab.upsets = [] ∧ b.ok = true ∧ fabTarget s b.addr = some 0)
    ∧ (let s := fewCores (linked running)
       let b := Beat.read 0x10FFFFC0#40 64
       s.quiet ∧ b.ok = true ∧ s.sys.fuses.cores ≤ (b.addr - tunBase 0) / 0x100000 ∧ tunBase 0 ≤ b.addr ∧ b.addr < tunBase 16
         ∧ s.powerHeld 36 = false)
    ∧ (let s := linked running
       let b := Beat.read 0x117FFFC0#40 64
       b.ok = true ∧ fabTarget s b.addr = none ∧ absentTun s b.addr = false ∧ s.powerHeld 36 = false ∧ s.flag R.FAB_DECERR_INFO.valid = false
         ∧ (withFields s [(R.FAB_DECERR_INFO.valid, 1)]).flag R.FAB_DECERR_INFO.valid = true)
    ∧ (let s := unbudgeted
       fabTarget s 0x20000044 = some 1 ∧ isRt 36 = false ∧ s.sys.dataPlane = true ∧ s.get (R.FAB_SV_BUD.budget 36 0) ≤ s.svUsed 36 0
         ∧ consumerOf 36 = some 16 ∧ (withFields s [(R.PWRA_GRANT.stalled 16, 1)]).powerHeld 36 = true)
    ∧ (let s := linked running
       let bs : List (Option Byte) := List.replicate 64 (some 7)
       (mayNow s 36 0 2 ∧ beatTakes s 0 (.write 0x2000003F#40 (bs.take 1)) ∧ beatTakes s 1 (.write (BitVec.ofNat 40 0x20000040) (bs.drop 1)))
         ∧ 64 - (0x2000003F#40).toNat % 64 < 64 ∧ (0x2000003F#40).toNat + 1 + 64 ≤ 2 ^ 40 ∧ fabTarget s (0x2000003F#40).toNat = some 0
         ∧ fabTarget s ((0x2000003F#40).toNat + 1) = some 1 ∧ bs.length = 64)
    ∧ (let s := withFields running [(R.FAB_DECERR_INFO.valid, 1), (R.FAB_DECERR_INFO.count, 3)]
       TakesWrite s .pcie ∧ s.flag R.FAB_DECERR_INFO.valid = true)
    ∧ (Beat.read 0x20#40 0).len = 0 := by
  refine ⟨⟨⟨⟨rfl, rfl⟩, may_now _ _ _ _ (by decide +kernel), larder_takes _ _ _ (by decide)⟩, by decide +kernel⟩, ⟨⟨rfl, rfl⟩, by decide +kernel⟩,
    by decide +kernel, by decide +kernel, ⟨⟨may_now _ _ _ _ (by decide +kernel), larder_takes _ _ _ (by decide), larder_takes _ _ _ (by decide)⟩, ?_⟩,
    ⟨⟨by decide, by decide, rfl, rfl⟩, by decide +kernel⟩, rfl⟩
  decide +kernel
/-- Clearing FAB_DECERR_INFO.valid zeroes count (R339). -/
theorem test_decode_log_rearmed : after (.registerWrite .pcie 0x580004 0x40 0xF)
    (withFields running [(R.FAB_DECERR_INFO.valid, 1), (R.FAB_DECERR_INFO.count, 3), (R.FAB_DECERR_INFO.master, 0x14)])
    (fun t => t.reg R.FAB_DECERR_INFO.reg == 0x14) = true := by decide +kernel
/-- A beat behind an earlier one of its activity to its target waits; one to another target, or of the other activity, does not (R334, R342). -/
theorem test_waiting_by_target : (let s := { linked running with fab := { running.fab with waiting := [.beat 36 (.read 0x20000040#40 4)] } }
    s.behind 36 [.read 0x20000044#40 4] && !s.behind 36 [.read 0x20000080#40 4] && !s.behind 37 [.read 0x20000044#40 4]) = true := by decide +kernel
/-- Fabric addresses decode to Larder by 64-byte lines across its 8 banks, and to the Tun of a core that is present (R332, R333). -/
theorem test_fabric_targets : fabTarget running larderBase = some 0 ∧ fabTarget running (larderBase + 0x1C0) = some 7
    ∧ fabTarget running (larderBase + 0x17FFFFF) = some 7 ∧ fabTarget running (larderBase + 0x1800000) = none
    ∧ fabTarget running (tunBase 15) = some 31 ∧ fabTarget running caskBase = none := by decide +kernel
/-- The whole Tun window of an absent core is unpopulated, and above 0x3FFFF that of a present core is undecoded (R101, R333). -/
theorem test_absent_tun : absentTun (fewCores running) (tunBase 15) = true ∧ absentTun (fewCores running) (tunBase 16) = false
    ∧ fabTarget running (tunBase 15 + 0x40000) = none ∧ absentTun running (tunBase 15 + 0x40000) = false := by decide +kernel

theorem witness_MemoryErrorsBar2AndAtomics :
    (let s := linked running
     (s.quiet ∧ mayNow s 36 0 1 ∧ mayNow s 36 0 2)
       ∧ (s.fab.upsets = [] ∧ (0x20000040#40).toNat % 8 + 8 ≤ 8 ∧ fabTarget s 0x20000040 = some 1 ∧ s.behind 36 [.read 0x20000040#40 4] = false
         ∧ s.flag R.HIF_STAT.pcie_up = true ∧ (s.get R.HIF_WIN_BASE.base * 2 ^ 20 + (0x3F#24).toNat) % 2 ^ 40 % 64 + 1 ≤ 64
         ∧ fabTarget s ((s.get R.HIF_WIN_BASE.base * 2 ^ 20 + 0x3F) % 2 ^ 40) = some 0
         ∧ s.get (R.FAB_SV_BUD.budget 36 0) ≠ 0 ∧ (0x38#24).toNat % 64 + 8 ≤ 64 ∧ (0x3C#24).toNat % 64 + 4 ≤ 64))
    ∧ (unbudgeted.sys.dataPlane = true ∧ unbudgeted.get (R.FAB_SV_BUD.budget 36 0) = 0)
    ∧ (let s := linked running; { s with fab := { s.fab with waiting := [.beat 36 (.read 0x20000040#40 4)] } }).behind 36 [.write 0x20000044#40 [some 1]] = true :=
  ⟨⟨⟨⟨rfl, rfl⟩, may_now _ _ _ _ (by decide +kernel), may_now _ _ _ _ (by decide +kernel)⟩, by decide +kernel⟩, by decide +kernel, by decide +kernel⟩
/-- FetchAdd of 1 to zeroed Larder leaves 1 there (R356). -/
theorem test_fetchadd : after (.atomicFetchadd 0x40 true false 1) (linked running)
    (fun t => t.memBytes 0x20000040 8 == [1, 0, 0, 0, 0, 0, 0, 0] && t.out.head? == some (.bytes (List.replicate 8 0))) = true := by decide +kernel

/-- A sequence of eight beats at one bank; one beat, and two at two banks, which cannot be locked; allowances; the warning. -/
theorem witness_LockedSequencesAndAllowances :
    (let s := linked running
     let bs := List.replicate 8 (Beat.read 0x20000040#40 8)
     (s.quiet ∧ mayNow s 37 0 8 ∧ mayNow s 36 0 8) ∧ s.fab.upsets = [] ∧ 2 ≤ bs.length ∧ bs.length ≤ 8
       ∧ (∀ b ∈ bs, b.ok = true ∧ fabTarget s b.addr = some 1) ∧ s.behind 37 bs = false ∧ s.fab.warn = false)
    ∧ (let s := linked running
       let one := [Beat.read 0x20000040#40 8]
       let two := [Beat.read 0x20000040#40 8, .read 0x20000080#40 8]
       s.fab.waiting = [] ∧ s.get (R.FAB_SV_BUD.budget 37 0) ≠ 0 ∧ one.length < 2 ∧ (∀ b ∈ two, b.ok = true)
         ∧ fabTarget s 0x20000040 = some 1 ∧ fabTarget s 0x20000080 = some 2)
    ∧ (let s := { running with flt := { running.flt with mgpRun := true } }; s.flt.mgpRun = true ∧ s.flt.mbHeld = [] ∧ s.flt.mbOut.length < 16)
    ∧ (let s := withFields running [(R.PWRA_CONS.cost 20, 1), (R.PWRA_GRANT.allow 20, 15)]
       s.get (R.PWRA_CONS.cost 20) ≠ 0 ∧ s.get (R.PWRA_GRANT.allow 20) < 16 ∧ running.get (R.PWRA_CONS.cost 20) = 0)
    ∧ (let s := { running with fab := { running.fab with warn := true } }; s.fab.warn = true) :=
  ⟨⟨⟨⟨rfl, rfl⟩, may_now _ _ _ _ (by decide +kernel), may_now _ _ _ _ (by decide +kernel)⟩, by decide +kernel⟩, by decide +kernel, by decide +kernel,
    by decide +kernel, rfl⟩

/-! ## TWT and in-band control -/

theorem witness_TwtServesItsCommandsOrSleeps : (running.quiet ∧ State.reset.quiet ∧ (upIn .standby).quiet)
    ∧ (running.sys.state ≠ .reset ∧ running.sys.state ≠ .standby ∧ State.reset.sys.state = .reset ∧ (upIn .standby).sys.state = .standby)
    ∧ ((0x1FFFFFC#32).toNat ≤ 0x1FFFFFC ∧ 0x1FFFFFC < (0x1FFFFFD#32).toNat ∧ ([] : List Word).length = 0 ∧ 8 < (List.replicate 9 (0 : Word)).length
      ∧ 1 ≤ (List.replicate 8 (0 : Word)).length ∧ (List.replicate 8 (0 : Word)).length ≤ 8)
    ∧ (0 : Byte) ≠ crc8 (0x90#8 :: 0x02#8 :: 4#8 :: [0, 0, 0, 0])
    ∧ (0#8).toNat ∉ [1, 2, 3, 4, 5] ∧ (6#8).toNat ∉ [1, 2, 3, 4, 5] ∧ 5#8 ≠ 4#8 ∧ (3#8).toNat % 4 ≠ 0 ∧ (0#8).toNat < 4 ∧ 32 < (36#8).toNat :=
  ⟨⟨⟨rfl, rfl⟩, ⟨rfl, rfl⟩, ⟨rfl, rfl⟩⟩, by decide, by decide, by decide +kernel⟩
/-- TWT sets its pointer and reads the word there, low byte first, after its count (R357). -/
theorem test_twt_pointer : after (.twtSetPointer 0x1FFFFFC#32) running (fun t => t.get R.TWT_PTR.ptr == 0x1FFFFFC) = true := by decide +kernel

/-- A request with one entry, of an operation, and the frame that carries it to port 0; the key fuse programmed, time taken. -/
def request (op ctr : Nat) : List Byte :=
  beBytes 1 1 ++ beBytes 1 op ++ beBytes 2 1 ++ beBytes 4 ctr ++ beBytes 4 0 ++ beBytes 4 7 ++ beBytes 4 R.HIF_INT_EN.reg
    ++ (if op = 1 then beBytes 4 5 else []) ++ List.replicate 16 0
def asker : IbPeer := ⟨0x0A0000000001, some (3, 5), false, 0x0A000001, 0x0A000002, 99⟩
def requestFrame (b : List Byte) : List Byte :=
  ethBuild 0x0A2233445577 asker.mac asker.tag 0x0800 ++ udpBuild false asker.ip asker.me asker.udp 0x1234 64 0 0 true b
def inbandUp : State :=
  let s := withFields running [(R.HIF_IB_CFG.ports, 1), (R.HIF_IB_CFG.udp_port, 0x1234), (R.ETH_PSTAT.link 0, 1), (R.ETH_MAC_LO.mac 0, 0x33445577),
    (R.ETH_MAC_HI.mac 0, 0x0A22)]
  { s with
    sys := { s.sys with fuses := { s.sys.fuses with ibKey := true } }, ptp := { s.ptp with taken := true }
    hif := { s.hif with ibHigh := some 100, ibSeen := [90], answers := [⟨0, asker, 1, 2, 3, [(4, 0)]⟩] } }
/-- A write and a read; a counter above the highest, 63 and 64 below it, and one that was seen; an answer over a link that is up and one that is not. -/
theorem witness_InbandRequestsAreCheckedTakenAndAnswered :
    let s := inbandUp
    let x : IbAnswer := ⟨0, asker, 1, 2, 3, [(4, 0)]⟩
    s.quiet
    ∧ (∀ op : Fin 3, op ≠ 0 → let b := request op.val 101
        (udpOf (requestFrame b) (ethHdr (requestFrame b))).map (fun u => (u.dport, u.payload)) = some (s.get R.HIF_IB_CFG.udp_port, b)
          ∧ acceptsDa s 0 (ethHdr (requestFrame b)).da (rxFrame s 0 0 (requestFrame b) false).vid = true ∧ beNat ((b.drop 1).take 1) = op.val
          ∧ b.length = 32 + (if op.val = 1 then 8 else 4) * 1 ∧ beNat (b.take 1) = 1 ∧ beNat ((b.drop 2).take 2) = 1
          ∧ beNat ((b.drop 16).take 4) / 4 * 4 = R.HIF_INT_EN.reg)
    ∧ (s.sys.state ≠ .reset ∧ s.sys.state ≠ .standby ∧ s.linkUp 0 = true ∧ s.isTwinPort 0 = false ∧ (s.get R.HIF_IB_CFG.ports).testBit 0 = true
      ∧ s.sys.fuses.ibKey = true)
    ∧ (s.ptp.taken = true ∧ (extend32 s.pn 0 - s.pn).natAbs ≤ max 1 (s.get R.HIF_IB_CFG.fresh) * 256 ∧ newer 101 100 32 = true
      ∧ ((100 + 2 ^ 32 - 37) % 2 ^ 32 = 63 ∧ 37 ∉ s.hif.ibSeen) ∧ (100 + 2 ^ 32 - 36) % 2 ^ 32 = 64 ∧ 90 ∈ s.hif.ibSeen)
    ∧ (s.flag R.HIF_CTRL.ib_en = true ∧ (withFields s [(R.HIF_CTRL.ib_en, 0)]).flag R.HIF_CTRL.ib_en = false)
    ∧ (s.hif.answers = x :: [] ∧ x.port < 8 ∧ (withFields s [(R.ETH_PSTAT.link 0, 0)]).linkUp 0 = false
      ∧ qRoom s (s.eport 0) 6 ⟨padFrame (x.frame s 0 (x.bytes s.pnl ++ beBytes 16 5)), .own, false⟩ = true) :=
  ⟨⟨rfl, rfl⟩, by decide +kernel⟩

/-! ## Faults, watchdogs, the MGP -/

/-- A record of a class in a slot; a state whose queue holds these records. -/
def recordAt (cls slot : Nat) : FaultRec := ⟨cls, 1, 2, slot, 0, false, 0, 0, slot, 0⟩
def queued (l : List FaultRec) (s : State) : State := { s with flt := { s.flt with queue := l } }
/-- The 56 general slots hold records of a class. -/
def fullOf (cls : Nat) : State := queued ((List.range 56).map (recordAt cls)) running

/-- The host watchdog of 2 ms expires in the period in which its 2 ms end, not in an earlier one (R404). -/
theorem test_host_watchdog_waits :
    (let s := withFields { running with flt := { running.flt with wdogRun := true }, sys := { running.sys with up := 2 * msVco - running.perVco } } [(R.FLT_WDOG.timeout, 2)]
     after .hostWdogExpiry s (fun t => t.flt.wdogRun)
       && after .hostWdogExpiry { s with sys := { s.sys with up := 2 * msVco - running.perVco + 1 } } (fun t => !t.flt.wdogRun && t.flag R.FLT_WDOG.expired)) = true := by decide +kernel

/-- Records that agree at the saturated count; slot 56 free for class 3 and taken; the general slots full of class 0, 2 and 3. -/
theorem witness_FaultsAreQueuedAndWatchdogsExpire : TakesWrite running .pcie
    ∧ (let s := withFields { running with flt := { running.flt with wdogRun := true, mgpRun := true } } [(R.FLT_WDOG.action, 1)]
       s.quiet ∧ s.flt.wdogRun = true ∧ s.get R.FLT_WDOG.action ≠ 2 ∧ s.flt.mgpRun = true ∧ s.flt.wdogUp + s.get R.FLT_WDOG.timeout * msVco < s.sys.up + s.perVco
         ∧ ((s.sys.up :: s.flt.mgpExpiry).filter (fun u => decide (s.sys.up ≤ u + 60000 * msVco))).length < 3)
    ∧ ((⟨3, 1, 2, 57⟩ : Raised).cls ≤ 3 ∧ ∃ r ∈ (queued [⟨3, 1, 2, 57, 65535, false, 0, 0, 57, 0⟩] running).flt.queue, r.cls = 3 ∧ r.blk = 1
        ∧ r.code = 2 ∧ r.detail = 57)
    ∧ (∀ r ∈ (queued [recordAt 3 56] running).flt.queue, r.slot ≠ 57 ∧ r.slot ≠ 0) ∧ (∀ r ∈ running.flt.queue, r.slot ≠ 56)
    ∧ (∀ k, k < 56 → ¬ ∀ r ∈ (fullOf 0).flt.queue, r.slot ≠ k) ∧ ((fullOf 0).flt.queue = [] ++ recordAt 0 0 :: ((List.range 56).map (recordAt 0)).tail
        ∧ (recordAt 0 0).cls = 0 ∧ 0 ≤ (⟨1, 9, 9, 9⟩ : Raised).cls)
    ∧ ((fullOf 2).flt.queue = [] ++ recordAt 2 0 :: ((List.range 56).map (recordAt 2)).tail ∧ ∀ w, w < 2 → ∀ y ∈ (fullOf 2).flt.queue, ¬ y.cls = w)
    ∧ (∀ y ∈ (fullOf 3).flt.queue, y.cls ≠ 0 ∧ y.cls ≠ 1 ∧ y.cls ≠ 2)
    ∧ (let s := { running with flt := { running.flt with mgpRun := true, mgpExpiry := [0, 0] } }
       s.flt.mgpRun = true ∧ 3 ≤ ((s.sys.up :: s.flt.mgpExpiry).filter (fun u => decide (s.sys.up ≤ u + 60000 * msVco))).length)
    ∧ running.flt.mgpRun = false ∧ running.image = true :=
  ⟨takes_running _ (by decide), ⟨⟨rfl, rfl⟩, by decide +kernel⟩, by decide +kernel⟩
/-- A 65th agreeing fault is counted in its record, which stays in its slot (R393). -/
theorem test_coalesce : (enqueue (queued [recordAt 1 3] running) ⟨1, 1, 2, 3⟩).flt.queue = [{ recordAt 1 3 with count := 1 }] := by decide +kernel

/-- A queue with class 1 before class 3; the mailbox with room, and full. -/
def drained (out : List (List Word)) : State :=
  let s := withFields (queued [recordAt 1 3, recordAt 3 57] running) [(R.FLT_CFG.mgp_drain, 1)]
  { s with flt := { s.flt with mgpRun := true, mbOut := out } }
theorem witness_PopsMoveARecordToItsReader : TakesWrite running .pcie ∧ running.quiet
    ∧ (let s := drained (List.replicate 15 []); s.quiet ∧ s.flt.mgpRun = true ∧ s.flag R.FLT_CFG.mgp_drain = true ∧ s.flt.mbHeld = []
        ∧ s.flt.mbOut.length < 16 ∧ s.flt.queue.find? (fun x => x.cls == 3) = some (recordAt 3 57))
    ∧ (let q := (queued [recordAt 1 3, recordAt 3 57] running).flt.queue
       (∃ x ∈ q, x.cls = 3) ∧ q.find? (fun x => x.cls == 3) = some (recordAt 3 57) ∧ q.head? = some (recordAt 1 3))
    ∧ ((3#32).getLsbD 0 = true ∧ (2#32).getLsbD 0 = false ∧ (3#32).getLsbD 1 = true ∧ (1#32).getLsbD 1 = false)
    ∧ running.flt.queue = [] ∧ running.flt.mgpRun = false ∧ 16 ≤ (drained (List.replicate 16 [])).flt.mbOut.length :=
  ⟨takes_running _ (by decide), ⟨rfl, rfl⟩, ⟨⟨rfl, rfl⟩, by decide +kernel⟩, by decide +kernel⟩

/-- A request of a type with these words waits in the mailbox of a running MGP. -/
def asked (ty : Nat) (ws : List Nat) : State :=
  let s := (List.range 8).foldl (fun s i => s.setReg (R.MGP_MB_IN.reg i) (BitVec.ofNat 32 (((ty + 256 * ws.length) :: ws).getD i 0)))
    (withFields running [(R.MGP_MB_GO.go, 1), (R.MGP_MB_STAT.in_busy, 1)])
  { s with flt := { s.flt with mgpRun := true } }
abbrev readyFor (ty : Nat) (s : State) : Prop :=
  s.mbBusy = true ∧ s.flt.mgpRun = true ∧ fieldGet 0 8 (s.mbIn 0) = ty ∧ s.flt.mbHeld = [] ∧ s.flt.mbOut.length < 16
/-- A domain, a steps-removed value and a log interval at the ends of what is right, and beyond them. -/
def attrRight (s : State) : Bool :=
  decide (fieldGet 8 3 (s.mbIn 0) = 3 ∧ (s.mbIn 1).toNat < 2 ∧ 2 ≤ fieldGet 24 8 (s.mbIn 3) ∧ -3 ≤ ((s.mbIn 3).extractLsb' 16 8).toInt
    ∧ ((s.mbIn 3).extractLsb' 16 8).toInt ≤ 4)
theorem witness_MgpServesItsMailboxAndRegisters :
    TakesWrite running .pcie ∧ (asked 1 []).quiet
    ∧ ((asked 1 []).mbBusy = true ∧ running.mbBusy = false ∧ running.flt.mgpRun = false
      ∧ { running with flt := { running.flt with mgpRun := true } }.flt.mgpRun = true)
    ∧ (readyFor 1 (asked 1 []) ∧ readyFor 2 (asked 2 [1, 5, 0x02FD0000]) ∧ readyFor 3 (asked 3 [1]) ∧ readyFor 9 (asked 9 []))
    ∧ ([[1, 5, 0x02FD0000], [1, 5, 0xFF040000], [1, 5, 0x02FC0000], [1, 5, 0x02050000], [2, 5, 0x02040000], [1, 5, 0x01040000]].map
      (fun ws => attrRight (asked 2 ws)) = [true, true, false, false, false, false])
    ∧ (fieldGet 8 3 ((asked 3 [1]).mbIn 0) = 1 ∧ ((asked 3 [1]).mbIn 1).toNat < 2) ∧ ¬((asked 3 [2]).mbIn 1).toNat < 2 ∧ 9 ∉ [1, 2, 3]
    ∧ (asked 1 []).sys.state ≠ .reset ∧ (7 : Fin 8).val < (asked 1 []).sys.fuses.ports :=
  ⟨takes_running _ (by decide), ⟨rfl, rfl⟩, by decide +kernel⟩

/-! ## What the engine does for a core -/

/-- Core 2 with an enabled slice at 5. -/
def sliced (k : Core) : State := withFields (oneCore k) [(R.CORE_SLICE.en 2 7, 1), (R.CORE_SLICE.at_ 2 7, 5)]
theorem witness_CoreEventsAndTheDebugger :
    (let s := sliced { coreK with cyc := 80 }
     s.quiet ∧ s.flag (R.CORE_SLICE.en 2 7) = true ∧ s.sys.dataPlane = true ∧ s.sys.idle = false ∧ (s.core 2).run = .running
       ∧ 16 * s.get (R.CORE_SLICE.at_ 2 7) < s.perDsp ∧ (s.core 2).cyc = 16 * s.get (R.CORE_SLICE.at_ 2 7))
    ∧ TakesWrite running .pcie ∧ (2 : Fin 16).val < running.sys.fuses.cores
    ∧ (running.flag (R.CORE_SLICE.en 2 7) = false
      ∧ (let k := { coreK with level := 2, bell := true }; k.run = .running ∧ k.group = [] ∧ k.slot = none ∧ k.level ≠ 1 ∧ k.bell = true)
      ∧ (let k := { coreK with level := 1, slice := true }; ¬(k.level ≠ 1 ∧ (k.bell = true ∨ k.slice = true))))
    ∧ (let s := oneCore { coreK with evDma := true }
       (s.core 2).level = 0 ∧ (s.core 2).ie2 = true ∧ s.stalledC 2 = false ∧ (s.core 2).evDma = true ∧ (s.core 2).bell = false
         ∧ (s.core 2).slice = false)
    ∧ fieldGet 0 1 0xE#32 = running.get (R.CORE_CTRL.enable 2)
    ∧ (let s := withFields (oneCore coreK) [(R.CORE_BKPT.en 2 3, 1), (R.CORE_BKPT.addr 2 3, 0x40), (R.CORE_DBG_SEL.halt_en 2, 1)]
       canIssue s 2 = true ∧ (s.core 2).group = [] ∧ (3 < 4 ∧ s.flag (R.CORE_BKPT.en 2 3) = true
         ∧ 4 * s.get (R.CORE_BKPT.addr 2 3) = (s.core 2).pc.toNat) ∧ s.flag (R.CORE_DBG_SEL.halt_en 2) = true)
    ∧ canIssue running 2 = false
    ∧ (let k := { coreK with level := 1 }; (k.level == 0 && k.ie2) = false ∧ (coreK.level == 0 && coreK.ie2) = true)
    ∧ (∀ n ∈ [0, 0x49, 0x4A, 0x7F, 0x80, 0x9F, 0xA0, 0xA1, 0xA2, 0xA3, 0xBF, 0xC0, 0xFF],
        (withFields (oneCore { coreK with run := .halted }) [(R.CORE_DBG_SEL.num 2, n)]).get (R.CORE_DBG_SEL.num 2) = n)
    ∧ (oneCore coreK |>.core 2).run ≠ .halted ∧ (oneCore { coreK with run := .halted } |>.core 2).run = .halted :=
  ⟨⟨⟨rfl, rfl⟩, by decide +kernel⟩, takes_running _ (by decide), by decide +kernel⟩

/-- Core 2 with an interface block at 4 × 64 and two halves of 1,024 bytes of parameters at 16 × 64; its group may hold a commit. -/
def coreIo (io : CoreIo) (target : Option Nat) (k : Core := coreK) : State :=
  let s := (withFields (oneCore k) [(R.CORE_AREA.base 2, 4), (R.CORE_PARAM.base 2, 16), (R.CORE_PARAM.len 2, 16)]).setIo 2 io
  { s with hif := { s.hif with groups := s.hif.groups.set 18 ⟨none, target.map (fun t => ⟨5, t, [], 0⟩), none⟩ } }
/-- The target of core 2's held commit. -/
def heldAt (s : State) : Option Nat := (s.hif.groups[16 + 2]).fixed.map (·.target)
theorem witness_CoreHeadersWindowsAndMailboxes :
    (let s := coreIo CoreIo.zero (some 1)
     s.quiet ∧ s.fab.upsets = [] ∧ heldAt s = some (s.pn + 1) ∧ s.sys.dataPlane = true
       ∧ (s.core 2).run = .running ∧ (s.io 2).hdr = none ∧ (s.io 2).copying = [])
    ∧ (TakesWrite (coreIo CoreIo.zero none) .pcie ∧ TakesWrite (coreIo CoreIo.zero none) .boot)
    ∧ (let s := coreIo CoreIo.zero (some 2); heldAt s = some (s.pn + 2))
    ∧ (let s := coreIo { CoreIo.zero with copying := [255], postponed := true } (some 1)
       (s.io 2).copying ≠ [] ∧ (s.io 2).postponed = true ∧ ∀ o ∈ (s.io 2).copying, 4 * o < s.paramLen 2)
    ∧ (let s := coreIo { CoreIo.zero with copying := [0] } (some 1); (s.io 2).copying ≠ [] ∧ (s.io 2).postponed = false)
    ∧ (upIn .prepare).sys.dataPlane = false
    ∧ (let s := coreIo CoreIo.zero none { coreK with run := .faulted }
       (2 : Fin 16).val < s.sys.fuses.cores ∧ s.twinMode = false ∧ 4 * (255 : Fin 8192).val < s.paramLen 2 ∧ s.paramLen 2 ≤ 4 * (256 : Fin 8192).val
         ∧ s.flag (R.CORE_MBOX_STAT.in_pend 2) = false ∧ (withFields s [(R.CORE_MBOX_STAT.in_pend 2, 1)]).flag (R.CORE_MBOX_STAT.in_pend 2) = true
         ∧ s.memWord (tunBase 2 + 0x28000 + 64 * s.get (R.CORE_AREA.base 2) + 0x9C) = 0
         ∧ (s.core 2).run = .faulted ∧ s.flag (R.CORE_RUN.restart 2) = false ∧ s.flag (R.CORE_MBOX_STAT.out_full 2) = false
         ∧ (s.memWrite (tunBase 2 + 0x28100 + 0xA0) (List.replicate 32 5)).memWord
            (tunBase 2 + 0x28000 + 64 * s.get (R.CORE_AREA.base 2) + 0xA0 + 28) ≠ 0) :=
  ⟨⟨⟨rfl, rfl⟩, by decide +kernel⟩, ⟨⟨by decide, by decide +kernel, rfl, rfl⟩, ⟨by decide, by decide +kernel, rfl, rfl⟩⟩, by decide +kernel⟩

/-- A descriptor in core 2's best-effort ring: 10 words of 8 bytes between Larder at 0x20001000 and Tun; owned or not. -/
def described (w1 : Nat) (s : State) : State :=
  (withFields s [(R.CORE_DMA_BE.base 2, 8), (R.CORE_DMA_BE.len 2, 4), (R.FAB_SV_BUD.budget 18 0, 40), (R.FAB_SV_BUD.budget 18 2, 40)]).memWrite
    (tunBase 2 + 0x28200) (leBytes 4 0x20001000 ++ leBytes 4 w1 ++ leBytes 4 0x30010)
def transfer : DmaX := ⟨tunBase 2 + 0x28200, 0x20001000, true, true, 10, 0x30010, 0, 0, false⟩
theorem transfer_served (s : State) (h : ∀ i, i < 80 → fabTarget s (0x20001000 + i) = some ((0x20001000 + i - larderBase) / 64 % 8)) :
    transfer.tun + 8 * transfer.len ≤ 0x40000 ∧ s.backs transfer.addr (8 * transfer.len) :=
  ⟨by decide, fun i hi => ⟨_, h i hi, by omega, fun h8 => absurd h8 (by omega)⟩⟩
theorem witness_CoreDmaTakesMovesAndEnds :
    (let s := described 0x000A0700 (oneCore coreK)
     (s.quiet ∧ mayNow s 18 0 2 ∧ mayNow s 18 2 2) ∧ s.fab.upsets = [] ∧ (s.core 2).run = .running ∧ s.ringLen 2 false ≠ 0 ∧ (s.io 2).be = []
       ∧ (s.io 2).beHead = 0
       ∧ (let w := s.memWord (tunBase 2 + 0x28000 + 64 * s.get (R.CORE_DMA_BE.base 2) + 4)
          w.getLsbD 10 = true ∧ fieldGet 16 16 w = 10 ∧ larderBase ≤ 0x20001000 ∧ 0x20001000 + 80 ≤ larderBase + 0x1800000))
    ∧ (transfer.tun + 8 * transfer.len ≤ 0x40000 ∧ running.backs transfer.addr (8 * transfer.len))
    ∧ fieldGet 16 16 0x00000700#32 = 0 ∧ (0x000A0300#32).getLsbD 10 = false ∧ transfer.left = 0
    ∧ ({ CoreIo.zero with rt := [transfer] }.rt = transfer :: [] ∧ { CoreIo.zero with be := [transfer] }.be = transfer :: []) :=
  ⟨⟨⟨⟨rfl, rfl⟩, may_now _ _ _ _ (by decide +kernel), may_now _ _ _ _ (by decide +kernel)⟩, by decide +kernel⟩, transfer_served _ (by decide +kernel),
    by decide⟩

/-! ## Passes, local I/O, modulators -/

/-- Core 2 enabled, with two sends and two returns, at a point of the pass. -/
def passing (phase : Nat) (k : Core := coreK) (io : CoreIo := CoreIo.zero) : State :=
  let s := (withFields (oneCore k) [(R.CORE_SEND.base 2, 3), (R.CORE_SEND.count 2, 2), (R.CORE_AREA.base 2, 4), (R.CORE_RET.base 2, 20),
    (R.CORE_RET.count 2, 2), (R.CORE_CTRL.enable 2, 1)]).setIo 2 io
  { s with mash := { s.mash with phase := phase } }
abbrev started (s : State) (j : Fin 16) : Prop := (s.core j).run = .running ∨ (s.core j).run = .idle ∨ (s.core j).run = .halted
theorem witness_SendsArePlacedAndReturnsTaken :
    (let s := passing 1
     s.quiet ∧ s.fab.upsets = [] ∧ s.mash.phase = 1 ∧ started s 2
       ∧ ∀ j : Fin 16, 0x10000 + 64 * s.get (R.CORE_SEND.base j.val) + 2 * s.sendCount j.val * 4 * s.nSamp ≤ 0x28000)
    ∧ (let s := passing 2
       s.mash.phase = 2 ∧ s.flag (R.CORE_CTRL.enable 2) = true ∧ s.sys.dataPlane = true ∧ started s 2
         ∧ (s.memWord (tunBase 2 + 0x28000 + 64 * s.get (R.CORE_AREA.base 2) + 0x40 + 4 * (s.pn % 2))).toNat = s.pn % 2 ^ 32
         ∧ (s.io 2).ovrNow = false ∧ (s.core 2).run ≠ .halted)
    ∧ (let s := passing 2 coreK { CoreIo.zero with ovrNow := true }
       (s.io 2).ovrNow = true ∧ ∀ j : Fin 16, j ≠ 2 → s.flag (R.CORE_CTRL.enable j.val) = false)
    ∧ started (passing 2 { coreK with run := .halted }) 2 ∧ ((passing 2 { coreK with run := .faulted }).core 2).run = .faulted
    ∧ (passing 2).flag (R.CORE_CTRL.enable 3) = false ∧ ((passing 0).mash.phase ≠ 1 ∧ (passing 0).mash.phase ≠ 2) :=
  ⟨⟨⟨rfl, rfl⟩, by decide +kernel⟩, by decide +kernel⟩

/-- TDM group 1 runs with two slots, as a master or a slave, in domain 0 or 1; the second synthesiser follows it. -/
def tdm (master domain : Nat) (f : XioGrp → XioGrp := id) (b : List BridgeU := []) : State :=
  let s := withFields running [(R.XIO_GRP_CFG.master 1, master), (R.XIO_GRP_CFG.slots_m1 1, 1), (R.XIO_GRP_STAT.clk_ok 1, 1),
    (R.XIO_GRP_CFG.domain 1, domain), (R.XIO_DOM.src 0, 2), (R.XIO_DOM.locked 0, 1), (R.XIO_DOM.src 1, 3),
    (R.XIO_DOM.grp 1, 1), (R.XIO_DOM.locked 1, 1), (R.XIO_IMAP.valid 511, 1), (R.XIO_IMAP.port 511, 9), (R.XIO_BR_CFG.port 255, 9)]
  { s with xio := { s.xio with grp := s.xio.grp.set 1 (f { s.xio.grp[1] with run := true }), bridges := b } }
def bridge (locked : Bool) : BridgeU := ⟨255, locked, 3, 0, [], 0⟩
/-- How full the elastic buffer is in each clause of a slave's frame, and whether it fills. -/
def slaveAt (filling : Bool) (n : Nat) : State := tdm 0 0 (fun x => { x with filling := filling, inq := List.replicate n [[5]] })
theorem witness_TdmFramesClocksAndBridges :
    (let s := tdm 1 0
     s.quiet ∧ s.mirrors = false ∧ s.twin.mir = [] ∧ s.sys.idle = false ∧ (s.grp 1).run = true ∧ s.grpMaster 1 = true ∧ s.grpDom 1 = 0
       ∧ (s.grp 1).cnt < s.nSamp ∧ (s.grp 1).loss = none ∧ (s.grp 1).rise = none ∧ s.flag (R.XIO_IMAP.valid 511) = true
       ∧ s.get (R.XIO_IMAP.port 511) / 8 = 1 ∧ s.sxe.store = [])
    ∧ (let s := tdm 0 0
       s.grpMaster 1 = false ∧ s.grpDom 1 = 0 ∧ s.grpSource 1 = false ∧ (s.grp 1).loss = none ∧ s.flag (R.XIO_GRP_STAT.clk_ok 1) = true
         ∧ 64 = s.grpSlots 1 * s.slotBits 1 ∧ 63 ≠ s.grpSlots 1 * s.slotBits 1 ∧ (s.grp 1).errs < 3)
    ∧ ([(true, 0), (true, 1), (false, 2), (false, 3), (false, 1)].map (fun c => let x := (slaveAt c.1 c.2).grp 1; (x.filling, x.inq.length, x.cnt))
      = [(true, 0, 0), (true, 1, 0), (false, 2, 0), (false, 3, 0), (false, 1, 0)]) ∧ (running.grp 2).run = false
    ∧ (let s := tdm 0 1 id [bridge false]
       (∀ y ∈ s.xio.bridges, y.b < 256) ∧ s.get (R.XIO_DOM.src 0) ≠ 0 ∧ s.synthRef 0 = true ∧ s.synthRef 1 = false
         ∧ s.flag (R.XIO_DOM.locked 0) = true ∧ s.xio.bridges.find? (fun y => y.b == 255) = some (bridge false)
         ∧ 2 ^ 28 ≤ 6 * (0x02AAAAAB#32).toNat ∧ (0x40000000#32).toNat ≤ 2 ^ 30 ∧ ¬ 2 ^ 28 ≤ 6 * (0x02AAAAAA#32).toNat
         ∧ s.get (R.XIO_GRP_CFG.domain (s.get (R.XIO_BR_CFG.port 255) / 8)) = 1 ∧ ∀ y ∈ s.xio.bridges, y.locked = false)
    ∧ (tdm 0 1 id [bridge true]).xio.bridges.find? (fun y => y.b == 255) = some (bridge true)
    ∧ (let s := tdm 0 1
       s.get (R.XIO_DOM.src 1) = 3 ∧ s.get (R.XIO_DOM.grp 1) = 1 ∧ s.flag (R.XIO_DOM.locked 1) = true
         ∧ (withFields s [(R.XIO_GRP_STAT.clk_ok 1, 0)]).flag (R.XIO_GRP_STAT.clk_ok 1) = false) :=
  ⟨⟨⟨rfl, rfl⟩, by decide +kernel⟩, by decide +kernel⟩

/-- Modulator channel 23 in a state, with these fields, enabled in RUN-LOCKED. -/
def modulator (st : Nat) (f : PwmCh → PwmCh := id) (l : List (Loc × Nat) := []) : State :=
  let s := withFields running ([(R.PWM_CH_STAT.state 23, st), (R.PWM_CH_CFG.en 23, 1)] ++ l)
  { s with pwm := s.pwm.set 23 (f s.pwm[23]) }
/-- Two samples in a period, 100 VCO cycles before its end: the cycle that starts needs samples of the period after next. -/
def atTheEnd : State := let s := withFields (modulator 3) [(R.SYS_GRID.n_log2, 1)]; { s with sys := { s.sys with et := 40860 } }
/-- The counts of boot, settling and the stop ramp one before their end and there. -/
def counted23 (st k : Nat) (up : Nat := 0) : State :=
  let s := modulator st (fun x => { x with k := k, sg0 := 65536 }); { s with sys := { s.sys with up := up } }
theorem witness_ChannelsAreDrivenLimitedStartedAndStopped :
    (let s := modulator 3
     s.quiet ∧ (23 : Fin 24).val < s.sys.fuses.pwm ∧ s.get (R.PWM_CH_STAT.state 23) = 3 ∧ s.flag (R.PWM_RAIL_STAT.low (23 / 3)) = false
       ∧ s.flag (R.PWM_CH_STAT.ocf 23) = false ∧ s.flag (R.PWM_CH_CFG.en 23) = true ∧ s.sys.state = .runLocked ∧ s.sys.stbyEntry = false
       ∧ 3 * (7 : Fin 8).val < s.sys.fuses.pwm ∧ (23 : Fin 24) ∈ (List.finRange 24).filter (fun k => k.val / 3 == 7)
       ∧ (0 : Fin 24) ∉ (List.finRange 24).filter (fun k => k.val / 3 == 7))
    ∧ (∀ st : Fin 8, (modulator st.val).get (R.PWM_CH_STAT.state 23) = st.val)
    ∧ (let s := atTheEnd
       let at_ := carCentre s 23 (s.carNext 23 (s.pwmCh 23).j) (s.carLen (s.carNext 23 (s.pwmCh 23).j))
       at_.2 ≠ 0 ∧ s.pn + 1 < (at_.1 + 2) / s.nSamp)
    ∧ (modulator 3 id [(R.PWM_RAIL_STAT.low 7, 1)]).flag (R.PWM_RAIL_STAT.low (23 / 3)) = true
    ∧ (modulator 4 id [(R.PWM_CH_CFG.en 23, 0)]).flag (R.PWM_CH_CFG.en 23) = false
    ∧ (let s := modulator 5 id [(R.PWM_RAIL_CFG.rail_nom 7, 3200), (R.PWM_RAIL_MIN.rail_min 7, 1000), (R.PWM_RAIL_STAT.low 7, 1)]
       s.get (R.PWM_RAIL_CFG.rail_nom 7) ≠ 0 ∧ s.flag (R.PWM_RAIL_STAT.low 7) = true ∧ ¬ 1100 < 1000 + 3200 / 32 ∧ 1099 < 1000 + 3200 / 32
         ∧ s.get (R.PWM_RAIL_MIN.rail_min 7) = 1000)
    ∧ (let n := 196608 * max 1 (running.get R.PWM_CFG.boot_time)
       ((counted23 1 0 n).pwmCh 23).bootUp + n ≤ (counted23 1 0 n).sys.up ∧ ¬ ((counted23 1 0 (n - 1)).pwmCh 23).bootUp + n ≤ (counted23 1 0 (n - 1)).sys.up)
    ∧ (64 ≤ ((counted23 2 64).pwmCh 23).k ∧ ¬ 64 ≤ ((counted23 2 63).pwmCh 23).k)
    ∧ (let n := (65536 * (384 * max 1 (running.get R.PWM_CFG.ramp_ms)) + 65535) / 65536 + 64
       n ≤ ((counted23 4 n).pwmCh 23).k ∧ ¬ n ≤ ((counted23 4 (n - 1)).pwmCh 23).k ∧ ((counted23 4 n).pwmCh 23).sg0 = 65536) :=
  ⟨⟨⟨rfl, rfl⟩, by decide +kernel⟩, by decide +kernel⟩

/-- Seven trips behind it, the first 383 or 384 cycles ago. -/
def tripped (first : Nat) : PwmCh → PwmCh := fun x => { x with elapsed := 500, trips := (List.range 6).map (fun i => 499 - i) ++ [first] }
/-- This many boundaries have passed, these periods of run since the success of a retry. -/
def passed (bnd : Nat) (s : State) : State := { s with sys := { s.sys with bnd := bnd } }
/-- The boundaries of so many milliseconds. -/
def periods (ms : Nat) : Nat := (ms * 1966080 + running.perVco - 1) / running.perVco
theorem witness_TripsLatchOffAndRetriesRun :
    (let s := modulator 3
     s.quiet ∧ (23 : Fin 24).val < s.sys.fuses.pwm ∧ s.twinMode = false ∧ s.get (R.PWM_CH_STAT.state 23) = 3 ∧ (s.pwmCh 23).tripped = false
       ∧ s.flag (R.PWM_CH_STAT.retry 23) = false ∧ (s.pwmCh 23).won = false)
    ∧ TakesWrite running .pcie
    ∧ (let x := (modulator 3 (tripped 117)).pwmCh 23
       let t := (x.elapsed :: x.trips).take 8
       t[0]? = some 500 ∧ t[7]? = some 117 ∧ 500 - 117 < 384)
    ∧ (let x := (modulator 3 (tripped 116)).pwmCh 23; ((x.elapsed :: x.trips).take 8)[7]? = some 116 ∧ ¬ 500 - 116 < 384)
    ∧ (let s := passed (periods 50 - 1) (modulator 3 id [(R.PWM_CH_STAT.retry 23, 1), (R.PWM_CH_STAT.retries 23, 2)])
       s.flag (R.PWM_CH_STAT.retry 23) = true ∧ (s.pwmCh 23).winWait = false ∧ s.get (R.PWM_CH_STAT.retries 23) < 3
         ∧ (s.pwmCh 23).winBnd ≤ s.sys.bnd ∧ s.sys.bnd < (s.pwmCh 23).winBnd + periods 50)
    ∧ (let s := passed (periods 50) (modulator 3 id [(R.PWM_CH_STAT.retry 23, 1)])
       s.flag (R.PWM_CH_STAT.retry 23) = true ∧ (s.pwmCh 23).winWait = false ∧ (s.pwmCh 23).winBnd + periods 50 ≤ s.sys.bnd)
    ∧ 3 ≤ (modulator 3 id [(R.PWM_CH_STAT.retries 23, 3)]).get (R.PWM_CH_STAT.retries 23)
    ∧ ((modulator 3 (fun x => { x with tripped := true })).pwmCh 23).tripped = true
    ∧ (let n := periods (max 10 (running.get R.PWM_HICCUP.hiccup))
       let s := passed n (modulator 6)
       s.get (R.PWM_CH_STAT.state 23) = 6 ∧ (s.pwmCh 23).latchWait = false ∧ (s.pwmCh 23).protDue = false ∧ (s.pwmCh 23).latchBnd + n ≤ s.sys.bnd
         ∧ s.flag (R.PWM_RAIL_STAT.low (23 / 3)) = false ∧ (1#32).getLsbD 0 = true ∧ s.flag (R.PWM_CH_CMD.clear 23) = false
         ∧ ¬ ((passed (n - 1) s).pwmCh 23).latchBnd + n ≤ (passed (n - 1) s).sys.bnd)
    ∧ (let x := (modulator 3 (fun x => { x with won := true, runP := periods 10000 })).pwmCh 23; x.won = true ∧ periods 10000 ≤ x.runP) :=
  ⟨⟨⟨rfl, rfl⟩, by decide +kernel⟩, takes_running _ (by decide), by decide +kernel⟩

/-! ## Ethernet -/

/-- Port 7 enabled, with these fields and this state. -/
def port7 (l : List (Loc × Nat)) (f : EthPort → EthPort := id) : State :=
  let s := withFields running ((R.ETH_PCFG.en 7, 1) :: l)
  { s with eth := { s.eth with port := s.eth.port.set 7 (f s.eth.port[7]) } }
/-- A frame of n bytes; its transmission. -/
def frameOf (n : Nat) (src : FrameSrc := .own) : QFrame := ⟨List.replicate n 0, src, false⟩
def sending (k n : Nat) : TxNow := ⟨k, frameOf n, 0, 0⟩
/-- A gate list that closes class 5 after 100 cycles of CLK_FAB. -/
def gates57 : Gcl := ⟨1, [(0xFF, 100), (0x80, 500)]⟩
/-- What class k may send of a frame of n bytes, at least 64 and 64 left: after this much time. -/
def splitsAt (s : State) (y : TxNow) (now : Nat) : Bool :=
  let m := 64 * (1 + s.get (R.ETH_PREEMPT.frag 7))
  let n := y.past + (now - y.start) * (if s.fast 7 then 25 else 10) / 524288
  decide (y.past + m ≤ n ∧ n + m ≤ y.f.bytes.length + 4)
theorem witness_LinksPreemptionAndLowPower :
    (let s := port7 []
     s.quiet ∧ s.twinMode = false ∧ s.flag (R.KILN_REF_CFG.en 9) = false ∧ (7 : Fin 8).val < s.sys.fuses.ports ∧ s.flag (R.ETH_PCFG.en 7) = true
       ∧ s.image = true ∧ s.sys.state ≠ .standby ∧ s.flag (R.ETH_PSTAT.link 7) = false ∧ (s.eport 7).gate = none ∧ (s.eport 7).tx = none)
    ∧ (let s := port7 [(R.ETH_PSTAT.link 7, 1), (R.ETH_PSTAT.pre_state 7, 2), (R.ETH_PCFG.bridge 7, 1)]
         (fun x => { x with tx := some (sending 1 400), queues := x.queues.set 7 [frameOf 64] })
       s.flag (R.ETH_PSTAT.link 7) = true ∧ s.flag (R.ETH_PCFG.bridge 7) = true ∧ (s.eport 7).tx = some (sending 1 400)
         ∧ (s.eport 7).held = none ∧ s.get (R.ETH_PSTAT.pre_state 7) = 2 ∧ (∀ d : Fin 2, s.slavePort d ≠ some 7) ∧ (frameOf 400).src ≠ .ring 1
         ∧ (s.get (R.ETH_PREEMPT.express 7)).testBit 1 = false ∧ (s.eport 7).queues[7] ≠ [] ∧ gateLeft s (s.eport 7) 7 0 ≠ some 0
         ∧ splitsAt s (sending 1 400) 10000000 = true ∧ splitsAt s (sending 1 400) 0 = false)
    ∧ (let s := port7 [(R.ETH_PSTAT.pre_state 7, 2)] (fun x => { x with tx := some (sending 5 400), gate := some gates57 })
       (s.eport 7).gate = some gates57 ∧ (0x80 : Nat).testBit 5 = false ∧ (0x80 : Nat).testBit 7 = true
         ∧ (∀ k : Fin 8, (s.eport 7).queues[k] = []) ∧ splitsAt s (sending 5 400) (s.fabInstant 0 100) = true)
    ∧ (let s := port7 [] (fun x => { x with queues := (Vector.replicate 8 []).set 5 [frameOf 1600], gate := some gates57 })
       (s.eport 7).tx = none ∧ (s.eport 7).queues = (Vector.replicate 8 []).set (5 : Fin 8) [frameOf 1600] ∧ (∀ r : Fin 4, (frameOf 1600).src ≠ .ring r.val)
         ∧ wireFits s 7 (frameOf 1600).bytes.length 24 (gates57.longest 5) = false)
    ∧ ((port7 [] (fun x => { x with tries := 2 })).eport 7).tries = 2 ∧ (port7 [(R.ETH_PSTAT.pre_state 7, 1)]).get (R.ETH_PSTAT.pre_state 7) = 1
    ∧ (let s := port7 [(R.ETH_PSTAT.link 7, 1), (R.ETH_EEE.en 7, 1), (R.ETH_EEE.tw_tx 7, 1)]
       s.flag (R.ETH_EEE.en 7) = true ∧ s.get (R.ETH_EEE.tw_tx 7) ≠ 0 ∧ s.isTwinPort 7 = false ∧ s.flag (R.ETH_PSTAT.tx_lpi 7) = false
         ∧ ∀ k : Fin 8, (s.eport 7).queues[k] = []) :=
  ⟨⟨⟨rfl, rfl⟩, by decide +kernel⟩, by decide +kernel⟩

/-- The key named by ETH_FDB_DATA is in CAM entry 4159, dynamic; or every place of another key is taken. -/
def table (l : List FdbEnt) : State :=
  let s := withFields running [(R.ETH_FDB_DATA0.mac, 0x33445566), (R.ETH_FDB_DATA1.mac, 0x1122), (R.ETH_FDB_DATA1.vid, 1), (R.ETH_FDB_DATA1.port, 5)]
  { s with eth := { s.eth with fdb := l } }
theorem witness_TheForwardingTableIsReadWrittenAndAged :
    TakesWrite (table [⟨4159, 0x112233445566, 1, 3, false⟩]) .pcie
    ∧ (let s := table [⟨4159, 0x112233445566, 1, 3, false⟩]
       s.eth.fdb.find? (fun x => x.slot == fieldGet 0 13 4159#32) = some ⟨4159, 0x112233445566, 1, 3, false⟩
         ∧ s.eth.fdb.find? (fun x => x.mac == s.get R.ETH_FDB_DATA0.mac + 2 ^ 32 * s.get R.ETH_FDB_DATA1.mac && x.vid == s.get R.ETH_FDB_DATA1.vid)
            = some ⟨4159, 0x112233445566, 1, 3, false⟩
         ∧ (∀ e ∈ s.eth.fdb, e.slot ≠ fieldGet 0 13 4158#32) ∧ s.get R.ETH_BR_CFG.age ≠ 0)
    ∧ (table []).eth.fdb = [] ∧ (withFields running [(R.ETH_BR_CFG.age, 0)]).get R.ETH_BR_CFG.age = 0
    ∧ (let b := 4 * (table []).fdbBucket 0x112233445566 1
       let places := (List.range 4).map (b + ·) ++ (List.range 64).map (4096 + ·)
       let l := places.map (fun k => (⟨k, k, 7, 0, true⟩ : FdbEnt))
       (∀ e ∈ l, ¬(e.mac = 0x112233445566 ∧ e.vid = 1)) ∧ ∀ k ∈ places, ∃ e ∈ l, e.slot = k) :=
  ⟨⟨by decide, by decide +kernel, rfl, rfl⟩, by decide +kernel⟩

/-! ## Frames -/

/-- Port 3 is up, with this state of its transmitter and these fields. -/
def port3 (f : EthPort → EthPort := id) (l : List (Loc × Nat) := []) : State :=
  let s := withFields running ([(R.ETH_PCFG.en 3, 1), (R.ETH_PSTAT.link 3, 1), (R.ETH_MAXLEN.maxlen 3, 1522), (R.ETH_PSTAT.pre_state 3, 2),
    (R.ETH_PREEMPT.express 3, 3)] ++ l)
  { s with eth := { s.eth with port := s.eth.port.set 3 (f s.eth.port[3]) } }
/-- A frame of n bytes. -/
def plainFrame (n : Nat) (src : FrameSrc) : QFrame := ⟨(List.range n).map (BitVec.ofNat 8), src, false⟩
def queue (k : Fin 8) (f : QFrame) (x : EthPort) : EthPort := { x with queues := x.queues.set k [f] }
/-- Port 3 has its link and transmits nothing. -/
abbrev free3 (s : State) : Prop := s.flag (R.ETH_PSTAT.link 3) = true ∧ (s.eport 3).tx = none ∧ s.flag (R.ETH_PSTAT.tx_lpi 3) = false
/-- A frame of class j may start at port 3. -/
abbrev may3 (s : State) (j : Nat) (g : QFrame) : Prop :=
  (((s.eport 3).held ≠ none ∧ s.get (R.ETH_PSTAT.pre_state 3) = 2) → 6 ≤ j ∨ (s.get (R.ETH_PREEMPT.express 3)).testBit j = true)
    ∧ mayStart s 3 j g.bytes.length (gateLeft s (s.eport 3) j 0) = true
def forwarded (n : Nat) : QFrame := plainFrame n (.fwd 3 1 none)

/-- Larder's budgets are given, and ring r has a descriptor at 0x20003040 with these words. -/
def ringAt (r : Nat) (w : List Nat) (f : EthPort → EthPort := id) (l : List (Loc × Nat) := []) : State :=
  let s := port3 f ([(R.ETH_LQ_BASE.base r, 0x20003000), (R.ETH_LQ_CFG.len r, 8), (R.ETH_LQ_IDX.eidx r, 2), (R.ETH_LQ_IDX.sidx r, 5)] ++ l)
  s.memWrite 0x20003040 (w.flatMap (leBytes 4))
theorem larder_backed (s : State) (a n : Nat) (h : ∀ i, i < n → fabTarget s (a + i) = some ((a + i - larderBase) / 64 % 8)) : s.backs a n :=
  fun i hi => ⟨_, h i hi, by omega, fun h8 => absurd h8 (by omega)⟩

/-- A transmission of a frame in class k that began at 0. -/
def onAir (k : Nat) (f : QFrame) : TxNow := ⟨k, f, 0, 0⟩
theorem ring_backed : (ringAt 1 [0x20005001, 0x2300, 13]).backs 0x20003040 32 ∧ (ringAt 1 [0x20005001, 0x2300, 1518]).backs 0x20005001 1518 :=
  ⟨larder_backed _ _ _ (by decide +kernel), larder_backed _ _ _ (by decide +kernel)⟩
/-- A forwarded frame beyond maxlen, a short one in the lowest class, a closed gate, a preempted one, no link; what is on the air; descriptors
of 13, 14 and maxlen bytes. -/
theorem witness_FramesAreTransmittedInOrder :
    (let s := port3 (queue 7 (forwarded 1600))
     let f := forwarded 1600
     s.quiet ∧ free3 s ∧ (s.eport 3).queues[(7 : Fin 8)] = f :: [] ∧ may3 s 7 f ∧ (∀ j : Fin 8, ¬ 7 < j.val) ∧ ptpAt f.bytes = none
       ∧ s.maxlen 3 < f.bytes.length + 4)
    ∧ (let s := port3 (queue 0 (plainFrame 60 .own)); free3 s ∧ may3 s 0 (plainFrame 60 .own) ∧ s.maxlen 3 ≥ 64
        ∧ ∀ j : Fin 8, 0 < j.val → (s.eport 3).queues[j] = [])
    ∧ (((port3).eport 3).gate = none ∧ ((port3).eport 3).held = none
      ∧ (let g : Gcl := ⟨1, [(0x7F, 1000)]⟩; let s := port3 (fun x => { x with gate := some g }); (s.eport 3).gate = some g ∧ g.isOpen 0 7 = false))
    ∧ (let s := port3 (fun x => { x with held := some (onAir 2 (plainFrame 70 .own)) })
       free3 s ∧ (∀ j : Fin 8, (s.eport 3).queues[j] = []) ∧ (s.eport 3).held = some (onAir 2 (plainFrame 70 .own))
         ∧ gateLeft s (s.eport 3) 2 0 ≠ some 0)
    ∧ (¬ free3 (port3 id [(R.ETH_PSTAT.link 3, 0)]) ∧ ∀ j : Fin 8, ((port3).eport 3).queues[j] = [])
    ∧ (∀ src ∈ [FrameSrc.stream 7 true 5, .own, .twin .ack, .ring 1],
        let c := onAir 4 (plainFrame 90 src); ((port3 (fun x => { x with tx := some c })).eport 3).tx = some c)
    ∧ (let s := ringAt 1 [0x20005001, 0x2300, 13]
       s.quiet ∧ s.backs 0x20003040 32 ∧ ringMay s 39 30 ∧ s.fab.upsets = [] ∧ min 4096 (s.get (R.ETH_LQ_CFG.len 1)) ≠ 0 ∧ (s.ring 1).busy = false
         ∧ s.get (R.ETH_LQ_IDX.eidx 1) ≠ s.get (R.ETH_LQ_IDX.sidx 1)
         ∧ s.get (R.ETH_LQ_BASE.base 1) + 32 * s.get (R.ETH_LQ_IDX.eidx 1) = 0x20003040
         ∧ (s.memWord 0x20003044).getLsbD 11 = false ∧ (s.memWord 0x20003044).getLsbD 15 = false ∧ fieldGet 0 17 (s.memWord 0x20003048) = 13)
    ∧ (let s := ringAt 1 [0, 0x2300, 14] id [(R.PWRA_GRANT.stalled 19, 1)]; s.powerHeld 39 = true ∧ s.fab.ringWork = [])
    ∧ (let s := ringAt 1 [0, 0x2300, 14]; fieldGet 0 17 (s.memWord 0x20003048) = 14 ∧ 14 + 4 ≤ s.maxlen 3 ∧ bufOk s 0 14 = false)
    ∧ (let s := ringAt 1 [0x20005001, 0x2300, 1518]
       s.backs 0x20005001 1518 ∧ fieldGet 0 17 (s.memWord 0x20003048) = 1518 ∧ 1518 + 4 = s.maxlen 3 ∧ bufOk s 0x20005001 1518 = true
         ∧ 3 < s.sys.fuses.ports ∧ s.flag (R.ETH_PSTAT.link 3) = true ∧ s.isTwinPort 3 = false
         ∧ qRoom s (s.eport 3) 2 (plainFrame 1518 (.ring 1)) = true)
    ∧ min 4096 (running.get (R.ETH_LQ_CFG.len 1)) = 0
    ∧ (let c := onAir 2 (plainFrame 60 (.ring 1))
       let s := (fun s : State => { s with eth := { s.eth with ring := s.eth.ring.set 1 ⟨true, 1, 0, []⟩ } })
          (ringAt 1 [0x20005001, 0x2300, 14] (fun x => { x with tx := some c }))
       s.backs (0x20003040 + 28) 4 ∧ (s.eport 3).tx = some c ∧ (s.ring 1).busy = true ∧ (s.ring 1).left = 1 ∧ (s.ring 1).err = 0) :=
  ⟨⟨⟨rfl, rfl⟩, by decide +kernel⟩, by decide +kernel, by decide +kernel, by decide +kernel, by decide +kernel,
    fun src _ => rfl, ⟨⟨rfl, rfl⟩, ring_backed.1, ring_may _ _ _ (by decide +kernel), by decide +kernel⟩, by decide +kernel,
    by decide +kernel, ⟨ring_backed.2, by decide +kernel⟩, by decide +kernel, larder_backed _ _ _ (by decide +kernel), rfl, rfl, rfl, rfl⟩

/-- A descriptor whose fetch is held waits, and is fetched when the rings may issue again (R346). -/
theorem test_held_descriptor : after (.txRingDescriptor false) (ringAt 1 [0x20005001, 0x2300, 14] id [(R.PWRA_GRANT.stalled 19, 1)])
    (fun t => t.fab.ringWork == [.tx 1] && (t.ring 1).busy
      && (let u := ringDrain (t.unmark (R.PWRA_GRANT.stalled 19)) 39
          u.fab.ringWork.isEmpty && (u.ring 1).left == 1 && ((u.eport 3).queues[(2 : Fin 8)]).length == 1)) = true := by decide +kernel

/-- An Ethernet frame without its FCS: its addresses, a tag of this VID where it is not 0, its type and n bytes more. -/
def etherFrame (da sa vid ty n : Nat) : List Byte :=
  beBytes 6 da ++ beBytes 6 sa ++ (if vid = 0 then [] else beBytes 2 0x8100 ++ beBytes 2 vid) ++ beBytes 2 ty ++ List.replicate n 7
/-- Port 3 receives: its receive ring is empty; as a bridge it knows a station at port 5 and one at itself. -/
def receiver (bridge : Nat) (l : List (Loc × Nat) := []) : State :=
  let s := ringAt 0 [0x20005001, 0x64000] id ([(R.ETH_PCFG.bridge 3, bridge), (R.ETH_PCFG.bridge 5, bridge), (R.ETH_PCFG.en 5, 1),
    (R.ETH_PSTAT.link 5, 1), (R.ETH_PCFG.learn 3, 1), (R.ETH_PCFG.ingress_filter 3, 0), (R.ETH_MAC_LO.mac 3, 0x33445577), (R.ETH_MAC_HI.mac 3, 0x0A22),
    (R.ETH_VLAN.member 1, 0xFF)] ++ l)
  { s with eth := { s.eth with fdb := [⟨4, 0x0A2233445566, 1, 5, false⟩, ⟨9, 0x0A000000BBBB, 1, 3, true⟩, ⟨4100, 0x0A000000CCCC, 1, 3, false⟩] } }
set_option maxRecDepth 200000 in
theorem receiver_backed : (receiver 0).backs 0x20003040 32 ∧ (receiver 0).backs 0x20005001 60 :=
  ⟨larder_backed _ _ _ (by decide +kernel), larder_backed _ _ _ (by decide +kernel)⟩
set_option maxRecDepth 200000 in
theorem witness_ReceivedFramesAreCheckedDeliveredAndForwarded :
    (let s := receiver 0
     let b := etherFrame 0x0A2233445577 0x0A000000CCCC 0 0x0800 46
     (s.quiet ∧ (s.backs 0x20003040 32 ∧ s.backs 0x20005001 60) ∧ ringMay s 39 6) ∧ s.twinMode = false ∧ s.fab.upsets = [] ∧ (3 : Fin 8).val < s.sys.fuses.ports
       ∧ s.flag (R.ETH_PSTAT.link 3) = true
       ∧ s.sys.state ≠ .standby ∧ b.length = 60 ∧ b.length + 4 ≤ s.maxlen 3 ∧ (ethHdr b).etype ≠ 0x8808 ∧ s.flag (R.ETH_PCFG.bridge 3) = false
       ∧ acceptsDa s 3 (ethHdr b).da 1 = true ∧ s.get (R.ETH_PCFG.pvid 3) = 1 ∧ (ethHdr b).tag = none
       ∧ (s.sxe.run = false ∧ ptpAt b = none ∧ (ethHdr b).etype ≠ 0x88CC ∧ inbandTakes s 3 b (ethHdr b) = false)
       ∧ min 4096 (s.get (R.ETH_LQ_CFG.len 0)) = 8 ∧ (s.get (R.ETH_LQ_IDX.eidx 0) + 1) % 8 ≠ s.get (R.ETH_LQ_IDX.sidx 0)
       ∧ b.length ≤ leNat (s.memBytes (0x20003040 + 5) 2) ∧ leNat (s.memBytes 0x20003040 5) = 0x20005001)
    ∧ (etherFrame 0x0A2233445577 0x0A000000CCCC 0 0x0800 45).length = 59
    ∧ (ethHdr (etherFrame 0x0180C2000001 0x0A000000CCCC 0 0x8808 46)).etype = 0x8808
    ∧ acceptsDa (receiver 0) 3 0x0A2233445578 1 = false
    ∧ (receiver 0 [(R.PWRA_GRANT.stalled 19, 1)]).powerHeld 39 = true
    ∧ (let s := receiver 0 [(R.ETH_LQ_IDX.sidx 0, 3)]; (s.get (R.ETH_LQ_IDX.eidx 0) + 1) % 8 = s.get (R.ETH_LQ_IDX.sidx 0))
    ∧ (let s := receiver 1
       let b := etherFrame 0x0A2233445566 0x0A000000CCCC 0 0x0800 46
       let h := ethHdr b
       s.flag (R.ETH_PCFG.bridge 3) = true ∧ s.flag (R.ETH_PCFG.ingress_filter 3) = false ∧ acceptsDa s 3 h.da 1 = false ∧ ptpAt b = none
         ∧ macReserved h.da = false ∧ h.da ≠ s.portMac 3 ∧ macMulti h.da = false ∧ s.strFind h.da 1 = none
         ∧ s.eth.fdb.find? (fun x => x.mac == h.da && x.vid == 1) = some ⟨4, 0x0A2233445566, 1, 5, false⟩ ∧ s.brOut 5 = true
         ∧ qRoom s (s.eport 5) 0 (plainFrame 60 (.fwd 0 3 none)) = true ∧ s.fdbFind h.sa 1 = some ⟨4100, 0x0A000000CCCC, 1, 3, false⟩)
    ∧ (let s := receiver 1
       let h := ethHdr (etherFrame 0x0A000000BBBB 0x0A000000DDDD 0 0x0800 46)
       s.flag (R.ETH_PCFG.learn 3) = true ∧ acceptsDa s 3 h.da 1 = false
         ∧ s.eth.fdb.find? (fun x => x.mac == h.da && x.vid == 1) = some ⟨9, 0x0A000000BBBB, 1, 3, true⟩ ∧ macMulti h.sa = false
         ∧ s.fdbFind h.sa 1 = none ∧ (s.fdbFree h.sa 1).isSome = true)
    ∧ (let s := receiver 1 [(R.ETH_PCFG.ingress_filter 3, 1), (R.ETH_VLAN.member 1, 0xF7)]
       s.flag (R.ETH_PCFG.ingress_filter 3) = true ∧ (s.get (R.ETH_VLAN.member 1)).testBit 3 = false) :=
  ⟨⟨⟨⟨rfl, rfl⟩, receiver_backed, ring_may _ _ _ (by decide +kernel)⟩, by decide +kernel⟩, by decide +kernel⟩

/-! ## Network time and Kiln -/

/-- Domain 1 is enabled, its port 3 in this state, with this profile and what follows. -/
def ptp (state profile : Nat) (f : PtpDom → PtpDom := id) (l : List (Loc × Nat) := []) (g : EthPort → EthPort := id) : State :=
  let s := port3 g ([(R.PTP_DOM_CFG.en 1, 1), (R.PTP_DOM_PORTS.state 1, state <<< 9), (R.PTP_DOM_CFG.profile 1, profile), (R.PTP_PORT_CFG.pdelay_en 3, 1)] ++ l)
  { s with ptp := { s.ptp with dom := s.ptp.dom.set 1 (f s.ptp.dom[1]) } }
def syncFrame (two : Bool) : QFrame :=
  ⟨padFrame (beBytes 6 0x011B19000000 ++ beBytes 6 0x0A ++ beBytes 2 0x88F7 ++ msgHead false 0 44 3 (if two then 0x208 else 8) 0 5 66 0 0 ++ beBytes 10 0),
    .sync 1, false⟩
theorem witness_PtpMessagesAreSentAndStamped :
    (let s := ptp 2 0
     s.quiet ∧ s.sys.state.isRun = true ∧ s.domOn 1 = true ∧ (3 : Fin 8).val < s.sys.fuses.ports ∧ s.portState 1 3 = 2
       ∧ s.flag (R.ETH_PSTAT.link 3) = true ∧ s.isTwinPort 3 = false ∧ qAll s + 2048 ≤ 524288
       ∧ qBytes (s.eport 3) true + qBytes (s.eport 3) false + 2048 ≤ 131072
       ∧ s.flag (R.PTP_PORT_CFG.pdelay_en 3) = true)
    ∧ (∀ two : Bool,
      let s := ptp 2 1 id [] (queue 7 (syncFrame two))
      s.quiet ∧ s.flag (R.ETH_PSTAT.link 3) = true ∧ (s.eport 3).tx = none ∧ s.flag (R.ETH_PSTAT.tx_lpi 3) = false ∧ (s.eport 3).gate = none
        ∧ (s.eport 3).held = none ∧ (s.eport 3).queues[(7 : Fin 8)] = syncFrame two :: [] ∧ (syncFrame two).src = .sync (1 : Fin 2).val
        ∧ ptpAt (syncFrame two).bytes = some ⟨14, 0, 0⟩ ∧ msgTwoStep ((syncFrame two).bytes.drop 14) = two ∧ s.flag R.PTP_CTRL.log_en = false)
    ∧ (ptp 1 0).portState 1 3 ≠ 2 ∧ (ptp 1 0).slavePort 1 = none ∧ ¬ (port3.flag (R.PTP_PORT_CFG.pdelay_en 3) = true)
    ∧ (let s := ptp 2 0 (fun x => { x with fu := [(2, 5, 7), (3, 9, 123456789123)], asks := [⟨3, 77, 0x1122334455667788990A, 500, 123456789⟩] })
       (s.pdom 1).fu.find? (fun f => f.1 == 3) = some (3, 9, 123456789123) ∧ (s.pdom 1).asks = ⟨3, 77, 0x1122334455667788990A, 500, 123456789⟩ :: [])
    ∧ (∀ f ∈ ((ptp 2 0).pdom 1).fu, f.1 ≠ 3) ∧ ((ptp 2 0).pdom 1).asks = []
    ∧ (let s := ptp 3 1; s.domOn 1 = true ∧ s.domP2p 1 = false ∧ s.slavePort 1 = some 3) := by
  refine ⟨⟨⟨rfl, rfl⟩, by decide +kernel⟩, ?_, by decide +kernel⟩
  rintro (_ | _) <;> exact ⟨⟨rfl, rfl⟩, by decide +kernel⟩

theorem witness_NetworkTimeTimesOutResetsAndSteps :
    (let s := ptp 2 0 (fun x => { x with wait := [⟨5, 6, 7, 8, 9⟩] }); s.quiet ∧ (s.pdom 1).wait = ⟨5, 6, 7, 8, 9⟩ :: [])
    ∧ TakesWrite running .pcie ∧ (∀ n : Fin 4, ({ (ptp 2 0).pport 3 with losses := n.val }).losses = n.val)
    ∧ ((ptp 2 0).pdom 1).wait = [] ∧ (ptp 2 0).flag (R.PTP_PORT_CFG.pdelay_en 3) = true ∧ port3.flag (R.PTP_PORT_CFG.pdelay_en 3) = false
    ∧ (let s := ptp 2 0 id [(R.KILN_REF_CFG.en 1, 1), (R.KILN_REF_STAT.active 1, 1), (R.KILN_REF_STAT.qual 1, 2)]
       s.flag (R.KILN_REF_CFG.en 1) = true ∧ s.flag (R.KILN_REF_STAT.active 1) = true)
    ∧ running.flag (R.KILN_REF_CFG.en 1) = false ∧ running.ptp.taken = false
    ∧ ∀ en : Fin 2,
        let s := (fun s : State => { s with ptp := { s.ptp with taken := true } }) (ptp 2 0 (fun x => { x with eLast := -65536001 })
          [(R.KILN_STAT.sel, 1), (R.PTP_DOM_CFG.step_en 1, en.val), (R.PTP_DOM_STEP.set_thr 1, 1)])
        s.ptp.taken = true ∧ s.get R.KILN_STAT.sel = 1 ∧ max 1 (s.get (R.PTP_DOM_STEP.set_thr 1)) * 65536000 < (s.pdom 1).eLast.natAbs
          ∧ s.flag (R.PTP_DOM_CFG.step_en 1) = (en == 1) :=
  ⟨⟨⟨rfl, rfl⟩, rfl⟩, takes_running _ (by decide), fun _ => rfl, by decide +kernel⟩

/-- References 4, 11, 12 are enabled and active, 12 and 13 qualified; port 2 has its link; these offsets, and these fields. -/
def kiln (offs : List (Fin 14 × Int)) (l : List (Loc × Nat)) (f : KilnS → KilnS := id) : State :=
  let s := withFields running ([(R.KILN_REF_CFG.en 4, 1), (R.ETH_PSTAT.link 2, 1), (R.KILN_REF_STAT.active 4, 1), (R.KILN_REF_CFG.en 11, 1),
    (R.KILN_REF_STAT.active 11, 1), (R.KILN_REF_CFG.en 12, 1), (R.KILN_REF_STAT.active 12, 1), (R.KILN_REF_STAT.qual 12, 2), (R.KILN_REF_CFG.en 13, 1),
    (R.KILN_REF_STAT.qual 13, 2), (R.KILN_STAT.state, 1), (R.KILN_STAT.sel, 4), (R.KILN_STAT.fsel, 15), (R.KILN_REF_CFG.rate 4, 0)] ++ l)
  { s with kiln := f { s.kiln with ref := offs.foldl (fun v x => v.set x.1 ⟨x.2, 1, 0⟩) s.kiln.ref } }
/-- PTP domain 1 is a reference, with a sample that its servo has just accepted or none new. -/
def sampled (fresh : Bool) : State :=
  let s := kiln [] [(R.KILN_REF_CFG.en 1, 1), (R.PTP_DOM_STAT.valid 1, 1)]
  { s with ptp := { s.ptp with dom := s.ptp.dom.set 1 { s.ptp.dom[1] with hist := [(131072000000, 9), (65536000000, 5)], fresh := fresh } } }
/-- A measurement of a SyncE reference within, between and beyond its limits, of one that is not there, of a word clock at 1,000 ppm and beyond, of a
PTP domain; the loss of a reference and of a word clock; configurations written. -/
theorem witness_ReferencesQualifyAreLostAndReconfigured :
    (let s := kiln [] [(R.KILN_REF_LIM.accept 4, 5), (R.KILN_REF_LIM.reject 4, 9), (R.KILN_REF_LIM.accept 12, 5), (R.KILN_REF_LIM.reject 12, 9),
        (R.KILN_REF_HOLD.hold 4, 2)]
     s.quiet ∧ (4 : Fin 14).val - 2 < s.sys.fuses.ports ∧ s.flag (R.KILN_REF_CFG.en 4) = true ∧ s.flag (R.ETH_PSTAT.link (4 - 2)) = true
       ∧ 100 * max 1 (min 10000 (s.get (R.KILN_REF_LIM.reject 4))) = 900 ∧ min (100 * max 1 (min 10000 (s.get (R.KILN_REF_LIM.accept 4)))) 900 = 500
       ∧ s.get (R.KILN_REF_STAT.qual 4) ≠ 2 ∧ s.get (R.KILN_REF_STAT.qual 12) = 2
       ∧ 100 * max 1 (min 6000 (s.get (R.KILN_REF_HOLD.hold 4))) = 200 ∧ ((s.kref 4).t + 200) % 2 ^ 32 = 200)
    ∧ TakesWrite running .pcie
    ∧ (900 < (BitVec.ofInt 32 (-901)).toInt.natAbs ∧ ¬ 900 < (900#32).toInt.natAbs ∧ 500 < (501#32).toInt.natAbs ∧ (500#32).toInt.natAbs ≤ 500)
    ∧ running.flag (R.KILN_REF_CFG.en 4) = false
    ∧ (¬ 1000000 < (1000000#32).toInt.natAbs ∧ 1000000 < (1000001#32).toInt.natAbs ∧ (∀ x ∈ (kiln [] []).xio.bridges, x.b < 256))
    ∧ (∀ fresh : Bool, let s := sampled fresh
        s.flag (R.KILN_REF_CFG.en 1) = true ∧ s.flag (R.PTP_DOM_STAT.valid 1) = true ∧ s.ptp.dom[1].fresh = fresh)
    ∧ (let s := kiln [] [(R.ETH_PSTAT.link 2, 0)]; s.flag (R.ETH_PSTAT.link (4 - 2)) = false ∧ s.flag (R.KILN_REF_STAT.active 4) = true)
    ∧ (kiln [] []).flag (R.ETH_PSTAT.link (4 - 2)) = true
    ∧ (kiln [] []).flag (R.KILN_REF_STAT.active 11) = true ∧ (kiln [] []).flag (R.KILN_REF_STAT.active 10) = false
    ∧ ((0x41#32).getLsbD 0 = true ∧ fieldGet 6 3 0x41#32 ≠ (kiln [] []).get (R.KILN_REF_CFG.rate 4)
        ∧ fieldGet 6 3 0x1#32 = (kiln [] []).get (R.KILN_REF_CFG.rate 4) ∧ (0x40#32).getLsbD 0 = false
        ∧ (kiln [] []).flag (R.KILN_REF_STAT.active 4) = true)
    ∧ (let s := kiln [(4, 600000)] [(R.KILN_REF_STAT.active 4, 0), (R.KILN_REF_STAT.qual 4, 2)]
       s.flag (R.KILN_REF_STAT.active 4) = false ∧ 100 * max 1 (min 10000 (s.get (R.KILN_REF_LIM.reject 4))) < (s.kref 4).f.natAbs)
    ∧ (let s := kiln [(4, 100)] [(R.KILN_REF_STAT.active 4, 0)]
       (s.kref 4).f.natAbs ≤ min (100 * max 1 (min 10000 (s.get (R.KILN_REF_LIM.accept 4)))) (100 * max 1 (min 10000 (s.get (R.KILN_REF_LIM.reject 4)))))
    ∧ (kiln [(4, 100)] [(R.KILN_REF_STAT.qual 4, 2)]).get (R.KILN_REF_STAT.qual 4) = 2 :=
  ⟨⟨⟨rfl, rfl⟩, by decide +kernel⟩, takes_running _ (by decide), by decide +kernel⟩

/-- The same at this time since power-on. -/
def atUp (u : Nat) (s : State) : State := { s with sys := { s.sys with up := u } }
theorem witness_KilnChoosesLocksSlewsAndSteps :
    (let s := kiln [] []; s.quiet ∧ s.get R.KILN_STAT.state = 1 ∧ s.kiln.req = none ∧ s.get R.KILN_STAT.sel ≠ 15 ∧ s.twinMode = false)
    ∧ TakesWrite running .pcie
    ∧ (let s := kiln [(4, 500), (11, 510), (12, 90000), (13, 520)]
        [(R.KILN_REF_CFG.rank 4, 3), (R.KILN_REF_CFG.rank 11, 3), (R.KILN_REF_CFG.rank 12, 3), (R.KILN_REF_CFG.rank 13, 5)]
     let q := [4, 11, 12, 13]
     let rank := fun (i : Nat) => s.get (R.KILN_REF_CFG.rank i)
     (∀ j ∈ q, rank 12 ≤ rank j) ∧ rank 4 = rank 12 ∧ disagree s 4 12 = true ∧ votes s q 12 < votes s q 4
       ∧ (∀ i ∈ q, rank i = rank 4 → disagree s i 4 = true → votes s q i ≤ votes s q 4) ∧ q ≠ [])
    ∧ (let s := atUp 1966081000 (kiln [(4, 10)] [(R.KILN_LOCK.lock_hold, 1)] (fun k => { k with okUp := some 1000 }))
       s.carriesPhase 4 = false ∧ s.kiln.okUp = some 1000 ∧ 1 * 1966080000 ≤ s.sys.up - 1000 ∧ ¬ 1 * 1966080000 ≤ s.sys.up - 1001
         ∧ (s.loopPpb - (s.kref s.rateRef).f).natAbs = 10)
    ∧ (let s := kiln [] [(R.KILN_STAT.sel, 1), (R.KILN_STAT.fsel, 1), (R.KILN_PHERR.value, 3), (R.KILN_LOCK.lock_win, 3)]
       s.carriesPhase 1 = true ∧ (s.getS R.KILN_PHERR.value).natAbs = max 1 (s.get R.KILN_LOCK.lock_win) ∧ s.kiln.pend = 0 ∧ s.ptp.taken = false)
    ∧ (kiln [] [(R.KILN_STAT.state, 2)]).get R.KILN_STAT.state ≠ 1
    ∧ (let s := atUp 1966080009 (kiln [] [(R.KILN_STAT.sel, 15), (R.KILN_STAT.fsel, 15)] (fun k => { k with setAlone := true, setUp := 9 }))
       s.get R.KILN_STAT.state = 1 ∧ s.kiln.req = none ∧ s.kiln.setAlone = true ∧ s.get R.KILN_STAT.sel = 15 ∧ s.get R.KILN_STAT.fsel = 15
         ∧ max 1 (withFields s [(R.KILN_LOCK.lock_hold, 0)] |>.get R.KILN_LOCK.lock_hold) * 1966080000 ≤ s.sys.up - s.kiln.setUp)
    ∧ (let s := atUp 9830400000 (kiln [] [(R.KILN_STAT.state, 3), (R.KILN_HOLDOVER.ho_max, 5)])
       s.get R.KILN_STAT.state = 3 ∧ s.get R.KILN_HOLDOVER.ho_max = 5 ∧ 5 * 1966080000 ≤ s.sys.up - s.kiln.hoUp)
    ∧ (kiln [] []).get R.KILN_SLEW_MAX.slew ≠ 0 ∧ (kiln [] [(R.KILN_SLEW_MAX.slew, 0)]).get R.KILN_SLEW_MAX.slew = 0
    ∧ (kiln [] []).flag R.KILN_ALIGN.go = false ∧ (kiln [] [(R.KILN_ALIGN.go, 1)]).flag R.KILN_ALIGN.go = true
    ∧ (1#32).getLsbD 0 = true ∧ (2#32).getLsbD 0 = false
    ∧ (let s := kiln [] [(R.KILN_SLEW_MAX.slew, 0)] (fun k => { k with pend := -5 }); s.kiln.pend = -5 ∧ min 0 (-5 + ((0 : Nat) : Int)) ≠ 0) :=
  ⟨⟨⟨rfl, rfl⟩, by decide +kernel⟩, takes_running _ (by decide), by decide +kernel⟩

/-! ## The twin link -/

/-- A twin in this pairing state at period 20, its link up, bound to domain 0, with these fields. -/
def paired (st : Nat) (f : TwinS → TwinS := id) (l : List (Loc × Nat) := []) : State :=
  let s := withFields running ([(R.TWIN_CFG.twin_en, 1), (R.TWIN_STAT.state, st), (R.KILN_STAT.sel, 0), (R.SYS_GRID.d_in, 2),
    (R.ETH_PSTAT.link running.sys.fuses.twinPort, 1)] ++ l)
  { s with sys := { s.sys with et := 20 * s.perVco }, twin := f { s.twin with lack := 4, lseq := 9 } }
/-- The same as the secondary. -/
def secondary (s : State) : State := { s with sys := { s.sys with straps := { s.sys.straps with twinRole := true } } }
/-- The head of a frame as R285 lays it out, and a frame that begins with it: its kind, lseq, pn, len and version. -/
def linkHead (kind lseq pn len version : Nat) : List Byte :=
  beBytes 6 0x0A ++ beBytes 6 0x0B ++ beBytes 2 0x88B5 ++ beBytes 1 kind ++ beBytes 1 version ++ beBytes 2 len ++ beBytes 4 lseq ++ beBytes 4 2 ++ beBytes 8 pn
def linkFrame (kind lseq pn : Nat) (len : Nat := 40) (version : Nat := 1) : TwinFrame := ⟨linkHead kind lseq pn len version, 40, true⟩
def agrees (st : Fin 7) : Agree := ⟨3, 0x1234#64, false, st, true, true, false, false, 0#16, 0, 0, 0, 3⟩
/-- A record of a mirror frame as R291 lays it out. -/
def recordBytes (kind pn mask : Nat) (words : List Word) : List Byte :=
  leBytes 4 (3 + 2 ^ 13 * kind) ++ leBytes 4 pn ++ leBytes 4 mask ++ words.flatMap (fun w => leBytes 4 w.toNat)

theorem live_of (s : State) (h : s.twinMode = true ∧ s.sys.state ≠ .reset ∧ s.flag (R.ETH_PSTAT.link s.sys.fuses.twinPort) = true) : s.twinLive := h
theorem paired_live : (paired 1).twinLive ∧ (paired 5).twinLive := ⟨live_of _ (by decide +kernel), live_of _ (by decide +kernel)⟩
theorem room_of (s : State) (n : Nat) (h : n ≤ 9216) (h' : qBytes (s.eport (Fin.ofNat 8 s.sys.fuses.twinPort)) true
    + qBytes (s.eport (Fin.ofNat 8 s.sys.fuses.twinPort)) false + 9216 ≤ 131072 ∧ qAll s + 9216 ≤ 524288) : s.twinRoom n :=
  ⟨Nat.le_trans (Nat.add_le_add_left h _) h'.1, Nat.le_trans (Nat.add_le_add_left h _) h'.2⟩
theorem good_of (f : TwinFrame) (k : Nat) (h : f.fcsOk = true ∧ fbe f.head 12 2 = 0x88B5 ∧ fbe f.head 14 1 = k ∧ fbe f.head 15 1 = 1
    ∧ fbe f.head 16 2 = f.plen ∧ f.plen ≤ 9160) : f.Good k := ⟨h.1, h.2.1, h.2.2.1, h.2.2.2.1, h.2.2.2.2.1, h.2.2.2.2.2⟩
/-- A frame of each kind is good whatever its pn. -/
theorem link_good (k : Fin 7) (n : Fin 3) : (linkFrame k.val 5 (19 + n.val)).Good k.val := good_of _ _ (by revert k n; decide)

/-- Frames dead, with an FCS error, of another EtherType and kind, of a wrong version and length, out of order, and good; a reception to acknowledge;
frames that wait for their acknowledgement for 8 µs and for less; records of both kinds, in time and late. -/
theorem witness_TwinLinkIsOrderedAndMirrors :
    (let s := atUp 40000 (paired 1 (fun x => { x with ackDue := true, unacked := [⟨8, 19, .ack, [], 24272⟩, ⟨9, 19, .ack, [], 24271⟩] }))
     s.quiet ∧ s.twinLive ∧ s.twinRoom 120 ∧ s.twin.ackDue = true
       ∧ s.twin.unacked.dropWhile (fun y => decide (s.sys.up < y.up + 15729)) = [⟨9, 19, .ack, [], 24271⟩])
    ∧ (∀ k : Fin 7, (linkFrame k.val 5 20).Good k.val)
    ∧ ¬ running.twinLive
    ∧ (let f := linkFrame 6 6 20
       ({ f with fcsOk := false }).fcsOk = false ∧ fbe f.head 12 2 = 0x88B5 ∧ fbe f.head 14 1 ≠ 1 ∧ f.lseq ≠ (4 + 1) % 2 ^ 32
         ∧ fbe (linkFrame 6 5 20 41).head 16 2 ≠ 40 ∧ fbe (linkFrame 6 5 20 40 2).head 15 1 ≠ 1)
    ∧ ((paired 1).twin.ackDue = false ∧ (paired 1).twin.unacked = [])
    ∧ (let s := paired 5
       (linkFrame 2 5 20 76).lseq = (s.twin.lack + 1) % 2 ^ 32 ∧ s.pn = 20 ∧ s.dIn = 2 ∧ ¬ (18 + s.dIn + 1 ≤ s.pn) ∧ 17 + s.dIn + 1 ≤ s.pn
         ∧ (extend32 s.pn 18).toNat = 18 ∧ (∀ x ∈ s.twin.peerStore, ¬(x.src = 3 ∧ x.m = 18))
         ∧ (List.replicate 16 (7 : Word)).length = s.nSamp ∧ (recordBytes 0 18 0xFFFF (List.replicate 16 7)).length = 76
         ∧ fbe (linkFrame 2 5 20 76).head 16 2 = 76 ∧ (recordBytes 1 18 40 [1, 2]).length = 20 ∧ [1, 2].length = (40 + 31) / 32) :=
  ⟨⟨⟨rfl, rfl⟩, live_of _ (by decide +kernel), room_of _ _ (by decide) (by decide +kernel), rfl, by decide +kernel⟩,
    fun k => link_good k 1, fun h => absurd h.1 (by decide +kernel), by decide +kernel⟩

/-- Agreement with nothing to compare, with forwarded writes acknowledged, with a digest that differs or not, with a twin that yields; forwarded writes in
time, late and of a period whose commit is fixed. -/
theorem witness_TwinAgreementAndForwardedWrites :
    (let s := paired 1; s.quiet ∧ s.twinLive ∧ (linkFrame 1 5 20).Good 1 ∧ (linkFrame 1 5 21).Good 1 ∧ (linkFrame 3 5 19).Good 3)
    ∧ (∀ (own : BitVec 64) (fl mine : Bool), let s := paired 5 (fun x => { x with dig := some (19, own, fl, mine) })
        s.twin.dig = some ((linkFrame 1 5 20).pn - 1, own, fl, mine) ∧ s.twin.fwd = [])
    ∧ (let s := (fun s : State => { s with flt := { s.flt with c3 := [(9, 1)] } }) (paired 5 (fun x => { x with yielding := true }))
       s.twinLive ∧ s.twin.yielding = true ∧ s.flt.c3 ≠ [])
    ∧ (let s := paired 1; s.get R.TWIN_STAT.state = 1 ∧ s.twin.fwd = [] ∧ s.twin.dig = none ∧ (agrees 1).c3 = false)
    ∧ (let s := paired 5 (fun x => { x with fwd := [⟨2, 18⟩, ⟨3, 19⟩, ⟨4, 19⟩] })
       let j := (agrees 5).jseq
       s.get R.TWIN_STAT.state = 5 ∧ (agrees 5).state.val = 5 ∧ j = 3 ∧ s.twin.fwd = [⟨2, 18⟩] ++ ⟨3, 19⟩ :: [⟨4, 19⟩]
         ∧ (∀ z ∈ ([⟨2, 18⟩, ⟨3, 19⟩] : List Fwd), newer z.jseq j 32 = false) ∧ (∀ z ∈ ([⟨4, 19⟩] : List Fwd), newer z.jseq j 32 = true))
    ∧ ((agrees 5).flagged = false ∧ (agrees 5).digest = 0x1234#64 ∧ (agrees 5).faultRec = false ∧ (paired 5).secondary = false
        ∧ (secondary (paired 5)).secondary = true)
    ∧ ((agrees 1).state.val ≠ 5 ∧ (paired 5).pn ≤ (linkFrame 1 5 20).pn ∧ (linkFrame 1 5 21).pn = (paired 5).pn + 1
        ∧ ({ agrees 5 with c3 := true }).c3 = true)
    ∧ (let s := paired 5
       let a := R.MASH_DST_CTL.reg 3
       (linkFrame 3 5 20).lseq = (s.twin.lack + 1) % 2 ^ 32 ∧ (linkFrame 3 5 18).pn + 2 ≤ s.pn ∧ ¬ (linkFrame 3 5 19).pn + 2 ≤ s.pn
         ∧ (groupNamed a).isSome = true
         ∧ (∀ g : Fin 32, (s.group g).openC = none ∧ (s.group g).fixed = none)
         ∧ (s.regAt a).any (fun d => decide (d.base ∉ actingBases ∧ counterAt a = false ∧ ¬d.fields.all (fun g => g.kind == .ro) = true
           ∧ d.fields.all (fun g => g.kind == .sh || g.kind == .lv || g.kind == .ro) = true ∧ reservedWord d 5#32 = false
           ∧ normWord d a 5#32 = 5#32)) = true)
    ∧ (let x : Fixed := ⟨4, 21, [], 20⟩
       let s := (fun s : State => { s with hif := { s.hif with groups := Vector.replicate 32 ⟨none, some x, none⟩ } }) (paired 5)
       (∀ g : Fin 32, s.group g = ⟨none, some x, none⟩) ∧ (linkFrame 3 5 19).pn < x.at_ ∧ x.target ≤ s.pn + 1)
    ∧ (paired 2).get R.TWIN_STAT.state = 2 :=
  ⟨⟨⟨rfl, rfl⟩, paired_live.1, link_good 1 1, link_good 1 2, link_good 3 0⟩, fun _ _ _ => ⟨rfl, rfl⟩,
    ⟨live_of _ (by decide +kernel), rfl, by decide⟩, by decide +kernel⟩

/-- Requests, the naming of the start, batches and the end, in the states that take them and the others; a re-join asked for, failed and re-armed; yields. -/
theorem witness_TwinTransfersAndRejoins :
    (let s := paired 1; s.quiet ∧ s.twinLive ∧ s.twinRoom 9216 ∧ (linkFrame 4 5 20).Good 4 ∧ (linkFrame 5 5 20).Good 5)
    ∧ (∀ st : Fin 7, (paired st.val).twinRoom 9216) ∧ TakesWrite running .pcie ∧ TakesWrite (paired 5) .pcie
    ∧ ((linkFrame 5 5 20).lseq = ((paired 1).twin.lack + 1) % 2 ^ 32)
    ∧ (∀ st : Fin 7, let s := paired st.val; s.get R.TWIN_STAT.state = st.val ∧ s.twin.asked = false ∧ s.twin.start = none)
    ∧ (paired 1 (fun x => { x with asked := true })).twin.asked = true
    ∧ ((paired 2 (fun x => { x with start := some 21 })).twin.start = some 21 ∧ (paired 2).pn < 21 ∧ 20 ≤ (paired 2).pn)
    ∧ (paired 3).twin.batches.filter (·.1 == 19) = []
    ∧ (let bs : List Byte := List.replicate 64 7
       let own : List Byte := List.replicate 64 0
       let s := paired 3 (fun x => { x with batches := [(19, [(.mem 0x40000, .mem bs, .mem own)])] })
       s.twin.batches.filter (·.1 == 19) = [(19, [(.mem 0x40000, .mem bs, .mem own)])] ∧ bs.length = 64 ∧ s.fab.upsets = []
         ∧ own = (List.range 64).map (fun i => s.memByte (0x40000 + i)) ∧ bs ≠ (List.range 64).map (fun i => s.memByte (0x40000 + i))
         ∧ XferKey.mem 0x40000 ∉ ([] : List XferKey))
    ∧ (let s := paired 1 (fun x => { x with armed := true, peer := some (agrees 2, 19, 77) })
          [(R.TWIN_PEER.same_variant, 1), (R.TWIN_PEER.same_image, 1), (R.TWIN_PEER.same_domain, 1)]
       s.twinMode = true ∧ s.twin.armed = true ∧ s.sys.state = .runLocked ∧ ¬ 3 ≤ s.twin.missed ∧ (agrees 2).state.val = 2
         ∧ s.flag R.TWIN_PEER.same_variant = true ∧ s.flag R.TWIN_PEER.same_image = true ∧ s.flag R.TWIN_PEER.same_domain = true
         ∧ s.twin.start = none ∧ s.twin.unacked = [])
    ∧ ((paired 3).twin.failed = false ∧ running.sys.fuses.twin = true ∧ running.flag R.TWIN_CMD.yield = false ∧ running.twinMode = false)
    ∧ (let s := paired 5 (fun x => { x with peer := some (agrees 5, 19, 77) })
       s.sys.straps.twinRole = false ∧ ¬ 3 ≤ s.twin.missed ∧ (agrees 5).state.val = 5 ∧ (secondary s).sys.straps.twinRole = true) :=
  ⟨⟨⟨rfl, rfl⟩, paired_live.1, room_of _ _ (by decide) (by decide +kernel), link_good 4 1, link_good 5 1⟩,
    fun st => room_of _ _ (by decide) (by revert st; decide +kernel), takes_running _ (by decide), ⟨by decide, by decide +kernel, rfl, rfl⟩,
    by decide +kernel⟩

/-! ## Cask -/

/-- Both channels of Cask enabled in PREPARE, the ECC or not; line 2 is enabled at 576, 100 words long; these run. -/
def caskOf (runs ecc : Nat) (f : CaskS → CaskS := id) (l : List (Loc × Nat) := []) : State :=
  let s := withFields (upIn .prepare) ([(⟨R.CASK_CFG.reg, 5, 1⟩, 1), (⟨R.CASK_CFG.reg, 6, 1⟩, 1), (⟨R.CASK_STAT.reg, 0, 2⟩, runs),
    (R.CASK_CFG.ecc_en, ecc), (R.CASK_LINE_W0.en 2, 1), (R.CASK_LINE_W0.base 2, 9), (R.CASK_LINE_W1.len 2, 100), (R.CASK_SCRUB.scrub_h, 1)] ++ l)
  { s with cask := f s.cask }
theorem witness_CaskTrainsFillsAndIsScrubbed :
    (∀ ecc : Fin 2, (caskOf 0 ecc.val).quiet)
    ∧ (∀ ecc : Fin 2, let s := caskOf 0 ecc.val
      s.fab.upsets = [] ∧ s.caskEn 0 = true ∧ s.caskRun 0 = false ∧ s.flag R.CASK_CFG.ecc_en = (ecc == 1) ∧ s.boot.waking = false)
    ∧ (let s := (fun s : State => { s with boot := { s.boot with waking := true } }) (caskOf 0 0)
       s.caskEn 0 = true ∧ s.caskRun 0 = false ∧ s.boot.waking = true)
    ∧ (let s := caskOf 0 0; s.flag (R.CASK_LINE_W0.en 2) = true ∧ s.caskPlaceOf (s.lineBase 2) = some (0, 576) ∧ s.get (R.CASK_RT_DECL.rt_decl 0) = 0
        ∧ s.caskIn ([0, 1].filter s.caskEn) (s.lineBase 2) = some (0, 576)
        ∧ caskBase + 576 ≤ caskBase + s.lineBase 2 ∧ caskBase + s.lineBase 2 < caskBase + 576 + 4 * s.get (R.CASK_LINE_W1.len 2))
    ∧ (let s := caskOf 0 0 id [(R.CASK_LINE_W0.en 2, 0)]; s.get (R.CASK_RT_DECL.rt_decl 0) = 0 ∧ ∀ i j : Fin 64, s.flag (R.CASK_LINE_W0.en (64 * i.val + j.val)) = false)
    ∧ (caskOf 0 0 id [(R.CASK_RT_DECL.rt_decl 1, 1)]).get (R.CASK_RT_DECL.rt_decl 1) ≠ 0
    ∧ (let s := caskOf 3 1; s.caskRun 1 = true ∧ s.flag R.CASK_CFG.ecc_en = true ∧ s.cask.selfRefresh = false)
    ∧ (caskOf 3 0).flag R.CASK_CFG.ecc_en = false ∧ (caskOf 0 1).caskRun 1 = false
    ∧ (let s := caskOf 3 1 (fun c => { c with mult := #v[17, 4] }); s.caskRun 0 = true ∧ 16 < s.cask.mult.toList.getD 0 4)
    ∧ (let s := caskOf 3 1
       let v := s.cask.scrubAt[(1 : Fin 2)]
       let o := s.caskOff 1 0
       let a := caskBase + o + 5
       s.get R.CASK_SCRUB.scrub_h ≠ 0 ∧ v < 2 ^ (30 + s.get R.CASK_CFG.density) / 64 ∧ v = 0 ∧ caskBase ≤ a ∧ a < 2 ^ 40
         ∧ a / 64 * 64 = caskBase + o / 64 * 64 ∧ s.cask.corrUp[(1 : Fin 2)].length < 255)
    ∧ (let last := 2 ^ (30 + (caskOf 3 1).get R.CASK_CFG.density) / 64
       let s := caskOf 3 1 (fun c => { c with scrubAt := #v[last, last - 1] })
       s.cask.scrubAt[(1 : Fin 2)] < last ∧ ¬ s.cask.scrubAt[(0 : Fin 2)] < last
         ∧ ∀ j, j < 2 → s.caskRun j = true → last ≤ (s.cask.scrubAt.set (1 : Fin 2) (s.cask.scrubAt[(1 : Fin 2)] + 1)).toList.getD j 0) :=
  ⟨fun _ => ⟨rfl, rfl⟩, by decide +kernel⟩

/-- A granule of capture with every sample but the fourth, and one of playback at an offset. -/
def captured (late : Bool) : CapGranule := ⟨5, 32, (List.range 16).map (fun i => if i = 3 then none else some (BitVec.ofNat 32 i)), late⟩
def played (off : Nat) (done : Bool) : PlayGranule := ⟨5, 32, off, List.replicate 16 3, done⟩
def granules (c : List CapGranule) (p : List PlayGranule) (l : List (Loc × Nat) := []) : State :=
  caskOf 3 1 (fun x => { x with cap := c, play := p }) ([(R.CASK_CAP.line 5, 2), (R.CASK_PLAY.line 5, 2)] ++ l)
theorem witness_CaptureWritesAndPlaybackFetches :
    (let s := granules [captured false] [played 192 false]
     s.quiet ∧ s.fab.upsets = [] ∧ s.sys.dataPlane = false
       ∧ s.cask.cap.find? (fun g => g.ch == (5 : Fin 256).val && (g.words.getD 15 none).isSome) = some (captured false)
       ∧ (captured false).words.length = 16 ∧ s.lineBase (s.get (R.CASK_CAP.line 5)) = 576 ∧ s.lineLen 2 = 100
       ∧ (32 % 100 : Int) = 32 ∧ s.caskPlaceOf (576 + 4 * 32) = some (0, 704) ∧ s.caskRun 0 = true
       ∧ (captured false).words[15]? = some (some 15#32)
       ∧ s.cask.play.find? (fun g => g.ch == (5 : Fin 256).val && !g.done) = some (played 192 false) ∧ s.caskPlaceOf 192 = some (0, 192)
       ∧ s.flag R.CASK_CFG.ecc_en = true ∧ (caskBase + 255) / 64 * 64 = caskBase + 192 / 64 * 64 ∧ caskBase + 255 < 2 ^ 40)
    ∧ (let g : CapGranule := ⟨5, 32, List.replicate 16 (some 3#32), false⟩
       let s := granules [g] []
       s.cask.cap.find? (fun g => g.ch == (5 : Fin 256).val && g.full && !g.late) = some g)
    ∧ (∀ g ∈ (granules [⟨5, 32, [], false⟩] []).cask.cap, g.ch = 5 → g.words.getD 15 none = none)
    ∧ (granules [] [played (2 ^ 36) false]).caskPlaceOf (2 ^ 36) = none
    ∧ (let s := granules [] [played 192 true]; (∀ g ∈ s.cask.play, g.ch = (5 : Fin 256).val → g.done = true)) :=
  ⟨⟨⟨rfl, rfl⟩, by decide +kernel⟩, by decide +kernel⟩

/-! ## Two-wire controllers, counters, flash -/

/-- A host transaction of this kind and these lengths, started. -/
def hostCmd (kind : Nat) (wlen : Nat := 32) (rlen : Nat := 1) : TwcCmd := ⟨kind, 0x48, 0x20, wlen, rlen, true, List.replicate 32 7#8, true, 0⟩
/-- Controller 1 runs, with a host transaction waiting or none, and entries waiting. -/
def twoWire (go : Nat) (u : TwcU := ⟨[], false, hostCmd 0⟩) (l : List (Loc × Nat) := []) : State :=
  let s := withFields running ([(R.TWC_CFG.en 1, 1), (R.TWC_CMD.go 1, go)] ++ l)
  { s with twc := s.twc.set 1 u }
/-- Transactions of each kind, legal and not; the endings of a bus; a stuck one; entries of the sequencer, in a controller that runs and one that does not. -/
theorem witness_TwoWireTransactionsRunAndEnd :
    (∀ kind : Fin 16, (twoWire 1 ⟨[], false, hostCmd kind.val⟩).quiet) ∧ TakesWrite (twoWire 1) .pcie ∧ TakesWrite (twoWire 0) .pcie
    ∧ (∀ kind : Fin 16, let s := twoWire 1 ⟨[], false, hostCmd kind.val⟩
      s.flag (R.TWC_CFG.en 1) = true ∧ s.sys.state.isRun = true ∧ s.flag (R.TWC_CMD.go 1) = true ∧ (s.twcU 1).cmd.kind = kind.val
        ∧ (s.twcU 1).cmd.wlen = 32 ∧ (s.twcU 1).cmd.rlen = 1 ∧ (s.twcU 1).cmd.started = true)
    ∧ ((twoWire 1 ⟨[], false, hostCmd 7 33⟩).twcU 1).cmd.wlen = 33
    ∧ (let b : TwcBus := ⟨false, true, .acked, [0x20#8]⟩; b.sclLow = false ∧ b.ending = .acked ∧ (b.rx.headD 0xFF#8).toNat = 32)
    ∧ (let b : TwcBus := ⟨false, true, .nackData 2, []⟩; b.ending = .nackData 2 ∧ 2 < [0#8, 1#8, 2#8].length)
    ∧ (TwcBus.mk false true .nackAddr []).ending = .nackAddr ∧ (TwcBus.mk false true (.lost 2) []).ending = .lost 2
    ∧ (TwcBus.mk true true .acked []).sclLow = true
    ∧ (let s := twoWire 1 ⟨[], false, hostCmd 0⟩ [(R.TWC_STAT.stuck 1, 1)]; s.flag (R.TWC_STAT.stuck 1) = true ∧ (TwcBus.mk false false .acked []).clear = false)
    ∧ running.flag (R.TWC_CFG.en 1) = false
    ∧ (let s := twoWire 0 ⟨[255, 3], true, hostCmd 0⟩ [(R.TWC_SEQ_W0.kind 1 255, 3), (R.TWC_SEQ_W1.lim_en 1 255, 1), (R.TWC_SEQ_W2.lo 1 255, 5),
        (R.TWC_SEQ_W2.hi 1 255, 9)]
       s.flag (R.TWC_CMD.go 1) = false ∧ (s.twcU 1).queue = 255 :: [3] ∧ 255 < 256 ∧ (s.twcU 1).sclWait = true ∧ s.get (R.TWC_SEQ_W0.kind 1 255) = 3
         ∧ s.flag (R.TWC_SEQ_W0.pec 1 255) = false ∧ s.flag (R.TWC_STAT.stuck 1) = false ∧ s.flag (R.TWC_SEQ_W1.lim_en 1 255) = true
         ∧ s.flag (R.TWC_SEQ_W1.sgn 1 255) = false ∧ s.get (R.TWC_SEQ_W2.lo 1 255) = 5 ∧ s.get (R.TWC_SEQ_W2.hi 1 255) = 9)
    ∧ ((twoWire 0).twcU 1).sclWait = false ∧ ((twoWire 0).twcU 1).queue = []
    ∧ 5 < (twoWire 0 ⟨[255], false, hostCmd 0⟩ [(R.TWC_SEQ_W0.kind 1 255, 6)]).get (R.TWC_SEQ_W0.kind 1 255)
    ∧ (1#32).getLsbD 0 = true ∧ (0#32).getLsbD 0 = false :=
  ⟨fun _ => ⟨rfl, rfl⟩, ⟨by decide, by decide +kernel, rfl, rfl⟩, ⟨by decide, by decide +kernel, rfl, rfl⟩, by decide +kernel⟩

/-- R417: SCL at 1 MHz is low for 32 and high for 30 cycles of CLK_SLOW; a transaction keeps the speed of its start (R416). -/
theorem test_twc_speed :
    let s := twoWire 1 ⟨[], false, { hostCmd 11 with speed := 2 }⟩ [(R.TWC_CFG.speed 1, 1)]
    (match exec (.twcI2cRead 1 ⟨false, true, .acked, [5#8]⟩) s with | .next t => t.out == [Out.twc 1 ⟨32, 30⟩ [0x91#8]] | _ => false) = true := by decide +kernel

/-- The tagger of core 2 and the dumps are set up in Larder, a snapshot waits, and these fields. -/
def counted (l : List (Loc × Nat)) : State :=
  let s := withFields (oneCore { coreK with tagLeft := 0 }) ([(R.PERF_TAG_CFG.en 2, 1), (R.PERF_TAG_CFG.k 2, 3), (R.PERF_EVSEL.chain 5, 1)] ++ l)
  { s with perf := { s.perf with
    tagRing := (larderBase + 0x100, 16), dumpRing := (larderBase + 0x4000, 8), latch := [(5, 9)]
    snap := some ⟨9, 1234, 77, 3, 5, List.replicate 128 7, List.replicate 28 8, 0⟩ } }
theorem witness_CountersMonitorsTagsAndDumps :
    TakesWrite running .pcie ∧ running.perfOff
    ∧ (let s := counted []
       s.quiet ∧ s.backs (larderBase + 0x100) 32 ∧ s.backs (larderBase + 0x4000) 704 ∧ (s.core 2).run ≠ .stopped
         ∧ (∃ x, s.perf.snap = some x ∧ x.counters.length = 128 ∧ x.bw.length = 28) ∧ ringMay s 38 12)
    ∧ (let s := counted [(R.PWRA_GRANT.stalled 18, 1)]; s.powerHeld 38 = true ∧ s.fab.dumpWork = [])
    ∧ (let s := counted []
       s.fab.upsets = [] ∧ s.flag (R.PERF_EVSEL.chain (4 / 2 * 2 + 1)) = true ∧ s.flag (R.PERF_EVSEL.chain (6 / 2 * 2 + 1)) = false
         ∧ assocGet 5 s.perf.latch = some 9 ∧ assocGet 7 s.perf.latch = none ∧ s.flag (R.PERF_TAG_CFG.en 2) = true ∧ (s.core 2).tagLeft = 0
         ∧ (s.get R.PERF_TAG_IDX.eidx + 1) % 16 ≠ s.get R.PERF_TAG_IDX.sidx ∧ (s.get R.PERF_DUMP_IDX.eidx + 1) % 8 ≠ s.get R.PERF_DUMP_IDX.sidx)
    ∧ (∀ j, j < 16 → running.flag (R.PERF_TAG_CFG.en j) = false)
    ∧ (let s := withFields running ((List.range 128).map (fun j => (R.PERF_EVSEL.event j, 16)))
       ∀ j, j < 128 → 16 ≤ s.get (R.PERF_EVSEL.event j))
    ∧ (let s := counted [(R.PERF_TAG_IDX.eidx, 15), (R.PERF_DUMP_IDX.sidx, 1)]
       (s.get R.PERF_TAG_IDX.eidx + 1) % 16 = s.get R.PERF_TAG_IDX.sidx ∧ (s.get R.PERF_DUMP_IDX.eidx + 1) % 8 = s.get R.PERF_DUMP_IDX.sidx)
    ∧ running.perf.snap = none
    ∧ (let s := withFields running [(R.PERF_DUMP_BASE.base, larderBase + 64), (R.PERF_DUMP_CFG.len, 10)]
       let b := s.get R.PERF_DUMP_BASE.base + 2 ^ 32 * s.get R.PERF_DUMP_CFG.base_hi
       s.flag R.PERF_DUMP_CTL.en = false ∧ (1#32).getLsbD 0 = true ∧ b % 64 = 0 ∧ larderBase ≤ b
         ∧ b + 704 * min 4096 (s.get R.PERF_DUMP_CFG.len) ≤ larderBase + 0x1800000)
    ∧ (withFields running [(R.PERF_DUMP_BASE.base, larderBase + 4)]).get R.PERF_DUMP_BASE.base % 64 ≠ 0
    ∧ (withFields running [(R.PERF_DUMP_CTL.en, 1)]).flag R.PERF_DUMP_CTL.en = true :=
  ⟨takes_running _ (by decide), by unfold State.perfOff; decide +kernel,
    ⟨⟨rfl, rfl⟩, larder_backed _ _ _ (by decide +kernel), larder_backed _ _ _ (by decide +kernel), by decide, ⟨_, rfl, rfl, rfl⟩, ring_may _ _ _ (by decide +kernel)⟩,
    by decide +kernel⟩

/-- An operation of the flash is under way. -/
def flashing (op : Nat) : State := let s := running; { s with boot := { s.boot with flOp := some (op, 0x20000, 0x41) } }
theorem witness_FlashOperationsStartAndComplete :
    TakesWrite running .pcie ∧ TakesWrite (upIn .prepare) .pcie
    ∧ (∀ op : Fin 5, (flashing op.val).boot.flOp = some (op.val, 0x20000, 0x41#32) ∧ (flashing op.val).quiet)
    ∧ (upIn .prepare).sys.state.isRun = false ∧ running.boot.flOp = none
    ∧ running.flag R.BOOT_FL_CMD.go = false ∧ (withFields running [(R.BOOT_FL_CMD.go, 1)]).flag R.BOOT_FL_CMD.go = true
    ∧ (let s := running
       let half := s.boot.flashSize / 2
       s.sys.state.isRun = true ∧ s.image = true ∧ s.boot.slot = false ∧ half = 0x8000000
         ∧ (withFields s [(R.BOOT_FL_ADDR.addr, half - 1)]).get R.BOOT_FL_ADDR.addr / 4096 * 4096 + 4096 ≤ half
         ∧ half ≤ (withFields s [(R.BOOT_FL_ADDR.addr, half)]).get R.BOOT_FL_ADDR.addr / 65536 * 65536
         ∧ half + 65536 ≤ s.boot.flashSize) :=
  ⟨takes_running _ (by decide), takes_upIn _ (by decide), fun _ => ⟨rfl, rfl, rfl⟩, by decide +kernel⟩

/-! ## The test pins, the core's words, the block as a whole -/

/-- The same with these test pins. -/
def testing (testEn trstN : Bool) (s : State) : State := { s with tap := { s.tap with testEn := testEn, trstN := trstN, state := .testLogicReset } }
theorem witness_TestPinsStopTheEngineAndTheTapIdentifies :
    (testing true true running).tap.testEn = true ∧ (testing true true running).pending = [] ∧ (testing false false running).tap.trstN = false
    ∧ (testing true true running).tap.trstN = true ∧ (testing true true running).tap.state = .testLogicReset
    ∧ 0 + [true, false].length < 32 := ⟨rfl, rfl, rfl, rfl, rfl, by decide⟩
theorem witness_CoreWordsRoundTrip : (∃ w, encodeCoreWord (.add 3 true false 1 2 8) = some w)
    ∧ (∃ i, decodeCoreWord 3 0x7CC0500A#32 = some i) := ⟨⟨_, rfl⟩, _, rfl⟩
/-- A word of a reserved major, one with an r bit, one of ADD that is none. -/
theorem witness_WrittenCoreWordsDecodeAndReservedOnesDoNot : bitsAt 0x2C000000#32 26 5 ∈ [0x0B, 0x0C, 0x0D, 0x0E, 0x0F, 0x1B, 0x1D]
    ∧ (bitsAt 0x00224200#32 26 5 = 0 ∧ bitsAt 0x00224200#32 9 1 ≠ 0) ∧ (bitsAt 0x24000800#32 26 5 = 9 ∧ bitsAt 0x24000800#32 0 12 ≠ 0) := by decide

/-- The next boundary is due or not; with TEST_EN high; a pulse that waits, one whose time has come. -/
theorem witness_IdleResetAndInvariantAtReset :
    (State.reset.pending = [] ∧ State.reset.sys.state = .reset ∧ running.pending = [] ∧ running.sys.state ≠ .reset ∧ running.tap.testEn = false
      ∧ (testing true true running).tap.testEn = true)
    ∧ (let s := { running with sys := { running.sys with et := running.perVco - 8 } }; s.perVco ≤ s.sys.et % s.perVco + 8)
    ∧ (let s := { running with sys := { running.sys with et := running.perVco - 9 } }; ¬ s.perVco ≤ s.sys.et % s.perVco + 8)
    ∧ (let s := { running with kiln := { running.kiln with pouts := [8, 9] } }
       s.kiln.pouts.filter (fun u => decide (s.sys.up + 8 < u)) = [9] ∧ s.kiln.ppss.all (fun u => decide (s.sys.up + 8 < u)) = true) :=
  ⟨⟨rfl, rfl, rfl, by decide, rfl, rfl⟩, by decide +kernel⟩

/-- A state with registers away from reset, a fault of class 3 in the last slot, and a command that waits. -/
def faulted : State :=
  let s := withFields (upIn .prepare) [(R.CASK_CFG.density, 1)]
  { s with flt := { s.flt with queue := [⟨3, 9, 1, 0, 65535, false, 7, 0, 63, 1⟩] }, pending := [.staleMark] }
theorem witness_EveryStepKeepsTheInvariant : faulted.Inv ∧ State.reset.Inv ∧ ∃ t, step faulted = .next t := by
  have h : (match step faulted with | .next _ => true | _ => false) = true := by decide +kernel
  refine ⟨⟨by decide +kernel, ⟨by decide, by decide⟩, rfl⟩, ⟨by decide +kernel, ⟨by decide, by decide⟩, rfl⟩, ?_⟩
  match hs : step faulted, h with
  | .next t, _ => exact ⟨t, rfl⟩

/-! ## Ill-formed terms, one for each check, and the well-formed ones beside them -/

def refuses (i : Instr) : Bool := !i.wf
theorem test_a_beat_of_no_byte : refuses (.rapidTransaction 0 (.read 0x10000 0) []) = true ∧ refuses (.rapidTransaction 0 (.write 0x10000 []) []) = true := by
  decide +kernel
theorem test_a_beat_leaves_its_line : refuses (.rapidTransaction 0 (.read 0x1003F 2) []) = true
    ∧ (Instr.rapidTransaction 0 (.read 0x1003F 1) []).wf = true ∧ (Instr.rapidTransaction 0 (.read 0x10000 64) []).wf = true := by decide +kernel
theorem test_a_sequence_of_one : refuses (.lockedSequence true [.read 0x10000 4]) = true ∧ refuses (.lockBreak true 0 []) = true
    ∧ (Instr.lockedSequence true [.read 0x10000 4, .write 0x10000 [some 1]]).wf = true := by decide +kernel
theorem test_a_sequence_with_a_wrong_beat : refuses (.lockedSequence true [.read 0x10000 4, .read 0x1003F 2]) = true
    ∧ refuses (.lockBreak false 1 [.read 0x10000 0, .write 0x10000 [some 1]]) = true := by decide +kernel
theorem test_an_atomic_unaligned : refuses (.atomicFetchadd 4 true false 1) = true ∧ refuses (.atomicSwap 2 false false 1) = true
    ∧ refuses (.atomicCas 6 false false 1 1) = true ∧ (Instr.atomicCas 4 false false 1 1).wf = true ∧ (Instr.atomicSwap 8 true false 1).wf = true := by
  decide +kernel

/-! ## The table's words -/

/-- No row of the opcode table gives a command any bits. -/
theorem test_no_word_spells_a_command (nbits w : Nat) : decodeTableWord nbits w = none := rfl
theorem test_a_step_takes_the_front (s : State) (c : Instr) : step { s with pending := [c] } = exec c { s with pending := [] } := rfl

end Sys2Proof.Tests
end

section
/-!
SUPPORT. Frames, and commands that raise faults of class 0 and 1 alone (R392 to R394): they change the fault queue, its counts of lost
records and the counters of events, and make no twin yield.
-/
namespace Sys2Proof.Machine

theorem Only.mono {ps ps' : List Part} {rs rs' : List Nat} {s t : State} (h : Only ps rs s t) (hp : ps ⊆ ps') (hr : rs ⊆ rs') :
    Only ps' rs' s t :=
  ⟨fun p k => h.parts p (fun m => k (hp m)), fun a k => h.regs a (fun m => k (hr m))⟩

/-- What leaves every part but those named, and every register. -/
theorem Only.ofParts {ps : List Part} {rs : List Nat} {s t : State} (h : ∀ p, p ∉ ps → p.same s t) (r : t.regs = s.regs) : Only ps rs s t :=
  ⟨h, fun a _ _ => by simp only [State.reg, r]⟩

theorem Only.setFlt {ps : List Part} {rs : List Nat} {s t : State} {x : FltS} (h : Only ps rs s t) (m : .flt ∈ ps) :
    Only ps rs s { t with flt := x } :=
  h.trans (.ofParts (fun p hp => by cases p <;> simp_all [Part.same]) rfl)

theorem Only.setKiln {ps : List Part} {rs : List Nat} {s t : State} {x : KilnS} (h : Only ps rs s t) (m : .kiln ∈ ps) :
    Only ps rs s { t with kiln := x } :=
  h.trans (.ofParts (fun p hp => by cases p <;> simp_all [Part.same]) rfl)

theorem Only.setXio {ps : List Part} {rs : List Nat} {s t : State} {x : XioS} (h : Only ps rs s t) (m : .xio ∈ ps) :
    Only ps rs s { t with xio := x } :=
  h.trans (.ofParts (fun p hp => by cases p <;> simp_all [Part.same]) rfl)

theorem Only.setHif {ps : List Part} {rs : List Nat} {s t : State} {x : HifS} (h : Only ps rs s t) (m : .hif ∈ ps) :
    Only ps rs s { t with hif := x } :=
  h.trans (.ofParts (fun p hp => by cases p <;> simp_all [Part.same]) rfl)

theorem Only.setPtp {ps : List Part} {rs : List Nat} {s t : State} {x : PtpS} (h : Only ps rs s t) (m : .ptp ∈ ps) :
    Only ps rs s { t with ptp := x } :=
  h.trans (.ofParts (fun p hp => by cases p <;> simp_all [Part.same]) rfl)

theorem Only.setFree {ps : List Part} {rs : List Nat} {s t : State} {x : Nat} (h : Only ps rs s t) (m : .free ∈ ps) :
    Only ps rs s { t with free := x } :=
  h.trans (.ofParts (fun p hp => by cases p <;> simp_all [Part.same]) rfl)

/-- A raised fault waits in the fault block. -/
theorem Only.raise {ps : List Part} {rs : List Nat} {s t : State} {c b k d : Nat} (h : Only ps rs s t) (m : .flt ∈ ps) :
    Only ps rs s (t.raise c b k d) := h.setFlt m

/-! ## Faults of class 0 and 1 -/

/-- Every fault that the command under way has raised is of class 0 or 1. -/
def State.mild (s : State) : Prop := ∀ x ∈ s.flt.raised, x.cls ≤ 1

theorem State.mild_of_flt {s t : State} (h : s.mild) (e : t.flt = s.flt) : t.mild := fun x hx => h x (e ▸ hx)

theorem State.quiet.mild {s : State} (h : s.quiet) : s.mild := fun x hx => by simp [h.raised] at hx

theorem State.mild_raise {s : State} {b k d : Nat} (h : s.mild) : (s.raise 1 b k d).mild := by
  intro x hx
  simp only [State.raise_flt, List.mem_append, List.mem_singleton] at hx
  obtain hx | rfl := hx
  · exact h x hx
  · exact Nat.le_refl 1

/-- A record that a fault of class 0 or 1 overwrites is of class 0 or 1 itself (R394). -/
theorem placeRec_mild {q : List FaultRec} {cls k : Nat} {o : FaultRec} (hc : cls ≤ 1) (h : placeRec q cls = some (k, some o)) :
    o.cls ≤ 1 := by
  unfold placeRec at h
  rw [if_neg (by omega)] at h
  dsimp only at h
  split at h
  · cases h
  · obtain ⟨v, hv, hr⟩ := List.exists_of_findSome?_eq_some h
    obtain ⟨r, found, e⟩ := Option.map_eq_some_iff.mp hr
    cases e
    unfold oldestGeneral at found
    have hcls : o.cls = v := by
      have := List.find?_some found
      simp only [Bool.and_eq_true, beq_iff_eq] at this
      exact this.1
    have hle : v ≤ cls := by
      have := (List.mem_filter.mp hv).2
      simp only [Bool.and_eq_true, Nat.ble_eq] at this
      exact this.1
    omega

/-- A fault of class 0 or 1 enters the queue and is counted as lost there, nowhere else. -/
theorem Only.enqueue {s : State} {x : Raised} (h : x.cls ≤ 1) : Only [.flt] lostRegs s (enqueue s x) := by
  have lost : ∀ n, n ≤ 1 → (R.FLT_LOST.lost n).addr ∈ lostRegs := fun n hn =>
    List.mem_map.mpr ⟨n, List.mem_range.mpr (by omega), rfl⟩
  have noted : noteLocal s x = s := by
    unfold noteLocal
    rw [if_neg]
    simp only [Bool.and_eq_true, Nat.ble_eq]
    omega
  have flt : ∀ f, Only [.flt] lostRegs s { s with flt := f } := fun f => .setFlt .refl List.mem_cons_self
  unfold Machine.enqueue
  simp only [noted, if_neg (show ¬ x.cls = 3 by omega)]
  split
  · exact flt _
  · split
    · exact Only.bump .refl (lost _ h)
    · rename_i k past hp
      cases past with
      | none => exact flt _
      | some o => exact (flt _).bump (lost _ (placeRec_mild h hp))

/-- Sorting the raised faults adds none. -/
theorem Raised.mem_insert {x y : Raised} {l : List Raised} (h : y ∈ Raised.insert x l) : y = x ∨ y ∈ l := by
  induction l with
  | nil => exact .inl (List.mem_singleton.mp h)
  | cons z l ih =>
    unfold Raised.insert at h
    split at h
    · rcases List.mem_cons.mp h with rfl | h
      · exact .inr List.mem_cons_self
      · exact (ih h).imp id (List.mem_cons_of_mem _)
    · exact List.mem_cons.mp h

theorem Raised.mem_sorted {y : Raised} (l acc : List Raised) (h : y ∈ l.foldl (fun acc x => Raised.insert x acc) acc) : y ∈ l ∨ y ∈ acc := by
  induction l generalizing acc with
  | nil => exact .inr h
  | cons x l ih =>
    rcases ih _ h with h | h
    · exact .inl (List.mem_cons_of_mem _ h)
    · rcases Raised.mem_insert h with rfl | h
      · exact .inl List.mem_cons_self
      · exact .inr h

/-- Faults of class 0 and 1 alone make no twin yield. -/
theorem twinAlarm_mild {l : List Raised} {s : State} (h : ∀ x ∈ l, x.cls ≤ 1) : twinAlarm l s = s := by
  have none : l.any Raised.alarms = false := by
    rw [List.any_eq_false]
    intro x hx
    have := h x hx
    simp only [Raised.alarms, Bool.or_eq_true, Bool.and_eq_true, beq_iff_eq]
    omega
  simp [twinAlarm, none]

/-- The entering of faults of class 0 and 1 changes the fault block and counters alone. -/
theorem Only.flushFaults {s : State} (h : s.mild) : Only [.flt] lostRegs s (flushFaults s) := by
  unfold Machine.flushFaults
  split
  · exact .refl
  · dsimp only
    rw [twinAlarm_mild h]
    have enter : ∀ (l : List Raised) (u : State), (∀ x ∈ l, x.cls ≤ 1) → Only [.flt] lostRegs s u → Only [.flt] lostRegs s (l.foldl Machine.enqueue u) := by
      intro l
      induction l with
      | nil => exact fun _ _ hu => hu
      | cons x l ih =>
        exact fun u hl hu => ih _ (fun y hy => hl y (List.mem_cons_of_mem _ hy)) (hu.trans (Only.enqueue (hl x List.mem_cons_self)))
    refine .count (enter _ _ (fun x hx => ?_) (.setFlt .refl List.mem_cons_self))
    rcases Raised.mem_sorted _ _ hx with hx | hx
    · exact h x hx
    · cases hx

/-- The frame of a command that raises faults of class 0 and 1 alone. -/
theorem Cmd.run_mild {f : State → State} {s : State} (on : s.on) (h : (f s.begin).mild) :
    ∃ t, Cmd.run f s = .next t ∧ Only [.flt] lostRegs (f s.begin) t := by
  obtain ⟨x, o, e⟩ := irqUpdate_shape (flushFaults (f s.begin))
  refine ⟨irqUpdate (flushFaults (f s.begin)), by simp [Cmd.run, on], (Only.flushFaults h).trans ?_⟩
  rw [e]
  exact .ofParts (fun p _ => by cases p <;> rfl) rfl

end Sys2Proof.Machine
end

section
/-!
SUPPORT. What Kiln's choice (R267) and its condition of lock (R273) read: where none of it changes, both stay.
-/
namespace Sys2Proof.Machine

/-! ## Reading a field through a frame -/

theorem State.get_of_reg {s t : State} {l : Loc} (h : t.reg l.addr = s.reg l.addr) : t.get l = s.get l := by simp only [State.get, h]

theorem State.flag_of_get {s t : State} {l : Loc} (h : t.get l = s.get l) : t.flag l = s.flag l := by simp only [State.flag, h]

/-- A field put leaves the fields of other registers. -/
theorem State.get_put_elsewhere {s : State} {l m : Loc} {v : Nat} (h : m.addr ≠ l.addr) : (s.put l v).get m = s.get m :=
  State.get_of_reg (by rw [State.reg_put, if_neg h])

/-! ## What Kiln's choice and its condition of lock read -/

/-- What decides whether a reference carries phase (R263). -/
theorem State.carriesPhase_congr {s t : State} {i : Nat} (grid : t.get R.SYS_GRID.fs_sel = s.get R.SYS_GRID.fs_sel)
    (taken : t.ptp.taken = s.ptp.taken) (rate : ∀ j, j < 14 → t.get (R.KILN_REF_CFG.rate j) = s.get (R.KILN_REF_CFG.rate j)) :
    t.carriesPhase i = s.carriesPhase i := by
  unfold State.carriesPhase
  split
  · rfl
  · split
    · simp only [State.fs, State.fsSel, grid, rate i (by omega)]
    · rw [taken]

/-- From s to t nothing has changed that the choice of R267 or the condition of R273 reads; the choice itself, what waits for lock, the flags of
KILN_STAT and KILN_EVT may have. -/
structure KilnAlike (s t : State) : Prop where
  sys : t.sys = s.sys
  taken : t.ptp.taken = s.ptp.taken
  kiln : t.kiln = { s.kiln with next := t.kiln.next, okUp := t.kiln.okUp }
  regs : ∀ a, a < 0x20000 → a ≠ R.KILN_STAT.reg → a ≠ R.KILN_EVT.reg → t.reg a = s.reg a
  state : t.get R.KILN_STAT.state = s.get R.KILN_STAT.state
  sel : t.get R.KILN_STAT.sel = s.get R.KILN_STAT.sel
  fsel : t.get R.KILN_STAT.fsel = s.get R.KILN_STAT.fsel

namespace KilnAlike

variable {s t u : State}

theorem trans (h : KilnAlike s t) (k : KilnAlike t u) : KilnAlike s u where
  sys := k.sys.trans h.sys
  taken := k.taken.trans h.taken
  kiln := by rw [k.kiln, h.kiln]
  regs a ha hs he := (k.regs a ha hs he).trans (h.regs a ha hs he)
  state := k.state.trans h.state
  sel := k.sel.trans h.sel
  fsel := k.fsel.trans h.fsel

/-- A frame that leaves the parts and the registers that are read. -/
theorem ofOnly {ps : List Part} {rs : List Nat} (h : Only ps rs s t) (hs : .sys ∉ ps) (hp : .ptp ∉ ps) (hk : .kiln ∉ ps)
    (hr : ∀ a ∈ rs, 0x20000 ≤ a) : KilnAlike s t := by
  have reg : ∀ a, a < 0x20000 → t.reg a = s.reg a := fun a ha =>
    h.regs a (fun m => absurd (hr a m) (by omega)) (by simp only [counterAt, decide_eq_false_iff_not]; omega)
  have kiln : t.kiln = s.kiln := h.parts .kiln hk
  exact ⟨h.parts .sys hs, congrArg PtpS.taken (h.parts .ptp hp), by rw [kiln], fun a ha _ _ => reg a ha,
    State.get_of_reg (reg _ (by decide)), State.get_of_reg (reg _ (by decide)), State.get_of_reg (reg _ (by decide))⟩

theorem get (h : KilnAlike s t) {l : Loc} (ha : l.addr < 0x20000) (hs : l.addr ≠ 0x10004) (he : l.addr ≠ 0x10008) :
    t.get l = s.get l := State.get_of_reg (h.regs _ ha hs he)

/-- A register of the references. -/
theorem getRef (h : KilnAlike s t) {l : Loc} (ha : 0x10100 ≤ l.addr) (hb : l.addr < 0x20000) : t.get l = s.get l :=
  h.get hb (by omega) (by omega)

theorem ref (h : KilnAlike s t) : t.kiln.ref = s.kiln.ref := by rw [h.kiln]

theorem kref (h : KilnAlike s t) (i : Nat) : t.kref i = s.kref i := by simp only [State.kref, h.ref]

theorem rateRef (h : KilnAlike s t) : t.rateRef = s.rateRef := by simp only [State.rateRef, h.sel, h.fsel]

theorem selected (h : KilnAlike s t) : t.selected = s.selected := by simp only [State.selected, h.sel, h.fsel]

theorem krefs (h : KilnAlike s t) : t.krefs = s.krefs := by
  refine List.filter_congr fun i hi => ?_
  have hi : i < 14 := List.mem_range.mp hi
  simp only [State.qualified, State.krefOk, h.sys,
    h.getRef (l := R.KILN_REF_STAT.qual i) (by dsimp only; omega) (by dsimp only; omega)]

theorem disagree (h : KilnAlike s t) : Machine.disagree t = Machine.disagree s := by
  funext a b
  simp only [Machine.disagree, h.kref, h.get (l := R.KILN_XCHECK.limit) (by decide) (by decide) (by decide)]

theorem votes (h : KilnAlike s t) : Machine.votes t = Machine.votes s := by
  funext q i; simp only [Machine.votes, h.disagree]

theorem refBefore (h : KilnAlike s t) : Machine.refBefore t = Machine.refBefore s := by
  funext q a b; simp only [Machine.refBefore, h.votes, h.kref]

theorem rank (h : KilnAlike s t) {i : Nat} (hi : i < 14) : t.get (R.KILN_REF_CFG.rank i) = s.get (R.KILN_REF_CFG.rank i) :=
  h.getRef (by dsimp only; omega) (by dsimp only; omega)

theorem choose (h : KilnAlike s t) {q c : List Nat} {cur : Nat} (hc : ∀ i ∈ c, i < 14) : Machine.choose t q c cur = Machine.choose s q c cur := by
  cases c with
  | nil => rfl
  | cons c0 ct =>
    have lowest : ct.foldl (fun m i => min m (t.get (R.KILN_REF_CFG.rank i))) (s.get (R.KILN_REF_CFG.rank c0))
        = ct.foldl (fun m i => min m (s.get (R.KILN_REF_CFG.rank i))) (s.get (R.KILN_REF_CFG.rank c0)) :=
      List.foldl_ext _ _ _ fun m i hi => by rw [h.rank (hc i (List.mem_cons_of_mem _ hi))]
    have those : ∀ r, (c0 :: ct).filter (fun i => t.get (R.KILN_REF_CFG.rank i) == r)
        = (c0 :: ct).filter (fun i => s.get (R.KILN_REF_CFG.rank i) == r) := fun r =>
      List.filter_congr fun i hi => by rw [h.rank (hc i hi)]
    simp only [Machine.choose, h.rank (hc c0 List.mem_cons_self), lowest, those, h.disagree, h.votes, h.refBefore]

/-- The choice of R267 is the same. -/
theorem chooseBoth (h : KilnAlike s t) : Machine.chooseBoth t = Machine.chooseBoth s := by
  have known : ∀ i ∈ s.krefs, i < 14 := fun i hi => List.mem_range.mp (List.mem_filter.mp hi).1
  have hybrid := State.flag_of_get (h.get (l := R.KILN_CFG.hybrid) (by decide) (by decide) (by decide))
  simp only [Machine.chooseBoth, h.krefs, hybrid, h.sel, h.fsel, h.choose known,
    h.choose (fun i hi => known i (List.mem_filter.mp hi).1)]

theorem carriesPhase (h : KilnAlike s t) (i : Nat) : t.carriesPhase i = s.carriesPhase i :=
  State.carriesPhase_congr (h.get (by decide) (by decide) (by decide)) h.taken
    (fun _ _ => h.getRef (by dsimp only; omega) (by dsimp only; omega))

theorem pend (h : KilnAlike s t) : t.pend = s.pend := by
  have slew : t.slewMax = s.slewMax := h.get (by decide) (by decide) (by decide)
  simp only [State.pend, slew, pendAt, h.sys]
  rw [h.kiln]

theorem loopPpb (h : KilnAlike s t) : t.loopPpb = s.loopPpb := by
  have drift := h.get (l := R.KILN_DRIFT_MAX.drift) (by decide) (by decide) (by decide)
  simp only [State.loopPpb, State.loopTerm, drift, loopAt, h.sys]
  rw [h.kiln]

/-- The condition of R273 is the same. -/
theorem lockOk (h : KilnAlike s t) : t.lockOk = s.lockOk := by
  have pherr := h.get (l := R.KILN_PHERR.value) (by decide) (by decide) (by decide)
  have win := h.get (l := R.KILN_LOCK.lock_win) (by decide) (by decide) (by decide)
  simp only [State.lockOk, h.sel, h.selected, h.carriesPhase, State.getS, pherr, win, h.pend, h.taken, h.loopPpb, h.kref, h.rateRef]

end KilnAlike
end Sys2Proof.Machine
end

section
/-!
SUPPORT. The choice that follows an update of a reference (R267 to R269), and the update of R265 by its cases.
-/
namespace Sys2Proof.Machine

@[simp] theorem State.get_raise {s : State} {c b k d : Nat} {l : Loc} : (s.raise c b k d).get l = s.get l := rfl
@[simp] theorem State.reg_setKref {s : State} {i a : Nat} {x : KilnRef} : (s.setKref i x).reg a = s.reg a := rfl
@[simp] theorem State.get_setKref {s : State} {i : Nat} {x : KilnRef} {l : Loc} : (s.setKref i x).get l = s.get l := rfl
@[simp] theorem State.flag_setKref {s : State} {i : Nat} {x : KilnRef} {l : Loc} : (s.setKref i x).flag l = s.flag l := rfl

/-! ## The choice follows an update (R267 to R269) -/

/-- The registers in which the choice shows. -/
abbrev choiceRegs : List Nat := [R.KILN_STAT.reg, R.KILN_EVT.reg]

theorem watchRefs_only {ps : List Part} {rs : List Nat} {s t : State} (h : Only ps rs s t) (m : .flt ∈ ps) (hs : R.KILN_STAT.reg ∈ rs)
    (he : R.KILN_EVT.reg ∈ rs) : Only ps rs s (watchRefs t) := by
  unfold watchRefs
  extract_lets sel l disp wan s1 s2
  have h1 : Only ps rs s s1 := .ite ((h.mark he).raise m) h
  have h2 : Only ps rs s s2 := .ite ((h1.mark he).raise m) h1
  exact (h2.put hs).put hs

theorem watchRefs_mild {s : State} (h : s.mild) : (watchRefs s).mild := by
  unfold watchRefs
  extract_lets sel l disp wan s1 s2
  have h1 : s1.mild := by unfold s1; split; exacts [State.mild_raise (s := s.mark _) h, h]
  have h2 : s2.mild := by unfold s2; split; exacts [State.mild_raise (s := s1.mark _) h1, h1]
  exact h2

/-- The fields of KILN_STAT below the flags stay. -/
theorem watchRefs_get {s : State} {l : Loc} (ha : l.addr = R.KILN_STAT.reg) (hl : l.lo + l.w ≤ 12) : (watchRefs s).get l = s.get l := by
  have flagged : ∀ (u : State) (e : Loc) (k d : Nat), e.addr = R.KILN_EVT.reg → ((u.mark e).raise 1 1 k d).get l = u.get l := by
    intro u e k d h
    rw [State.get_raise]
    exact State.get_put_elsewhere (by rw [ha, h]; decide)
  unfold watchRefs
  extract_lets sel q disp wan s1 s2
  rw [State.get_put_other (by decide) (.inr (.inl (by dsimp only; omega))), State.get_put_other (by decide) (.inr (.inl (by dsimp only; omega)))]
  have h1 : s1.get l = s.get l := by
    unfold s1; split
    · exact flagged s R.KILN_EVT.dispute_evt 5 sel rfl
    · rfl
  rw [← h1]
  unfold s2; split
  · exact flagged s1 R.KILN_EVT.wander_evt 6 sel rfl
  · rfl

/-- The watch over the references leaves what the choice reads. -/
theorem watchRefs_alike (s : State) : KilnAlike s (watchRefs s) := by
  have only := watchRefs_only (ps := [.flt]) (rs := choiceRegs) (s := s) .refl (by decide) (by decide) (by decide)
  have kiln : (watchRefs s).kiln = s.kiln := only.parts .kiln (by decide)
  refine ⟨only.parts .sys (by decide), congrArg PtpS.taken (only.parts .ptp (by decide)), by rw [kiln], fun a ha hs he => ?_,
    watchRefs_get rfl (by decide), watchRefs_get rfl (by decide), watchRefs_get rfl (by decide)⟩
  exact only.regs a (by simp [hs, he]) (by simp only [counterAt, decide_eq_false_iff_not]; omega)

/-- From s to t the choice of R267 was made, and nothing else happened. -/
structure Rechosen (s t : State) : Prop where
  only : Only [.kiln, .flt] choiceRegs s t
  alike : KilnAlike s t
  kiln : t.kiln = { s.kiln with next := chooseBoth t }
  mild : s.mild → t.mild

theorem refChosen_rechosen (s : State) : Rechosen s (refChosen s) := by
  have chosen : KilnAlike s { s with kiln := { s.kiln with next := chooseBoth s } } :=
    ⟨rfl, rfl, rfl, fun _ _ _ _ => rfl, rfl, rfl, rfl⟩
  have alike : KilnAlike s (refChosen s) := chosen.trans (watchRefs_alike _)
  have only := watchRefs_only (ps := [.flt]) (rs := choiceRegs) (s := { s with kiln := { s.kiln with next := chooseBoth s } }) .refl
    (by decide) (by decide) (by decide)
  refine ⟨watchRefs_only (.setKiln .refl (by decide)) (by decide) (by decide) (by decide), alike, ?_,
    fun h => watchRefs_mild (s := { s with kiln := { s.kiln with next := chooseBoth s } }) h⟩
  rw [alike.chooseBoth]
  exact only.parts .kiln (by decide)

/-! ## The update of R265 -/

/-- A reference's limits in ppb, and its hold time in ms. -/
def State.rejectPpb (s : State) (i : Nat) : Nat := 100 * max 1 (min 10000 (s.get (R.KILN_REF_LIM.reject i)))
def State.acceptPpb (s : State) (i : Nat) : Nat := min (100 * max 1 (min 10000 (s.get (R.KILN_REF_LIM.accept i)))) (s.rejectPpb i)
def State.holdMs (s : State) (i : Nat) : Nat := 100 * max 1 (min 6000 (s.get (R.KILN_REF_HOLD.hold i)))

/-- qual of reference i made q and its time within accept n. -/
def requalify (s : State) (i q n : Nat) : State := (setQual s i q).setKref i { s.kref i with t := n }

/-- The update of R265, by the offset and what the reference is. -/
theorem refUpdate_eq (s : State) (i dt : Nat) : refUpdate s i dt =
    if s.flag (R.KILN_REF_CFG.en i) = false ∨ s.flag (R.KILN_REF_STAT.active i) = false ∨ s.rejectPpb i < (s.kref i).f.natAbs then requalify s i 0 0
    else if s.get (R.KILN_REF_STAT.qual i) = 2 then s
    else if (s.kref i).f.natAbs ≤ s.acceptPpb i then
      requalify s i (if s.holdMs i ≤ ((s.kref i).t + dt) % 2 ^ 32 then 2 else 1) (((s.kref i).t + dt) % 2 ^ 32)
    else requalify s i 0 0 := by
  have reject : limit10k (s.get (R.KILN_REF_LIM.reject i)) * 100 = s.rejectPpb i := Nat.mul_comm _ _
  have hold : max 1 (min 6000 (s.get (R.KILN_REF_HOLD.hold i))) * 100 = s.holdMs i := Nat.mul_comm _ _
  have accept : min (limit10k (s.get (R.KILN_REF_LIM.accept i))) (limit10k (s.get (R.KILN_REF_LIM.reject i))) * 100 = s.acceptPpb i := by
    simp only [State.acceptPpb, State.rejectPpb, limit10k]; omega
  simp only [refUpdate, reject, hold, accept, Bool.or_eq_true, Bool.not_eq_true', Nat.blt_eq, or_assoc, requalify]

/-- From s to t qual of reference i became q and its time within accept n; leaving qualified sets disq_evt (R265, R268). -/
structure Requalified (s t : State) (i q n : Nat) : Prop where
  only : Only [.kiln] [R.KILN_REF_STAT.reg i] s t
  kiln : t.kiln = { s.kiln with ref := s.kiln.ref.set (Fin.ofNat 14 i) { s.kref i with t := n } }
  qual : t.get (R.KILN_REF_STAT.qual i) = q
  active : t.get (R.KILN_REF_STAT.active i) = s.get (R.KILN_REF_STAT.active i)
  evt : t.flag (R.KILN_REF_STAT.disq_evt i) = (s.flag (R.KILN_REF_STAT.disq_evt i) || decide (s.get (R.KILN_REF_STAT.qual i) = 2 ∧ q ≠ 2))

theorem setQual_only {s : State} {i q : Nat} : Only [.kiln] [R.KILN_REF_STAT.reg i] s (setQual s i q) := by
  unfold setQual
  exact .put (.ite (.mark .refl List.mem_cons_self) .refl) List.mem_cons_self

theorem setQual_kiln {s : State} {i q : Nat} : (setQual s i q).kiln = s.kiln := by
  unfold setQual
  dsimp only
  split <;> rfl

theorem requalify_requalified {s : State} {i q n : Nat} (hq : q < 4) : Requalified s (requalify s i q n) i q n := by
  refine ⟨setQual_only.setKiln (by decide), ?_, ?_, ?_, ?_⟩
  · simp only [requalify, State.setKref, setQual_kiln]
  · rw [requalify, State.get_setKref, setQual, State.get_put_self (by dsimp only; omega)]
    exact Nat.mod_eq_of_lt hq
  · rw [requalify, State.get_setKref, setQual, State.get_put_other (by dsimp only; omega) (.inr (by dsimp only; omega))]
    split
    · exact State.get_put_other (by dsimp only; omega) (.inr (by dsimp only; omega))
    · rfl
  · rw [requalify, State.flag_setKref, setQual, State.flag, State.get_put_other (by dsimp only; omega) (.inr (by dsimp only; omega))]
    split
    · rename_i left
      rw [State.mark, State.get_put_self (by dsimp only; omega), decide_eq_true left, Bool.or_true]
      rfl
    · rename_i stays
      rw [decide_eq_false stays, Bool.or_false, State.flag]

end Sys2Proof.Machine
end

section
/-!
SUPPORT. The parts of a measurement: what it notes (R264), what the loop is told (R270, R274), and the update (R265).
-/
namespace Sys2Proof.Machine

/-! ## The four outcomes of the update of R265 -/

section
variable {s : State} {i dt : Nat}

theorem refUpdate_out (h : s.flag (R.KILN_REF_CFG.en i) = false ∨ s.flag (R.KILN_REF_STAT.active i) = false ∨ s.rejectPpb i < (s.kref i).f.natAbs) :
    Requalified s (refUpdate s i dt) i 0 0 := by
  rw [refUpdate_eq, if_pos h]
  exact requalify_requalified (by decide)

section
variable (en : s.flag (R.KILN_REF_CFG.en i) = true) (on : s.flag (R.KILN_REF_STAT.active i) = true) (lies : (s.kref i).f.natAbs ≤ s.rejectPpb i)
include en on lies

theorem refUpdate_in : refUpdate s i dt = if s.get (R.KILN_REF_STAT.qual i) = 2 then s
    else if (s.kref i).f.natAbs ≤ s.acceptPpb i then
      requalify s i (if s.holdMs i ≤ ((s.kref i).t + dt) % 2 ^ 32 then 2 else 1) (((s.kref i).t + dt) % 2 ^ 32)
    else requalify s i 0 0 := by
  rw [refUpdate_eq, if_neg]
  simp only [en, on, Bool.true_eq_false, false_or, not_lt]
  exact lies

theorem refUpdate_stays (q : s.get (R.KILN_REF_STAT.qual i) = 2) : Requalified s (refUpdate s i dt) i 2 (s.kref i).t := by
  rw [refUpdate_in en on lies, if_pos q]
  refine ⟨.refl, ?_, q, rfl, by simp⟩
  have same : s.kiln.ref.set (Fin.ofNat 14 i) (s.kref i) = s.kiln.ref := Vector.set_getElem_self _
  exact congrArg (fun r => { s.kiln with ref := r }) same.symm

theorem refUpdate_between (q : s.get (R.KILN_REF_STAT.qual i) ≠ 2) (far : s.acceptPpb i < (s.kref i).f.natAbs) :
    Requalified s (refUpdate s i dt) i 0 0 := by
  rw [refUpdate_in en on lies, if_neg q, if_neg (by omega)]
  exact requalify_requalified (by decide)

theorem refUpdate_within (q : s.get (R.KILN_REF_STAT.qual i) ≠ 2) (near : (s.kref i).f.natAbs ≤ s.acceptPpb i) :
    Requalified s (refUpdate s i dt) i (if s.holdMs i ≤ ((s.kref i).t + dt) % 2 ^ 32 then 2 else 1) (((s.kref i).t + dt) % 2 ^ 32) := by
  rw [refUpdate_in en on lies, if_neg q, if_pos near]
  exact requalify_requalified (by split <;> decide)

end
end

/-! ## The loop follows (R270, R274) -/

/-- A measurement of reference i is one that the loop follows (R270). -/
def State.loopFollows (s : State) (i : Nat) : Prop :=
  (s.get R.KILN_STAT.state = 1 ∨ s.get R.KILN_STAT.state = 2) ∧ (i = s.get R.KILN_STAT.sel ∨ i = s.rateRef)

/-- The frequency, in 2^-16 ppb, that the loop asks for (R270). -/
def State.loopGoal (s : State) : Int :=
  let sel := s.get R.KILN_STAT.sel
  Config.kilnLoop s.free (s.kilnBw s.rateRef) (s.kref s.rateRef).f
    (if s.carriesPhase sel = true then some (s.kilnBw sel, s.getS R.KILN_PHERR.value) else none) s.loopTerm

theorem loopFollow_of {s : State} {i : Nat} (h : s.loopFollows i) : loopFollow s i = loopTo { s with free := s.free + 1 } s.loopGoal := by
  rw [loopFollow]
  exact if_pos h

theorem loopFollow_not {s : State} {i : Nat} (h : ¬s.loopFollows i) : loopFollow s i = s := by
  rw [loopFollow]
  exact if_neg h

/-- Only Kiln changes as the loop is told where to move. -/
theorem loopTo_eq (s : State) (g : Int) : loopTo s g = { s with kiln := (loopTo s g).kiln } := rfl

/-- From s to t the loop was told of a measurement of reference i. -/
structure LoopTold (s t : State) (i : Nat) : Prop where
  only : Only [.kiln, .free] [] s t
  regs : t.regs = s.regs
  kiln : t.kiln = { s.kiln with loop := t.kiln.loop, loopUp := t.kiln.loopUp, goal := t.kiln.goal, segs := t.kiln.segs, segUp := t.kiln.segUp }
  follows : s.loopFollows i → t.free = s.free + 1 ∧ t.kiln.loop = s.loopTerm ∧ t.kiln.loopUp = s.sys.up ∧ t.kiln.goal = s.loopGoal
  rests : ¬s.loopFollows i → t.free = s.free ∧ t.kiln = s.kiln

theorem loopFollow_told (s : State) (i : Nat) : LoopTold s (loopFollow s i) i := by
  by_cases h : s.loopFollows i
  · rw [loopFollow_of h]
    refine ⟨?_, rfl, rfl, fun _ => ⟨rfl, rfl, rfl, rfl⟩, fun n => absurd h n⟩
    rw [loopTo_eq]
    exact .setKiln (.setFree .refl (by decide)) (by decide)
  · rw [loopFollow_not h]
    exact ⟨.refl, rfl, rfl, fun n => absurd n h, fun _ => ⟨rfl, rfl⟩⟩

/-! ## A measurement (R264, R265) -/

/-- What a measurement of reference i notes before anything follows from it. -/
def refNoted (s : State) (i : Nat) (x p : Int) : State :=
  let s := (s.mark (R.KILN_REF_STAT.active i)).setReg (R.KILN_REF_FREQ.reg i) (BitVec.ofInt 32 x)
  let s := s.setKref i { s.kref i with f := x, ph := p }
  if s.get R.KILN_STAT.sel = i then s.setReg R.KILN_PHERR.reg (BitVec.ofInt 32 p) else s

theorem refMeasured_eq (s : State) (i : Nat) (x : Int) (dt : Nat) (p : Int) :
    refMeasured s i x dt p = lockWatch (refChosen (refUpdate (loopFollow (refNoted s i x p) i) i dt)) := rfl

/-- The registers of a reference that a measurement notes. -/
abbrev notedRegs (i : Nat) : List Nat := [R.KILN_REF_STAT.reg i, R.KILN_REF_FREQ.reg i, R.KILN_PHERR.reg]

/-- From s to t a measurement of reference i that gives x and p was noted. -/
structure Noted (s t : State) (i : Nat) (x p : Int) : Prop where
  only : Only [.kiln] (notedRegs i) s t
  kiln : t.kiln = { s.kiln with ref := s.kiln.ref.set (Fin.ofNat 14 i) ⟨x, (s.kref i).t, p⟩ }
  qual : t.get (R.KILN_REF_STAT.qual i) = s.get (R.KILN_REF_STAT.qual i)
  active : t.flag (R.KILN_REF_STAT.active i) = true
  evt : t.get (R.KILN_REF_STAT.disq_evt i) = s.get (R.KILN_REF_STAT.disq_evt i)
  freq : t.reg (R.KILN_REF_FREQ.reg i) = BitVec.ofInt 32 x
  pherr : t.reg R.KILN_PHERR.reg = if s.get R.KILN_STAT.sel = i then BitVec.ofInt 32 p else s.reg R.KILN_PHERR.reg

theorem reg_refNoted {s : State} {i : Nat} {x p : Int} {a : Nat} (ha : a ≠ R.KILN_PHERR.reg) :
    (refNoted s i x p).reg a = ((s.mark (R.KILN_REF_STAT.active i)).setReg (R.KILN_REF_FREQ.reg i) (BitVec.ofInt 32 x)).reg a := by
  unfold refNoted
  dsimp only
  split
  · rw [State.reg_setReg_other ha, State.reg_setKref]
  · rw [State.reg_setKref]

/-- KILN_REF_STAT after a measurement was noted. -/
theorem get_refNoted {s : State} {i : Nat} {x p : Int} (hi : i < 14) {l : Loc} (ha : l.addr = R.KILN_REF_STAT.reg i) :
    (refNoted s i x p).get l = (s.mark (R.KILN_REF_STAT.active i)).get l := by
  apply State.get_of_reg
  rw [reg_refNoted (by rw [ha]; simp only [R.KILN_PHERR.reg, R.KILN_REF_STAT.reg]; omega),
    State.reg_setReg_other (by rw [ha]; simp only [R.KILN_REF_FREQ.reg, R.KILN_REF_STAT.reg]; omega)]

theorem refNoted_noted {s : State} {i : Nat} (hi : i < 14) (x p : Int) : Noted s (refNoted s i x p) i x p := by
  have sel : ((s.mark (R.KILN_REF_STAT.active i)).setReg (R.KILN_REF_FREQ.reg i) (BitVec.ofInt 32 x)).get R.KILN_STAT.sel = s.get R.KILN_STAT.sel := by
    apply State.get_of_reg
    rw [State.reg_setReg_other (by simp only [R.KILN_REF_FREQ.reg]; omega), State.mark, State.reg_put, if_neg (by dsimp only; omega)]
  refine ⟨?_, ?_, ?_, ?_, ?_, ?_, ?_⟩
  · have noted : Only [.kiln] (notedRegs i) s ((s.mark (R.KILN_REF_STAT.active i)).setReg (R.KILN_REF_FREQ.reg i) (BitVec.ofInt 32 x)) :=
      .setReg (.mark .refl (by simp)) (by simp)
    exact .ite (.setReg (.setKiln noted (by decide)) (by simp)) (.setKiln noted (by decide))
  · unfold refNoted
    dsimp only
    split <;> rfl
  · rw [get_refNoted hi rfl]
    exact State.get_put_other (by dsimp only; omega) (.inr (by dsimp only; omega))
  · rw [State.flag, get_refNoted hi rfl, State.mark, State.get_put_self (by dsimp only; omega)]
    rfl
  · rw [get_refNoted hi rfl]
    exact State.get_put_other (by dsimp only; omega) (.inr (by dsimp only; omega))
  · rw [reg_refNoted (by simp only [R.KILN_PHERR.reg, R.KILN_REF_FREQ.reg]; omega), State.reg_setReg_self]
  · unfold refNoted
    dsimp only
    rw [State.get_setKref, sel]
    split
    · rw [State.reg_setReg_self]
    · rw [State.reg_setKref, State.reg_setReg_other (by simp only [R.KILN_PHERR.reg, R.KILN_REF_FREQ.reg]; omega), State.mark, State.reg_put,
        if_neg (by simp only [R.KILN_PHERR.reg]; omega)]

end Sys2Proof.Machine
end

section
/-!
SUPPORT. A measurement as a whole: its frame, and what it leaves of Kiln (R263 to R265, R267, R270, R273).
-/
namespace Sys2Proof.Machine

theorem State.kref_of_ref {s t : State} {i : Nat} {y : KilnRef} (h : t.kiln.ref = s.kiln.ref.set (Fin.ofNat 14 i) y) : t.kref i = y := by
  simp only [State.kref, h, Fin.getElem_fin, Vector.getElem_set_self]

/-- A reference's time within accept is no part of what was measured of it. -/
theorem Requalified.kref_f {s t : State} {i q n : Nat} (h : Requalified s t i q n) (j : Nat) : (t.kref j).f = (s.kref j).f := by
  simp only [State.kref, h.kiln, Fin.getElem_fin, Vector.getElem_set]
  split
  · rename_i e; simp only [e]
  · rfl

namespace Noted

variable {s t : State} {i : Nat} {x p : Int}

theorem reg (h : Noted s t i x p) {a : Nat} (ha : a ≠ R.KILN_REF_STAT.reg i) (hf : a ≠ R.KILN_REF_FREQ.reg i) (hp : a ≠ R.KILN_PHERR.reg)
    (hc : a < 0x20000) : t.reg a = s.reg a :=
  h.only.regs a (by simp [ha, hf, hp]) (by simp only [counterAt, decide_eq_false_iff_not]; omega)

/-- A field outside the references' measured values. -/
theorem get (h : Noted s t i x p) {l : Loc} (hp : l.addr ≠ 0x10060) (hl : l.addr < 0x1010C ∨ l.addr % 16 ≠ 12 ∧ l.addr < 0x10200) :
    t.get l = s.get l :=
  State.get_of_reg (h.reg (by simp only [R.KILN_REF_STAT.reg]; omega) (by simp only [R.KILN_REF_FREQ.reg]; omega) hp (by omega))

theorem flt (h : Noted s t i x p) : t.flt = s.flt := h.only.parts .flt (by decide)
theorem sys (h : Noted s t i x p) : t.sys = s.sys := h.only.parts .sys (by decide)
theorem free (h : Noted s t i x p) : t.free = s.free := h.only.parts .free (by decide)

theorem state (h : Noted s t i x p) : t.get R.KILN_STAT.state = s.get R.KILN_STAT.state := h.get (by decide) (by decide)
theorem sel (h : Noted s t i x p) : t.get R.KILN_STAT.sel = s.get R.KILN_STAT.sel := h.get (by decide) (by decide)

theorem rateRef (h : Noted s t i x p) : t.rateRef = s.rateRef := by
  simp only [State.rateRef, h.sel, h.get (l := R.KILN_STAT.fsel) (by decide) (by decide)]

theorem kilnBw (h : Noted s t i x p) (j : Nat) : t.kilnBw j = s.kilnBw j := by
  have bw : ∀ n, n < 5 → t.get (R.KILN_BW.bw n) = s.get (R.KILN_BW.bw n) := fun n hn =>
    h.get (by dsimp only; omega) (by dsimp only; omega)
  unfold State.kilnBw
  split_ifs <;> exact congrArg (fun b => max _ (min _ b)) (bw _ (by decide))

theorem carriesPhase (h : Noted s t i x p) (j : Nat) : t.carriesPhase j = s.carriesPhase j :=
  State.carriesPhase_congr (h.get (by decide) (by decide)) (congrArg PtpS.taken (h.only.parts .ptp (by decide)))
    (fun n hn => h.get (by dsimp only; omega) (by dsimp only; omega))

theorem loopTerm (h : Noted s t i x p) : t.loopTerm = s.loopTerm := by
  simp only [State.loopTerm, loopAt, h.get (l := R.KILN_DRIFT_MAX.drift) (by decide) (by decide), h.sys, h.kiln]

theorem loopFollows (h : Noted s t i x p) (j : Nat) : t.loopFollows j ↔ s.loopFollows j := by
  simp only [State.loopFollows, h.state, h.sel, h.rateRef]

theorem kref (h : Noted s t i x p) : t.kref i = ⟨x, (s.kref i).t, p⟩ := State.kref_of_ref (s := s) (congrArg KilnS.ref h.kiln)

end Noted

/-! ## All that follows from a measurement -/

/-- What an engine in state t makes of a measurement of reference i in state s that gives the offset x and the phase error p, and leaves the
reference with qual q and the time n within accept (R263 to R265, R267, R270, R273). -/
structure Measured (s t : State) (i : Fin 14) (x p : Int) (q n : Nat) : Prop where
  kiln : t.kiln = { s.kiln with
    ref := s.kiln.ref.set i ⟨x, n, p⟩, next := chooseBoth t
    okUp := if s.get R.KILN_STAT.state = 1 ∧ t.lockOk = true then some (s.kiln.okUp.getD s.sys.up) else none
    loop := t.kiln.loop, loopUp := t.kiln.loopUp, goal := t.kiln.goal, segs := t.kiln.segs, segUp := t.kiln.segUp }
  follows : s.loopFollows i.val → t.free = s.free + 1 ∧ t.kiln.loop = s.loopTerm ∧ t.kiln.loopUp = s.sys.up
    ∧ t.kiln.goal = Config.kilnLoop s.free (s.kilnBw s.rateRef) (t.kref s.rateRef).f
      (if s.carriesPhase (s.get R.KILN_STAT.sel) = true then some (s.kilnBw (s.get R.KILN_STAT.sel), t.getS R.KILN_PHERR.value) else none) s.loopTerm
  rests : ¬s.loopFollows i.val → t.free = s.free ∧ t.kiln = { s.kiln with ref := t.kiln.ref, next := t.kiln.next, okUp := t.kiln.okUp }
  active : t.flag (R.KILN_REF_STAT.active i.val) = true
  qual : t.get (R.KILN_REF_STAT.qual i.val) = q
  evt : t.flag (R.KILN_REF_STAT.disq_evt i.val)
    = (s.flag (R.KILN_REF_STAT.disq_evt i.val) || decide (s.get (R.KILN_REF_STAT.qual i.val) = 2 ∧ q ≠ 2))
  freq : t.reg (R.KILN_REF_FREQ.reg i.val) = BitVec.ofInt 32 x
  pherr : t.reg R.KILN_PHERR.reg = if s.get R.KILN_STAT.sel = i.val then BitVec.ofInt 32 p else s.reg R.KILN_PHERR.reg
  state : t.get R.KILN_STAT.state = s.get R.KILN_STAT.state
  sel : t.get R.KILN_STAT.sel = s.get R.KILN_STAT.sel

/-- Since when the condition of R273 holds. -/
theorem lockWatch_alike (s : State) : KilnAlike s (lockWatch s) := ⟨rfl, rfl, rfl, fun _ _ _ _ => rfl, rfl, rfl, rfl⟩

theorem lockWatch_kiln (s : State) : (lockWatch s).kiln = { s.kiln with
    okUp := if s.get R.KILN_STAT.state = 1 ∧ (lockWatch s).lockOk = true then some (s.kiln.okUp.getD s.sys.up) else none } := by
  rw [(lockWatch_alike s).lockOk]
  simp only [lockWatch, Bool.and_eq_true, beq_iff_eq]

theorem refUpdate_only {s : State} {i dt : Nat} : Only [.kiln] [R.KILN_REF_STAT.reg i] s (refUpdate s i dt) := by
  have made : ∀ q n, Only [.kiln] [R.KILN_REF_STAT.reg i] s (requalify s i q n) := fun _ _ => setQual_only.setKiln (by decide)
  rw [refUpdate_eq]
  exact .ite (made _ _) (.ite .refl (.ite (made _ _) (made _ _)))

/-- A measurement's frame. -/
theorem refMeasured_only {s : State} {i : Nat} {x : Int} {dt : Nat} {p : Int} (hi : i < 14) :
    Only [.kiln, .flt, .free] (notedRegs i ++ choiceRegs) s (refMeasured s i x dt p) := by
  have noted := (refNoted_noted (s := s) hi x p).only.mono (ps' := [.kiln, .flt, .free]) (rs' := notedRegs i ++ choiceRegs) (by simp) (by simp)
  have told := (loopFollow_told (refNoted s i x p) i).only.mono (ps' := [.kiln, .flt, .free]) (rs' := notedRegs i ++ choiceRegs) (by simp) (by simp)
  have updated := (refUpdate_only (s := loopFollow (refNoted s i x p) i) (i := i) (dt := dt)).mono (ps' := [.kiln, .flt, .free])
    (rs' := notedRegs i ++ choiceRegs) (by simp) (by simp)
  have chosen := (refChosen_rechosen (refUpdate (loopFollow (refNoted s i x p) i) i dt)).only.mono (ps' := [.kiln, .flt, .free])
    (rs' := notedRegs i ++ choiceRegs) (by simp) (by simp)
  exact (((noted.trans told).trans updated).trans chosen).setKiln (by simp)

/-- A measurement raises faults of class 1 at most. -/
theorem refMeasured_mild {s : State} {i : Nat} {x : Int} {dt : Nat} {p : Int} (hi : i < 14) (h : s.mild) : (refMeasured s i x dt p).mild := by
  have updated : (refUpdate (loopFollow (refNoted s i x p) i) i dt).flt = s.flt :=
    (refUpdate_only.parts .flt (by decide)).trans (((loopFollow_told _ i).only.parts .flt (by decide)).trans (refNoted_noted hi x p).flt)
  exact (refChosen_rechosen _).mild (State.mild_of_flt h updated)

theorem refMeasured_measured {s : State} {i : Fin 14} {x : Int} {dt : Nat} {p : Int} {q n : Nat}
    (up : Requalified (loopFollow (refNoted s i.val x p) i.val) (refUpdate (loopFollow (refNoted s i.val x p) i.val) i.val dt) i.val q n) :
    Measured s (refMeasured s i.val x dt p) i x p q n := by
  have noted := refNoted_noted (s := s) i.isLt x p
  have told := loopFollow_told (refNoted s i.val x p) i.val
  have chosen := refChosen_rechosen (refUpdate (loopFollow (refNoted s i.val x p) i.val) i.val dt)
  rw [refMeasured_eq]
  generalize refNoted s i.val x p = s1 at *
  generalize loopFollow s1 i.val = s2 at *
  generalize refUpdate s2 i.val dt = s3 at *
  generalize refChosen s3 = s4 at *
  have alike : KilnAlike s3 (lockWatch s4) := chosen.alike.trans (lockWatch_alike s4)
  have reg3 : ∀ a, a ≠ R.KILN_REF_STAT.reg i.val → a < 0x20000 → s3.reg a = s1.reg a := fun a ha hc =>
    (up.only.regs a (by simp [ha]) (by simp only [counterAt, decide_eq_false_iff_not]; omega)).trans (by simp only [State.reg, told.regs])
  have get2 : ∀ l, s2.get l = s1.get l := fun l => by simp only [State.get, State.reg, told.regs]
  have state3 : s3.get R.KILN_STAT.state = s.get R.KILN_STAT.state :=
    (State.get_of_reg (reg3 _ (by simp only [R.KILN_REF_STAT.reg]; omega) (by decide))).trans noted.state
  have sel3 : s3.get R.KILN_STAT.sel = s.get R.KILN_STAT.sel :=
    (State.get_of_reg (reg3 _ (by simp only [R.KILN_REF_STAT.reg]; omega) (by decide))).trans noted.sel
  have kref2 : s2.kref i.val = ⟨x, (s.kref i.val).t, p⟩ := by
    rw [← noted.kref, State.kref, State.kref, told.kiln]
  have sys4 : s4.sys = s.sys :=
    chosen.alike.sys.trans ((up.only.parts .sys (by decide)).trans ((told.only.parts .sys (by decide)).trans noted.sys))
  have free : (lockWatch s4).free = s2.free := (chosen.only.parts .free (by decide)).trans (up.only.parts .free (by decide))
  have carried : (lockWatch s4).kiln = { s2.kiln with
      ref := (lockWatch s4).kiln.ref, next := (lockWatch s4).kiln.next, okUp := (lockWatch s4).kiln.okUp } := by
    rw [lockWatch_kiln, chosen.kiln, up.kiln]
  refine ⟨?_, fun h => ?_, fun h => ?_, ?_, ?_, ?_, ?_, ?_, alike.state.trans state3, alike.sel.trans sel3⟩
  · have locked := lockWatch_kiln s4
    rw [chosen.alike.state, state3] at locked
    rw [locked, chosen.kiln, up.kiln, kref2, told.kiln, noted.kiln]
    simp only [Vector.set_set, Fin.ofNat_val_eq_self, (lockWatch_alike s4).chooseBoth, sys4]
  · obtain ⟨took, loop, loopUp, goal⟩ := told.follows ((noted.loopFollows _).mpr h)
    have asked : (lockWatch s4).getS R.KILN_PHERR.value = s1.getS R.KILN_PHERR.value := by
      have value : (lockWatch s4).get R.KILN_PHERR.value = s1.get R.KILN_PHERR.value :=
        (alike.get (by decide) (by decide) (by decide)).trans
          (State.get_of_reg (reg3 _ (by simp only [R.KILN_REF_STAT.reg]; omega) (by decide)))
      simp only [State.getS, value]
    have offset : ((lockWatch s4).kref s.rateRef).f = (s1.kref s.rateRef).f := by
      rw [alike.kref, up.kref_f, State.kref, State.kref, told.kiln]
    refine ⟨?_, ?_, ?_, ?_⟩
    · rw [free, took, noted.free]
    · rw [carried, loop, noted.loopTerm]
    · rw [carried, loopUp, noted.sys]
    · rw [carried, goal, asked, offset]
      simp only [State.loopGoal, noted.free, noted.kilnBw, noted.rateRef, noted.sel, noted.carriesPhase, noted.loopTerm]
  · obtain ⟨took, kiln⟩ := told.rests (fun f => h ((noted.loopFollows _).mp f))
    refine ⟨by rw [free, took, noted.free], ?_⟩
    rw [carried, kiln, noted.kiln]
  · rw [State.flag, alike.getRef (by dsimp only; omega) (by dsimp only; omega), up.active, get2]
    exact noted.active
  · rw [alike.getRef (by dsimp only; omega) (by dsimp only; omega), up.qual]
  · rw [State.flag, alike.getRef (by dsimp only; omega) (by dsimp only; omega)]
    refine up.evt.trans ?_
    rw [get2, noted.qual, State.flag, get2, noted.evt, State.flag]
  · rw [alike.regs _ (by simp only [R.KILN_REF_FREQ.reg]; omega) (by simp only [R.KILN_REF_FREQ.reg, R.KILN_STAT.reg]; omega)
        (by simp only [R.KILN_REF_FREQ.reg, R.KILN_EVT.reg]; omega),
      reg3 _ (by simp only [R.KILN_REF_FREQ.reg, R.KILN_REF_STAT.reg]; omega) (by simp only [R.KILN_REF_FREQ.reg]; omega)]
    exact noted.freq
  · rw [alike.regs _ (by decide) (by decide) (by decide), reg3 _ (by simp only [R.KILN_PHERR.reg, R.KILN_REF_STAT.reg]; omega) (by decide)]
    exact noted.pherr

end Sys2Proof.Machine
end

section
/-!
SUPPORT. The synthesisers that follow a reference, and the rate bridges of their domains, unlock (R166, R280).
-/
namespace Sys2Proof.Machine

/-! ## Synthesisers and bridges that unlock (R166, R280) -/

/-- The registers of the rate bridges that an unlocking changes, and with them those of the domains. -/
abbrev bridgeRegs : List Nat := (List.range 256).flatMap (fun b => [R.XIO_BR_STAT.reg b, R.XIO_BR_GD.reg b])
abbrev synthRegs : List Nat := (List.range 2).map R.XIO_DOM.reg ++ bridgeRegs

theorem bridgeReg_mem {a b : Nat} (hb : b < 256) (h : a = R.XIO_BR_STAT.reg b ∨ a = R.XIO_BR_GD.reg b) : a ∈ bridgeRegs :=
  List.mem_flatMap.mpr ⟨b, List.mem_range.mpr hb, by simpa using h⟩

theorem synthReg_high {a : Nat} (h : a ∈ synthRegs) : 0x20000 ≤ a := by
  rcases List.mem_append.mp h with h | h
  · obtain ⟨d, -, rfl⟩ := List.mem_map.mp h
    simp only [R.XIO_DOM.reg]; omega
  · obtain ⟨b, -, h⟩ := List.mem_flatMap.mp h
    simp only [List.mem_cons, List.not_mem_nil, or_false, R.XIO_BR_STAT.reg, R.XIO_BR_GD.reg] at h
    omega

/-- A bridge that unlocks changes its own registers, and is noted. -/
theorem bridgeUnlock_only {s : State} {b : Nat} (hb : b < 256) : Only [.xio, .flt] bridgeRegs s (bridgeUnlock s b) := by
  have stat : R.XIO_BR_STAT.reg b ∈ bridgeRegs := bridgeReg_mem hb (.inl rfl)
  have gd : R.XIO_BR_GD.reg b ∈ bridgeRegs := bridgeReg_mem hb (.inr rfl)
  unfold bridgeUnlock
  split
  · exact .refl
  · refine .ite .refl (.count (.raise (.setReg (.bump (.mark (.unmark (.setXio .refl ?_) stat) stat) stat) gd) ?_)) <;> decide

theorem State.count_xio (s : State) (ev n : Nat) : (s.count ev n).xio = s.xio := by
  obtain ⟨r, e⟩ := State.count_shape s ev n
  rw [e]

theorem State.count_flt (s : State) (ev n : Nat) : (s.count ev n).flt = s.flt := by
  obtain ⟨r, e⟩ := State.count_shape s ev n
  rw [e]

theorem bridgeUnlock_mild {s : State} {b : Nat} (h : s.mild) : (bridgeUnlock s b).mild := by
  unfold bridgeUnlock
  split
  · exact h
  · dsimp only
    split
    · exact h
    · exact State.mild_of_flt (State.mild_raise h) (State.count_flt ..)

/-- The bridges that run stay the same bridges. -/
theorem bridgeUnlock_names {s : State} {b : Nat} : (bridgeUnlock s b).xio.bridges.map (·.b) = s.xio.bridges.map (·.b) := by
  unfold bridgeUnlock
  split
  · rfl
  · rename_i x _
    dsimp only
    split
    · rfl
    · rw [State.count_xio]
      simp only [State.raise_xio, State.setReg_xio, State.bump_xio, State.mark_xio, State.unmark_xio, State.setBridge, List.map_map]
      refine List.map_congr_left fun y _ => ?_
      simp only [Function.comp]
      split
      · rename_i e; exact (beq_iff_eq.mp e).symm
      · rfl

/-- Every bridge that runs is one of the 256. -/
def State.bridgesKnown (s : State) : Prop := ∀ x ∈ s.xio.bridges, x.b < 256

theorem State.bridgesKnown_iff {s : State} : s.bridgesKnown ↔ ∀ b ∈ s.xio.bridges.map (·.b), b < 256 := by
  simp [State.bridgesKnown]

/-- From s to t bridges unlocked, and nothing else happened. -/
structure BridgesUnlocked (s t : State) : Prop where
  only : Only [.xio, .flt] bridgeRegs s t
  mild : s.mild → t.mild
  known : t.bridgesKnown

theorem bridgesUnlock_unlocked {s : State} {which : Nat → Bool} (h : s.bridgesKnown) : BridgesUnlocked s (bridgesUnlock s which) := by
  have all : ∀ (l : List BridgeU) (u : State), (∀ x ∈ l, x.b < 256) → BridgesUnlocked s u →
      BridgesUnlocked s (l.foldl (fun s x => if which x.b then bridgeUnlock s x.b else s) u) := by
    intro l
    induction l with
    | nil => exact fun _ _ hu => hu
    | cons x l ih =>
      refine fun u hl hu => ih _ (fun y hy => hl y (List.mem_cons_of_mem _ hy)) ?_
      dsimp only
      split
      · refine ⟨hu.only.trans (bridgeUnlock_only (hl x List.mem_cons_self)), fun m => bridgeUnlock_mild (hu.mild m), ?_⟩
        rw [State.bridgesKnown_iff, bridgeUnlock_names, ← State.bridgesKnown_iff]
        exact hu.known
      · exact hu
  exact all _ s h ⟨.refl, id, h⟩

/-- A synthesiser that follows nothing has nothing to lose. -/
theorem domUnlock_free {s : State} {d : Nat} (h : s.get (R.XIO_DOM.src d) = 0) : domUnlock s d = s := by
  unfold domUnlock
  rw [if_pos (by simp [h])]

/-- From s to t synthesisers unlocked, and the bridges of their domains with them. -/
structure SynthsUnlocked (s t : State) : Prop where
  only : Only [.xio, .flt] synthRegs s t
  mild : s.mild → t.mild
  known : t.bridgesKnown
  src : ∀ d, d < 2 → t.get (R.XIO_DOM.src d) = s.get (R.XIO_DOM.src d)
  locked : ∀ d, d < 2 → s.flag (R.XIO_DOM.locked d) = false → t.flag (R.XIO_DOM.locked d) = false

theorem SynthsUnlocked.refl {s : State} (h : s.bridgesKnown) : SynthsUnlocked s s :=
  ⟨.refl, id, h, fun _ _ => rfl, fun _ _ h => h⟩

theorem SynthsUnlocked.trans {s t u : State} (h : SynthsUnlocked s t) (k : SynthsUnlocked t u) : SynthsUnlocked s u :=
  ⟨h.only.trans k.only, k.mild ∘ h.mild, k.known, fun d hd => (k.src d hd).trans (h.src d hd), fun d hd l => k.locked d hd (h.locked d hd l)⟩

/-- An unlocking of bridges leaves the domains' registers. -/
theorem BridgesUnlocked.dom {s t : State} (h : BridgesUnlocked s t) {l : Loc} {d : Nat} (hd : d < 2) (hl : l.addr = R.XIO_DOM.reg d) :
    t.get l = s.get l := by
  refine State.get_of_reg (h.only.regs _ (fun m => ?_) ?_)
  · obtain ⟨b, -, m⟩ := List.mem_flatMap.mp m
    simp only [List.mem_cons, List.not_mem_nil, or_false, R.XIO_BR_STAT.reg, R.XIO_BR_GD.reg, hl, R.XIO_DOM.reg] at m
    omega
  · simp only [counterAt, hl, R.XIO_DOM.reg, decide_eq_false_iff_not]; omega

theorem domUnlock_unlocked {s : State} {d : Nat} (hd : d < 2) (h : s.bridgesKnown) : SynthsUnlocked s (domUnlock s d) := by
  have bridges := bridgesUnlock_unlocked (s := s.unmark (R.XIO_DOM.locked d))
    (which := fun b => s.grpDom (s.brGrp b) == d + 1) h
  unfold domUnlock
  split
  · exact .refl h
  · refine ⟨?_, bridges.mild, bridges.known, fun e he => ?_, fun e he l => ?_⟩
    · refine (Only.unmark .refl ?_).trans (bridges.only.mono (List.Subset.refl _) (List.subset_append_right _ _))
      exact List.mem_append_left _ (List.mem_map.mpr ⟨d, List.mem_range.mpr hd, rfl⟩)
    · rw [bridges.dom he rfl]
      exact State.get_put_other (by dsimp only; omega) (.inr (by dsimp only; omega))
    · rw [State.flag, bridges.dom he rfl, State.unmark]
      by_cases same : e = d
      · rw [same, State.get_put_self (by dsimp only; omega)]
        rfl
      · rw [State.get_put_elsewhere (by dsimp only; omega)]
        exact l

theorem domUnlock_locked {s : State} {d : Nat} (hd : d < 2) (h : s.bridgesKnown) (src : s.get (R.XIO_DOM.src d) ≠ 0) :
    (domUnlock s d).flag (R.XIO_DOM.locked d) = false := by
  have bridges := bridgesUnlock_unlocked (s := s.unmark (R.XIO_DOM.locked d))
    (which := fun b => s.grpDom (s.brGrp b) == d + 1) h
  unfold domUnlock
  split
  · rename_i idle
    simpa [src] using idle
  · rw [State.flag, bridges.dom hd rfl, State.unmark, State.get_put_self (by dsimp only; omega)]
    rfl

/-! ## The synthesisers that follow a reference (R280) -/

/-- The synthesisers that follow reference i unlock, where c says that they do. -/
def followersUnlock (i : Nat) (c : Prop) [Decidable c] (s : State) : State :=
  (List.range 2).foldl (fun s d => if s.get (R.XIO_DOM.src d) + 9 = i ∧ c then domUnlock s d else s) s

/-- The synthesiser of domain d unlocks if it follows reference i. -/
def followerUnlock (i : Nat) (c : Prop) [Decidable c] (s : State) (d : Nat) : State :=
  if s.get (R.XIO_DOM.src d) + 9 = i ∧ c then domUnlock s d else s

theorem followersUnlock_eq (i : Nat) (c : Prop) [Decidable c] (s : State) :
    followersUnlock i c s = followerUnlock i c (followerUnlock i c s 0) 1 := rfl

/-- No synthesiser follows a reference below the word clocks, and none where c is false. -/
theorem followersUnlock_none {i : Nat} {c : Prop} [Decidable c] {s : State} (h : c → i < 10) : followersUnlock i c s = s := by
  have one : ∀ (u : State) (d : Nat), followerUnlock i c u d = u := by
    intro u d
    unfold followerUnlock
    split
    · rename_i f
      exact domUnlock_free (by have := h f.2; omega)
    · rfl
  rw [followersUnlock_eq, one, one]

theorem followerUnlock_unlocked {i : Nat} {c : Prop} [Decidable c] {s : State} {d : Nat} (hd : d < 2) (h : s.bridgesKnown) :
    SynthsUnlocked s (followerUnlock i c s d) := by
  unfold followerUnlock
  split
  · exact domUnlock_unlocked hd h
  · exact .refl h

theorem followersUnlock_unlocked {i : Nat} {c : Prop} [Decidable c] {s : State} (h : s.bridgesKnown) : SynthsUnlocked s (followersUnlock i c s) := by
  rw [followersUnlock_eq]
  have first := followerUnlock_unlocked (i := i) (c := c) (d := 0) (by decide) h
  exact first.trans (followerUnlock_unlocked (by decide) first.known)

/-- A synthesiser that follows a word clock is unlocked. -/
theorem followersUnlock_locked {i : Nat} {c : Prop} [Decidable c] {s : State} (h : s.bridgesKnown) (hc : c) (hi : 10 ≤ i) {d : Nat} (hd : d < 2)
    (src : s.get (R.XIO_DOM.src d) + 9 = i) : (followersUnlock i c s).flag (R.XIO_DOM.locked d) = false := by
  have one : ∀ {u : State} {e : Nat}, e < 2 → u.bridgesKnown → u.get (R.XIO_DOM.src e) + 9 = i →
      (followerUnlock i c u e).flag (R.XIO_DOM.locked e) = false := by
    intro u e he hu f
    rw [followerUnlock, if_pos ⟨f, hc⟩]
    exact domUnlock_locked he hu (by omega)
  have first := followerUnlock_unlocked (i := i) (c := c) (d := 0) (by decide) h
  rw [followersUnlock_eq]
  match d, hd with
  | 0, _ => exact (followerUnlock_unlocked (by decide) first.known).locked 0 (by decide) (one (by decide) h src)
  | 1, _ => exact one (by decide) first.known (by rw [first.src 1 (by decide)]; exact src)

end Sys2Proof.Machine
end

section
/-!
SUPPORT. REF_MEASUREMENT (R264): when a reference can be measured, and what its measurement leaves by where the offset lies (R265).
-/
namespace Sys2Proof.Machine

/-- What a measurement leaves is what a later engine finds that differs in none of what Kiln holds. -/
theorem Measured.after {s t u : State} {i : Fin 14} {x p : Int} {q n : Nat} {ps : List Part} {rs : List Nat} (h : Measured s t i x p q n)
    (o : Only ps rs t u) (hp : ∀ a ∈ [Part.sys, .ptp, .kiln, .free], a ∉ ps) (hr : ∀ a ∈ rs, 0x20000 ≤ a) : Measured s u i x p q n := by
  have alike := KilnAlike.ofOnly o (hp _ (by simp)) (hp _ (by simp)) (hp _ (by simp)) hr
  have kiln : u.kiln = t.kiln := o.parts .kiln (hp _ (by simp))
  have free : u.free = t.free := o.parts .free (hp _ (by simp))
  have reg : ∀ a, a < 0x20000 → u.reg a = t.reg a := fun a ha =>
    o.regs a (fun m => absurd (hr a m) (by omega)) (by simp only [counterAt, decide_eq_false_iff_not]; omega)
  have get : ∀ l : Loc, l.addr < 0x20000 → u.get l = t.get l := fun l hl => State.get_of_reg (reg _ hl)
  have stat : ∀ l : Loc, l.addr = R.KILN_REF_STAT.reg i.val → u.get l = t.get l := fun l hl =>
    get l (by rw [hl]; simp only [R.KILN_REF_STAT.reg]; omega)
  refine ⟨?_, ?_, ?_, ?_, ?_, ?_, ?_, ?_, ?_, ?_⟩
  · rw [kiln, alike.chooseBoth, alike.lockOk]; exact h.kiln
  · rw [free, kiln, alike.kref, State.getS, get _ (by decide)]; exact h.follows
  · rw [free, kiln]; exact h.rests
  · rw [State.flag, stat _ rfl]; exact h.active
  · rw [stat _ rfl]; exact h.qual
  · rw [State.flag, stat _ rfl]; exact h.evt
  · rw [reg _ (by simp only [R.KILN_REF_FREQ.reg]; omega)]; exact h.freq
  · rw [reg _ (by decide)]; exact h.pherr
  · rw [get _ (by decide)]; exact h.state
  · rw [get _ (by decide)]; exact h.sel

/-- What a measurement reads of network time is whether time was taken. -/
theorem Measured.ofStart {s t : State} {o : List Out} {d : Vector PtpDom 2} {i : Fin 14} {x p : Int} {q n : Nat}
    (h : Measured { s with out := o, ptp := { s.ptp with dom := d } } t i x p q n) : Measured s t i x p q n :=
  ⟨h.kiln, h.follows, h.rests, h.active, h.qual, h.evt, h.freq, h.pherr, h.state, h.sel⟩

/-- What a measurement after ms leaves, by where its offset lies and what the reference was (R265). -/
structure Measures (s t : State) (i : Fin 14) (x p : Int) (ms : Nat) : Prop where
  out : s.rejectPpb i.val < x.natAbs → Measured s t i x p 0 0
  stays : x.natAbs ≤ s.rejectPpb i.val → s.get (R.KILN_REF_STAT.qual i.val) = 2 → Measured s t i x p 2 (s.kref i.val).t
  between : s.acceptPpb i.val < x.natAbs → x.natAbs ≤ s.rejectPpb i.val → s.get (R.KILN_REF_STAT.qual i.val) ≠ 2 → Measured s t i x p 0 0
  within : x.natAbs ≤ s.acceptPpb i.val → s.get (R.KILN_REF_STAT.qual i.val) ≠ 2 →
    Measured s t i x p (if s.holdMs i.val ≤ ((s.kref i.val).t + ms) % 2 ^ 32 then 2 else 1) (((s.kref i.val).t + ms) % 2 ^ 32)

theorem Measures.after {s t u : State} {i : Fin 14} {x p : Int} {ms : Nat} {ps : List Part} {rs : List Nat} (h : Measures s t i x p ms)
    (o : Only ps rs t u) (hp : ∀ a ∈ [Part.sys, .ptp, .kiln, .free], a ∉ ps) (hr : ∀ a ∈ rs, 0x20000 ≤ a) : Measures s u i x p ms :=
  ⟨fun a => (h.out a).after o hp hr, fun a b => (h.stays a b).after o hp hr, fun a b c => (h.between a b c).after o hp hr,
    fun a b => (h.within a b).after o hp hr⟩

theorem Measures.ofStart {s t : State} {o : List Out} {d : Vector PtpDom 2} {i : Fin 14} {x p : Int} {ms : Nat}
    (h : Measures { s with out := o, ptp := { s.ptp with dom := d } } t i x p ms) : Measures s t i x p ms :=
  ⟨fun a => (h.out a).ofStart, fun a b => (h.stays a b).ofStart, fun a b c => (h.between a b c).ofStart, fun a b => (h.within a b).ofStart⟩

/-- A measurement of an enabled reference is the update of R265. -/
theorem refMeasured_measures {s : State} {i : Fin 14} {x : Int} {ms : Nat} {p : Int} (en : s.flag (R.KILN_REF_CFG.en i.val) = true) :
    Measures s (refMeasured s i.val x ms p) i x p ms := by
  have noted := refNoted_noted (s := s) i.isLt x p
  have told := loopFollow_told (refNoted s i.val x p) i.val
  have made {q n : Nat} := refMeasured_measured (s := s) (i := i) (x := x) (dt := ms) (p := p) (q := q) (n := n)
  generalize refNoted s i.val x p = s1 at *
  generalize loopFollow s1 i.val = s2 at *
  have get2 : ∀ l, s2.get l = s1.get l := fun l => by simp only [State.get, State.reg, told.regs]
  have config : ∀ l : Loc, l.addr % 16 ≠ 12 → 0x10100 ≤ l.addr → l.addr < 0x10200 → s2.get l = s.get l := fun l hm ha hb =>
    (get2 l).trans (noted.get (by omega) (.inr ⟨hm, hb⟩))
  have kref : s2.kref i.val = ⟨x, (s.kref i.val).t, p⟩ := by rw [← noted.kref, State.kref, State.kref, told.kiln]
  have reject : s2.rejectPpb i.val = s.rejectPpb i.val := by
    rw [State.rejectPpb, config _ (by dsimp only; omega) (by dsimp only; omega) (by dsimp only; omega), State.rejectPpb]
  have accept : s2.acceptPpb i.val = s.acceptPpb i.val := by
    rw [State.acceptPpb, config _ (by dsimp only; omega) (by dsimp only; omega) (by dsimp only; omega), reject, State.acceptPpb]
  have hold : s2.holdMs i.val = s.holdMs i.val := by
    rw [State.holdMs, config _ (by dsimp only; omega) (by dsimp only; omega) (by dsimp only; omega), State.holdMs]
  have qual : s2.get (R.KILN_REF_STAT.qual i.val) = s.get (R.KILN_REF_STAT.qual i.val) := (get2 _).trans noted.qual
  have en2 : s2.flag (R.KILN_REF_CFG.en i.val) = true := by
    rw [State.flag, config _ (by dsimp only; omega) (by dsimp only; omega) (by dsimp only; omega)]; exact en
  have on2 : s2.flag (R.KILN_REF_STAT.active i.val) = true := by rw [State.flag, get2]; exact noted.active
  have offset : (s2.kref i.val).f = x := by rw [kref]
  have time : (s2.kref i.val).t = (s.kref i.val).t := by rw [kref]
  refine ⟨fun h => made (refUpdate_out (.inr (.inr ?_))), fun h hq => made ?_, fun ha hr hq => made ?_, fun h hq => made ?_⟩
  · rw [offset, reject]; exact h
  · rw [← time]
    exact refUpdate_stays en2 on2 (by rw [offset, reject]; exact h) (by rw [qual]; exact hq)
  · exact refUpdate_between en2 on2 (by rw [offset, reject]; exact hr) (by rw [qual]; exact hq) (by rw [offset, accept]; exact ha)
  · rw [← time, ← hold]
    have inside : x.natAbs ≤ s.rejectPpb i.val := h.trans (Nat.min_le_right _ _)
    exact refUpdate_within en2 on2 (by rw [offset, reject]; exact inside) (by rw [qual]; exact hq) (by rw [offset, accept]; exact h)

theorem Measures.ofBegin {s t : State} {i : Fin 14} {x p : Int} {ms : Nat} (h : Measures s.begin t i x p ms) : Measures s t i x p ms :=
  Measures.ofStart (o := []) (d := s.ptp.dom) h

/-! ## REF_MEASUREMENT -/

/-- Reference i can be measured: its port exists, it is enabled, and what the engine itself knows to hold it does (R263, R264). -/
def State.refThere (s : State) (i : Nat) : Prop :=
  (2 ≤ i → i ≤ 9 → i - 2 < s.sys.fuses.ports) ∧ s.flag (R.KILN_REF_CFG.en i) = true
    ∧ (i ≤ 1 → s.flag (R.PTP_DOM_STAT.valid i) = true) ∧ (2 ≤ i → i ≤ 9 → s.flag (R.ETH_PSTAT.link (i - 2)) = true)

/-- The SyncE reference of a port that is there, and every other, exists (R263). -/
theorem State.krefOk_iff {s : State} {i : Nat} : s.krefOk i = true ↔ (2 ≤ i → i ≤ 9 → i - 2 < s.sys.fuses.ports) := by
  unfold State.krefOk
  split
  · rename_i h; simp only [Nat.blt_eq, h.1, h.2, true_implies]
  · rename_i h; exact ⟨fun _ a b => absurd ⟨a, b⟩ h, fun _ => rfl⟩

/-- What the engine itself knows to be held: a valid domain, or a port's link (R264). -/
theorem refHeld_iff {s : State} {i : Nat} : refHeld s i = true ↔
    i ≤ 1 ∧ s.flag (R.PTP_DOM_STAT.valid i) = true ∨ 2 ≤ i ∧ i ≤ 9 ∧ s.flag (R.ETH_PSTAT.link (i - 2)) = true := by
  unfold refHeld
  split
  · rename_i h
    simp only [h, true_and, show ¬2 ≤ i by omega, false_and, or_false]
  · rename_i h
    split
    · rename_i h'
      simp only [h, false_and, false_or, show 2 ≤ i by omega, h', true_and]
    · rename_i h'
      simp only [h, h', false_and, and_false, or_false, Bool.false_eq_true]

theorem refThere_iff {s : State} {i : Nat} :
    (!s.krefOk i || !s.flag (R.KILN_REF_CFG.en i) || (Nat.ble i 9 && !refHeld s i)) = true ↔ ¬s.refThere i := by
  have held : ¬i ≤ 9 ∨ refHeld s i = true ↔
      (i ≤ 1 → s.flag (R.PTP_DOM_STAT.valid i) = true) ∧ (2 ≤ i → i ≤ 9 → s.flag (R.ETH_PSTAT.link (i - 2)) = true) := by
    rw [refHeld_iff]
    rcases Nat.lt_or_ge i 2 with h | h
    · simp only [show i ≤ 1 by omega, show i ≤ 9 by omega, show ¬2 ≤ i by omega, true_and, false_and, or_false, false_or,
        not_true_eq_false, true_implies, false_implies, and_true]
    · by_cases h9 : i ≤ 9
      · simp only [show ¬i ≤ 1 by omega, h9, h, true_and, false_and, false_or, not_true_eq_false, true_implies, false_implies]
      · simp only [show ¬i ≤ 1 by omega, h9, not_false_eq_true, true_or, false_implies, implies_true, and_self]
  rw [State.refThere, ← held, ← State.krefOk_iff]
  simp only [Bool.or_eq_true, Bool.not_eq_true', Bool.and_eq_true, Nat.ble_eq, not_and_or, not_or, not_not, Bool.not_eq_true, or_assoc]

/-- The time in ms between the last two samples of a servo. -/
def sampleMs (l : List (Int × Int)) : Nat := match l with | a :: b :: _ => ((a.1 - b.1) / 65536000000).toNat | _ => 0

/-- The domains with the new sample of domain i measured. -/
def State.sampled (s : State) (i : Nat) (h : i < 2) : State :=
  { s with ptp := { s.ptp with dom := s.ptp.dom.set i { s.ptp.dom[i]'h with fresh := false } h } }

/-- What a command REF_MEASUREMENT does within its frame. -/
def measureStep (i : Fin 14) (f : BitVec 32) (dt : Nat) (ph : BitVec 32) (s : State) : State :=
  if !s.krefOk i.val || !s.flag (R.KILN_REF_CFG.en i.val) || (Nat.ble i.val 9 && !refHeld s i.val) then s
  else if h : i.val < 2 then
    if !(s.ptp.dom[i.val]'h).fresh then s
    else refMeasured (s.sampled i.val h) i.val (satS 32 (slopePpb (s.ptp.dom[i.val]'h).hist)) (sampleMs (s.ptp.dom[i.val]'h).hist)
      ((s.sampled i.val h).refPhase i.val 0)
  else
    let s := refMeasured s i.val f.toInt dt (s.refPhase i.val ph.toInt)
    if 1000000 < f.toInt.natAbs then followersUnlock i.val (i.val < 12) s else s

theorem exec_refMeasurement (i : Fin 14) (f : BitVec 32) (dt : Nat) (ph : BitVec 32) (s : State) :
    exec (.refMeasurement i f dt ph) s = Cmd.run (measureStep i f dt ph) s := rfl

/-- A reference that is not there is not measured. -/
theorem measureStep_absent {i : Fin 14} {f : BitVec 32} {dt : Nat} {ph : BitVec 32} {s : State} (h : ¬s.refThere i.val) :
    measureStep i f dt ph s = s := by
  rw [measureStep, if_pos (refThere_iff.mpr h)]

section
variable {i : Fin 14} {f : BitVec 32} {dt : Nat} {ph : BitVec 32} {s : State} (there : s.refThere i.val)
include there

theorem measureStep_ptp (h : i.val < 2) : measureStep i f dt ph s =
    if (s.ptp.dom[i.val]'h).fresh = true then
      refMeasured (s.sampled i.val h) i.val (satS 32 (slopePpb (s.ptp.dom[i.val]'h).hist)) (sampleMs (s.ptp.dom[i.val]'h).hist)
        ((s.sampled i.val h).refPhase i.val 0)
    else s := by
  rw [measureStep, if_neg (fun c => refThere_iff.mp c there), dif_pos h]
  simp only [Bool.not_eq_true', ← Bool.not_eq_true, ite_not]

theorem measureStep_other (h : 2 ≤ i.val) : measureStep i f dt ph s =
    if 1000000 < f.toInt.natAbs then followersUnlock i.val (i.val < 12) (refMeasured s i.val f.toInt dt (s.refPhase i.val ph.toInt))
    else refMeasured s i.val f.toInt dt (s.refPhase i.val ph.toInt) := by
  rw [measureStep, if_neg (fun c => refThere_iff.mp c there), dif_neg (by omega)]

end

/-- A PPS's phase error is reduced to half a second either way (R263). -/
theorem phaseReduce_second (ph : Int) :
    (phaseReduce ph 1000000000 1 - ph) % 1000000000 = 0 ∧ 2 * (phaseReduce ph 1000000000 1).natAbs ≤ 1000000000 := by
  simp only [phaseReduce]
  omega

/-- A PTP reference's phase error is the last sample that its servo took (R263). -/
theorem State.refPhase_ptp {s : State} {i : Nat} (h : i < 2) (ph : Int) : s.refPhase i ph = satS 32 (((s.ptp.dom[i]'h).eLast + 32768) / 65536) :=
  dif_pos h

theorem State.refPhase_sampled {s : State} {i : Nat} (h : i < 2) (ph ph' : Int) : (s.sampled i h).refPhase i ph' = s.refPhase i ph := by
  rw [State.refPhase_ptp h, State.refPhase_ptp h]
  simp only [State.sampled, Vector.getElem_set_self]

theorem State.refPhase_pps (s : State) (ph : Int) : s.refPhase 13 ph = phaseReduce ph 1000000000 1 := rfl

theorem lostReg_high {a : Nat} (h : a ∈ lostRegs) : 0x20000 ≤ a := by
  obtain ⟨n, -, rfl⟩ := List.mem_map.mp h
  simp only [R.FLT_LOST.reg]; omega

/-- The registers that any measurement of reference i may change. -/
abbrev measuredRegs (i : Nat) : List Nat :=
  [R.KILN_REF_STAT.reg i, R.KILN_REF_FREQ.reg i, R.KILN_PHERR.reg, R.KILN_STAT.reg, R.KILN_EVT.reg] ++ lostRegs

theorem measured_subset {i : Nat} {rs : List Nat} : notedRegs i ++ choiceRegs ⊆ measuredRegs i ++ rs :=
  List.subset_append_of_subset_left _ (List.subset_append_left _ _)

/-- A command that measures reference i, from the state u that its measurement leaves. -/
theorem refMeasurement_command {i : Fin 14} {f : BitVec 32} {dt : Nat} {ph : BitVec 32} {s : State} {x p : Int} {ms : Nat} {ps : List Part} {rs : List Nat}
    (quiet : s.quiet) (u : State) (step : measureStep i f dt ph s.begin = u)
    (only : Only ([Part.kiln, Part.flt, Part.free] ++ ps) (measuredRegs i.val ++ rs) s u)
    (mild : u.mild) (m : Measures s u i x p ms) : ∃ t, exec (.refMeasurement i f dt ph) s = .next t
      ∧ Only ([Part.kiln, Part.flt, Part.free] ++ ps) (measuredRegs i.val ++ rs) s t ∧ Only [.flt] lostRegs u t ∧ Measures s t i x p ms := by
  obtain ⟨t, run, after⟩ := Cmd.run_mild (f := measureStep i f dt ph) quiet.on (by rw [step]; exact mild)
  rw [step] at after
  refine ⟨t, (exec_refMeasurement ..).trans run, ?_, after, m.after after (by decide) (fun _ => lostReg_high)⟩
  exact only.trans (after.mono (by simp) (fun _ h => List.mem_append_left _ (List.mem_append_right _ h)))

end Sys2Proof.Machine
end

section
/-!
SUPPORT. REF_MEASUREMENT in its four kinds (R264, R280): a plain reference, a word clock beyond 1,000 ppm, a PTP domain, and none.
-/
namespace Sys2Proof.Machine

/-- A frame that touches no register near the domains leaves the domains' registers. -/
theorem Only.get_synth {ps : List Part} {rs : List Nat} {s t : State} {l : Loc} {d : Nat} (h : Only ps rs s t) (hd : d < 2)
    (hl : l.addr = R.XIO_DOM.reg d) (hr : ∀ a ∈ rs, a < 0x400000 ∨ 0x500000 ≤ a) : t.get l = s.get l := by
  refine State.get_of_reg (h.regs _ (fun m => ?_) ?_)
  · have := hr _ m
    simp only [hl, R.XIO_DOM.reg] at this
    omega
  · simp only [counterAt, hl, R.XIO_DOM.reg, decide_eq_false_iff_not]; omega

theorem lostReg_far : ∀ a ∈ lostRegs, a < 0x400000 ∨ 0x500000 ≤ a := by decide

theorem measuredReg_low {i : Nat} (hi : i < 14) : ∀ a ∈ notedRegs i ++ choiceRegs, a < 0x400000 ∨ 0x500000 ≤ a := by
  simp only [List.mem_append, List.mem_cons, List.not_mem_nil, or_false, R.KILN_REF_STAT.reg, R.KILN_REF_FREQ.reg, R.KILN_PHERR.reg,
    R.KILN_STAT.reg, R.KILN_EVT.reg]
  omega

/-- The measurement of a reference that is no word clock beyond 1,000 ppm and no PTP domain. -/
theorem refMeasurement_plain {i : Fin 14} {f : BitVec 32} {dt : Nat} {ph : BitVec 32} {s : State} (quiet : s.quiet) (there : s.refThere i.val)
    (hi : 2 ≤ i.val) (near : ¬((i.val = 10 ∨ i.val = 11) ∧ 1000000 < f.toInt.natAbs)) : ∃ t, exec (.refMeasurement i f dt ph) s = .next t
      ∧ Only ([Part.kiln, Part.flt, Part.free] ++ []) (measuredRegs i.val ++ []) s t ∧ Measures s t i f.toInt (s.refPhase i.val ph.toInt) dt := by
  have step : measureStep i f dt ph s.begin = refMeasured s.begin i.val f.toInt dt (s.refPhase i.val ph.toInt) := by
    rw [measureStep_other (s := s.begin) there hi]
    split
    · exact followersUnlock_none (fun _ => by omega)
    · rfl
  have only : Only ([Part.kiln, Part.flt, Part.free] ++ []) (measuredRegs i.val ++ []) s (refMeasured s.begin i.val f.toInt dt (s.refPhase i.val ph.toInt)) :=
    (refMeasured_only i.isLt).ofBegin.mono (List.subset_append_left _ _) measured_subset
  obtain ⟨t, run, frame, -, m⟩ := refMeasurement_command quiet _ step only (refMeasured_mild i.isLt quiet.mild)
    (refMeasured_measures (s := s.begin) there.2.1).ofBegin
  exact ⟨t, run, frame, m⟩

/-- The measurement of a word clock beyond 1,000 ppm: the synthesisers that follow it unlock (R280). -/
theorem refMeasurement_far {i : Fin 14} {f : BitVec 32} {dt : Nat} {ph : BitVec 32} {s : State} (quiet : s.quiet) (there : s.refThere i.val)
    (wck : i.val = 10 ∨ i.val = 11) (far : 1000000 < f.toInt.natAbs) (known : s.bridgesKnown) : ∃ t, exec (.refMeasurement i f dt ph) s = .next t
      ∧ Only ([Part.kiln, Part.flt, Part.free] ++ [.xio]) (measuredRegs i.val ++ synthRegs) s t ∧ Measures s t i f.toInt (s.refPhase i.val ph.toInt) dt
      ∧ ∀ d : Fin 2, s.get (R.XIO_DOM.src d.val) + 9 = i.val → t.flag (R.XIO_DOM.locked d.val) = false := by
  have measured := refMeasured_only (s := s.begin) (x := f.toInt) (dt := dt) (p := s.refPhase i.val ph.toInt) i.isLt
  have step : measureStep i f dt ph s.begin
      = followersUnlock i.val (i.val < 12) (refMeasured s.begin i.val f.toInt dt (s.refPhase i.val ph.toInt)) := by
    rw [measureStep_other (s := s.begin) there (by omega), if_pos far]
    rfl
  have known' : (refMeasured s.begin i.val f.toInt dt (s.refPhase i.val ph.toInt)).bridgesKnown := by
    rw [State.bridgesKnown, measured.parts .xio (by decide)]
    exact known
  have unlocked := followersUnlock_unlocked (i := i.val) (c := i.val < 12) known'
  have only : Only ([Part.kiln, Part.flt, Part.free] ++ [.xio]) (measuredRegs i.val ++ synthRegs) s
      (followersUnlock i.val (i.val < 12) (refMeasured s.begin i.val f.toInt dt (s.refPhase i.val ph.toInt))) :=
    (measured.ofBegin.mono (List.subset_append_left _ _) measured_subset).trans (unlocked.only.mono (by decide) (List.subset_append_right _ _))
  obtain ⟨t, run, frame, after, m⟩ := refMeasurement_command quiet _ step only (unlocked.mild (refMeasured_mild i.isLt quiet.mild))
    ((refMeasured_measures (s := s.begin) there.2.1).ofBegin.after unlocked.only (by decide) (fun _ => synthReg_high))
  refine ⟨t, run, frame, m, fun d follows => ?_⟩
  rw [State.flag, after.get_synth d.isLt rfl lostReg_far]
  refine followersUnlock_locked known' (by omega) (by omega) d.isLt ?_
  rw [measured.get_synth d.isLt rfl (measuredReg_low i.isLt)]
  exact follows

/-- A PTP reference with a new sample is measured by its servo's samples (R264). -/
theorem refMeasurement_ptp {i : Fin 14} {f : BitVec 32} {dt : Nat} {ph : BitVec 32} {s : State} (quiet : s.quiet) (there : s.refThere i.val)
    (h : i.val < 2) (fresh : (s.ptp.dom[i.val]'h).fresh = true) : ∃ t, exec (.refMeasurement i f dt ph) s = .next t
      ∧ Only ([Part.kiln, Part.flt, Part.free] ++ [Part.ptp]) (measuredRegs i.val ++ []) s t
      ∧ Measures s t i (satS 32 (slopePpb (s.ptp.dom[i.val]'h).hist)) (s.refPhase i.val ph.toInt) (sampleMs (s.ptp.dom[i.val]'h).hist)
      ∧ t.ptp = (s.sampled i.val h).ptp := by
  have measured := refMeasured_only (s := s.begin.sampled i.val h) (x := satS 32 (slopePpb (s.ptp.dom[i.val]'h).hist))
    (dt := sampleMs (s.ptp.dom[i.val]'h).hist) (p := s.refPhase i.val ph.toInt) i.isLt
  have step : measureStep i f dt ph s.begin = refMeasured (s.begin.sampled i.val h) i.val (satS 32 (slopePpb (s.ptp.dom[i.val]'h).hist))
      (sampleMs (s.ptp.dom[i.val]'h).hist) (s.refPhase i.val ph.toInt) := by
    rw [measureStep_ptp (s := s.begin) there h, State.refPhase_sampled h ph.toInt]
    exact if_pos fresh
  have only := (Only.setPtp (ps := [Part.kiln, Part.flt, Part.free] ++ [Part.ptp]) (rs := measuredRegs i.val ++ []) (s := s.begin)
    (x := (s.sampled i.val h).ptp) .refl (by decide)).trans (measured.mono (List.subset_append_left _ _) measured_subset)
  obtain ⟨t, run, frame, after, m⟩ := refMeasurement_command quiet _ step only.ofBegin (refMeasured_mild i.isLt quiet.mild)
    (Measures.ofStart (o := []) (d := s.ptp.dom.set i.val { s.ptp.dom[i.val]'h with fresh := false } h)
      (refMeasured_measures (s := s.begin.sampled i.val h) there.2.1))
  exact ⟨t, run, frame, m, (after.parts .ptp (by decide)).trans (measured.parts .ptp (by decide))⟩

/-- A measurement of a reference that is not there, or of a PTP domain without a new sample, changes nothing. -/
theorem refMeasurement_nothing {i : Fin 14} {f : BitVec 32} {dt : Nat} {ph : BitVec 32} {s : State} (quiet : s.quiet)
    (step : measureStep i f dt ph s.begin = s.begin) : ∃ t, exec (.refMeasurement i f dt ph) s = .next t ∧ Only [] [] s t := by
  obtain ⟨t, run, only, -⟩ := Cmd.run_only (f := measureStep i f dt ph) quiet.on (by rw [step]; exact quiet.raised)
  rw [step] at only
  exact ⟨t, (exec_refMeasurement ..).trans run, only.ofBegin⟩

theorem measurementsQualifyReferences : Claim.MeasurementsQualifyReferences := by
  intro s i f ph dt quiet there limit lr la hold k q st sel r follows evt p loop becomes measured nothing far bridges
  have conclude : ∀ ps rs x ms (P : State → Prop), (∃ t, exec (.refMeasurement i f dt ph) s = .next t
      ∧ Only ([Part.kiln, Part.flt, Part.free] ++ ps) (measuredRegs i.val ++ rs) s t ∧ Measures s t i x p ms ∧ P t) → measured ps rs x ms P := by
    rintro ps rs x ms P ⟨t, run, only, m, hP⟩
    have leaves : ∀ q' n, Measured s t i x p q' n → becomes ps rs x q' n P := fun q' n w =>
      ⟨t, run, only, w.kiln, ⟨w.follows, w.rests⟩, w.active, w.qual, w.evt, w.freq, w.pherr, w.state, w.sel, hP⟩
    exact ⟨fun a => leaves _ _ (m.out a), fun a b => leaves _ _ (m.stays a b), fun a b c => leaves _ _ (m.between a b c),
      fun a b => leaves _ _ (m.within a b)⟩
  refine ⟨fun here hi near => conclude _ _ _ _ _ ?_, fun here beyond known => conclude _ _ _ _ _ ?_,
    fun h here => ⟨State.refPhase_ptp h _, fun fresh => conclude _ _ _ _ _ ?_, fun stale => ?_⟩,
    fun absent => refMeasurement_nothing quiet (measureStep_absent absent), fun pps => ?_⟩
  · obtain ⟨t, run, only, m⟩ := refMeasurement_plain quiet here hi near
    exact ⟨t, run, only, m, trivial⟩
  · exact refMeasurement_far quiet here beyond.1 beyond.2 known
  · exact refMeasurement_ptp quiet here h fresh
  · refine refMeasurement_nothing quiet ?_
    rw [measureStep_ptp (s := s.begin) here h]
    exact if_neg (by simp [stale])
  · have second : p = phaseReduce ph.toInt 1000000000 1 := by
      have := State.refPhase_pps s ph.toInt
      rw [← pps] at this
      exact this
    rw [second]
    exact phaseReduce_second _

end Sys2Proof.Machine
end

section
/-!
SUPPORT. A write of a register whose fields are all RW, and which no commit and no twin waits for (R15, R352, R367, R382); the four such registers of
Kiln's references.
-/
namespace Sys2Proof.Machine

/-! ## A write of a plain register (R15, R352, R367) -/

/-- Fields put one after another from the bits of v. -/
def putFields (s : State) (a : Nat) (v : Word) (fs : List FieldDesc) : State :=
  fs.foldl (fun s f => s.put ⟨a, f.lo, f.w⟩ (fieldGet f.lo f.w v)) s

theorem putFields_only {s : State} {a : Nat} {v : Word} {fs : List FieldDesc} : Only [] [a] s (putFields s a v fs) := by
  induction fs generalizing s with
  | nil => exact .refl
  | cons f fs ih => exact (Only.put (l := ⟨a, f.lo, f.w⟩) .refl List.mem_cons_self).trans ih

theorem reg_putFields {s : State} {a : Nat} {v : Word} {fs : List FieldDesc} :
    (putFields s a v fs).reg a = fs.foldl (fun x f => fieldPut f.lo f.w x (fieldGet f.lo f.w v)) (s.reg a) := by
  induction fs generalizing s with
  | nil => rfl
  | cons f fs ih =>
    refine (ih (s := s.put ⟨a, f.lo, f.w⟩ (fieldGet f.lo f.w v))).trans ?_
    rw [State.reg_put, if_pos rfl]
    rfl

/-- Two neighbouring fields put from one word are one field put. -/
theorem fieldPut_join {lo w w' : Nat} {x v : Word} (h : lo + w + w' ≤ 32) :
    fieldPut (lo + w) w' (fieldPut lo w x (fieldGet lo w v)) (fieldGet (lo + w) w' v) = fieldPut lo (w + w') x (fieldGet lo (w + w') v) := by
  refine BitVec.eq_of_getLsbD_eq fun i hi => ?_
  rw [fieldPut_getLsbD (by omega) hi, fieldPut_getLsbD (by omega) hi, fieldPut_getLsbD (by omega) hi]
  simp only [fieldGet_testBit]
  by_cases low : lo ≤ i
  · rcases Nat.lt_or_ge i (lo + w) with one | one
    · simp only [low, one, show ¬lo + w ≤ i by omega, show i < lo + (w + w') by omega, show i - lo < w by omega, show i - lo < w + w' by omega,
        false_and, and_self, if_true, if_false, decide_true, Bool.true_and]
    · by_cases two : i < lo + w + w'
      · simp only [low, one, two, show i < lo + (w + w') by omega, show i - (lo + w) < w' by omega, show i - lo < w + w' by omega,
          and_self, if_true, decide_true, Bool.true_and, show lo + w + (i - (lo + w)) = i by omega, show lo + (i - lo) = i by omega]
      · simp only [two, show ¬i < lo + w by omega, show ¬i < lo + (w + w') by omega, and_false, if_false]
  · simp only [low, show ¬lo + w ≤ i by omega, false_and, if_false]

/-- A write of v to the register d at a does no more than store its fields and set off what stands for it in `writeHook`. -/
structure RegDesc.Plain (d : RegDesc) (a : Nat) (v : Word) : Prop where
  stored : d.fields.all (·.kind == .ro) = false
  kinds : ∀ f ∈ d.fields, f.kind = .rw
  agreed : agreedWrite d v = false
  ctrl : d.base ≠ R.HIF_CTRL.reg
  reset : d.base ≠ R.SYS_RESET.reg
  commit : d.base ≠ R.HIF_COMMIT.reg 0
  norm : normWord d a v = v
  known : reservedWord d v = false
  special : ∀ s boot fl, specialWrite s d a v boot fl = none
  source : sourceOf d a = none

/-- No field of a plain register is of a kind other than RW. -/
theorem RegDesc.Plain.any {d : RegDesc} {a : Nat} {v : Word} (plain : d.Plain a v) {p : FieldDesc → Bool} (h : ∀ f, f.kind = .rw → p f = false) :
    d.fields.any p = false :=
  List.any_eq_false.mpr fun f hf => by simp [h f (plain.kinds f hf)]

theorem RegDesc.Plain.writeFields {d : RegDesc} {a : Nat} {v : Word} (plain : d.Plain a v) (s : State) (boot later : Bool) :
    writeFields s d a v boot later = putFields s a v d.fields :=
  List.foldl_ext _ _ _ fun u f hf => by simp only [plain.kinds f hf]

/-- A write of v to the plain register d at a, before it is journalled. -/
def plainWritten (d : RegDesc) (a : Nat) (v : Word) (s : State) : State := writeHook s (putFields s a v d.fields) d a v none

theorem RegDesc.Plain.storeWrite {d : RegDesc} {a : Nat} {v : Word} (plain : d.Plain a v) (s : State) (route : Route) (later : Bool) :
    ∃ rest, storeWrite s route d a v later none none = (false, rest, plainWritten d a v s) := by
  have noneRefused : d.fields.any (stRefused s d a v) = false := plain.any fun f h => by simp [stRefused, h]
  unfold Machine.storeWrite
  simp only [plain.norm, plain.known, plain.special, plain.writeFields, noneRefused, rearm, plain.source, Bool.false_eq_true, if_false]
  exact ⟨_, rfl⟩

/-- A taken write of a plain register: it is stored, has its consequences, and is journalled but for the boot engine's (R352, R367, R382). -/
theorem RegDesc.Plain.regWrite {d : RegDesc} {a : Nat} {v : Word} {s : State} {route : Route} (plain : d.Plain a v) (up : s.sys.state ≠ .reset)
    (on : s.routeOn route = true) (aligned : a / 4 * 4 = a) (found : s.regAt a = some d) :
    regWrite route a v s = journalWrite (plainWritten d a v s) route 0 a v 0 s.pn none := by
  obtain ⟨rest, stores⟩ := plain.storeWrite s route (route == .twin)
  have lv : d.fields.any (·.kind == .lv) = false := plain.any fun f h => by simp [h]
  unfold Machine.regWrite regWriteAs
  simp only [aligned, up, on, found, plain.stored, plain.agreed, plain.ctrl, plain.reset, plain.commit, stores, lv, Bool.not_true, Bool.false_and,
    Bool.false_or, Bool.and_false, Bool.false_eq_true, false_and, if_false]
  split
  · rename_i boot
    rw [journalWrite, if_pos boot]
  · rfl

/-- The journal's entry of a write (R367). -/
theorem journalWrite_only {s : State} {route : Route} {kind a target pn : Nat} {v : Word} {tag : Option FwdTag} :
    Only [.hif] [] s (journalWrite s route kind a v target pn tag) := by
  unfold journalWrite
  exact .ite .refl (.setHif (.count .refl) List.mem_cons_self)

theorem journalWrite_hif {s t : State} {route : Route} {kind a target : Nat} {v : Word} (hif : t.hif = s.hif) (sys : t.sys = s.sys) :
    (journalWrite t route kind a v target s.pn none).hif = s.journalled route kind a v target := by
  obtain ⟨r, e⟩ := State.count_shape t 5 1
  unfold journalWrite State.journalled
  split
  · exact hif
  · simp only [journalAdd, e, hif, sys, State.wt, State.nt]

/-- A command that writes a plain register. -/
theorem RegDesc.Plain.writeCmd {d : RegDesc} {a : Nat} {v : Word} {s : State} {route : Route} (plain : d.Plain a v) (takes : TakesWrite s route)
    (aligned : a / 4 * 4 = a) (found : s.regAt a = some d) {ps : List Part} {rs : List Nat}
    (only : Only ps rs s.begin (plainWritten d a v s.begin)) (hs : .sys ∉ ps) (hh : .hif ∉ ps) (mild : (plainWritten d a v s.begin).mild) :
    ∃ t, writeCmd route a v s = .next t ∧ Only [.flt, .hif] lostRegs (plainWritten d a v s.begin) t ∧ t.hif = s.journalled route 0 a v := by
  have run := plain.regWrite (s := s.begin) takes.up takes.on aligned found
  have journal := journalWrite_only (s := plainWritten d a v s.begin) (route := route) (kind := 0) (a := a) (v := v) (target := 0)
    (pn := s.begin.pn) (tag := none)
  obtain ⟨t, done, after⟩ := Cmd.run_mild (f := Machine.regWrite route a v) takes.quiet.on
    (by rw [run]; exact State.mild_of_flt mild (journal.parts .flt (by decide)))
  rw [run] at after
  refine ⟨t, done, (journal.mono (by decide) (by simp)).trans (after.mono (by decide) (List.Subset.refl _)), ?_⟩
  exact (after.parts .hif (by decide)).trans (journalWrite_hif (s := s.begin) (only.parts .hif hh) (only.parts .sys hs))

/-! ## The registers of Kiln's references -/

def refCfgDesc : RegDesc :=
  ⟨"KILN_REF_CFG", 0x10100, [(0x10, 14)], .none, [⟨"en", 0, 1, .rw, 0⟩, ⟨"rank", 1, 4, .rw, 0⟩, ⟨"pol", 5, 1, .rw, 0⟩, ⟨"rate", 6, 3, .rw, 4⟩]⟩
def refLimDesc : RegDesc := ⟨"KILN_REF_LIM", 0x10104, [(0x10, 14)], .none, [⟨"accept", 0, 14, .rw, 0x1F4⟩, ⟨"reject", 16, 14, .rw, 0x3E8⟩]⟩
def refHoldDesc : RegDesc := ⟨"KILN_REF_HOLD", 0x10108, [(0x10, 14)], .none, [⟨"hold", 0, 13, .rw, 0x64⟩]⟩
def frefNomDesc : RegDesc := ⟨"KILN_FREF_NOM", 0x10028, [], .none, [⟨"nom", 0, 27, .rw, 0x989680⟩]⟩

/-- The map has these rows. -/
theorem regFind_refCfg : ∀ i : Fin 14, regFind (R.KILN_REF_CFG.reg i.val) = some refCfgDesc := by decide +kernel
theorem regFind_refLim : ∀ i : Fin 14, regFind (R.KILN_REF_LIM.reg i.val) = some refLimDesc := by decide +kernel
theorem regFind_refHold : ∀ i : Fin 14, regFind (R.KILN_REF_HOLD.reg i.val) = some refHoldDesc := by decide +kernel
theorem regFind_frefNom : regFind R.KILN_FREF_NOM.reg = some frefNomDesc := by decide +kernel

theorem kilnDesc_plain {d : RegDesc} (h : d ∈ [refCfgDesc, refLimDesc, refHoldDesc, frefNomDesc]) (a : Nat) (v : Word) : d.Plain a v := by
  simp only [List.mem_cons, List.not_mem_nil, or_false] at h
  obtain rfl | rfl | rfl | rfl := h <;>
    exact ⟨rfl, by decide, rfl, by decide, by decide, by decide, rfl, rfl, fun _ _ _ => rfl, rfl⟩

end Sys2Proof.Machine
end

section
/-!
SUPPORT. A reference disqualified (R264, R265): by a reset, by its becoming inactive, and by REF_ACTIVITY_LOSS (R280).
-/
namespace Sys2Proof.Machine

/-! ## A reference disqualified (R264, R265) -/

/-- The registers in which the disqualifying of reference i shows. -/
abbrev restartRegs (i : Nat) : List Nat := [R.KILN_REF_STAT.reg i, R.KILN_STAT.reg, R.KILN_EVT.reg]

/-- From s to t reference i was disqualified, its hold time starts again, and the choice was made anew. -/
structure Restarted (s t : State) (i : Nat) : Prop where
  kiln : t.kiln = { s.kiln with ref := s.kiln.ref.set (Fin.ofNat 14 i) { s.kref i with t := 0 }, next := chooseBoth t }
  qual : t.get (R.KILN_REF_STAT.qual i) = 0
  evt : t.flag (R.KILN_REF_STAT.disq_evt i) = (s.flag (R.KILN_REF_STAT.disq_evt i) || s.get (R.KILN_REF_STAT.qual i) == 2)

namespace Restarted

variable {s t u : State} {i : Nat}

/-- Disqualified, then chosen. -/
theorem ofSteps (hi : i < 14) (h : Requalified s u i 0 0) (c : Rechosen u t) : Restarted s t i where
  kiln := by rw [c.kiln, h.kiln]
  qual := (c.alike.getRef (by dsimp only; omega) (by dsimp only; omega)).trans h.qual
  evt := by
    rw [State.flag, c.alike.getRef (by dsimp only; omega) (by dsimp only; omega)]
    refine h.evt.trans ?_
    rw [Bool.eq_iff_iff]
    simp

/-- What came before that left Kiln and the reference's state. -/
theorem ofStart (h : Restarted u t i) (kiln : u.kiln = s.kiln) (qual : u.get (R.KILN_REF_STAT.qual i) = s.get (R.KILN_REF_STAT.qual i))
    (evt : u.get (R.KILN_REF_STAT.disq_evt i) = s.get (R.KILN_REF_STAT.disq_evt i)) : Restarted s t i where
  kiln := by have := h.kiln; rwa [State.kref, kiln] at this
  qual := h.qual
  evt := by rw [h.evt, qual, State.flag, evt, State.flag]

/-- Disqualified twice. -/
theorem again (h : Restarted s u i) (k : Restarted u t i) : Restarted s t i where
  kiln := by
    rw [k.kiln, State.kref_of_ref (s := s) (congrArg KilnS.ref h.kiln), h.kiln]
    simp only [Vector.set_set]
  qual := k.qual
  evt := by rw [k.evt, h.qual, h.evt]; simp

/-- What comes after and leaves Kiln. -/
theorem after {ps : List Part} {rs : List Nat} (hi : i < 14) (h : Restarted s u i) (o : Only ps rs u t) (hs : .sys ∉ ps) (hp : .ptp ∉ ps) (hk : .kiln ∉ ps)
    (hr : ∀ a ∈ rs, 0x20000 ≤ a) : Restarted s t i := by
  have alike := KilnAlike.ofOnly o hs hp hk hr
  have stat : ∀ l : Loc, l.addr = R.KILN_REF_STAT.reg i → t.get l = u.get l := fun l hl =>
    alike.getRef (by rw [hl]; simp only [R.KILN_REF_STAT.reg]; omega) (by rw [hl]; simp only [R.KILN_REF_STAT.reg]; omega)
  refine ⟨?_, (stat _ rfl).trans h.qual, ?_⟩
  · rw [alike.chooseBoth, o.parts .kiln hk]; exact h.kiln
  · rw [State.flag, stat _ rfl]; exact h.evt

end Restarted

theorem restartReg_low {i : Nat} (hi : i < 14) : ∀ a ∈ restartRegs i, a < 0x400000 ∨ 0x500000 ≤ a := by
  simp only [List.mem_cons, List.not_mem_nil, or_false, R.KILN_REF_STAT.reg, R.KILN_STAT.reg, R.KILN_EVT.reg]
  omega

/-! ### `refReset` -/

theorem requalify_only {s : State} {i q n : Nat} : Only [.kiln] [R.KILN_REF_STAT.reg i] s (requalify s i q n) := setQual_only.setKiln (by decide)

/-- An update and the choice that follows it. -/
theorem Rechosen.only_after {s u t : State} {i : Nat} (c : Rechosen u t) (o : Only [.kiln] [R.KILN_REF_STAT.reg i] s u) :
    Only [.kiln, .flt] (restartRegs i) s t :=
  (o.mono (by simp) (by simp)).trans (c.only.mono (List.Subset.refl _) (by simp))

theorem Rechosen.mild_after {s u t : State} {i : Nat} (c : Rechosen u t) (o : Only [.kiln] [R.KILN_REF_STAT.reg i] s u) (h : s.mild) : t.mild :=
  c.mild (State.mild_of_flt h (o.parts .flt (by decide)))

theorem refReset_restarted {s : State} {i : Nat} (hi : i < 14) : Restarted s (refReset s i) i :=
  .ofSteps hi (requalify_requalified (by decide)) (refChosen_rechosen _)

theorem refReset_only {s : State} {i : Nat} : Only [.kiln, .flt] (restartRegs i) s (refReset s i) :=
  (refChosen_rechosen _).only_after requalify_only

theorem refReset_mild {s : State} {i : Nat} (h : s.mild) : (refReset s i).mild := (refChosen_rechosen _).mild_after requalify_only h

theorem refReset_active {s : State} {i : Nat} (hi : i < 14) : (refReset s i).get (R.KILN_REF_STAT.active i) = s.get (R.KILN_REF_STAT.active i) :=
  ((refChosen_rechosen _).alike.getRef (by dsimp only; omega) (by dsimp only; omega)).trans (requalify_requalified (by decide)).active

/-! ### `refActive` -/

theorem refActive_only {s : State} {i : Nat} {on : Bool} : Only [.kiln, .flt] (restartRegs i) s (refActive s i on) := by
  have put : Only [.kiln] [R.KILN_REF_STAT.reg i] s (s.put (R.KILN_REF_STAT.active i) (bit on)) := .put .refl List.mem_cons_self
  exact .ite .refl ((refChosen_rechosen _).only_after (put.trans refUpdate_only))

theorem refActive_mild {s : State} {i : Nat} {on : Bool} (h : s.mild) : (refActive s i on).mild := by
  have put : Only [.kiln] [R.KILN_REF_STAT.reg i] s (s.put (R.KILN_REF_STAT.active i) (bit on)) := .put .refl List.mem_cons_self
  unfold refActive
  split
  · exact h
  · exact (refChosen_rechosen _).mild_after (put.trans refUpdate_only) h

/-- No change of activity, or a reference that is not there. -/
theorem refActive_same {s : State} {i : Nat} {on : Bool} (h : s.krefOk i = true → s.flag (R.KILN_REF_STAT.active i) = on) : refActive s i on = s := by
  unfold refActive
  refine if_pos ?_
  cases ok : s.krefOk i
  · rfl
  · simp [h ok]

theorem refActive_change {s : State} {i : Nat} {on : Bool} (ok : s.krefOk i = true) (h : s.flag (R.KILN_REF_STAT.active i) = !on) :
    refActive s i on = refChosen (refUpdate (s.put (R.KILN_REF_STAT.active i) (bit on)) i 0) := by
  unfold refActive
  refine if_neg ?_
  simp [ok, h]

/-- The bit of activity, put. -/
theorem State.flag_put_active {s : State} {i : Nat} {on : Bool} :
    (s.put (R.KILN_REF_STAT.active i) (bit on)).flag (R.KILN_REF_STAT.active i) = on := by
  rw [State.flag, State.get_put_self (by dsimp only; omega)]
  cases on <;> rfl

theorem State.get_put_active {s : State} {i n : Nat} {l : Loc} (h : l.lo + l.w ≤ 2 ∨ 3 ≤ l.lo) : (s.put (R.KILN_REF_STAT.active i) n).get l = s.get l :=
  State.get_put_other (by dsimp only; omega) (.inr h)

/-- A reference found inactive is disqualified. -/
theorem inactive_restarted {s : State} {i : Nat} (hi : i < 14) : Restarted s (refChosen (refUpdate (s.put (R.KILN_REF_STAT.active i) (bit false)) i 0)) i :=
  (Restarted.ofSteps hi (refUpdate_out (.inr (.inl State.flag_put_active))) (refChosen_rechosen _)).ofStart rfl
    (State.get_put_active (.inl (by dsimp only; omega))) (State.get_put_active (.inr (by dsimp only; omega)))

/-! ## REF_ACTIVITY_LOSS -/

/-- What a command REF_ACTIVITY_LOSS does within its frame. -/
def lossStep (i : Fin 14) (s : State) : State :=
  if refHeld s i.val then s else followersUnlock i.val (10 ≤ i.val ∧ i.val < 12) (refActive s i.val false)

theorem exec_refActivityLoss (i : Fin 14) (s : State) : exec (.refActivityLoss i) s = Cmd.run (lossStep i) s := rfl

/-- Reference i can time out: it is there, is active, and nothing that the engine itself knows holds it (R264). -/
def State.timesOut (s : State) (i : Nat) : Prop :=
  (2 ≤ i → i ≤ 9 → i - 2 < s.sys.fuses.ports)
    ∧ ¬(i ≤ 1 ∧ s.flag (R.PTP_DOM_STAT.valid i) = true ∨ 2 ≤ i ∧ i ≤ 9 ∧ s.flag (R.ETH_PSTAT.link (i - 2)) = true)
    ∧ s.flag (R.KILN_REF_STAT.active i) = true

/-- From s to t reference i timed out. -/
structure TimedOut (s t : State) (i : Nat) : Prop extends Restarted s t i where
  active : t.flag (R.KILN_REF_STAT.active i) = false

theorem TimedOut.after {s t u : State} {i : Nat} {ps : List Part} {rs : List Nat} (hi : i < 14) (h : TimedOut s u i) (o : Only ps rs u t)
    (hs : .sys ∉ ps) (hp : .ptp ∉ ps) (hk : .kiln ∉ ps) (hr : ∀ a ∈ rs, 0x20000 ≤ a) : TimedOut s t i where
  toRestarted := h.toRestarted.after hi o hs hp hk hr
  active := by
    rw [State.flag, (KilnAlike.ofOnly o hs hp hk hr).getRef (by dsimp only; omega) (by dsimp only; omega)]
    exact h.active

/-- The update and the choice that follow a reference's becoming inactive. -/
theorem inactive_timedOut {s : State} {i : Nat} (hi : i < 14) :
    TimedOut s (refChosen (refUpdate (s.put (R.KILN_REF_STAT.active i) (bit false)) i 0)) i where
  toRestarted := inactive_restarted hi
  active := by
    have out : Requalified (s.put (R.KILN_REF_STAT.active i) (bit false)) (refUpdate (s.put (R.KILN_REF_STAT.active i) (bit false)) i 0) i 0 0 :=
      refUpdate_out (.inr (.inl State.flag_put_active))
    rw [State.flag, (refChosen_rechosen _).alike.getRef (by dsimp only; omega) (by dsimp only; omega), out.active]
    exact State.flag_put_active

theorem refActive_timedOut {s : State} {i : Nat} (hi : i < 14) (ok : s.krefOk i = true) (h : s.flag (R.KILN_REF_STAT.active i) = true) :
    TimedOut s (refActive s i false) i := by
  rw [refActive_change ok (by rw [h]; rfl)]
  exact inactive_timedOut hi

/-- The command's effect before the synthesisers follow. -/
theorem lossStep_eq {i : Fin 14} {s : State} (h : refHeld s i.val = false) :
    lossStep i s = followersUnlock i.val (10 ≤ i.val ∧ i.val < 12) (refActive s i.val false) := by
  rw [lossStep, h]; rfl

theorem refHeld_false_iff {s : State} {i : Nat} : refHeld s i = false
    ↔ ¬(i ≤ 1 ∧ s.flag (R.PTP_DOM_STAT.valid i) = true ∨ 2 ≤ i ∧ i ≤ 9 ∧ s.flag (R.ETH_PSTAT.link (i - 2)) = true) := by
  rw [← Bool.not_eq_true, refHeld_iff]

/-- A reference that does not time out is left as it is. -/
theorem refActive_untimed {s : State} {i : Nat} (h : ¬s.timesOut i) (free : refHeld s i = false) : refActive s i false = s := by
  refine refActive_same fun ok => ?_
  rw [← Bool.not_eq_true]
  exact fun active => h ⟨State.krefOk_iff.mp ok, refHeld_false_iff.mp free, active⟩

theorem TimedOut.ofBegin {s t : State} {i : Nat} (h : TimedOut s.begin t i) : TimedOut s t i := ⟨h.toRestarted.ofStart rfl rfl rfl, h.active⟩

/-- The loss of a reference that no synthesiser follows. -/
theorem refActivityLoss_plain {i : Fin 14} {s : State} (quiet : s.quiet) (times : s.timesOut i.val) (wck : ¬(i.val = 10 ∨ i.val = 11)) :
    ∃ t, exec (.refActivityLoss i) s = .next t ∧ Only [.kiln, .flt] (restartRegs i.val ++ lostRegs) s t ∧ TimedOut s t i.val := by
  obtain ⟨there, unheld, active⟩ := times
  have step : lossStep i s.begin = refActive s.begin i.val false :=
    (lossStep_eq (s := s.begin) (refHeld_false_iff.mpr unheld)).trans (followersUnlock_none (fun _ => by omega))
  obtain ⟨t, run, after⟩ := Cmd.run_mild (f := lossStep i) quiet.on (by rw [step]; exact refActive_mild quiet.mild)
  rw [step] at after
  have out := refActive_timedOut (s := s.begin) i.isLt (State.krefOk_iff.mpr there) active
  refine ⟨t, (exec_refActivityLoss ..).trans run, ?_, ?_⟩
  · exact ((refActive_only (s := s.begin)).mono (List.Subset.refl _) (List.subset_append_left _ _)).ofBegin.trans
      (after.mono (by decide) (List.subset_append_right _ _))
  · exact (out.after i.isLt after (by decide) (by decide) (by decide) (fun _ => lostReg_high)).ofBegin

/-- What does not time out and is no word clock is left alone. -/
theorem refActivityLoss_nothing {i : Fin 14} {s : State} (quiet : s.quiet) (times : ¬s.timesOut i.val) (wck : ¬(i.val = 10 ∨ i.val = 11)) :
    ∃ t, exec (.refActivityLoss i) s = .next t ∧ Only [] [] s t := by
  have step : lossStep i s.begin = s.begin := by
    cases held : refHeld s.begin i.val
    · rw [lossStep_eq held, refActive_untimed (s := s.begin) times held]
      exact followersUnlock_none (fun _ => by omega)
    · exact if_pos held
  obtain ⟨t, run, only, -⟩ := Cmd.run_only (f := lossStep i) quiet.on (by rw [step]; exact quiet.raised)
  rw [step] at only
  exact ⟨t, (exec_refActivityLoss ..).trans run, only.ofBegin⟩

/-- The loss of a word clock: after what befalls the reference, the synthesisers that follow it unlock (R280). -/
theorem refActivityLoss_wordClock {i : Fin 14} {s : State} (quiet : s.quiet) (wck : i.val = 10 ∨ i.val = 11) (known : s.bridgesKnown) :
    ∃ t, exec (.refActivityLoss i) s = .next t ∧ Only [.xio, .flt] (synthRegs ++ lostRegs) (refActive s.begin i.val false) t
      ∧ ∀ d : Fin 2, s.get (R.XIO_DOM.src d.val) + 9 = i.val → t.flag (R.XIO_DOM.locked d.val) = false := by
  have active := refActive_only (s := s.begin) (i := i.val) (on := false)
  have step := lossStep_eq (i := i) (s := s.begin) (refHeld_false_iff.mpr (by omega))
  have known' : (refActive s.begin i.val false).bridgesKnown := by
    rw [State.bridgesKnown, active.parts .xio (by decide)]
    exact known
  have unlocked := followersUnlock_unlocked (i := i.val) (c := 10 ≤ i.val ∧ i.val < 12) known'
  obtain ⟨t, run, after⟩ := Cmd.run_mild (f := lossStep i) quiet.on (by rw [step]; exact unlocked.mild (refActive_mild quiet.mild))
  rw [step] at after
  refine ⟨t, (exec_refActivityLoss ..).trans run, ?_, fun d follows => ?_⟩
  · exact (unlocked.only.mono (List.Subset.refl _) (List.subset_append_left _ _)).trans (after.mono (by decide) (List.subset_append_right _ _))
  · rw [State.flag, after.get_synth d.isLt rfl lostReg_far]
    refine followersUnlock_locked known' (by omega) (by omega) d.isLt ?_
    rw [active.get_synth d.isLt rfl (restartReg_low i.isLt)]
    exact follows

/-! ## KILN_REF_CONFIG_WRITE -/

end Sys2Proof.Machine
end

section
/-!
SUPPORT. KILN_REF_CONFIG_WRITE (R265): the writes that reset a reference.
-/
namespace Sys2Proof.Machine

/-! ## KILN_REF_CONFIG_WRITE -/

/-- A reference's registers and KILN_FREF_NOM are there, where its port is (R5, R263). -/
theorem regAt_kiln {s : State} {a : Nat} {d : RegDesc} (found : regFind a = some d) (ha : a < 0x10200)
    (there : 0x10120 ≤ a → a < 0x101A0 → (a - 0x10120) / 16 < s.sys.fuses.ports) : s.regAt a = some d := by
  have below : ∀ base st ct n, a < base → beyond a base st ct n = false := by
    intro base st ct n h
    have low : Nat.ble base a = false := by rw [← Bool.not_eq_true, Nat.ble_eq]; omega
    simp only [beyond, low, Bool.false_and]
  have port : beyond a 0x10120 0x10 8 s.sys.fuses.ports = false := by
    rw [← Bool.not_eq_true]
    simp only [beyond, Bool.and_eq_true, Nat.ble_eq, Nat.blt_eq]
    omega
  have present : s.sys.fuses.absent a = false := by
    simp (disch := omega) only [Fuses.absent, port, below, Bool.false_and, Bool.or_false]
  rw [State.regAt, present]
  exact found

/-- A register of reference i, which is there. -/
theorem regAt_ref {s : State} {i : Fin 14} {a : Nat} {d : RegDesc} (found : regFind a = some d) (lo : 0x10100 + 16 * i.val ≤ a)
    (hi : a < 0x10100 + 16 * i.val + 16) (there : 2 ≤ i.val → i.val ≤ 9 → i.val - 2 < s.sys.fuses.ports) : s.regAt a = some d :=
  regAt_kiln found (by omega) (by omega)

/-- The reference whose register stands at a. -/
theorem RegDesc.at_ref {d : RegDesc} {a : Nat} {i : Fin 14} (h : a = d.base + 16 * i.val) : d.at_ a 16 14 = i.val := by
  simp only [RegDesc.at_]; omega

/-- What the writes of these registers set off. -/
theorem plainWritten_refLim (i : Fin 14) (v : Word) (s : State) : plainWritten refLimDesc (R.KILN_REF_LIM.reg i.val) v s
    = refReset (putFields s (R.KILN_REF_LIM.reg i.val) v refLimDesc.fields) i.val := by
  have base : refLimDesc.base = 0x10104 := rfl
  have which : refLimDesc.at_ (R.KILN_REF_LIM.reg i.val) 16 14 = i.val := RegDesc.at_ref rfl
  simp [plainWritten, writeHook, base, which, R.KILN_REF_CFG.reg]

theorem plainWritten_refHold (i : Fin 14) (v : Word) (s : State) : plainWritten refHoldDesc (R.KILN_REF_HOLD.reg i.val) v s
    = refReset (putFields s (R.KILN_REF_HOLD.reg i.val) v refHoldDesc.fields) i.val := by
  have base : refHoldDesc.base = 0x10108 := rfl
  have which : refHoldDesc.at_ (R.KILN_REF_HOLD.reg i.val) 16 14 = i.val := RegDesc.at_ref rfl
  simp [plainWritten, writeHook, base, which, R.KILN_REF_CFG.reg]

theorem plainWritten_frefNom (v : Word) (s : State) : plainWritten frefNomDesc R.KILN_FREF_NOM.reg v s
    = refReset (putFields s R.KILN_FREF_NOM.reg v frefNomDesc.fields) 12 := by
  have base : frefNomDesc.base = 0x10028 := rfl
  simp [plainWritten, writeHook, base]

theorem plainWritten_refCfg (i : Fin 14) (v : Word) (s : State) : plainWritten refCfgDesc (R.KILN_REF_CFG.reg i.val) v s
    = refCfgWritten (s.reg (R.KILN_REF_CFG.reg i.val)) i.val (putFields s (R.KILN_REF_CFG.reg i.val) v refCfgDesc.fields) := by
  have base : refCfgDesc.base = 0x10100 := rfl
  have which : refCfgDesc.at_ (R.KILN_REF_CFG.reg i.val) 16 14 = i.val := RegDesc.at_ref rfl
  simp [plainWritten, writeHook, base, which]

/-- A command that writes a register of reference n. -/
theorem config_command {s : State} {route : Route} {a n : Nat} {v : Word} {d : RegDesc} (plain : d.Plain a v) (takes : TakesWrite s route)
    (aligned : a / 4 * 4 = a) (found : s.regAt a = some d)
    (only : Only [.kiln, .flt] (restartRegs n) (putFields s.begin a v d.fields) (plainWritten d a v s.begin))
    (mild : (putFields s.begin a v d.fields).mild → (plainWritten d a v s.begin).mild) :
    ∃ t, writeCmd route a v s = .next t ∧ Only [.kiln, .flt, .hif] (a :: (restartRegs n ++ lostRegs)) s t ∧ t.hif = s.journalled route 0 a v
      ∧ Only [.flt, .hif] lostRegs (plainWritten d a v s.begin) t := by
  have put : Only [] [a] s.begin (putFields s.begin a v d.fields) := putFields_only
  have written : Only [.kiln, .flt] (a :: (restartRegs n ++ lostRegs)) s.begin (plainWritten d a v s.begin) :=
    (put.mono (by simp) (by simp)).trans (only.mono (List.Subset.refl _) (List.subset_cons_of_subset _ (List.subset_append_left _ _)))
  obtain ⟨t, run, after, journal⟩ := plain.writeCmd takes aligned found written (by decide) (by decide)
    (mild (State.mild_of_flt takes.quiet.mild (put.parts .flt (by decide))))
  exact ⟨t, run, written.ofBegin.mono (by decide) (List.Subset.refl _) |>.trans
    (after.mono (by decide) (List.subset_cons_of_subset _ (List.subset_append_right _ _))), journal, after⟩

/-- Where the configuration of the references stands. -/
structure ConfigAt (a : Nat) : Prop where
  lo : 0x10010 ≤ a
  hi : a < 0x10200
  aligned : a / 4 * 4 = a
  apart : a % 16 ≠ 12

/-- A configuration register is none of those in which a reference's state shows. -/
theorem ConfigAt.not_restart {a n : Nat} (h : ConfigAt a) : a ∉ restartRegs n := by
  obtain ⟨lo, hi, aligned, apart⟩ := h
  simp only [List.mem_cons, List.not_mem_nil, or_false, R.KILN_REF_STAT.reg, R.KILN_STAT.reg, R.KILN_EVT.reg]
  omega

section
variable {s t : State} {a n : Nat} {v : Word} {d : RegDesc} (at_ : ConfigAt a)
include at_

/-- What the stored fields leave of a reference. -/
theorem ConfigAt.get_put {l : Loc} (hn : n < 14) (hl : l.addr = R.KILN_REF_STAT.reg n) : (putFields s.begin a v d.fields).get l = s.get l := by
  have apart := at_.apart
  refine State.get_of_reg ((putFields_only (s := s.begin)).regs _ ?_ ?_)
  · rw [hl, List.mem_singleton]; simp only [R.KILN_REF_STAT.reg]; omega
  · simp only [counterAt, hl, R.KILN_REF_STAT.reg, decide_eq_false_iff_not]; omega

omit at_ in
theorem putFields_kiln : (putFields s.begin a v d.fields).kiln = s.kiln := (putFields_only (s := s.begin)).parts .kiln (by decide)

/-- The register as it was stored stands after the command. -/
theorem ConfigAt.reg_after {u : State} (only : Only [.kiln, .flt] (restartRegs n) (putFields s.begin a v d.fields) u)
    (after : Only [.flt, .hif] lostRegs u t) : t.reg a = d.fields.foldl (fun x f => fieldPut f.lo f.w x (fieldGet f.lo f.w v)) (s.reg a) := by
  have hi := at_.hi
  have free : counterAt a = false := by simp only [counterAt, decide_eq_false_iff_not]; omega
  rw [after.regs a (fun m => absurd (lostReg_high m) (by omega)) free, only.regs a at_.not_restart free]
  exact reg_putFields

/-- A write that resets reference n. -/
theorem reset_command {route : Route} (hn : n < 14) (plain : d.Plain a v) (takes : TakesWrite s route) (found : s.regAt a = some d)
    (hook : plainWritten d a v s.begin = refReset (putFields s.begin a v d.fields) n) :
    ∃ t, writeCmd route a v s = .next t ∧ Only [.kiln, .flt, .hif] (a :: (restartRegs n ++ lostRegs)) s t ∧ t.hif = s.journalled route 0 a v
      ∧ Restarted s t n ∧ t.flag (R.KILN_REF_STAT.active n) = s.flag (R.KILN_REF_STAT.active n)
      ∧ t.reg a = d.fields.foldl (fun x f => fieldPut f.lo f.w x (fieldGet f.lo f.w v)) (s.reg a) := by
  have only : Only [.kiln, .flt] (restartRegs n) (putFields s.begin a v d.fields) (plainWritten d a v s.begin) := by rw [hook]; exact refReset_only
  have active : (plainWritten d a v s.begin).get (R.KILN_REF_STAT.active n) = s.get (R.KILN_REF_STAT.active n) := by
    rw [hook, refReset_active hn, at_.get_put hn rfl]
  have restarted : Restarted s (plainWritten d a v s.begin) n := by
    rw [hook]
    exact (refReset_restarted hn).ofStart putFields_kiln (at_.get_put hn rfl) (at_.get_put hn rfl)
  obtain ⟨t, run, frame, journal, after⟩ := config_command plain takes at_.aligned found only (fun h => by rw [hook]; exact refReset_mild h)
  refine ⟨t, run, frame, journal, restarted.after hn after (by decide) (by decide) (by decide) (fun _ => lostReg_high), ?_, at_.reg_after only after⟩
  have alike := KilnAlike.ofOnly after (by decide) (by decide) (by decide) (fun _ => lostReg_high)
  rw [State.flag, alike.getRef (by dsimp only; omega) (by dsimp only; omega), active, State.flag]

end

end Sys2Proof.Machine
end

section
/-!
SUPPORT. What a write of KILN_REF_CFG does besides storing (R264, R265).
-/
namespace Sys2Proof.Machine

/-! ## A write of KILN_REF_CFG (R264, R265) -/

/-- What a write of KILN_REF_CFG(i), which held `old`, does first: a rate that changed resets the reference. -/
def cfgBegun (old : Word) (i : Nat) (s : State) : State :=
  if fieldGet 6 3 old ≠ s.get (R.KILN_REF_CFG.rate i) then refReset s i else watchRefs s

theorem refCfgWritten_eq (old : Word) (i : Nat) (s : State) : refCfgWritten old i s =
    if !(cfgBegun old i s).flag (R.KILN_REF_CFG.en i) then refChosen (refUpdate ((cfgBegun old i s).put (R.KILN_REF_STAT.active i) (bit false)) i 0)
    else if i ≤ 9 then refActive (cfgBegun old i s) i (refHeld (cfgBegun old i s) i) else cfgBegun old i s := rfl

theorem cfgBegun_only {old : Word} {i : Nat} {s : State} : Only [.kiln, .flt] (restartRegs i) s (cfgBegun old i s) :=
  .ite refReset_only (watchRefs_only .refl (by simp) (by simp) (by simp))

theorem cfgBegun_mild {old : Word} {i : Nat} {s : State} (h : s.mild) : (cfgBegun old i s).mild := by
  unfold cfgBegun
  split
  · exact refReset_mild h
  · exact watchRefs_mild h

theorem refCfgWritten_only {old : Word} {i : Nat} {s : State} : Only [.kiln, .flt] (restartRegs i) s (refCfgWritten old i s) := by
  have put : ∀ u : State, Only [.kiln] [R.KILN_REF_STAT.reg i] u (u.put (R.KILN_REF_STAT.active i) (bit false)) := fun _ => .put .refl List.mem_cons_self
  rw [refCfgWritten_eq]
  exact .ite (cfgBegun_only.trans ((refChosen_rechosen _).only_after ((put _).trans refUpdate_only)))
    (.ite (cfgBegun_only.trans refActive_only) cfgBegun_only)

theorem refCfgWritten_mild {old : Word} {i : Nat} {s : State} (h : s.mild) : (refCfgWritten old i s).mild := by
  have put : ∀ u : State, Only [.kiln] [R.KILN_REF_STAT.reg i] u (u.put (R.KILN_REF_STAT.active i) (bit false)) := fun _ => .put .refl List.mem_cons_self
  rw [refCfgWritten_eq]
  split
  · exact (refChosen_rechosen _).mild_after ((put _).trans refUpdate_only) (cfgBegun_mild h)
  · split
    · exact refActive_mild (cfgBegun_mild h)
    · exact cfgBegun_mild h

section
variable {old : Word} {i : Nat} {s : State} (hi : i < 14)
include hi

/-- Enabling is no matter of what the write does first. -/
theorem cfgBegun_en : (cfgBegun old i s).flag (R.KILN_REF_CFG.en i) = s.flag (R.KILN_REF_CFG.en i) := by
  refine State.flag_of_get (State.get_of_reg (cfgBegun_only.regs _ ?_ ?_))
  · simp only [List.mem_cons, List.not_mem_nil, or_false, R.KILN_REF_STAT.reg, R.KILN_STAT.reg, R.KILN_EVT.reg]; omega
  · simp only [counterAt, decide_eq_false_iff_not]; omega

theorem watchRefs_stat {l : Loc} (hl : l.addr = R.KILN_REF_STAT.reg i) : (watchRefs s).get l = s.get l :=
  (watchRefs_alike s).getRef (by rw [hl]; simp only [R.KILN_REF_STAT.reg]; omega) (by rw [hl]; simp only [R.KILN_REF_STAT.reg]; omega)

omit hi in
theorem watchRefs_kiln : (watchRefs s).kiln = s.kiln :=
  (watchRefs_only (ps := [.flt]) (rs := choiceRegs) .refl (by decide) (by decide) (by decide)).parts .kiln (by decide)

/-- A reference that is disabled is disqualified and inactive. -/
theorem refCfgWritten_disabled (off : s.flag (R.KILN_REF_CFG.en i) = false) : TimedOut s (refCfgWritten old i s) i := by
  have out : TimedOut (cfgBegun old i s) (refCfgWritten old i s) i := by
    rw [refCfgWritten_eq, cfgBegun_en hi, off]
    exact inactive_timedOut hi
  refine ⟨?_, out.active⟩
  have restarted := out.toRestarted
  generalize refCfgWritten old i s = t at restarted ⊢
  unfold cfgBegun at restarted
  split at restarted
  · exact (refReset_restarted hi).again restarted
  · exact restarted.ofStart watchRefs_kiln (watchRefs_stat hi rfl) (watchRefs_stat hi rfl)

/-- A reference that stays enabled, and as active as it was, is reset by a new rate alone. -/
theorem refCfgWritten_enabled (on : s.flag (R.KILN_REF_CFG.en i) = true)
    (still : i ≤ 9 → (cfgBegun old i s).flag (R.KILN_REF_STAT.active i) = refHeld (cfgBegun old i s) i) :
    refCfgWritten old i s = cfgBegun old i s := by
  rw [refCfgWritten_eq, cfgBegun_en hi, on]
  refine (if_neg (by decide)).trans ?_
  split
  · rename_i h
    exact refActive_same fun _ => still h
  · rfl

theorem cfgBegun_active : (cfgBegun old i s).get (R.KILN_REF_STAT.active i) = s.get (R.KILN_REF_STAT.active i) := by
  unfold cfgBegun
  split
  · exact refReset_active hi
  · exact watchRefs_stat hi rfl

omit hi in
theorem refUpdate_active {dt : Nat} : (refUpdate s i dt).get (R.KILN_REF_STAT.active i) = s.get (R.KILN_REF_STAT.active i) := by
  rw [refUpdate_eq]
  split
  · exact (requalify_requalified (by decide)).active
  · split
    · rfl
    · split
      · exact (requalify_requalified (by split <;> decide)).active
      · exact (requalify_requalified (by decide)).active

/-- A reference that becomes active is updated with no time passed (R265). -/
theorem refActive_gained (ok : s.krefOk i = true) (en : s.flag (R.KILN_REF_CFG.en i) = true) (was : s.flag (R.KILN_REF_STAT.active i) = false) :
    (refActive s i true).flag (R.KILN_REF_STAT.active i) = true
      ∧ (s.acceptPpb i < (s.kref i).f.natAbs → s.get (R.KILN_REF_STAT.qual i) ≠ 2 ∨ s.rejectPpb i < (s.kref i).f.natAbs →
        (refActive s i true).get (R.KILN_REF_STAT.qual i) = 0)
      ∧ ((s.kref i).f.natAbs ≤ s.acceptPpb i → s.get (R.KILN_REF_STAT.qual i) ≠ 2 →
        (refActive s i true).get (R.KILN_REF_STAT.qual i) = if s.holdMs i ≤ (s.kref i).t % 2 ^ 32 then 2 else 1)
      ∧ ((s.kref i).f.natAbs ≤ s.rejectPpb i → s.get (R.KILN_REF_STAT.qual i) = 2 → (refActive s i true).get (R.KILN_REF_STAT.qual i) = 2) := by
  have other : ∀ l : Loc, l.addr ≠ 0x1010C + 0x10 * i → (s.put (R.KILN_REF_STAT.active i) (bit true)).get l = s.get l := fun l hl =>
    State.get_put_elsewhere hl
  have en' : (s.put (R.KILN_REF_STAT.active i) (bit true)).flag (R.KILN_REF_CFG.en i) = true := by
    rw [State.flag, other _ (by dsimp only; omega)]; exact en
  have on' : (s.put (R.KILN_REF_STAT.active i) (bit true)).flag (R.KILN_REF_STAT.active i) = true := State.flag_put_active
  have reject : (s.put (R.KILN_REF_STAT.active i) (bit true)).rejectPpb i = s.rejectPpb i := by
    rw [State.rejectPpb, other _ (by dsimp only; omega), State.rejectPpb]
  have accept : (s.put (R.KILN_REF_STAT.active i) (bit true)).acceptPpb i = s.acceptPpb i := by
    rw [State.acceptPpb, other _ (by dsimp only; omega), reject, State.acceptPpb]
  have hold : (s.put (R.KILN_REF_STAT.active i) (bit true)).holdMs i = s.holdMs i := by
    rw [State.holdMs, other _ (by dsimp only; omega), State.holdMs]
  have qual : (s.put (R.KILN_REF_STAT.active i) (bit true)).get (R.KILN_REF_STAT.qual i) = s.get (R.KILN_REF_STAT.qual i) :=
    State.get_put_active (.inl (by dsimp only; omega))
  have kref : (s.put (R.KILN_REF_STAT.active i) (bit true)).kref i = s.kref i := rfl
  rw [refActive_change ok (by rw [was]; rfl)]
  generalize s.put (R.KILN_REF_STAT.active i) (bit true) = w at *
  rw [← reject, ← accept, ← hold, ← qual, ← kref]
  have chosen : ∀ l : Loc, l.addr = R.KILN_REF_STAT.reg i → (refChosen (refUpdate w i 0)).get l = (refUpdate w i 0).get l := fun l hl =>
    (refChosen_rechosen _).alike.getRef (by rw [hl]; simp only [R.KILN_REF_STAT.reg]; omega) (by rw [hl]; simp only [R.KILN_REF_STAT.reg]; omega)
  rw [State.flag, chosen _ rfl, chosen _ rfl]
  refine ⟨?_, fun far out => ?_, fun near q => ?_, fun near q => (refUpdate_stays en' on' near q).qual⟩
  · rw [refUpdate_active]; exact on'
  · by_cases beyond : w.rejectPpb i < (w.kref i).f.natAbs
    · exact (refUpdate_out (.inr (.inr beyond))).qual
    · exact (refUpdate_between en' on' (by omega) (out.resolve_right beyond) far).qual
  · exact (refUpdate_within en' on' (near.trans (Nat.min_le_right _ _)) q near).qual

end
end Sys2Proof.Machine
end

section
/-!
SUPPORT. KILN_REF_CONFIG_WRITE of KILN_REF_CFG (R264, R265), and the obligation.
-/
namespace Sys2Proof.Machine

/-- A field inside one that was put from a word reads as in that word. -/
theorem fieldGet_put_inside {lo w n : Nat} {x v : Word} (h : lo + w ≤ n) (hn : n ≤ 32) : fieldGet lo w (fieldPut 0 n x (fieldGet 0 n v)) = fieldGet lo w v := by
  refine Nat.eq_of_testBit_eq fun j => ?_
  rw [fieldGet_testBit, fieldGet_testBit]
  by_cases hj : j < w
  · rw [fieldPut_getLsbD (by omega) (by omega), if_pos (by omega), fieldGet_testBit]
    simp only [Nat.zero_add, Nat.sub_zero, show lo + j < n by omega, decide_true, Bool.true_and]
  · simp only [hj, decide_false, Bool.false_and]

/-- Bit 0 of a word. -/
theorem fieldGet_bit0 (v : Word) : (fieldGet 0 1 v != 0) = v.getLsbD 0 := by
  have bit : (fieldGet 0 1 v).testBit 0 = v.getLsbD 0 := by rw [fieldGet_testBit]; rfl
  have small : fieldGet 0 1 v < 2 := Nat.mod_lt _ (by decide)
  rw [← bit]
  match fieldGet 0 1 v, small with
  | 0, _ => rfl
  | 1, _ => rfl

theorem unlockReg_high : ∀ a ∈ synthRegs ++ lostRegs, 0x20000 ≤ a := fun _ h => (List.mem_append.mp h).elim synthReg_high lostReg_high

section
variable {s t : State} {i : Fin 14} {data : Word}

/-- KILN_REF_CFG(i) written. -/
def cfgPut (s : State) (i : Fin 14) (data : Word) : State := putFields s.begin (R.KILN_REF_CFG.reg i.val) data refCfgDesc.fields

theorem cfgAt (i : Fin 14) : ConfigAt (R.KILN_REF_CFG.reg i.val) := by
  constructor <;> simp only [R.KILN_REF_CFG.reg] <;> omega

/-- The four fields of KILN_REF_CFG are its nine low bits. -/
theorem refCfg_stored (x : Word) :
    refCfgDesc.fields.foldl (fun x f => fieldPut f.lo f.w x (fieldGet f.lo f.w data)) x = fieldPut 0 9 x (fieldGet 0 9 data) := by
  have rank : fieldPut 1 4 (fieldPut 0 1 x (fieldGet 0 1 data)) (fieldGet 1 4 data) = fieldPut 0 5 x (fieldGet 0 5 data) := fieldPut_join (by decide)
  have pol : fieldPut 5 1 (fieldPut 0 5 x (fieldGet 0 5 data)) (fieldGet 5 1 data) = fieldPut 0 6 x (fieldGet 0 6 data) := fieldPut_join (by decide)
  have rate : fieldPut 6 3 (fieldPut 0 6 x (fieldGet 0 6 data)) (fieldGet 6 3 data) = fieldPut 0 9 x (fieldGet 0 9 data) := fieldPut_join (by decide)
  rw [← rate, ← pol, ← rank]
  rfl

theorem cfgPut_reg : (cfgPut s i data).reg (R.KILN_REF_CFG.reg i.val) = fieldPut 0 9 (s.reg (R.KILN_REF_CFG.reg i.val)) (fieldGet 0 9 data) :=
  reg_putFields.trans (refCfg_stored _)

theorem cfgPut_en : (cfgPut s i data).flag (R.KILN_REF_CFG.en i.val) = data.getLsbD 0 := by
  rw [State.flag, State.get, cfgPut_reg, fieldGet_put_inside (by dsimp only; omega) (by decide)]
  exact fieldGet_bit0 data

theorem cfgPut_rate : (cfgPut s i data).get (R.KILN_REF_CFG.rate i.val) = fieldGet 6 3 data := by
  rw [State.get, cfgPut_reg, fieldGet_put_inside (by dsimp only; omega) (by decide)]

/-- What the write leaves at first. -/
theorem cfgPut_reg_other {a : Nat} (h : a ≠ R.KILN_REF_CFG.reg i.val) (hc : counterAt a = false) : (cfgPut s i data).reg a = s.reg a :=
  (putFields_only (s := s.begin)).regs a (by rw [List.mem_singleton]; exact h) hc

/-- The state that a write of KILN_REF_CFG(i) leaves, before it is journalled. -/
def cfgDone (s : State) (i : Fin 14) (data : Word) : State := refCfgWritten (s.reg (R.KILN_REF_CFG.reg i.val)) i.val (cfgPut s i data)

theorem cfgPut_kiln : (cfgPut s i data).kiln = s.kiln := putFields_kiln

theorem cfgPut_stat {l : Loc} (hl : l.addr = R.KILN_REF_STAT.reg i.val) : (cfgPut s i data).get l = s.get l := (cfgAt i).get_put i.isLt hl

/-- A field of the reference's limits and hold time, or of a port or a domain. -/
theorem cfgPut_get {l : Loc} (h : l.addr % 16 ≠ 0 ∨ 0x20000 ≤ l.addr ∧ l.addr < 0x60000) (hc : l.addr < 0x60000) : (cfgPut s i data).get l = s.get l := by
  refine State.get_of_reg (cfgPut_reg_other ?_ ?_)
  · simp only [R.KILN_REF_CFG.reg]; omega
  · simp only [counterAt, decide_eq_false_iff_not]; omega

theorem cfgBegun_of (old : Word) (u : State) (n : Nat) : cfgBegun old n u =
    if fieldGet 6 3 old ≠ u.get (R.KILN_REF_CFG.rate n) then refReset u n else watchRefs u := rfl

/-- A new rate resets the reference. -/
theorem cfgBegun_changed (h : ¬fieldGet 6 3 data = s.get (R.KILN_REF_CFG.rate i.val)) :
    cfgBegun (s.reg (R.KILN_REF_CFG.reg i.val)) i.val (cfgPut s i data) = refReset (cfgPut s i data) i.val := by
  rw [cfgBegun_of, cfgPut_rate]
  exact if_pos (fun e => h e.symm)

theorem cfgBegun_unchanged (h : fieldGet 6 3 data = s.get (R.KILN_REF_CFG.rate i.val)) :
    cfgBegun (s.reg (R.KILN_REF_CFG.reg i.val)) i.val (cfgPut s i data) = watchRefs (cfgPut s i data) := by
  rw [cfgBegun_of, cfgPut_rate]
  exact if_neg (fun e => e h.symm)

/-- The command, from the state that it leaves before it is journalled. -/
theorem cfg_command {route : Route} (takes : TakesWrite s route) (there : 2 ≤ i.val → i.val ≤ 9 → i.val - 2 < s.sys.fuses.ports) :
    ∃ t, exec (.kilnRefConfigWrite route i 0 data) s = .next t
      ∧ Only [.kiln, .flt, .hif] (R.KILN_REF_CFG.reg i.val :: (restartRegs i.val ++ lostRegs)) s t
      ∧ t.hif = s.journalled route 0 (R.KILN_REF_CFG.reg i.val) data
      ∧ t.reg (R.KILN_REF_CFG.reg i.val) = fieldPut 0 9 (s.reg (R.KILN_REF_CFG.reg i.val)) (fieldGet 0 9 data)
      ∧ Only [.flt, .hif] lostRegs (cfgDone s i data) t := by
  have hook : plainWritten refCfgDesc (R.KILN_REF_CFG.reg i.val) data s.begin = cfgDone s i data := plainWritten_refCfg i data s.begin
  have only : Only [.kiln, .flt] (restartRegs i.val) (cfgPut s i data) (cfgDone s i data) := refCfgWritten_only
  obtain ⟨t, run, frame, journal, after⟩ := config_command (kilnDesc_plain (by simp) _ _) takes (cfgAt i).aligned
    (regAt_ref (regFind_refCfg i) (by simp only [R.KILN_REF_CFG.reg]; omega) (by simp only [R.KILN_REF_CFG.reg]; omega) there) (by rw [hook]; exact only)
    (fun h => by rw [hook]; exact refCfgWritten_mild h)
  rw [hook] at after
  exact ⟨t, run, frame, journal, ((cfgAt i).reg_after only after).trans (refCfg_stored _), after⟩

/-- What the command leaves of the reference's state, after its journal entry. -/
theorem get_journalled {u : State} (after : Only [.flt, .hif] lostRegs u t) {l : Loc} (hl : l.addr = R.KILN_REF_STAT.reg i.val) : t.get l = u.get l :=
  (KilnAlike.ofOnly after (by decide) (by decide) (by decide) (fun _ => lostReg_high)).getRef
    (by rw [hl]; simp only [R.KILN_REF_STAT.reg]; omega) (by rw [hl]; simp only [R.KILN_REF_STAT.reg]; omega)

/-- Disabled. -/
theorem cfgDone_disabled (off : data.getLsbD 0 = false) : TimedOut s (cfgDone s i data) i.val := by
  have out : TimedOut (cfgPut s i data) (cfgDone s i data) i.val := refCfgWritten_disabled i.isLt (cfgPut_en.trans off)
  exact ⟨out.toRestarted.ofStart cfgPut_kiln (cfgPut_stat rfl) (cfgPut_stat rfl), out.active⟩

/-- What is held does not depend on the registers that the write touches. -/
theorem refHeld_congr {u : State} {n : Nat} (hn : n ≤ 9) (h : ∀ l : Loc, 0x20000 ≤ l.addr → l.addr < 0x60000 → u.get l = s.get l) :
    refHeld u n = refHeld s n := by
  unfold refHeld State.flag
  split
  · rw [h _ (by dsimp only; omega) (by dsimp only; omega)]
  · rw [h _ (by dsimp only; omega) (by dsimp only; omega)]

/-- Enabled, and as active as it was. -/
theorem cfgDone_still (on : data.getLsbD 0 = true) (still : i.val ≤ 9 → s.flag (R.KILN_REF_STAT.active i.val) = refHeld s i.val) :
    cfgDone s i data = cfgBegun (s.reg (R.KILN_REF_CFG.reg i.val)) i.val (cfgPut s i data) := by
  refine refCfgWritten_enabled i.isLt (cfgPut_en.trans on) fun h => ?_
  rw [State.flag, cfgBegun_active i.isLt, cfgPut_stat rfl]
  refine (still h).trans (refHeld_congr h fun l lo hi => ?_).symm
  refine (State.get_of_reg (cfgBegun_only.regs _ (fun m => ?_) ?_)).trans (cfgPut_get (.inr ⟨lo, hi⟩) hi)
  · simp only [List.mem_cons, List.not_mem_nil, or_false, R.KILN_REF_STAT.reg, R.KILN_STAT.reg, R.KILN_EVT.reg] at m; omega
  · simp only [counterAt, decide_eq_false_iff_not]; omega

/-- Enabled with a new rate: reset. -/
theorem cfgDone_reset (on : data.getLsbD 0 = true) (changed : ¬fieldGet 6 3 data = s.get (R.KILN_REF_CFG.rate i.val))
    (still : i.val ≤ 9 → s.flag (R.KILN_REF_STAT.active i.val) = refHeld s i.val) :
    Restarted s (cfgDone s i data) i.val ∧ (cfgDone s i data).get (R.KILN_REF_STAT.active i.val) = s.get (R.KILN_REF_STAT.active i.val) := by
  rw [cfgDone_still on still, cfgBegun_changed changed]
  exact ⟨(refReset_restarted i.isLt).ofStart cfgPut_kiln (cfgPut_stat rfl) (cfgPut_stat rfl), (refReset_active i.isLt).trans (cfgPut_stat rfl)⟩

/-- Enabled with the same rate: left as it was. -/
theorem cfgDone_kept (on : data.getLsbD 0 = true) (unchanged : fieldGet 6 3 data = s.get (R.KILN_REF_CFG.rate i.val))
    (still : i.val ≤ 9 → s.flag (R.KILN_REF_STAT.active i.val) = refHeld s i.val) :
    (cfgDone s i data).kiln = s.kiln ∧ (cfgDone s i data).reg (R.KILN_REF_STAT.reg i.val) = s.reg (R.KILN_REF_STAT.reg i.val) := by
  rw [cfgDone_still on still, cfgBegun_unchanged unchanged]
  refine ⟨watchRefs_kiln.trans cfgPut_kiln, ((watchRefs_alike _).regs _ ?_ ?_ ?_).trans (cfgPut_reg_other ?_ ?_)⟩
  · simp only [R.KILN_REF_STAT.reg]; omega
  · simp only [R.KILN_REF_STAT.reg, R.KILN_STAT.reg]; omega
  · simp only [R.KILN_REF_STAT.reg, R.KILN_EVT.reg]; omega
  · simp only [R.KILN_REF_STAT.reg, R.KILN_REF_CFG.reg]; omega
  · simp only [counterAt, R.KILN_REF_STAT.reg, decide_eq_false_iff_not]; omega

/-- Enabled, and active now: it is updated with no time passed. -/
theorem cfgDone_gained (on : data.getLsbD 0 = true) (same : fieldGet 6 3 data = s.get (R.KILN_REF_CFG.rate i.val)) (ok : s.krefOk i.val = true)
    (was : s.flag (R.KILN_REF_STAT.active i.val) = false) (low : i.val ≤ 9) (held : refHeld s i.val = true) :
    (cfgDone s i data).flag (R.KILN_REF_STAT.active i.val) = true
      ∧ (s.acceptPpb i.val < (s.kref i.val).f.natAbs → s.get (R.KILN_REF_STAT.qual i.val) ≠ 2 ∨ s.rejectPpb i.val < (s.kref i.val).f.natAbs →
        (cfgDone s i data).get (R.KILN_REF_STAT.qual i.val) = 0)
      ∧ ((s.kref i.val).f.natAbs ≤ s.acceptPpb i.val → s.get (R.KILN_REF_STAT.qual i.val) ≠ 2 →
        (cfgDone s i data).get (R.KILN_REF_STAT.qual i.val) = if s.holdMs i.val ≤ (s.kref i.val).t % 2 ^ 32 then 2 else 1)
      ∧ ((s.kref i.val).f.natAbs ≤ s.rejectPpb i.val → s.get (R.KILN_REF_STAT.qual i.val) = 2 →
        (cfgDone s i data).get (R.KILN_REF_STAT.qual i.val) = 2) := by
  have begun := cfgBegun_unchanged (s := s) (i := i) (data := data) same
  have alike := watchRefs_alike (cfgPut s i data)
  have limit : ∀ l : Loc, 0x10100 ≤ l.addr → l.addr < 0x10200 → l.addr % 16 ≠ 0 → (watchRefs (cfgPut s i data)).get l = s.get l := fun l lo hi h =>
    (alike.getRef lo (by omega)).trans (cfgPut_get (.inl h) (by omega))
  have stat : ∀ l : Loc, l.addr = R.KILN_REF_STAT.reg i.val → (watchRefs (cfgPut s i data)).get l = s.get l := fun l hl =>
    (watchRefs_stat i.isLt hl).trans (cfgPut_stat hl)
  have reject : (watchRefs (cfgPut s i data)).rejectPpb i.val = s.rejectPpb i.val := by
    rw [State.rejectPpb, limit _ (by dsimp only; omega) (by dsimp only; omega) (by dsimp only; omega), State.rejectPpb]
  have accept : (watchRefs (cfgPut s i data)).acceptPpb i.val = s.acceptPpb i.val := by
    rw [State.acceptPpb, limit _ (by dsimp only; omega) (by dsimp only; omega) (by dsimp only; omega), reject, State.acceptPpb]
  have hold : (watchRefs (cfgPut s i data)).holdMs i.val = s.holdMs i.val := by
    rw [State.holdMs, limit _ (by dsimp only; omega) (by dsimp only; omega) (by dsimp only; omega), State.holdMs]
  have kref : (watchRefs (cfgPut s i data)).kref i.val = s.kref i.val := by rw [State.kref, watchRefs_kiln, cfgPut_kiln, State.kref]
  have qual := stat (R.KILN_REF_STAT.qual i.val) rfl
  have en : (watchRefs (cfgPut s i data)).flag (R.KILN_REF_CFG.en i.val) = true := by
    rw [State.flag, alike.getRef (by dsimp only; omega) (by dsimp only; omega)]
    exact cfgPut_en.trans on
  have ok' : (watchRefs (cfgPut s i data)).krefOk i.val = true := by
    rw [State.krefOk, alike.sys, cfgPut, (putFields_only (s := s.begin)).parts .sys (by decide)]
    exact ok
  have held' : refHeld (watchRefs (cfgPut s i data)) i.val = true := by
    refine (refHeld_congr low fun l lo hi => ?_).trans held
    refine (State.get_of_reg ((watchRefs_only (ps := [.flt]) (rs := choiceRegs) .refl (by decide) (by decide) (by decide)).regs _ (fun m => ?_) ?_)).trans
      (cfgPut_get (.inr ⟨lo, hi⟩) hi)
    · simp only [List.mem_cons, List.not_mem_nil, or_false, R.KILN_STAT.reg, R.KILN_EVT.reg] at m; omega
    · simp only [counterAt, decide_eq_false_iff_not]; omega
  have done : cfgDone s i data = refActive (watchRefs (cfgPut s i data)) i.val true := by
    rw [cfgDone, refCfgWritten_eq, begun, en, held']
    exact (if_neg (by decide)).trans (if_pos low)
  have gained := refActive_gained i.isLt ok' en ((State.flag_of_get (stat _ rfl)).trans was)
  rw [reject, accept, hold, kref, qual] at gained
  rw [done]
  exact gained

end

theorem limAt (i : Fin 14) : ConfigAt (R.KILN_REF_LIM.reg i.val) := by
  constructor <;> simp only [R.KILN_REF_LIM.reg] <;> omega

theorem holdAt (i : Fin 14) : ConfigAt (R.KILN_REF_HOLD.reg i.val) := by
  constructor <;> simp only [R.KILN_REF_HOLD.reg] <;> omega

/-- What the fields of KILN_REF_LIM, KILN_REF_HOLD and KILN_FREF_NOM hold once they are stored. -/
theorem refLim_accept (x v : Word) : fieldGet 0 14 (refLimDesc.fields.foldl (fun x f => fieldPut f.lo f.w x (fieldGet f.lo f.w v)) x) = fieldGet 0 14 v :=
  (fieldGet_put_other (by decide) (by decide)).trans (fieldGet_put_inside (by decide) (by decide))

theorem refLim_reject (x v : Word) : fieldGet 16 14 (refLimDesc.fields.foldl (fun x f => fieldPut f.lo f.w x (fieldGet f.lo f.w v)) x) = fieldGet 16 14 v :=
  (fieldGet_put (by decide)).trans (Nat.mod_mod _ _)

theorem refHold_hold (x v : Word) : fieldGet 0 13 (refHoldDesc.fields.foldl (fun x f => fieldPut f.lo f.w x (fieldGet f.lo f.w v)) x) = fieldGet 0 13 v :=
  fieldGet_put_inside (by decide) (by decide)

theorem frefNom_nom (x v : Word) : fieldGet 0 27 (frefNomDesc.fields.foldl (fun x f => fieldPut f.lo f.w x (fieldGet f.lo f.w v)) x) = fieldGet 0 27 v :=
  fieldGet_put_inside (by decide) (by decide)

/-- The registers that the loss of a word clock may change. -/
theorem restartRegs_subset {n : Nat} : restartRegs n ⊆ restartRegs n ++ lostRegs ++ synthRegs :=
  List.subset_append_of_subset_left _ (List.subset_append_left _ _)

theorem unlockRegs_subset {n : Nat} : synthRegs ++ lostRegs ⊆ restartRegs n ++ lostRegs ++ synthRegs :=
  List.append_subset.mpr ⟨List.subset_append_right _ _, List.subset_append_of_subset_left _ (List.subset_append_right _ _)⟩

theorem referencesAreLostAndReconfigured : Claim.ReferencesAreLostAndReconfigured := by
  intro s route i data quiet isThere active q evt restart regs held times limit lr la hold off writes same cfg stored wck bridges unlocks
  have settled : s.flag active = decide held ∨ 10 ≤ i.val → i.val ≤ 9 → s.flag active = refHeld s i.val := fun still low => by
    rw [still.resolve_right (by omega), Bool.eq_iff_iff, refHeld_iff, decide_eq_true_eq]
  have restarts : ∀ {n : Nat} {t : State}, Restarted s t n → restart n t := fun r => ⟨r.kiln, r.qual, r.evt⟩
  refine ⟨fun out w => ?_, fun out w known => ?_, fun out w => refActivityLoss_nothing quiet out w, fun out w known => ?_,
    fun takes there => ⟨?_, ?_, ?_, fun off => ?_, fun on changed still => ?_, fun on unchanged still => ?_, fun on unchanged was here => ?_⟩⟩
  · obtain ⟨t, run, frame, lost⟩ := refActivityLoss_plain quiet out w
    exact ⟨t, run, frame, restarts lost.toRestarted, lost.active⟩
  · obtain ⟨there, unheld, on⟩ := out
    obtain ⟨t, run, after, unlocked⟩ := refActivityLoss_wordClock quiet w known
    have lost := ((refActive_timedOut (s := s.begin) i.isLt (State.krefOk_iff.mpr there) on).after i.isLt after (by decide) (by decide) (by decide)
      unlockReg_high).ofBegin
    refine ⟨t, run, ?_, restarts lost.toRestarted, lost.active, unlocked⟩
    exact (refActive_only.mono (by decide) restartRegs_subset).ofBegin.trans (after.mono (by decide) unlockRegs_subset)
  · obtain ⟨t, run, after, unlocked⟩ := refActivityLoss_wordClock quiet w known
    rw [refActive_untimed (s := s.begin) out (refHeld_false_iff.mpr (by omega))] at after
    exact ⟨t, run, after.ofBegin, unlocked⟩
  · obtain ⟨t, run, frame, journal, reset, kept, put⟩ := reset_command (limAt i) i.isLt (kilnDesc_plain (by simp) _ _) takes
      (regAt_ref (regFind_refLim i) (by simp only [R.KILN_REF_LIM.reg]; omega) (by simp only [R.KILN_REF_LIM.reg]; omega) there)
      (plainWritten_refLim i data s.begin)
    refine ⟨t, run, frame, journal, restarts reset, ?_, ?_, kept⟩ <;> rw [State.get, put]
    · exact refLim_accept _ _
    · exact refLim_reject _ _
  · obtain ⟨t, run, frame, journal, reset, kept, put⟩ := reset_command (holdAt i) i.isLt (kilnDesc_plain (by simp) _ _) takes
      (regAt_ref (regFind_refHold i) (by simp only [R.KILN_REF_HOLD.reg]; omega) (by simp only [R.KILN_REF_HOLD.reg]; omega) there)
      (plainWritten_refHold i data s.begin)
    refine ⟨t, run, frame, journal, restarts reset, ?_, kept⟩
    rw [State.get, put]
    exact refHold_hold _ _
  · obtain ⟨t, run, frame, journal, reset, -, put⟩ := reset_command (a := R.KILN_FREF_NOM.reg) (n := 12) (by constructor <;> decide) (by decide)
      (kilnDesc_plain (by simp) _ _) takes (regAt_kiln regFind_frefNom (by decide) (fun h => absurd h (by decide))) (plainWritten_frefNom data s.begin)
    refine ⟨t, run, frame, journal, restarts reset, ?_⟩
    rw [State.get, put]
    exact frefNom_nom _ _
  · obtain ⟨t, run, frame, journal, put, after⟩ := cfg_command (data := data) takes there
    have lost := (cfgDone_disabled (s := s) (i := i) off).after i.isLt after (by decide) (by decide) (by decide) (fun _ => lostReg_high)
    exact ⟨t, run, frame, journal, put, restarts lost.toRestarted, lost.active⟩
  · obtain ⟨t, run, frame, journal, put, after⟩ := cfg_command (data := data) takes there
    have reset := cfgDone_reset on changed (settled still)
    exact ⟨t, run, frame, journal, put, restarts (reset.1.after i.isLt after (by decide) (by decide) (by decide) (fun _ => lostReg_high)),
      State.flag_of_get ((get_journalled after rfl).trans reset.2)⟩
  · obtain ⟨t, run, frame, journal, put, after⟩ := cfg_command (data := data) takes there
    obtain ⟨kiln, stat⟩ := cfgDone_kept on unchanged (settled still)
    refine ⟨t, run, frame, journal, put, (after.parts .kiln (by decide)).trans kiln, (after.regs _ (fun m => ?_) ?_).trans stat⟩
    · have := lostReg_high m
      simp only [R.KILN_REF_STAT.reg] at this; omega
    · simp only [counterAt, R.KILN_REF_STAT.reg, decide_eq_false_iff_not]; omega
  · obtain ⟨t, run, frame, journal, put, after⟩ := cfg_command (data := data) takes there
    have low : i.val ≤ 9 := by
      rcases here with ⟨h, -⟩ | ⟨-, h, -⟩ <;> omega
    have gained := cfgDone_gained on unchanged (State.krefOk_iff.mpr there) was low (refHeld_iff.mpr here)
    rw [State.flag, ← get_journalled after rfl, ← get_journalled after rfl] at gained
    exact ⟨t, run, frame, journal, put, gained⟩

/-- Settles O45: a measurement is the update of R265 with what follows it, and a loss, a configuration written, a reset of it. -/
theorem referencesQualifyAreLostAndReconfigured : Obligations.ReferencesQualifyAreLostAndReconfigured :=
  ⟨measurementsQualifyReferences, referencesAreLostAndReconfigured⟩

end Sys2Proof.Machine
end

section
/-!
SUPPORT. What a register write goes through (R15, R351, R353, R366): the writes that are discarded, the write that is refused, and a
reserved encoding of SYS_GRID (R61).
-/
namespace Sys2Proof.Machine

/-! ## A command and what it puts out -/

/-- Beside what a command puts out itself there are the vectors of the interrupts alone (R370). -/
theorem irqUpdate_out (s : State) : ∃ x l, irqUpdate s = { s with irq := x, out := s.out ++ l } ∧ ∀ o ∈ l, ∃ k, o = .msix k := by
  have vectors : ∀ w, ∀ o ∈ (msixStep s w).2, ∃ k, o = .msix k := by
    intro w o ho
    unfold msixStep at ho
    split at ho
    · cases ho
    · obtain ⟨k, -, e⟩ := List.mem_map.mp ho
      exact ⟨k, e.symm⟩
  exact ⟨_, _, rfl, vectors _⟩

/-- A command is its effect, after which the faults raised enter the queue and the interrupt lines follow. -/
theorem Cmd.run_on {f : State → State} {s : State} (on : s.on) : Cmd.run f s = .next (irqUpdate (flushFaults (f s.begin))) := by
  simp only [Cmd.run, on, Bool.false_eq_true, if_false]

/-- The frame of a command that raises no fault, and what it puts out. -/
theorem Cmd.run_out {f : State → State} {s : State} (on : s.on) (h : (f s.begin).flt.raised = []) : ∃ t l, Cmd.run f s = .next t
    ∧ Only [] [] (f s.begin) t ∧ t.out = (f s.begin).out ++ l ∧ ∀ o ∈ l, ∃ k, o = .msix k := by
  obtain ⟨x, l, e, vectors⟩ := irqUpdate_out (f s.begin)
  refine ⟨{ f s.begin with irq := x, out := (f s.begin).out ++ l }, l, ?_, ⟨fun p _ => by cases p <;> rfl, fun _ _ _ => rfl⟩, rfl, vectors⟩
  rw [Cmd.run_on on, flushFaults_nil h, e]

/-- A command that has no effect changes nothing, and puts out the vectors of the interrupts alone. -/
theorem Cmd.run_nothing {f : State → State} {s : State} (quiet : s.quiet) (h : f s.begin = s.begin) :
    ∃ t, Cmd.run f s = .next t ∧ Only [] [] s t ∧ ∀ o ∈ t.out, ∃ k, o = .msix k := by
  obtain ⟨t, l, run, only, out, vectors⟩ := Cmd.run_out (f := f) quiet.on (by rw [h]; exact quiet.raised)
  rw [h] at only out
  exact ⟨t, run, only.ofBegin, by rw [out]; exact vectors⟩

/-- What is put out is no part of a frame. -/
theorem Only.emit {ps : List Part} {rs : List Nat} {s t : State} {o : Out} (h : Only ps rs s t) : Only ps rs s (t.emit o) :=
  h.trans (.ofParts (fun p _ => by cases p <;> rfl) rfl)

/-! ## Writes that are discarded (R5, R351, R353, R366) -/

/-- In RESET, on a disabled route, where no register stands, and where every field is RO, a write does nothing. -/
theorem regWrite_discarded {route : Route} {addr : Nat} {v : Word} {s : State}
    (h : s.sys.state = .reset ∨ s.routeOn route = false ∨ route ≠ .boot ∧ s.regAt (addr / 4 * 4) = none
      ∨ ∃ d, s.regAt (addr / 4 * 4) = some d ∧ d.fields.all (fun f => f.kind == .ro) = true) : regWrite route addr v s = s := by
  unfold regWrite regWriteAs
  by_cases reset : s.sys.state = .reset
  · simp only [reset, if_true]
  by_cases on : s.routeOn route = true
  · obtain h | h | ⟨boot, nowhere⟩ | ⟨d, found, ro⟩ := h
    · exact absurd h reset
    · exact absurd (on.symm.trans h) (by decide)
    · simp only [reset, on, nowhere, boot, Bool.not_true, Bool.false_eq_true, false_and, if_false]
    · simp only [reset, on, found, ro, Bool.not_true, Bool.false_eq_true, if_false, if_true]
  · simp only [reset, on, Bool.not_false, if_true, if_false]

/-- A write of a whole word, as PCIe needs it to be, is the write that every route makes (R351). -/
theorem exec_registerWrite_whole {route : Route} {addr : BitVec 25} {v : Word} {be : BitVec 4} {s : State}
    (whole : route = .pcie → be = 0xF#4 ∧ addr.toNat % 4 = 0) :
    exec (.registerWrite route addr v be) s = writeCmd route addr.toNat v s := by
  have served : (route == .pcie && (be != 0xF#4 || addr.toNat % 4 != 0)) = false := by
    by_cases pcie : route = .pcie
    · obtain ⟨hbe, ha⟩ := whole pcie
      simp only [hbe, ha, bne_self_eq_false, Bool.or_self, Bool.and_false]
    · simp only [beq_eq_false_iff_ne.mpr pcie, Bool.false_and]
  show execRegisterWrite route addr v be s = _
  simp only [execRegisterWrite, served, Bool.false_eq_true, if_false]
  rfl

/-- On PCIe a write of part of a word, or of an unaligned one, sets bad_access alone (R351). -/
theorem exec_registerWrite_partial {addr : BitVec 25} {v : Word} {be : BitVec 4} {s : State} (up : s.sys.state ≠ .reset)
    (part : ¬(be = 0xF#4 ∧ addr.toNat % 4 = 0)) (quiet : s.quiet) : ∃ t, exec (.registerWrite .pcie addr v be) s = .next t
      ∧ Only [] [R.HIF_STAT.reg] s t ∧ t.reg R.HIF_STAT.reg = fieldPut 6 1 (s.reg R.HIF_STAT.reg) 1 := by
  have refused : (be != 0xF#4 || addr.toNat % 4 != 0) = true := by
    rw [Bool.or_eq_true, bne_iff_ne, bne_iff_ne]
    exact not_and_or.mp part
  obtain ⟨t, run, only, regs⟩ := Cmd.run_only (f := fun s => s.mark R.HIF_STAT.bad_access) quiet.on quiet.raised
  refine ⟨t, ?_, (Only.mark .refl List.mem_cons_self).trans (only.mono (List.Subset.refl _) (List.nil_subset _)) |>.ofBegin, ?_⟩
  · rw [← run]
    show execRegisterWrite .pcie addr v be s = _
    simp only [execRegisterWrite, Cmd.run, State.begin_sys, beq_self_eq_true, refused, Bool.and_self, up, if_true, if_false]
  · rw [State.reg, regs]
    exact State.reg_put.trans (if_pos rfl)

/-- A one-bit field put as 1 is that bit set. -/
theorem fieldPut_one {i : Nat} (h : i < 32) (x : Word) : fieldPut i 1 x 1 = x ||| BitVec.ofNat 32 (2 ^ i) := by
  refine BitVec.eq_of_getLsbD_eq fun j hj => ?_
  rw [fieldPut_getLsbD (by omega) hj, BitVec.getLsbD_or, BitVec.getLsbD_ofNat, Nat.testBit_two_pow]
  by_cases e : i = j
  · subst e
    simp [h]
  · rw [if_neg (by omega)]
    simp [e]

/-! ## A write that is refused (R15) -/

/-- The period number and engine time are those of another state with the same clock and grid. -/
theorem State.time_congr {s t : State} (sys : t.sys = s.sys) (grid : t.reg R.SYS_GRID.reg = s.reg R.SYS_GRID.reg) : t.pnl = s.pnl ∧ t.wt = s.wt := by
  have fs : t.get R.SYS_GRID.fs_sel = s.get R.SYS_GRID.fs_sel := State.get_of_reg grid
  have samples : t.get R.SYS_GRID.n_log2 = s.get R.SYS_GRID.n_log2 := State.get_of_reg grid
  constructor
  · simp only [State.pnl, State.pn, State.perVco, State.nSamp, State.sampVco, State.fsSel, sys, fs, samples]
  · simp only [State.wt, State.nt, sys]

/-- What a fault of class 0 or 1 makes of the queue depends on the queue and the time alone (R392 to R394). -/
theorem enqueue_queue_congr {s t : State} {x : Raised} (h : x.cls ≤ 1) (queue : t.flt.queue = s.flt.queue) (sys : t.sys = s.sys)
    (grid : t.reg R.SYS_GRID.reg = s.reg R.SYS_GRID.reg) : (enqueue t x).flt.queue = (enqueue s x).flt.queue := by
  obtain ⟨pnl, wt⟩ := State.time_congr sys grid
  have noted : ∀ u : State, noteLocal u x = u := by
    intro u
    unfold noteLocal
    rw [if_neg]
    simp only [Bool.and_eq_true, Nat.ble_eq]
    omega
  unfold enqueue
  simp only [noted, if_neg (show ¬x.cls = 3 by omega), queue]
  split
  · rfl
  · split
    · exact queue
    · rename_i past _
      cases past <;> simp [pnl, wt, sys]

/-- One fault of class 0 or 1 enters the queue as the state stands in which it was raised. -/
theorem flushFaults_raise {s : State} {c b k d : Nat} (quiet : s.flt.raised = []) (h : c ≤ 1) :
    (flushFaults (s.raise c b k d)).flt.queue = s.queueWith c b k d := by
  have raised : (s.raise c b k d).flt.raised = [⟨c, b, k, d⟩] := by rw [State.raise_flt, quiet, List.nil_append]
  have alarm : ∀ u, twinAlarm [⟨c, b, k, d⟩] u = u := fun u => twinAlarm_mild (by simpa using h)
  unfold flushFaults
  simp only [raised, alarm, List.foldl_cons, List.foldl_nil, Raised.insert]
  rw [State.count_flt]
  exact enqueue_queue_congr h rfl rfl rfl

/-- From s to t a write by this route to the register at a was refused under R15: recorded, counted, and raised as a fault. -/
structure Refused (s t : State) (route : Route) (a : Nat) : Prop where
  addr : t.get R.SYS_CFG_REJECT.addr = a
  route : t.get R.SYS_CFG_REJECT.route = routeCode route
  valid : t.flag R.SYS_CFG_REJECT.valid = true
  count : t.get R.SYS_CFG_REJECT_CNT.count = (s.get R.SYS_CFG_REJECT_CNT.count + 1) % 2 ^ 32
  queue : t.flt.queue = s.queueWith 1 0 1 a

/-- What SYS_CFG_REJECT records of a refused write. -/
def rejectWord (route : Route) (a : Nat) : Word := BitVec.ofNat 32 (a + routeCode route * 2 ^ 25 + 2 ^ 31)

theorem rejectWord_fields {route : Route} {a : Nat} (ha : a < 2 ^ 25) : fieldGet 0 25 (rejectWord route a) = a
    ∧ fieldGet 25 3 (rejectWord route a) = routeCode route ∧ fieldGet 31 1 (rejectWord route a) = 1 := by
  have code : routeCode route < 8 := by cases route <;> decide
  simp only [fieldGet, rejectWord, BitVec.toNat_ofNat]
  omega

/-- A refused write recorded and counted. -/
def recordRefusal (s : State) (route : Route) (a : Nat) : State :=
  (s.setReg R.SYS_CFG_REJECT.reg (rejectWord route a)).bump R.SYS_CFG_REJECT_CNT.count

theorem refuseWrite_eq {s : State} {route : Route} {a : Nat} (boot : route ≠ .boot) :
    refuseWrite s route a = (recordRefusal s route a).raise 1 0 1 a := if_neg boot

theorem recordRefusal_only {s : State} {route : Route} {a : Nat} :
    Only [] [R.SYS_CFG_REJECT.reg, R.SYS_CFG_REJECT_CNT.reg] s (recordRefusal s route a) :=
  .bump (.setReg .refl (by simp)) (by simp)

theorem recordRefusal_reject {s : State} {route : Route} {a : Nat} : (recordRefusal s route a).reg R.SYS_CFG_REJECT.reg = rejectWord route a :=
  State.reg_put.trans ((if_neg (by decide)).trans State.reg_setReg_self)

theorem recordRefusal_count {s : State} {route : Route} {a : Nat} :
    (recordRefusal s route a).get R.SYS_CFG_REJECT_CNT.count = (s.get R.SYS_CFG_REJECT_CNT.count + 1) % 2 ^ 32 := by
  have before : (s.setReg R.SYS_CFG_REJECT.reg (rejectWord route a)).get R.SYS_CFG_REJECT_CNT.count = s.get R.SYS_CFG_REJECT_CNT.count :=
    State.get_of_reg (State.reg_setReg_other (by decide))
  rw [recordRefusal, State.bump, before]
  exact State.get_put_self (by decide)

/-- A command that is a refused write, of another route than the boot engine, has it recorded, counted and raised, and does nothing else. -/
theorem Cmd.run_refused {f : State → State} {s : State} {route : Route} {a : Nat} (quiet : s.quiet) (boot : route ≠ .boot) (ha : a < 2 ^ 25)
    (h : f s.begin = refuseWrite s.begin route a) : ∃ t, Cmd.run f s = .next t
      ∧ Only [.flt] (R.SYS_CFG_REJECT.reg :: R.SYS_CFG_REJECT_CNT.reg :: lostRegs) s t ∧ Refused s t route a := by
  have recorded := recordRefusal_only (s := s.begin) (route := route) (a := a)
  rw [refuseWrite_eq boot] at h
  generalize e : recordRefusal s.begin route a = u at h recorded
  have flt : u.flt = s.flt := recorded.parts .flt (by decide)
  have mild : (f s.begin).mild := by rw [h]; exact State.mild_raise (State.mild_of_flt quiet.mild flt)
  obtain ⟨t, run, after⟩ := Cmd.run_mild quiet.on mild
  rw [h] at after
  have ends : t = irqUpdate (flushFaults (u.raise 1 0 1 a)) := by
    rw [← h]
    injection run.symm.trans (Cmd.run_on quiet.on)
  have reject : t.reg R.SYS_CFG_REJECT.reg = rejectWord route a := by
    rw [after.regs _ (by decide) (by decide), State.reg, State.raise_regs, ← e]
    exact recordRefusal_reject
  obtain ⟨addr, code, valid⟩ := rejectWord_fields (route := route) ha
  refine ⟨t, run, ?_, ⟨?_, ?_, ?_, ?_, ?_⟩⟩
  · exact (Only.raise (recorded.mono (by simp) (by simp)) (by simp)).trans (after.mono (List.Subset.refl _) (by simp)) |>.ofBegin
  · rw [State.get, reject]; exact addr
  · rw [State.get, reject]; exact code
  · rw [State.flag, State.get, reject, valid]; rfl
  · rw [State.get_of_reg (after.regs _ (by decide) (by decide)), State.get_raise, ← e]
    exact recordRefusal_count
  · rw [ends, irqUpdate_flt, flushFaults_raise (by rw [flt]; exact quiet.raised) (by decide)]
    exact enqueue_queue_congr (Nat.le_refl 1) (congrArg (·.queue) flt) (recorded.parts .sys (by decide)) (recorded.regs _ (by decide) (by decide))

/-! ## SYS_GRID (R61) -/

def gridDesc : RegDesc :=
  ⟨"SYS_GRID", 0x100, [], .none, [⟨"fs_sel", 0, 2, .st, 1⟩, ⟨"n_log2", 4, 3, .st, 2⟩, ⟨"d_in", 8, 6, .st, 1⟩, ⟨"latency", 16, 6, .ro, 3⟩]⟩

theorem regFind_grid : regFind R.SYS_GRID.reg = some gridDesc := by decide +kernel

theorem regAt_grid (s : State) : s.regAt R.SYS_GRID.reg = some gridDesc := regAt_kiln regFind_grid (by decide) (fun h => absurd h (by decide))

/-- The reserved encodings of SYS_GRID. -/
theorem reservedWord_grid {v : Word} : reservedWord gridDesc v = true ↔
    fieldGet 0 2 v = 3 ∨ fieldGet 4 3 v ∉ [1, 2, 3, 4, 5] ∨ fieldGet 8 6 v = 0 ∨ 32 < fieldGet 8 6 v := by
  have base : gridDesc.base = R.SYS_GRID.reg := rfl
  simp only [reservedWord, base, if_true, Bool.or_eq_true, beq_iff_eq, Nat.blt_eq, List.mem_cons, List.not_mem_nil, or_false]
  omega

/-- A taken write of a reserved encoding of SYS_GRID is refused whole (R61). -/
theorem regWrite_grid_reserved {s : State} {route : Route} {addr : Nat} {v : Word} (up : s.sys.state ≠ .reset) (on : s.routeOn route = true)
    (boot : route ≠ .boot) (here : addr / 4 * 4 = R.SYS_GRID.reg) (reserved : reservedWord gridDesc v = true) :
    regWrite route addr v s = refuseWrite s route R.SYS_GRID.reg := by
  have norm : normWord gridDesc R.SYS_GRID.reg v = v := rfl
  have stored : gridDesc.fields.all (fun f => f.kind == .ro) = false := rfl
  have lv : gridDesc.fields.any (fun f => f.kind == .lv) = false := rfl
  have agreed : agreedWrite gridDesc v = false := rfl
  have stores : ∀ later, storeWrite s route gridDesc R.SYS_GRID.reg v later none none = (true, false, refuseWrite s route R.SYS_GRID.reg) := by
    intro later
    simp only [storeWrite, norm, reserved, if_true]
  have ctrl : ¬gridDesc.base = R.HIF_CTRL.reg := by decide
  have reset : ¬gridDesc.base = R.SYS_RESET.reg := by decide
  have commit : ¬gridDesc.base = R.HIF_COMMIT.reg 0 := by decide
  unfold regWrite regWriteAs
  simp only [here, up, on, regAt_grid, stored, agreed, ctrl, reset, commit, boot, stores, lv, Bool.not_true, Bool.not_false, Bool.false_and,
    Bool.and_false, Bool.and_self, Bool.false_eq_true, false_and, if_true, if_false]

end Sys2Proof.Machine
end

section
/-!
SUPPORT. The write of HIF_CTRL, which enables the external routes for writes (R353).
-/
namespace Sys2Proof.Machine

def hifCtrlDesc : RegDesc :=
  ⟨"HIF_CTRL", 0x840000, [], .none, [⟨"pcie_en", 0, 1, .rw, 1⟩, ⟨"twt_en", 1, 1, .rw, 1⟩, ⟨"ib_en", 2, 1, .rw, 1⟩]⟩

theorem regFind_hifCtrl : regFind R.HIF_CTRL.reg = some hifCtrlDesc := by decide +kernel

/-- The host interface's registers belong to no block that may be absent (R5). -/
theorem regAt_hif {s : State} {a : Nat} {d : RegDesc} (found : regFind a = some d) (ha : 0x800000 ≤ a) : s.regAt a = some d := by
  have above : ∀ base st ct n, base + st * ct ≤ 0x800000 → beyond a base st ct n = false := by
    intro base st ct n h
    have high : Nat.blt a (base + st * ct) = false := by rw [← Bool.not_eq_true, Nat.blt_eq]; omega
    simp only [beyond, high, Bool.and_false, Bool.false_and]
  have present : s.sys.fuses.absent a = false := by
    simp (disch := omega) only [Fuses.absent, above, Bool.false_and, Bool.or_false]
  rw [State.regAt, present]
  exact found

theorem regAt_hifCtrl (s : State) : s.regAt R.HIF_CTRL.reg = some hifCtrlDesc := regAt_hif regFind_hifCtrl (by decide)

section
variable {s : State} {route : Route} {v : Word} (up : s.sys.state ≠ .reset) (on : s.routeOn route = true)
include up on

/-- A taken write of HIF_CTRL is discarded where it would leave no route enabled, but for the boot engine's; else it stores its three fields and
is journalled (R353, R367). -/
theorem regWrite_hifCtrl : regWrite route R.HIF_CTRL.reg v s =
    if fieldGet 0 3 v = 0 ∧ route ≠ .boot then s
    else journalWrite (putFields s R.HIF_CTRL.reg v hifCtrlDesc.fields) route 0 R.HIF_CTRL.reg v 0 s.pn none := by
  have stored : hifCtrlDesc.fields.all (fun f => f.kind == .ro) = false := rfl
  have lv : hifCtrlDesc.fields.any (fun f => f.kind == .lv) = false := rfl
  have agreed : agreedWrite hifCtrlDesc v = false := rfl
  have ctrl : hifCtrlDesc.base = R.HIF_CTRL.reg := rfl
  have reset : ¬R.HIF_CTRL.reg = R.SYS_RESET.reg := by decide
  have commit : ¬R.HIF_CTRL.reg = R.HIF_COMMIT.reg 0 := by decide
  have stores : ∀ later, storeWrite s route hifCtrlDesc R.HIF_CTRL.reg v later none none
      = (false, true, putFields s R.HIF_CTRL.reg v hifCtrlDesc.fields) := fun _ => rfl
  have aligned : R.HIF_CTRL.reg / 4 * 4 = R.HIF_CTRL.reg := rfl
  unfold regWrite regWriteAs
  simp only [aligned, up, on, regAt_hifCtrl, stored, agreed, ctrl, reset, commit, stores, lv, Bool.not_true, Bool.false_and, Bool.and_false,
    Bool.false_eq_true, true_and, if_false]
  by_cases last : fieldGet 0 3 v = 0 ∧ route ≠ .boot
  · rw [if_pos last, if_pos last]
  · rw [if_neg last, if_neg last]
    by_cases boot : route = .boot
    · rw [if_pos boot, journalWrite, if_pos boot]
    · rw [if_neg boot]

end

/-- Bit i of a word. -/
theorem fieldGet_bit (i : Nat) (v : Word) : (fieldGet i 1 v != 0) = v.getLsbD i := by
  have shifted : fieldGet i 1 v = fieldGet 0 1 (v >>> i) := by
    simp only [fieldGet, BitVec.toNat_ushiftRight, Nat.shiftRight_eq_div_pow, Nat.pow_zero, Nat.div_one]
  rw [shifted, fieldGet_bit0, BitVec.getLsbD_ushiftRight, Nat.add_zero]

/-- The three fields of HIF_CTRL are its low bits. -/
theorem hifCtrl_stored (x v : Word) :
    hifCtrlDesc.fields.foldl (fun x f => fieldPut f.lo f.w x (fieldGet f.lo f.w v)) x = fieldPut 0 3 x (fieldGet 0 3 v) := by
  have twt : fieldPut 1 1 (fieldPut 0 1 x (fieldGet 0 1 v)) (fieldGet 1 1 v) = fieldPut 0 2 x (fieldGet 0 2 v) := fieldPut_join (by decide)
  have inband : fieldPut 2 1 (fieldPut 0 2 x (fieldGet 0 2 v)) (fieldGet 2 1 v) = fieldPut 0 3 x (fieldGet 0 3 v) := fieldPut_join (by decide)
  rw [← inband, ← twt]
  rfl

theorem exec_hifCtrlWrite (route : Route) (data : Word) (s : State) :
    exec (.hifCtrlWrite route data) s = Cmd.run (regWrite route R.HIF_CTRL.reg data) s := rfl

/-- A write of HIF_CTRL that leaves a route enabled, or is the boot engine's. -/
theorem hifCtrlWrite_command {s : State} {route : Route} {data : Word} (takes : TakesWrite s route) (left : fieldGet 0 3 data ≠ 0) :
    ∃ t, exec (.hifCtrlWrite route data) s = .next t ∧ Only [.hif] [R.HIF_CTRL.reg] s t ∧ t.hif = s.journalled route 0 R.HIF_CTRL.reg data
      ∧ t.reg R.HIF_CTRL.reg = fieldPut 0 3 (s.reg R.HIF_CTRL.reg) (fieldGet 0 3 data) := by
  have put : Only [] [R.HIF_CTRL.reg] s.begin (putFields s.begin R.HIF_CTRL.reg data hifCtrlDesc.fields) := putFields_only
  have journal := journalWrite_only (s := putFields s.begin R.HIF_CTRL.reg data hifCtrlDesc.fields) (route := route) (kind := 0)
    (a := R.HIF_CTRL.reg) (v := data) (target := 0) (pn := s.begin.pn) (tag := none)
  have stored : (putFields s.begin R.HIF_CTRL.reg data hifCtrlDesc.fields).reg R.HIF_CTRL.reg
      = fieldPut 0 3 (s.reg R.HIF_CTRL.reg) (fieldGet 0 3 data) := reg_putFields.trans (hifCtrl_stored _ _)
  have write := (regWrite_hifCtrl (s := s.begin) (v := data) takes.up takes.on).trans (if_neg fun h => left h.1)
  have quiet : (regWrite route R.HIF_CTRL.reg data s.begin).flt.raised = [] := by
    have flt := Part.same_trans (p := .flt) (put.parts _ (by decide)) (journal.parts _ (by decide))
    rw [write]
    exact (congrArg FltS.raised flt).trans takes.quiet.raised
  obtain ⟨t, run, only, -⟩ := Cmd.run_only (f := regWrite route R.HIF_CTRL.reg data) takes.quiet.on quiet
  rw [write] at only
  refine ⟨t, (exec_hifCtrlWrite ..).trans run, ?_, ?_, ?_⟩
  · exact ((put.mono (by simp) (by simp)).trans (journal.mono (by simp) (by simp))).trans (only.mono (by simp) (by simp)) |>.ofBegin
  · exact (only.parts .hif (by decide)).trans (journalWrite_hif (s := s.begin) (put.parts .hif (by decide)) (put.parts .sys (by decide)))
  · rw [only.regs _ (by decide) (by decide), journal.regs _ (by decide) (by decide), stored]

/-- A bit of HIF_CTRL after its three low bits were put from data. -/
theorem hifCtrl_flag {t : State} {x data : Word} (h : t.reg R.HIF_CTRL.reg = fieldPut 0 3 x (fieldGet 0 3 data)) {i : Nat} (hi : i < 3) :
    t.flag ⟨R.HIF_CTRL.reg, i, 1⟩ = data.getLsbD i := by
  rw [State.flag, State.get, h, fieldGet_put_inside (by dsimp only; omega) (by decide)]
  exact fieldGet_bit i data

end Sys2Proof.Machine
end

section
/-!
SUPPORT. A read of a register, and TWT's reads (R351, R357): what they latch and what they leave.
-/
namespace Sys2Proof.Machine

/-- The parts in which a read may latch a high word (R245, R274, R320, R407, R431). -/
abbrev latchParts : List Part := [.ptp, .kiln, .twin, .cask, .flt, .perf]

/-- A read changes no more than what it latches; the faults raised and what is put out stand. -/
structure Latches (rs : List Nat) (s t : State) : Prop where
  only : Only latchParts rs s t
  raised : t.flt.raised = s.flt.raised
  out : t.out = s.out

theorem Latches.refl {rs : List Nat} {s : State} : Latches rs s s := ⟨.refl, rfl, rfl⟩

theorem Latches.trans {rs : List Nat} {s t u : State} (h : Latches rs s t) (k : Latches rs t u) : Latches rs s u :=
  ⟨h.only.trans k.only, k.raised.trans h.raised, k.out.trans h.out⟩

/-- What a read may latch. -/
theorem Latches.latch {rs : List Nat} {s : State} (p : PtpS) (k : KilnS) (t : TwinS) (c : CaskS) (m : Word) (f : PerfS) :
    Latches rs s { s with ptp := p, kiln := k, twin := t, cask := c, flt := { s.flt with memHi := m }, perf := f } :=
  ⟨.ofParts (fun p hp => by cases p <;> simp_all [Part.same]) rfl, rfl, rfl⟩

theorem perfCntRead_latches {rs : List Nat} {s : State} {i : Nat} : Latches rs s (perfCntRead s i).2 := by
  unfold perfCntRead
  extract_lets chained perf s1
  have latched : Latches rs s s1 := by
    unfold s1
    split
    · exact .latch s.ptp s.kiln s.twin s.cask s.flt.memHi _
    · exact .refl
  split
  · exact latched
  · exact .refl

/-- One register of those that latch or show what was latched, and the others. -/
theorem Latches.ite {rs : List Nat} {s : State} {c : Prop} [Decidable c] {x : Word × State} {y : Option (Word × State)} (hx : Latches rs s x.2)
    (hy : ∀ r, y = some r → Latches rs s r.2) : ∀ r, (if c then some x else y) = some r → Latches rs s r.2 := by
  intro r h
  split at h
  · cases h; exact hx
  · exact hy r h

theorem latchRead_latches {rs : List Nat} {s : State} {d : RegDesc} {a : Nat} : ∀ r, latchRead s d a = some r → Latches rs s r.2 := by
  have ofs : ∀ k, Latches rs s (ofsRead s k).2 := fun _ => .latch _ s.kiln s.twin s.cask s.flt.memHi s.perf
  have pend : Latches rs s (pendRead s).2 := .latch s.ptp _ s.twin s.cask s.flt.memHi s.perf
  have dig : Latches rs s (digRead s).2 := .latch s.ptp s.kiln _ s.cask s.flt.memHi s.perf
  have ecc : Latches rs s (eccRead s).2 := .latch s.ptp s.kiln s.twin _ s.flt.memHi s.perf
  have memAddr : Latches rs s (memAddrRead s).2 := .latch s.ptp s.kiln s.twin s.cask _ s.perf
  unfold latchRead
  exact .ite (ofs _) (.ite .refl (.ite pend (.ite .refl (.ite dig (.ite .refl (.ite ecc (.ite .refl (.ite memAddr (.ite .refl
    (.ite perfCntRead_latches fun _ h => nomatch h))))))))))

/-- A read of a register changes no more than what it latches (R351). -/
theorem regRead_latches {rs : List Nat} {s : State} {addr : Nat} : Latches rs s (regRead s addr).2 := by
  unfold regRead
  dsimp only
  split
  · exact .refl
  · split
    · rename_i latched
      exact latchRead_latches _ latched
    · split <;> exact .refl

/-- Words read at TWT's pointer, which moves on. -/
theorem twtWords_latches {n : Nat} {s : State} : Latches [R.TWT_PTR.reg] s (twtWords n s).2 := by
  induction n generalizing s with
  | zero => exact .refl
  | succ n ih =>
    have advance : ∀ u, Latches [R.TWT_PTR.reg] u (twtAdvance u 4) := fun _ => ⟨.bump .refl List.mem_cons_self, rfl, rfl⟩
    exact (regRead_latches.trans (advance _)).trans ih

/-- TWT serves a transaction but in RESET and STANDBY (R426, R428). -/
theorem twtGate_serves {f : State → State} {s : State} (up : s.sys.state ≠ .reset) (awake : s.sys.state ≠ .standby) : twtGate f s = f s := by
  unfold twtGate
  split
  · contradiction
  · contradiction
  · rfl

/-- A block read answers with its count, the words and a PEC, whichever routes take writes (R353, R357, R358). -/
theorem twtRead_command {s : State} {code : Byte} {n : Nat} (quiet : s.quiet) (up : s.sys.state ≠ .reset) (awake : s.sys.state ≠ .standby) :
    ∃ t, Cmd.run (twtRead code n) s = .next t ∧ Only latchParts [R.TWT_PTR.reg] s t
      ∧ [Out.bytes (twtAnswer (twtWords n s.begin).2 code [BitVec.ofNat 8 (4 * n)] (twtWords n s.begin).1)] <+: t.out := by
  have read : Latches [R.TWT_PTR.reg] s.begin (twtWords n s.begin).2 := twtWords_latches
  have effect : twtRead code n s.begin
      = (twtWords n s.begin).2.emit (.bytes (twtAnswer (twtWords n s.begin).2 code [BitVec.ofNat 8 (4 * n)] (twtWords n s.begin).1)) :=
    twtGate_serves (s := s.begin) up awake
  obtain ⟨t, l, run, only, out, -⟩ := Cmd.run_out (f := twtRead code n) quiet.on (by rw [effect]; exact read.raised.trans quiet.raised)
  rw [effect] at only out
  refine ⟨t, run, ?_, l, ?_⟩
  · exact (read.only.emit.trans (only.mono (List.nil_subset _) (List.nil_subset _))).ofBegin
  · rw [out]
    exact congrArg (· ++ [_] ++ l) read.out.symm

end Sys2Proof.Machine
end

section
/-!
SUPPORT. HIF_CTRL and the writes that are discarded (R5, R61, R351, R353, R366), and the obligation.
-/
namespace Sys2Proof.Machine

/-- A whole write that is discarded in silence. -/
theorem registerWrite_nothing {s : State} {route : Route} {addr : BitVec 25} {v : Word} {be : BitVec 4} (quiet : s.quiet)
    (whole : route = .pcie → be = 0xF#4 ∧ addr.toNat % 4 = 0) (discarded : regWrite route addr.toNat v s.begin = s.begin) :
    ∃ t, exec (.registerWrite route addr v be) s = .next t ∧ Only [] [] s t ∧ ∀ o ∈ t.out, ∃ k, o = .msix k := by
  rw [exec_registerWrite_whole whole]
  exact Cmd.run_nothing quiet discarded

theorem exec_twtReadWord (s : State) : exec .twtReadWord s = Cmd.run (twtRead 0x03#8 1) s := rfl

theorem hifCtrlEnablesRoutesForWrites : Claim.HifCtrlEnablesRoutesForWrites := by
  intro s route data v addr quiet
  refine ⟨fun takes boot last => ?_, fun takes left => ?_, fun off => ?_, fun _ up awake => ?_⟩
  · obtain ⟨t, run, only, -⟩ := Cmd.run_nothing (f := regWrite route R.HIF_CTRL.reg data) quiet
      ((regWrite_hifCtrl (s := s.begin) takes.up takes.on).trans (if_pos ⟨last, boot⟩))
    exact ⟨t, (exec_hifCtrlWrite ..).trans run, only⟩
  · obtain ⟨t, run, only, journal, stored⟩ := hifCtrlWrite_command takes left
    exact ⟨t, run, only, journal, hifCtrl_flag stored (by decide), hifCtrl_flag stored (by decide), hifCtrl_flag stored (by decide)⟩
  · have disabled : s.routeOn route = false := by
      obtain ⟨rfl, h⟩ | ⟨rfl, h⟩ | ⟨rfl, h⟩ := off <;> exact h
    refine registerWrite_nothing quiet (fun _ => ⟨rfl, ?_⟩) (regWrite_discarded (.inr (.inl disabled)))
    rw [BitVec.toNat_and, show 4 = 2 ^ 2 from rfl, Nat.and_mod_two_pow]
    exact Nat.and_zero _
  · obtain ⟨t, run, only, out⟩ := twtRead_command (code := 0x03#8) (n := 1) quiet up awake
    have word : (twtWords 1 s.begin).1 = leBytes 4 (regRead s.begin (s.get R.TWT_PTR.ptr)).1.toNat := List.append_nil _
    rw [word, twtAnswer] at out
    exact ⟨t, _, (exec_twtReadWord s).trans run, only, rfl, _, out⟩

theorem discardedWritesChangeNothing : Claim.DiscardedWritesChangeNothing := by
  intro s route addr v be quiet a whole nothing
  have discard : whole → regWrite route addr.toNat v s.begin = s.begin → nothing := by
    intro w h
    obtain ⟨t, run, only, -⟩ := registerWrite_nothing quiet w h
    exact ⟨t, run, only⟩
  refine ⟨fun w reset => discard w (regWrite_discarded (.inl reset)), fun w off => discard w (regWrite_discarded (.inr (.inl off))),
    fun w boot nowhere => discard w (regWrite_discarded (.inr (.inr (.inl ⟨boot, nowhere⟩)))),
    fun w d found ro => discard w (regWrite_discarded (.inr (.inr (.inr ⟨d, found, ro⟩)))), fun up pcie part => ?_, fun up on boot w here bad => ?_⟩
  · subst pcie
    obtain ⟨t, run, only, stat⟩ := exec_registerWrite_partial up part quiet
    exact ⟨t, run, only, stat.trans (fieldPut_one (i := 6) (by decide) _)⟩
  · obtain ⟨t, run, only, refused⟩ := Cmd.run_refused (f := regWrite route addr.toNat v) quiet boot (by decide)
      (regWrite_grid_reserved (s := s.begin) up on boot here (reservedWord_grid.mpr bad))
    refine ⟨t, (exec_registerWrite_whole w).trans run, only, ?_⟩
    rw [here]
    exact ⟨refused.addr, refused.route, refused.valid, refused.count, refused.queue⟩

/-- Settles O22: HIF_CTRL enables the external routes for writes, reads are served on a disabled one, and a discarded write changes nothing. -/
theorem hifCtrlEnablesTheRoutes : Obligations.HifCtrlEnablesTheRoutes := ⟨hifCtrlEnablesRoutesForWrites, discardedWritesChangeNothing⟩

end Sys2Proof.Machine
end

section
/-!
SUPPORT. A pop of the fault queue (R391, R395): which record it takes, and what it leaves.
-/
namespace Sys2Proof.Machine

/-- The registers of FLT_RD. -/
abbrev readerRegs : List Nat := (List.range 4).map R.FLT_RD.reg

theorem readerReg_apart : ∀ a ∈ readerRegs, a ∉ [R.FLT_POP.reg] ∧ counterAt a = false := by decide

/-- The record a pop takes: the oldest of class 3, where that is asked for and one is there, else the oldest. -/
theorem popChoice_eq_some {q : List FaultRec} {c3First : Bool} {r : FaultRec} : popChoice q c3First = some r ↔
    if c3First = true ∧ (∃ x ∈ q, x.cls = 3) then q.find? (fun x => x.cls == 3) = some r else q.head? = some r := by
  by_cases asked : c3First = true
  · cases found : q.find? (fun x => x.cls == 3) with
    | none =>
      have absent : ¬∃ x ∈ q, x.cls = 3 := by simpa using found
      simp only [popChoice, asked, found, absent, and_false, if_true, if_false]
    | some x =>
      have present : ∃ x ∈ q, x.cls = 3 := ⟨x, List.mem_of_find?_eq_some found, by simpa using List.find?_some found⟩
      simp only [popChoice, asked, found, present, and_self, if_true]
  · simp only [popChoice, asked, false_and, if_false, Bool.false_eq_true]

/-- The words of a record put into FLT_RD. -/
def toReader (r : FaultRec) (s : State) : State := r.words.zipIdx.foldl (fun s w => s.setReg (R.FLT_RD.reg w.2) w.1) s

theorem toReader_only {r : FaultRec} {s : State} : Only [] readerRegs s (toReader r s) := by
  have mem : ∀ i, i < 4 → R.FLT_RD.reg i ∈ readerRegs := fun i hi => List.mem_map_of_mem (List.mem_range.mpr hi)
  exact (((Only.setReg .refl (mem 0 (by decide))).setReg (mem 1 (by decide))).setReg (mem 2 (by decide))).setReg (mem 3 (by decide))

theorem toReader_reg {r : FaultRec} {s : State} : readerRegs.map (toReader r s).reg = r.words := by
  simp [toReader, FaultRec.words, State.reg_setReg, List.range_succ]

/-- A put of rd_valid, by which a pop says whether it moved a record. -/
theorem rdValid_put {s : State} {n : Nat} : (s.put R.FLT_POP.rd_valid n).flag R.FLT_POP.rd_valid = (n % 2 != 0) :=
  congrArg (· != 0) (State.get_put_self (by decide))

theorem c3First_put_rdValid {s : State} {n : Nat} : (s.put R.FLT_POP.rd_valid n).flag R.FLT_POP.c3_first = s.flag R.FLT_POP.c3_first :=
  State.flag_of_get (State.get_put_other (by decide) (.inr (.inl (by decide))))

/-- From s to t a pop moved record r to FLT_RD. -/
structure Popped (s t : State) (r : FaultRec) : Prop where
  only : Only [.flt] (R.FLT_POP.reg :: readerRegs) s t
  flt : t.flt = { s.flt with queue := s.flt.queue.filter (fun x => x != r) }
  words : readerRegs.map t.reg = r.words
  valid : t.flag R.FLT_POP.rd_valid = true
  first : t.flag R.FLT_POP.c3_first = s.flag R.FLT_POP.c3_first

/-- What the pop shows still stands where the map is left. -/
theorem Popped.shown_after {ps : List Part} {s t u : State} {r : FaultRec} (h : Popped s t r) (after : Only ps [] t u) :
    readerRegs.map u.reg = r.words ∧ u.flag R.FLT_POP.rd_valid = true := by
  have reader : readerRegs.map u.reg = readerRegs.map t.reg :=
    List.map_congr_left fun a ha => after.regs a List.not_mem_nil (readerReg_apart a ha).2
  exact ⟨reader.trans h.words, (State.flag_of_get (State.get_of_reg (after.regs _ List.not_mem_nil (by decide)))).trans h.valid⟩

theorem fltPopOp_takes {s : State} {c3First : Bool} {r : FaultRec} (chosen : popChoice s.flt.queue c3First = some r) :
    ∃ t, fltPopOp s c3First = (some r, t) ∧ Popped s t r := by
  have op : fltPopOp s c3First
      = (some r, (toReader r { s with flt := { s.flt with queue := s.flt.queue.filter (fun x => x != r) } }).mark R.FLT_POP.rd_valid) := by
    simp only [fltPopOp, chosen]
    rfl
  refine ⟨_, op, ?_⟩
  generalize e : ({ s with flt := { s.flt with queue := s.flt.queue.filter (fun x => x != r) } } : State) = u
  have freed : Only [.flt] [] s u := e ▸ .setFlt .refl List.mem_cons_self
  have moved := toReader_only (r := r) (s := u)
  have marked : Only [] [R.FLT_POP.reg] (toReader r u) ((toReader r u).mark R.FLT_POP.rd_valid) := .mark .refl List.mem_cons_self
  constructor
  case only => exact (freed.mono (by simp) (by simp)).trans ((moved.mono (by simp) (by simp)).trans (marked.mono (by simp) (by simp)))
  case flt => rw [State.mark_flt, show (toReader r u).flt = u.flt from moved.parts .flt (by decide), ← e]
  case words =>
    rw [← toReader_reg (r := r) (s := u)]
    exact List.map_congr_left fun a ha => marked.regs a (readerReg_apart a ha).1 (readerReg_apart a ha).2
  case valid => exact rdValid_put
  case first =>
    have reg := (moved.regs R.FLT_POP.reg (by decide) (by decide)).trans (freed.regs _ (by decide) (by decide))
    exact c3First_put_rdValid.trans (State.flag_of_get (State.get_of_reg reg))

/-- On an empty queue a pop clears rd_valid alone. -/
theorem fltPopOp_empty {s : State} (empty : s.flt.queue = []) (c3First : Bool) : fltPopOp s c3First = (none, s.unmark R.FLT_POP.rd_valid) := by
  have none : popChoice s.flt.queue c3First = none := by cases c3First <;> simp [popChoice, empty]
  simp only [fltPopOp, none]

end Sys2Proof.Machine
end

section
/-!
SUPPORT. A write of FLT_POP (R15, R367, R395).
-/
namespace Sys2Proof.Machine

/-- The frame of a command that stores, raises no fault, and is journalled under R367. -/
theorem Cmd.run_journalled {f : State → State} {s u : State} {ps : List Part} {rs : List Nat} {route : Route} {a : Nat} {v : Word} (on : s.on)
    (effect : f s.begin = journalWrite u route 0 a v 0 s.pn none) (only : Only ps rs s.begin u) (hs : .sys ∉ ps) (hh : .hif ∉ ps)
    (raised : u.flt.raised = []) : ∃ t, Cmd.run f s = .next t ∧ Only [.hif] [] u t ∧ t.hif = s.journalled route 0 a v := by
  have journal := journalWrite_only (s := u) (route := route) (kind := 0) (a := a) (v := v) (target := 0) (pn := s.pn) (tag := none)
  have still : (f s.begin).flt.raised = [] := by
    rw [effect]
    exact (congrArg FltS.raised (journal.parts .flt (by decide))).trans raised
  obtain ⟨t, run, after, -⟩ := Cmd.run_only on still
  rw [effect] at after
  exact ⟨t, run, journal.trans (after.mono (by simp) (by simp)),
    (after.parts .hif (by decide)).trans (journalWrite_hif (s := s) (only.parts .hif hh) (only.parts .sys hs))⟩

def fltPopDesc : RegDesc := ⟨"FLT_POP", 0x680004, [], .none, [⟨"pop", 0, 1, .sc, 0⟩, ⟨"c3_first", 1, 1, .rw, 0⟩, ⟨"rd_valid", 2, 1, .ro, 0⟩]⟩

theorem regFind_fltPop : regFind R.FLT_POP.reg = some fltPopDesc := by decide +kernel

/-- The fault block's registers belong to no block that may be absent (R5). -/
theorem regAt_flt {s : State} {a : Nat} {d : RegDesc} (found : regFind a = some d) (lo : 0x680000 ≤ a) (hi : a < 0x700000) : s.regAt a = some d := by
  have below : ∀ base st ct n, base + st * ct ≤ a → beyond a base st ct n = false := by
    intro base st ct n h
    have past : Nat.blt a (base + st * ct) = false := by rw [← Bool.not_eq_true, Nat.blt_eq]; omega
    simp only [beyond, past, Bool.and_false, Bool.false_and]
  have above : ∀ base st ct n, a < base → beyond a base st ct n = false := by
    intro base st ct n h
    have before : Nat.ble base a = false := by rw [← Bool.not_eq_true, Nat.ble_eq]; omega
    simp only [beyond, before, Bool.false_and]
  have present : s.sys.fuses.absent a = false := by
    simp (disch := omega) only [Fuses.absent, below, above, Bool.false_and, Bool.or_false]
  rw [State.regAt, present]
  exact found

theorem regAt_fltPop (s : State) : s.regAt R.FLT_POP.reg = some fltPopDesc := regAt_flt regFind_fltPop (by decide) (by decide)

section
variable {s : State} {route : Route} {v : Word}

/-- A taken write of FLT_POP stores c3_first, has its action, and is journalled (R367, R395). -/
theorem regWrite_fltPop (up : s.sys.state ≠ .reset) (on : s.routeOn route = true) : regWrite route R.FLT_POP.reg v s =
    journalWrite (trigFltPop (s.put R.FLT_POP.c3_first (fieldGet 1 1 v)) v) route 0 R.FLT_POP.reg v 0 s.pn none := by
  have stored : fltPopDesc.fields.all (fun f => f.kind == .ro) = false := rfl
  have lv : fltPopDesc.fields.any (fun f => f.kind == .lv) = false := rfl
  have agreed : agreedWrite fltPopDesc v = false := rfl
  have ctrl : ¬fltPopDesc.base = R.HIF_CTRL.reg := by decide
  have reset : ¬fltPopDesc.base = R.SYS_RESET.reg := by decide
  have commit : ¬fltPopDesc.base = R.HIF_COMMIT.reg 0 := by decide
  have stores : ∀ later, storeWrite s route fltPopDesc R.FLT_POP.reg v later none none
      = (false, true, trigFltPop (s.put R.FLT_POP.c3_first (fieldGet 1 1 v)) v) := fun _ => rfl
  have aligned : R.FLT_POP.reg / 4 * 4 = R.FLT_POP.reg := rfl
  unfold regWrite regWriteAs
  simp only [aligned, up, on, regAt_fltPop, stored, agreed, ctrl, reset, commit, stores, lv, Bool.not_true, Bool.false_and, Bool.and_false,
    Bool.false_eq_true, false_and, if_false]
  by_cases boot : route = .boot
  · rw [if_pos boot, journalWrite, if_pos boot]
  · rw [if_neg boot]

/-- c3_first as the write stores it, in which state the pop acts. -/
def firstStored (s : State) (v : Word) : State := (s.put R.FLT_POP.c3_first (fieldGet 1 1 v)).put R.FLT_POP.c3_first (fieldGet 1 1 v)

theorem firstStored_only : Only [] [R.FLT_POP.reg] s (firstStored s v) := .put (.put .refl List.mem_cons_self) List.mem_cons_self

theorem firstStored_flt : (firstStored s v).flt = s.flt := rfl

theorem firstStored_first : (firstStored s v).flag R.FLT_POP.c3_first = v.getLsbD 1 := by
  have small : fieldGet 1 1 v % 2 ^ 1 = fieldGet 1 1 v := Nat.mod_mod _ _
  rw [State.flag, firstStored, State.get_put_self (by decide), small]
  exact fieldGet_bit 1 v

theorem firstStored_valid : (firstStored s v).flag R.FLT_POP.rd_valid = s.flag R.FLT_POP.rd_valid := by
  have apart : R.FLT_POP.c3_first.apart R.FLT_POP.rd_valid := .inr (.inr (by decide))
  exact State.flag_of_get ((State.get_put_other (by decide) apart).trans (State.get_put_other (by decide) apart))

/-- The command, from the state u that it leaves before it is journalled. -/
theorem fltPop_command {u : State} {ps : List Part} {rs : List Nat} (takes : TakesWrite s route)
    (effect : (if v.getLsbD 0 = true then (fltPopOp (firstStored s.begin v) (v.getLsbD 1)).2 else firstStored s.begin v) = u)
    (only : Only ps rs (firstStored s.begin v) u) (hr : R.FLT_POP.reg ∈ rs) (hs : .sys ∉ ps) (hh : .hif ∉ ps) (raised : u.flt.raised = []) :
    ∃ t, exec (.fltPop route v) s = .next t ∧ Only (.hif :: ps) rs s t ∧ t.hif = s.journalled route 0 R.FLT_POP.reg v ∧ Only [.hif] [] u t := by
  have written : Only ps rs s.begin u := (firstStored_only.mono (by simp) (by simpa using hr)).trans only
  have write : regWrite route R.FLT_POP.reg v s.begin = journalWrite u route 0 R.FLT_POP.reg v 0 s.pn none := by
    rw [← effect]
    exact regWrite_fltPop (s := s.begin) takes.up takes.on
  obtain ⟨t, run, after, journal⟩ := Cmd.run_journalled takes.quiet.on write written hs hh raised
  exact ⟨t, run, (written.mono (by simp) (by simp)).trans (after.mono (by simp) (by simp)) |>.ofBegin, journal, after⟩

/-- A flag of FLT_POP after the journal entry. -/
theorem fltPop_flag {u t : State} (after : Only [.hif] [] u t) {l : Loc} (hl : l.addr = R.FLT_POP.reg) : t.flag l = u.flag l :=
  State.flag_of_get (State.get_of_reg (after.regs _ List.not_mem_nil (by rw [hl]; decide)))

end

end Sys2Proof.Machine
end

section
/-!
SUPPORT. MGP_DRAIN_POP (R395, R409, R410), and the obligation.
-/
namespace Sys2Proof.Machine

/-- The message of a record: type 1 with its four words. -/
theorem mbMessage_record (tag : Nat) (r : FaultRec) :
    mbMessage 1 tag r.words = BitVec.ofNat 32 (1 + 256 * 4 + 65536 * tag) :: r.words ++ [0, 0, 0] := rfl

/-- With room in the queue, and none held before it, a message of the running MGP is queued. -/
theorem mbAppend_room {s : State} {m : List Word} (running : s.flt.mgpRun = true) (held : s.flt.mbHeld = []) (room : s.flt.mbOut.length < 16) :
    mbAppend s m = { s with flt := { s.flt with mbOut := s.flt.mbOut ++ [m] } } := by
  simp only [mbAppend, running, held, room, List.isEmpty_nil, and_self, Bool.not_true, Bool.false_eq_true, if_true, if_false]

/-- What the MGP does when it drains the queue. -/
def mgpDrain (s : State) : State :=
  if !s.flt.mgpRun || !s.flag R.FLT_CFG.mgp_drain || !s.flt.mbHeld.isEmpty || Nat.ble 16 s.flt.mbOut.length then s
  else
    match fltPopOp s true with
    | (none, _) => s
    | (some r, s) =>
      let s := mbAppend s (mbMessage 1 s.flt.mgpTag r.words)
      { s with flt := { s.flt with mgpTag := (s.flt.mgpTag + 1) % 65536 } }

theorem exec_mgpDrainPop (s : State) : exec .mgpDrainPop s = Cmd.run mgpDrain s := rfl

section
variable {s : State}

theorem mgpDrain_idle (h : s.flt.mgpRun = false ∨ s.flag R.FLT_CFG.mgp_drain = false ∨ 16 ≤ s.flt.mbOut.length ∨ s.flt.queue = []) :
    mgpDrain s = s := by
  obtain stopped | off | full | empty := h
  · simp only [mgpDrain, stopped, Bool.not_false, Bool.true_or, if_true]
  · simp only [mgpDrain, off, Bool.not_false, Bool.true_or, Bool.or_true, if_true]
  · simp only [mgpDrain, Nat.ble_eq_true_of_le full, Bool.or_true, if_true]
  · simp only [mgpDrain, fltPopOp_empty empty, ite_self]

/-- The record goes out under the running tag. -/
theorem mgpDrain_takes {r : FaultRec} (running : s.flt.mgpRun = true) (on : s.flag R.FLT_CFG.mgp_drain = true) (held : s.flt.mbHeld = [])
    (room : s.flt.mbOut.length < 16) (chosen : popChoice s.flt.queue true = some r) : ∃ u, Popped s u r
      ∧ mgpDrain s = { u with flt := { s.flt with
          queue := s.flt.queue.filter (fun x => x != r)
          mbOut := s.flt.mbOut ++ [BitVec.ofNat 32 (1 + 256 * 4 + 65536 * s.flt.mgpTag) :: r.words ++ [0, 0, 0]]
          mgpTag := (s.flt.mgpTag + 1) % 65536 } } := by
  obtain ⟨u, op, popped⟩ := fltPopOp_takes chosen
  have free : Nat.ble 16 s.flt.mbOut.length = false := by rw [← Bool.not_eq_true, Nat.ble_eq]; omega
  have append : ∀ m, mbAppend u m = { u with flt := { u.flt with mbOut := u.flt.mbOut ++ [m] } } := fun m =>
    mbAppend_room (by rw [popped.flt]; exact running) (by rw [popped.flt]; exact held) (by rw [popped.flt]; exact room)
  refine ⟨u, popped, ?_⟩
  simp only [mgpDrain, running, on, held, free, op, append, popped.flt, mbMessage_record, List.isEmpty_nil, Bool.not_true, Bool.or_self,
    Bool.false_eq_true, if_false]

end

/-- Settles O30: each pop is `popChoice`'s record moved by `fltPopOp`, whether a write of FLT_POP or the MGP asks for it. -/
theorem popsMoveARecordToItsReader : Obligations.PopsMoveARecordToItsReader := by
  intro s route data r quiet q words taken rd shown hif c3
  have chosen : ∀ c, taken c → popChoice q c = some r := fun _ => popChoice_eq_some.mpr
  refine ⟨fun takes pop took => ?_, fun takes pop empty => ?_, fun takes idle => ?_, fun running on held room took => ?_, fun idle => ?_⟩
  · obtain ⟨u, op, popped⟩ := fltPopOp_takes (s := firstStored s.begin data) (chosen _ took)
    obtain ⟨t, run, only, journal, after⟩ := fltPop_command takes (by rw [if_pos pop, op]) popped.only List.mem_cons_self (by decide) (by decide)
      (by rw [popped.flt]; exact quiet.raised)
    exact ⟨t, run, only.mono (by decide) (List.Subset.refl _), journal, (after.parts .flt (by decide)).trans popped.flt, popped.shown_after after,
      (fltPop_flag after rfl).trans (popped.first.trans firstStored_first)⟩
  · obtain ⟨t, run, only, journal, after⟩ := fltPop_command (ps := []) takes (by rw [if_pos pop, fltPopOp_empty (s := firstStored s.begin data) empty])
      (.unmark .refl List.mem_cons_self) List.mem_cons_self (by decide) (by decide) quiet.raised
    exact ⟨t, run, only, journal, (fltPop_flag after rfl).trans rdValid_put,
      (fltPop_flag after rfl).trans (c3First_put_rdValid.trans firstStored_first)⟩
  · obtain ⟨t, run, only, journal, after⟩ := fltPop_command (ps := []) takes (if_neg (Bool.eq_false_iff.mp idle)) .refl List.mem_cons_self
      (by decide) (by decide) quiet.raised
    exact ⟨t, run, only, journal, (fltPop_flag after rfl).trans firstStored_valid, (fltPop_flag after rfl).trans firstStored_first⟩
  · obtain ⟨u, popped, drains⟩ := mgpDrain_takes (s := s.begin) running on held room (chosen true took)
    obtain ⟨t, run, after, -⟩ := Cmd.run_only (f := mgpDrain) quiet.on (by rw [drains]; exact quiet.raised)
    rw [drains] at after
    have sent : Only [.flt] [] u t := .trans (.setFlt .refl List.mem_cons_self) (after.mono (List.nil_subset _) (List.Subset.refl _))
    exact ⟨t, (exec_mgpDrainPop s).trans run, (popped.only.trans (sent.mono (List.Subset.refl _) (List.nil_subset _))).ofBegin,
      popped.shown_after sent, after.parts .flt (by decide)⟩
  · obtain ⟨t, run, only, -⟩ := Cmd.run_nothing (f := mgpDrain) quiet (mgpDrain_idle (s := s.begin) idle)
    exact ⟨t, (exec_mgpDrainPop s).trans run, only⟩

end Sys2Proof.Machine
end
